-- ==== Sys2Proof/Word.lean ====
section
/-! DEFINITION. The word types of the FKM-3250 (R8, R9) and the exact values its number formats denote (R30). -/

namespace Sys2Proof

abbrev Byte := BitVec 8
abbrev Word16 := BitVec 16
abbrev Word32 := BitVec 32
abbrev Word64 := BitVec 64

/-- Rounding modes of R52 to R54 and the two directed modes of R55. -/
inductive Rnd where
  | nearestEven | towardZero | stochastic | towardPos | towardNeg
  deriving DecidableEq, Repr

/-- The scalar formats of R30 that a tensor element can be stored in outside a block. -/
inductive Fmt where
  | k16 | k8f | k8b | b32 | b16
  deriving DecidableEq, Repr

/-- The block formats of R65. -/
inductive BFmt where
  | k4 | k3 | k2 | bk8f | bk8b
  deriving DecidableEq, Repr

namespace Machine

/-- An exact value: `fin neg mag e` is `±mag × 2^e` (a zero keeps its sign, R32), or an infinity, or the NaN. -/
inductive Val where
  | fin (neg : Bool) (mag : Nat) (e : Int)
  | inf (neg : Bool)
  | nan
  deriving DecidableEq, Repr

/-- A wide accumulator of R121: a finite value `±sig × 2^(exp − 2047 − 38)`, an infinity or NaN. -/
inductive Acc where
  | fin (neg : Bool) (sig : Nat) (exp : Nat)
  | inf (neg : Bool)
  | nan
  deriving DecidableEq, Repr

end Machine

end Sys2Proof
end

