-- ==== Sys2Proof/Config.lean ====
section
/-! DEFINITION. What one module's manufacture fixes and what the spec leaves open: constants with no body, so that no
proof can rest on a value of them (log entries 3, 5, 8 and 9). -/

namespace Sys2Proof.Config

/-- Free value number `i` (log 3): a value the spec leaves open, drawn at the state's counter. -/
opaque freeNat : Nat → Nat

/-- The 32-bit integer that a VE conversion of a value out of range or of a NaN writes, by the operand's format, its code
and the rounding: R48 gives the conversion the invalid flag and no result (log 3). -/
opaque outOfRangeInt : Fmt → Nat → Rnd → BitVec 32

/-- Folael's Vendor ID (R357): not stated in the spec (log 8). -/
opaque vendorId : BitVec 16

/-- The module's serial, 16 ASCII bytes as one number, byte 0 lowest (R386; log 8). -/
opaque serial : BitVec 128

/-- Base MAC address (R386; log 8). -/
opaque baseMac : BitVec 48

/-- Whether an SM2 signature is valid under Folael key `key` of the boot ROM (R411; log 9). -/
opaque folaelSigned (key : Nat) (message signature : List Byte) : Bool

/-- SM3 digest of the signed configuration partition, as one number, byte 0 lowest (R406 block 4; log 8). -/
opaque configDigest : BitVec 256

/-- Serial number of certificate `i` of slot 0: 0 root, 1 product, 2 device (R402; log 9). -/
opaque certNumber : Nat → Nat

/-- Issuer and validity of certificate `i` of slot 0, DER (log 9). -/
opaque certIssuer : Nat → List Byte

/-- The relative names of the subject of certificate `i` beside a serial number, DER (log 9). -/
opaque certSubject : Nat → List Byte

/-- The public key of certificate `i`, a point of the SM2 curve (log 9). -/
opaque certKey : Nat → Nat × Nat

/-- The extensions of certificate `i`, DER (log 9). -/
opaque certExtensions : Nat → List Byte

/-- The SM2 signature (r, s) on certificate `i` (log 9). -/
opaque certSignature : Nat → Nat × Nat

/-- Serial number of the alias certificate of an alias key (R401, R402; log 9). -/
opaque aliasSerial : Nat → Nat

/-- Issuer, validity and subject of that certificate, DER (log 9). -/
opaque aliasNames : Nat → List Byte

/-- Its extensions, DER (log 9). -/
opaque aliasExtensions : Nat → List Byte

/-- The random number of an SM2 signature by a key over a message (log 3). -/
opaque signNonce (key : Nat) (message : List Byte) : Nat

/-- The seed that the helper data reconstruct from a power-up state of the PUF array (R400; log 108). -/
opaque pufSeed (puf helper : List Byte) : List Byte

/-- The helper data of the identity partition (R402; log 8). -/
opaque helperData : List Byte

/-- The key of the boot record's partition as the seed gives it (R407; log 108). -/
opaque bootRecordKey : List Byte → List Byte

/-- Where the firmware of captain and member places a member's host data in its space 0x1, by ring and tag (R394; log 109). -/
opaque proxyBuffer (ring tag : Nat) : Nat

/-- A random nonce of 32 bytes, by draw number (SPDM; log 9). -/
opaque nonce : Nat → List Byte

/-- Number of frames the decoding process of the standard outputs for a bitstream (R338; log 10). -/
opaque decodedFrames (codec : Nat) (bits : List Byte) : Nat

/-- Number of frames an engine decodes of a bitstream, skipped and discarded ones included (R347; log 10). -/
opaque framesDecoded (codec : Nat) (bits : List Byte) : Nat

/-- Profiles of AV1 and HEVC that R336 supports, and any other. -/
inductive StreamProfile where
  | main | main10 | mainStill | other
  deriving DecidableEq, Repr, Inhabited

/-- Chroma formats that R336 supports, and any other. -/
inductive Chroma where
  | mono | c420 | other
  deriving DecidableEq, Repr, Inhabited

/-- What a sequence header or parameter set names (R336): the level times ten, and whether its profile allows 4:0:0. -/
structure StreamHeader where
  profile : StreamProfile
  level : Nat
  highTier : Bool
  depth : Nat
  chroma : Chroma
  monoAllowed : Bool
  width : Nat
  height : Nat
  deriving DecidableEq, Repr, Inhabited

/-- The sequence headers or sequence parameter sets of a bitstream, in order, read as the standard has it (R336; log 10). -/
opaque streamHeaders (codec : Nat) (bits : List Byte) : List StreamHeader

/-- Sample (plane, frame, x, y) of the decoded pictures (R338; log 10). -/
opaque decodedSample (codec : Nat) (bits : List Byte) (plane frame x y : Nat) : Nat

/-- Whether every syntax element and read stays legal (R348 cause 0x6; log 10). -/
opaque streamLegal (codec : Nat) (bits : List Byte) : Bool

/-- The body of a huddle message whose statistics are these words: R238 leaves its layout to Ndeldamus (log 44). -/
opaque huddleBody (words : List Nat) : List Byte

/-- Identification, flags and fragment offset of the IPv4 header around a frame of this CRC: R279 leaves them open (log 3). -/
opaque ipv4Ident : BitVec 32 → Nat

/-- What the manufacturing trim adds to the nominal supply voltage of a TD clock in MHz (R460; log 115). -/
opaque voltTrim : Nat → Rat

/-- The status code of the PHY in use on a port (event 0x0B03): the spec gives no code list (log 3). -/
opaque phyCode : Nat → Nat

end Sys2Proof.Config
end

