-- ==== Sys2Proof/Syntax.lean ====
section
/-! DEFINITION. The commands of the block: one constructor of `Instr` per row of spec/opcode_table.json, and the operand
types they carry. An operand holds what the rule names and what only the outside knows (a measured voltage, the lanes that
failed, the bytes a read of host memory returned). -/

namespace Sys2Proof

/-- The three streams of a play sequencer (R196). -/
inductive Stream where
  | F | B | U
  deriving DecidableEq, Repr

/-- The two kinds of tile (R88). -/
inductive TileKind where
  | ft | bt
  deriving DecidableEq, Repr

/-- A physical tile: Tensor Die, kind and physical index (R428). -/
structure TileId where
  td : Fin 8
  kind : TileKind
  index : Nat
  deriving DecidableEq, Repr

/-- A physical unit as the unit table of R436 names it: kind, die and index. -/
structure PhysUnit where
  kind : Nat
  die : Nat
  index : Nat
  deriving DecidableEq, Repr

/-- What the two management paths say of a unit (R444, R445). -/
structure UnitReport where
  phys : PhysUnit
  managementSound : Bool
  dataPathSound : Bool
  deriving DecidableEq, Repr

/-- What the power-on steps meet outside the MCP's control (R403, R409, R421, R426 to R428, R330). -/
structure BootIn where
  mv : Nat                         -- the 50 V input, in mV (R453)
  profileSel : BitVec 2            -- the PROFILE_SEL contacts (R472)
  bootRecordOk : Bool              -- the boot record's authentication and fields check (R409)
  configOk : Bool                  -- the signed configuration checks
  seedOk : Bool                    -- the PUF seed is reconstructed (R400, R403)
  slotOk : Bool                    -- header and body digest of the active slot check (R426 step 1)
  settingsOk : Bool                -- the settings partition passes its SM3 check (R421)
  failed : List TileId             -- tiles that fail self-test (R428)
  untrained : List (Fin 20)        -- LPDDR5X devices that fail training (R330)
  failedUnits : List PhysUnit := []  -- other units that fail self-test (R426)
  puf : List Byte := []            -- power-up state of the PUF array (R400)
  deriving DecidableEq, Repr

/-- What a read of host memory returned: the bytes, or none when it failed (R389). -/
abbrev HostRead := Option (List Byte)

/-- The path a mailbox command came by (R398). -/
inductive Path where
  | pcie | proxy | smbus
  deriving DecidableEq, Repr

/-- A mailbox command as fetched: its path, ring, opcode, tag and the payload bytes [63:16] (R373). -/
structure Cmd where
  path : Path
  ring : Nat
  opcode : Nat
  tag : Word32
  payload : List Byte
  nth : Nat := 0                   -- which of the fetched commands it is: two equal entries are two commands (R374)
  deriving DecidableEq, Repr

/-- Which half of a 64-bit register an access covers (R360). -/
inductive Half where
  | whole | low | high
  deriving DecidableEq, Repr

/-- What a descriptor-table slot holds. The object's bytes do not say it for a slot that no instruction reaches (log 11). -/
inductive DescKind where
  | unused | block | plain | outStage | fillGate | tracker | layer | rowOp | ckpt | product | move | update
  | version | bucket | ingest | colour | tie | ve
  deriving DecidableEq, Repr


/-- A KFT frame: the header of R282 and the payload. -/
structure Kft where
  cls : BitVec 3
  typ : Byte
  src : Word16
  dst : Word16
  hops : Byte
  flags : Byte
  seq : BitVec 24
  status : Byte
  ack : BitVec 24
  credit : Byte
  grant : Word16
  len : Word16
  tid : Word32
  arg : Word64
  payload : List Byte
  ce : Bool                        -- the ECN field of the IP header is CE (R288)
  deriving DecidableEq, Repr

/-- A frame as a port receives it: the port, whether FCS and CRC-32C hold, the frame (R282, R285); whether a non-zero UDP
checksum holds (R279) and the pool's ECC does while the frame is held (R290); and what the FEC met on the port's lanes since
the frame before: lane, bits corrected and uncorrectable codewords (R310). -/
structure Rx where
  port : Fin 12
  fcsOk : Bool
  crcOk : Bool
  f : Kft
  udpOk : Bool := true
  poolOk : Bool := true
  lanes : List (Fin 8 × Nat × Nat) := []
  deriving DecidableEq, Repr

/-- One tracked tensor's statistics of a step (R143 to R145, R238). -/
structure TrackStat where
  tensor : Nat
  amax : Word16
  codeBits : Nat
  overflowed : List Nat
  overflowCut : Bool
  written : Bool
  deriving DecidableEq, Repr

/-- One layer shard's sums of a step (R149, R156, R157) as accumulators, the last per output channel; `blocks` and
`escapes` are those of the copies written, `shadowBlocks` and `shadowEscapes` those of the K4 shadows. -/
structure LayerStat where
  layer : Nat
  shard : Nat
  updated : Bool
  w2 : Machine.Acc
  d2 : Machine.Acc
  skipped : Bool
  blocks : Nat
  escapes : Nat
  shadowBlocks : Nat
  shadowEscapes : Nat
  saturations : Nat
  elements : Nat
  errNum : List Machine.Acc
  errDen : Machine.Acc
  channels : List (Machine.Acc × Machine.Acc)
  deriving DecidableEq, Repr

/-- A huddle contribution or combined record (R237, R238): the header and the body's statistics. -/
structure Huddle where
  step : Word64
  stepCompl : Word64
  ready : Nat
  abortFlags : Word32
  abortNode : Word16
  members : Nat
  pause : Word32
  digests : List (Nat × Word32 × Word32)
  tracks : List TrackStat
  layers : List LayerStat
  deriving DecidableEq, Repr

/-- An operand of a VE operation: a base address and a scalar format (R204 leaves the layout of the VE operand descriptor
open; log 12). -/
structure VeArg where
  base : Word64
  fmt : Fmt
  deriving DecidableEq, Repr

/-- The operations of R48, R50, R63, R168, R185 and R204 that a VE instruction can name (log 12 on their codes). -/
inductive VeFn where
  | add | sub | mul | fma | div | sqrt | min | max | minNumber | maxNumber
  | compareEq | compareLt | compareLe | toInt | fromInt | convert | toG16 | fromBlock | toBlock | sum | tieSum
  | fromCarry | flagRead
  deriving DecidableEq, Repr

/-- A VE operand descriptor (log 12): up to three sources, the destination, how many elements (or blocks) and which of the
destination comes first, the layouts of the source and the destination, and the destination's tensor number; `slot` is the
descriptor-table slot of the block tensor, bucket or tie group that a conversion or the tie-sum pass names. -/
structure VeDesc where
  a : VeArg
  b : VeArg
  c : VeArg
  dst : VeArg
  count : Nat
  first : Nat
  layA : Nat
  lay : Nat
  tensor : Nat
  slot : Nat
  deriving DecidableEq, Repr

/-- Keep classes of R176. -/
inductive KeepClass where
  | recompute | checkpoint | resident
  deriving DecidableEq, Repr

/-- A recompute stage on a unit, `count` instructions from `first` of a stream's body, and the forward stage that it
repeats, in an F-stream body (R177). -/
structure Recompute where
  unit : Nat
  stream : Stream
  first : Nat
  count : Nat
  fwdUnit : Nat
  fwdFirst : Nat
  fwdCount : Nat
  deriving DecidableEq, Repr

/-- What the program declares without a byte of the object naming the place (R176, R177, R189, R217; log 11): the kinds of
its slots, the persistent tensors, keep classes by tensor number, the recompute stages, and the VE operand descriptors by
slot, whose bytes R204 leaves to Ndeldamus (log 12). -/
structure LoadHints where
  kinds : List DescKind
  persistent : List Nat
  ve : List (Nat × VeDesc)
  keep : List (Nat × KeepClass)
  recompute : List Recompute
  deriving DecidableEq, Repr

/-- What a tile's timing adds to an instance's passes (R101, R106): the cycles it waited before its first pass beyond the
earliest that R106 allows, and the feeder stall cycles of each pass in turn. -/
structure PassTime where
  idle : Nat
  stalls : List Nat
  deriving DecidableEq, Repr

/-- A flit whose sums failed the residue prediction in the pipe in service (R260): the segment's position in its frame, or
its number in an own contribution, the flit, and the residue of the sums that the repeat in the spare pipe formed. -/
structure AdderSlip where
  position : Nat
  flit : Nat
  repeated : Nat
  deriving DecidableEq, Repr

/-- What the reads of units on an LPDDR5X device met (R326): bursts that link ECC corrected, repeats of bursts it could not
correct, and units whose read-error flag was set or whose repeats failed too. -/
structure DevRead where
  device : Fin 20
  corrected : Nat
  repeats : Nat
  flagged : Nat
  deriving DecidableEq, Repr

/-- Who reads a row or line that meets an error: the patrol scrub, an instance, or another reader (R314, R319, R326). -/
inductive ReadBy where
  | patrol
  | instance_ (unit : Nat) (stream : Stream) (index inst : Nat)
  | other
  deriving DecidableEq, Repr

/-- What the activation meets in flash and at self-test (R416, R434). -/
structure ActIn where
  headerOk : Bool
  copyOk : Bool
  settingsOk : Bool
  failed : List TileId
  upTo : Nat := 6                  -- the last step of R416 that has been reached
  deriving DecidableEq, Repr

/-- What the gate measured on a lane over its window (R430): bits, pre-FEC bit errors and uncorrectable codewords. -/
structure LaneTest where
  lane : Fin 8
  bits : Nat
  errors : Nat
  codewords : Nat
  deriving DecidableEq, Repr

/-- The other end of the PCI Express link (R356): its highest rate in tenths of a GT/s, its width, and whether it supports FLIT
mode below 64 GT/s. -/
structure LinkEnd where
  rate : Nat
  width : Nat
  flit : Bool
  deriving DecidableEq, Repr

/-- What the host's configuration writes have set when this one arrives (R356, R358): whether it sets or clears Memory Space
Enable, the power state, the sizes, the completion timeout, the BARs, and AER status bits it clears. -/
structure ConfigWrite where
  enable : Bool := true
  d3hot : Option Bool := none
  maxPayload : Option Nat := none
  maxRead : Option Nat := none
  timeoutUs : Option Nat := none
  bar0 : Option Word64 := none
  bar2 : Option Word64 := none
  aerClear : Word32 := 0
  msixEnable : Option Bool := none
  msixMask : Option Bool := none
  link : Option LinkEnd := none    -- what the other end supports, where the link has trained since
  deriving DecidableEq, Repr

/-- The transport of an SPDM request (R404, R405). -/
inductive Transport where
  | doe | mctp
  deriving DecidableEq, Repr

/-- The unit number of a Vector Engine (R190). -/
def veUnit (td : Fin 8) (ve : Fin 12) : Nat := 256 * td.val + 0x80 + ve.val

/-- The commands, one per row of the table. A default of an operand says that nothing of the kind it reports was met: no stale
byte, no slip, no error of a device, no lost record or line; the first group; the patrol as the reader. -/
inductive Instr where
  -- power, bring-up and thermal (R426 to R432, R453 to R472)
  | powerOn (b : BootIn)
  | portLinkUp (p : Fin 12) (fkm : Bool)
  | linkGateWindowEnd (p : Fin 12) (ratio codewords : Byte) (measured : List LaneTest := [])
  | portLinkTimeout (p : Fin 12)
  | supplyExcursion (mv : Nat)
  | supplyWarning (mv : Nat)
  | supplyRecovery (mv us : Nat)
  | supplyReset (mv : Nat)
  | overvoltageStop (mv : Nat)
  | resetInAssert
  | resetInRelease (b : BootIn)
  | perstAssert
  | thermalThrottleStart (die celsius : Nat)
  | thermalClockLower (celsius : Nat)
  | thermalClockRaise (die celsius : Nat)
  | thermalFault (die celsius : Nat)
  | thermalFaultClear (celsius : Nat)
  | hardThermalTrip (die celsius : Nat)
  | coolantInletWarning (inlet outlet watts : Nat)
  | coolantFlowWarning (inlet outlet watts : Nat)
  | mr4Read (mpd : Fin 4) (celsius : List Nat)
  | avcLoopTick (watts : Nat)
  | capUnreachable (watts : Nat)
  | heartbeatTick
  | managementRestart (reports : List UnitReport)
  | managementFault
  -- host interface (R356 to R389)
  | resetCtrlMboxReset (key : Word16)
  | resetCtrlComputeReset (key : Word16) (failed : List TileId)
  | sqTailDoorbell (r : Fin 4) (v : Word32)
  | eqHeadWrite (v : Word32)
  | ringCtrlWrite (r : Fin 5) (v : Word32)
  | ringBaseWrite (r : Fin 5) (h : Half) (v : Word64)
  | registerWrite (offset width : Nat) (v : Word64)
  | bar2Read (offset n : Nat)
  | bar2Write (offset : Nat) (data : List Byte)
  | functionLevelReset
  | pcieHotReset
  | pcieLinkLoss
  | commandFetch (entry : HostRead) (data : HostRead := some [])
  | eventCoalesceDelay (vec : Fin 64)
  | eventCountInterrupt (vec : Fin 64)
  -- mailbox commands (R384); `remote` is what START and RESUME read of catalogues on other modules, by descriptor slot (R344)
  | load (c : Cmd) (host : HostRead) (h : LoadHints)
  | unload (c : Cmd)
  | start (c : Cmd) (remote : List (Nat × List Byte))
  | fillPassComplete
  | pause (c : Cmd)
  | pauseTakesEffect
  | resume (c : Cmd) (remote : List (Nat × List Byte))
  | save (c : Cmd)
  | restore (c : Cmd) (host : HostRead)
  | halt (c : Cmd)
  | computeResetCommand (c : Cmd) (failed : List TileId)
  | benchEnter (c : Cmd)
  | benchLeave (c : Cmd) (celsius : List Nat) (untrained : List (Fin 20))
  | watchSet (c : Cmd)
  | watchClear (c : Cmd)
  | layerBounds (c : Cmd)
  | journalArm (c : Cmd)
  | journalReplay (c : Cmd)
  | fabricRecord (c : Cmd)
  | portRecord (c : Cmd) (host : HostRead)
  | routeWrite (c : Cmd) (host : HostRead)
  | planWrite (c : Cmd)
  | portRetrain (c : Cmd) (ratio codewords : Byte) (measured : List LaneTest := [])
  | squadSet (c : Cmd) (host : HostRead)
  | readTable (c : Cmd)
  | powerCap (c : Cmd)
  | profileSelect (c : Cmd)
  | profileWrite (c : Cmd) (host : HostRead)
  | fwStage (c : Cmd) (host : HostRead)
  | fwActivate (c : Cmd)
  | activationEpoch (a : ActIn)
  | fwConfirm (c : Cmd)
  | trialConfirmTimeout (failed : List TileId) (settingsOk : Bool := true)
  | trialWatchdog (failed : List TileId) (settingsOk : Bool := true)
  | dma (c : Cmd) (host : HostRead)
  | abort (c : Cmd) (ring : HostRead)
  | proxyCommandReceive (x : Rx)
  | proxyCompletionReceive (x : Rx)
  | smbusMctpCommand (msg : List Byte) (host : HostRead := none)
  -- attestation (R400 to R406)
  | spdmGetVersion (t : Transport) (req : List Byte)
  | spdmGetCapabilities (t : Transport) (req : List Byte)
  | spdmNegotiateAlgorithms (t : Transport) (req : List Byte)
  | spdmGetDigests (t : Transport) (req : List Byte)
  | spdmGetCertificate (t : Transport) (req : List Byte)
  | spdmChallenge (t : Transport) (req : List Byte)
  | spdmGetMeasurements (t : Transport) (req : List Byte)
  | spdmRespondIfReady (t : Transport) (req : List Byte)
  -- beat, whistle and huddle (R139 to R162, R210 to R213, R236 to R240, R305 to R307)
  | periodBoundary
  | headroomHalving (tensor : Nat)
  | stallAlarm (layer : Nat)
  | holdPoint
  | holdLimit
  | whistleUpDeadline
  | whistleUpFrame (x : Rx)
  | whistleDownFrame (x : Rx)
  | huddleEnter
  | huddleFrame (x : Rx) (h : Huddle)
  -- stage program instructions (R196 to R206)
  | wait (unit : Nat)
  | signalAdd (unit : Nat)
  | signalAcquire (unit : Nat)
  | signalRelease (unit : Nat)
  | pass (unit : Nat) (stale : List (Nat × Byte)) (time : PassTime := { idle := 0, stalls := [] })
  | fillGateWaitLimit (unit group : Nat) (time : PassTime := { idle := 0, stalls := [] })
  | fillGateFlushPoint (unit : Nat) (group : Nat := 0) (time : PassTime := { idle := 0, stalls := [] })
  | blockRefetchComplete (unit : Nat) (time : PassTime := { idle := 0, stalls := [] })
  | veOperation (unit : Nat) (stale : List (Nat × Byte))
  | veFlagRead (td : Fin 8) (ve : Fin 12)
  | rowSoftmaxForward (unit : Nat)
  | rowSoftmaxBackward (unit : Nat) (lost : List Nat := [])
  | rowLayerNormForward (unit : Nat)
  | rowLayerNormBackward (unit : Nat) (lost : List Nat := [])
  | rowRmsNormForward (unit : Nat)
  | rowRmsNormBackward (unit : Nat) (lost : List Nat := [])
  | rowCategoricalDraw (unit : Nat)
  | move (unit : Nat)
  | ckptStore (unit : Nat)
  | ckptLoad (unit : Nat) (stale : List (Nat × Byte) := [])
  | updateMainPass (unit : Nat) (stale : List (Nat × Byte) := [])
  | updateCopyPass (unit : Nat)
  | awaySlotWriteStart (slot : Nat)
  | versionSlotSwap (slot : Nat)
  | bucketSend (slips : List AdderSlip := [])
  | bucketFinish (unit : Nat) (stale : List (Nat × Byte) := [])
  | bucketNorm (unit : Nat)
  | ingest (unit : Nat)
  | instanceComplete (unit : Nat) (stream : Stream) (index inst : Nat) (time : PassTime := { idle := 0, stalls := [] })
  -- faults (R438 to R446)
  | tileResidueMismatch (t : TileId) (dpu : Nat := 0) (cycle : Nat := 0) (lost : List Nat := [])
  | tileReprobe (t : TileId) (passes : Bool)
  | capacityCompaction (td : Fin 8) (kind : TileKind)
  | unitResidueMismatch (unit : Nat) (second reprobePasses : Bool)
  | managementTelemetry (r : UnitReport)
  | unitTableApply (u : PhysUnit)
  -- fabric frames (R281 to R310)
  | reductionFrame (x : Rx) (slips : List AdderSlip)
  | readRequest (x : Rx) (reads : List DevRead)
  | readResponse (x : Rx)
  | writeRequest (x : Rx)
  | writeAck (x : Rx)
  | atomicRequest (x : Rx)
  | atomicResponse (x : Rx)
  | signalFrame (x : Rx)
  | bulkData (x : Rx)
  | bulkReadRequest (x : Rx)
  | bulkAck (x : Rx)
  | discoveryFrame (x : Rx)
  | linkControlAck (x : Rx)
  | linkControlNak (x : Rx)
  | creditGrant (x : Rx)
  | laneChangeRequest (x : Rx)
  | laneChangeConfirm (x : Rx)
  | frameTransit (x : Rx)
  | frameSend (p : Fin 12)
  | arpRequest (p : Fin 12) (target : Word32) (sender : List Byte)
  | neighbourSolicitation (p : Fin 12) (target : List Byte) (sender : List Byte)
  | icmpEchoRequest (p : Fin 12) (target : Word32) (sender : List Byte) (data : List Byte)
  | icmpv6EchoRequest (p : Fin 12) (target : List Byte) (sender : List Byte) (data : List Byte)
  | lldpFrame (p : Fin 12) (chassis : List Byte) (portId : Byte)
  | pauseFrame (p : Fin 12)
  | nonKftFrame (p : Fin 12)
  | ptpSync (p : Fin 12) (sequence : Word16) (rxTime : Nat)
  | ptpFollowUp (p : Fin 12) (sequence : Word16) (origin : Nat)
  | ptpDelayReq (p : Fin 12) (sequence : Word16) (rxTime : Nat)
  | ptpDelayResp (p : Fin 12) (sequence : Word16) (rxTime : Nat)
  | ptpSyncInterval
  | ackInterval (p : Fin 12)
  | retransmitTimeout (p : Fin 12)
  | retryExhausted (p : Fin 12)
  | responseTimeout (tid : Word32)
  | ecnEchoTimeout (p : Fin 12) (cls : Fin 6)
  | rateAlphaInterval (p : Fin 12) (cls : Fin 6)
  | rateRecoveryInterval (p : Fin 12) (cls : Fin 6)
  | discoveryInterval (p : Fin 12)
  | lldpInterval
  | laneLost (p : Fin 12) (lane : Fin 8) (bits : Nat := 0) (codewords : Nat := 0)
  | laneRetrainComplete (p : Fin 12) (lanes : Byte)
  | laneRetrainTimeout (p : Fin 12)
  -- memory (R321 to R332)
  | stripeFlushTimeout (stripe : Nat) (reads : List DevRead := [])
  | reconstructionRateLimit (device : Fin 20)
  | deviceCommandTimeout (device : Fin 20)
  | dqsTracking (device : Fin 20) (retrainFailures : Nat)
  | refresh (mpd : Fin 4) (managed : List (Fin 5) := [])
  | lpddr5xScrub (row : Nat) (group : Fin 4) (reads : List DevRead) (xorOk : Bool) (reader : ReadBy := .patrol)
  | sramScrub (offset : Nat) (correctable uncorrectable : Bool) (reader : ReadBy := .patrol)
  -- ingest (R336 to R355)
  | sampleDecodeStart (igd : Fin 2)
  | sampleComplete (igd : Fin 2) (engine : Fin 16) (busy : Nat := 0)
  | bitstreamFetchRetry (igd : Fin 2) (engine : Fin 16)
  -- start of the beat and PCI Express configuration (R305, R356, R358)
  | beatEpoch
  | memorySpaceEnable (sizeLog2 : Option Nat) (cfg : ConfigWrite := {})
  | doeDiscovery (req : List Byte)
  deriving DecidableEq, Repr

end Sys2Proof
end

