-- ==== Sys2Proof/Machine/Bits.lean ====
section
/-! DEFINITION. Bit fields, little-endian byte strings (R8, R9) and small list helpers. -/

namespace Sys2Proof.Machine

/-- Bits [lo + n − 1 : lo] of `w`. -/
def bitsOf (w lo n : Nat) : Nat := (w >>> lo) % 2 ^ n

/-- Bit `i` of `w`. -/
def bitAt (w i : Nat) : Bool := bitsOf w i 1 = 1

/-- A little-endian byte string as a number (R9). -/
def leNat : List Byte → Nat
  | [] => 0
  | b :: bs => b.toNat + 256 * leNat bs

/-- The low `n` bytes of `v`, little-endian (R9). -/
def leBytes : Nat → Nat → List Byte
  | 0, _ => []
  | n + 1, v => BitVec.ofNat 8 v :: leBytes n (v / 256)

/-- A number as `n` big-endian bytes (IEEE 802.3, IP and UDP fields, R9). -/
def beBytes (n v : Nat) : List Byte := (leBytes n v).reverse

/-- A big-endian byte string as a number. -/
def beNat (bs : List Byte) : Nat := leNat bs.reverse

/-- Bytes [lo .. lo + n − 1] of a byte string. -/
def sub (bs : List Byte) (lo n : Nat) : List Byte := (bs.drop lo).take n

/-- Bytes [lo .. lo + n − 1] read as a little-endian number. -/
def field (bs : List Byte) (lo n : Nat) : Nat := leNat (sub bs lo n)

/-- Whether bytes [lo .. lo + n − 1] are all 0. -/
def zeros (bs : List Byte) (lo n : Nat) : Bool := (sub bs lo n).all (· == 0)

/-- A byte string cut or zero-filled to `n` bytes. -/
def padTo (n : Nat) (bs : List Byte) : List Byte := bs.take n ++ List.replicate (n - bs.length) 0

/-- `v` rounded up to a multiple of `k`. -/
def roundUp (k v : Nat) : Nat := (v + k - 1) / k * k

/-- ⌈a / b⌉. -/
def ceilDiv (a b : Nat) : Nat := (a + b - 1) / b

/-- Number of ones among the low `n` bits of `w`. -/
def popCount : Nat → Nat → Nat
  | 0, _ => 0
  | n + 1, w => w % 2 + popCount n (w / 2)

/-- Bit length of `n`; 0 has length 0 (R343). -/
def bitLen (n : Nat) : Nat := if n = 0 then 0 else n.log2 + 1

/-- Insertion of `x` into a rising list without repeats. -/
def insertNat (x : Nat) : List Nat → List Nat
  | [] => [x]
  | y :: ys => if x < y then x :: y :: ys else if x = y then y :: ys else y :: insertNat x ys

/-- The numbers 0 to `n` − 1 offset by `lo`. -/
def rangeFrom (lo n : Nat) : List Nat := (List.range n).map (· + lo)

/-- Bytes of a 16-byte chunked list: `k` items of `n` bytes each. -/
def chunks (n : Nat) : Nat → List Byte → List (List Byte)
  | 0, _ => []
  | k + 1, bs => padTo n (bs.take n) :: chunks n k (bs.drop n)

/-- Entry `i` of a fixed table, or `d` beyond its end. -/
def getAt {α : Type} {n : Nat} (v : Vector α n) (i : Nat) (d : α) : α := if h : i < n then v[i] else d

/-- A fixed table with entry `i` replaced; unchanged when there is no such entry. -/
def setAt {α : Type} {n : Nat} (v : Vector α n) (i : Nat) (x : α) : Vector α n :=
  Vector.ofFn fun j => if j.val = i then x else v[j]

end Sys2Proof.Machine
end

