-- ==== Sys2Proof/Machine/Sm3.lean ====
section
/-! DEFINITION. SM3 (GB/T 32905), which the spec names for its digests (R141, R207, R218, R344, R410); its steps are
PRESUMED from that standard (log 14). Beside it CRC-32C (R282) and the 16-bit one's-complement sum of UDP (R279). -/

namespace Sys2Proof.Machine

/-- P0 and P1 of SM3. -/
def sm3P0 (x : Word32) : Word32 := x ^^^ x.rotateLeft 9 ^^^ x.rotateLeft 17
def sm3P1 (x : Word32) : Word32 := x ^^^ x.rotateLeft 15 ^^^ x.rotateLeft 23

/-- The next word of the expansion, from the 16 words before it, newest first. -/
def sm3Next (ws : List Word32) : Word32 :=
  let g := fun i => ws.getD i 0
  sm3P1 (g 15 ^^^ g 8 ^^^ (g 2).rotateLeft 15) ^^^ (g 12).rotateLeft 7 ^^^ g 5

/-- The 68 words of a block, newest first. -/
def sm3Expand : Nat → List Word32 → List Word32
  | 0, ws => ws
  | n + 1, ws => sm3Expand n (sm3Next ws :: ws)

/-- The compression state: eight words A to H. -/
structure Sm3 where
  a : Word32
  b : Word32
  c : Word32
  d : Word32
  e : Word32
  f : Word32
  g : Word32
  h : Word32
  deriving DecidableEq, Repr

def sm3Round (j : Nat) (w w' : Word32) (v : Sm3) : Sm3 :=
  let t : Word32 := if j < 16 then 0x79CC4519#32 else 0x7A879D8A#32
  let ss1 := ((v.a.rotateLeft 12) + v.e + t.rotateLeft (j % 32)).rotateLeft 7
  let ss2 := ss1 ^^^ v.a.rotateLeft 12
  let ff := if j < 16 then v.a ^^^ v.b ^^^ v.c else (v.a &&& v.b) ||| (v.a &&& v.c) ||| (v.b &&& v.c)
  let gg := if j < 16 then v.e ^^^ v.f ^^^ v.g else (v.e &&& v.f) ||| (~~~v.e &&& v.g)
  { a := ff + v.d + ss2 + w', b := v.a, c := v.b.rotateLeft 9, d := v.c,
    e := sm3P0 (gg + v.h + ss1 + w), f := v.e, g := v.f.rotateLeft 19, h := v.g }

/-- Rounds j, j + 1, … over the words in order, oldest first. -/
def sm3Rounds : Nat → List Word32 → Sm3 → Sm3
  | j, w0 :: w1 :: w2 :: w3 :: w4 :: ws, v =>
    sm3Rounds (j + 1) (w1 :: w2 :: w3 :: w4 :: ws) (sm3Round j w0 (w0 ^^^ w4) v)
  | _, _, v => v

/-- One block of 64 bytes. -/
def sm3Block (v : Sm3) (block : List Byte) : Sm3 :=
  let ws := (chunks 4 16 block).map fun b => BitVec.ofNat 32 (beNat b)
  let r := sm3Rounds 0 (sm3Expand 52 ws.reverse).reverse v
  { a := r.a ^^^ v.a, b := r.b ^^^ v.b, c := r.c ^^^ v.c, d := r.d ^^^ v.d,
    e := r.e ^^^ v.e, f := r.f ^^^ v.f, g := r.g ^^^ v.g, h := r.h ^^^ v.h }

def sm3Init : Sm3 :=
  { a := 0x7380166F#32, b := 0x4914B2B9#32, c := 0x172442D7#32, d := 0xDA8A0600#32,
    e := 0xA96F30BC#32, f := 0x163138AA#32, g := 0xE38DEE4D#32, h := 0xB0FB0E4E#32 }

/-- The SM3 digest, 32 bytes. -/
def sm3 (msg : List Byte) : List Byte :=
  let n := msg.length
  let padded := msg ++ [0x80#8] ++ List.replicate ((119 - n % 64) % 64) 0 ++ beBytes 8 (8 * n)
  let r := (chunks 64 (padded.length / 64) padded).foldl sm3Block sm3Init
  [r.a, r.b, r.c, r.d, r.e, r.f, r.g, r.h].flatMap fun w => beBytes 4 w.toNat

/-- One byte of CRC-32C, reflected polynomial 0x82F6_3B78. -/
def crcBits : Nat → Word32 → Word32
  | 0, c => c
  | n + 1, c => crcBits n (if c.getLsbD 0 then (c >>> 1) ^^^ 0x82F63B78#32 else c >>> 1)

/-- CRC-32C of a byte string (R282; the polynomial is PRESUMED from its name, log 14). -/
def crc32c (bs : List Byte) : Word32 :=
  ~~~(bs.foldl (fun c b => crcBits 8 (c ^^^ b.setWidth 32)) 0xFFFF_FFFF#32)

/-- Eight steps of the CRC of IEEE 802.3. -/
def fcsBits : Nat → Word32 → Word32
  | 0, c => c
  | n + 1, c => fcsBits n (if c.getLsbD 0 then (c >>> 1) ^^^ 0xEDB8_8320#32 else c >>> 1)

/-- The frame check sequence of IEEE 802.3 over a byte string (R279). -/
def crc32 (bs : List Byte) : Word32 :=
  ~~~(bs.foldl (fun c b => fcsBits 8 (c ^^^ b.setWidth 32)) 0xFFFF_FFFF#32)

/-- Sum of the 16-bit big-endian words of a byte string. -/
def sum16 : List Byte → Nat
  | a :: b :: bs => a.toNat * 256 + b.toNat + sum16 bs
  | [a] => a.toNat * 256
  | [] => 0

/-- The one's-complement checksum of UDP; a computed 0 is sent as 0xFFFF. -/
def udpSum (bs : List Byte) : Nat :=
  let s := sum16 bs
  let f := s % 65535
  let c := if f = 0 ∧ s ≠ 0 then 0 else 65535 - f
  if c = 0 then 65535 else c

end Sys2Proof.Machine
end

