-- ==== Sys2Proof/Machine/State.lean ====
section
/-! DEFINITION. The state of the block: every register, buffer, queue, counter, mode and pin the spec gives the module,
as plain data, and the state after reset. Fields cite the rule that names them; reset values the spec does not give are
those of log entries 2 to 7. -/

namespace Sys2Proof.Machine

/-- Why a command would stop the block. The spec gives every command an effect, so no meaning raises one. -/
inductive Fault where
  /-- Raised by no meaning: kept so that the type is closed and inhabited (safe). -/
  | unreachable
  deriving DecidableEq, Repr

/-- Why a command has no meaning here. -/
inductive Refusal where
  /-- Raised by an arm of `exec` whose command has not been given its meaning (safe). -/
  | notModelled (mnemonic : String)
  deriving DecidableEq, Repr

/-- One canonical sparse byte store: addresses strictly rising, no entry equal to 0, unlisted bytes read 0. -/
abbrev Memory := List Host.Cell

/-! ### Power (R453 to R472) -/

/-- Power states of R458. -/
inductive PowerMode where
  | off | standby | bringUp | active | computeReset | bench
  deriving DecidableEq, Repr

/-- A supply excursion in progress (R454). -/
structure Excursion where
  lowMv : Nat
  warned : Bool
  ended : Bool := false                    -- the input is at 44 V or above again, its recovery not yet reported
  deriving DecidableEq, Repr

structure Power where
  mode : PowerMode := .off                 -- R458
  vinMv : Nat := 0                         -- R454: last sample
  excursion : Option Excursion := none     -- R454
  warning : Bool := false                  -- R455
  supplyMhz : Option Nat := none           -- R455: supply clock while a warning stands
  capW : Nat := 2400                       -- R461: cap in force
  ceilMhz : Nat := 1500                    -- R422, R461: clock ceiling in force
  loopMhz : Nat := 1500                    -- R461
  thermalMhz : Option Nat := none          -- R466
  throttling : Bool := false               -- R466
  thermalFault : Bool := false             -- R467
  computeStopped : Bool := true            -- R456, R467: TD, OSD and IGD clocks stopped
  msBelow : Option Nat := none             -- R461: ms the average has stayed below cap - 50 W since the last change
  msAtFloor : Option Nat := none           -- R462: ms the loop clock has been at 500 MHz
  capReported : Bool := false              -- R462
  tdMhz : Nat := 1500                      -- R460: TD clock in force
  tdVolt : Rat := 4 / 5                    -- R460: nominal supply voltage of the clock in force
  refreshDoubled : Bool := false           -- R467
  resetInLow : Bool := false               -- R472
  perstLow : Bool := false                 -- R472
  profileSel : BitVec 2 := 0               -- R472
  hardTrip : Bool := false                 -- R468
  bootReported : Bool := false             -- the reports that go with READY have been posted since power-on (R456, R457)
  deriving DecidableEq, Repr

/-! ### Flash and firmware (R400 to R424) -/

/-- Grades of R2. -/
inductive Grade where
  | a | b
  deriving DecidableEq, Repr

/-- A profile of R422. -/
structure Profile where
  name : List Byte
  capW : Nat
  ceilMhz : Nat
  ports : Byte
  coolantC : Nat
  deriving DecidableEq, Repr

/-- The boot record of R408. -/
structure BootRecord where
  activeSlot : Nat := 0
  trialSlot : Option Nat := none
  keyFloor : Nat := 0
  secVersion : Nat := 0
  settingsFormat : Nat := 3
  deriving DecidableEq, Repr

/-- An installed bundle: what the module reads of its header (R410), and the digests it reports (R406). -/
structure Image where
  patch : Byte
  minor : Byte
  major : Byte
  keyIndex : Nat
  keyFloor : Nat
  secVersion : Nat
  settingsFormat : Nat
  digest : List Byte
  microcode : List Byte
  bundle : List Byte := []                 -- the installed bundle (R407); empty for the one it ships with (log 5)
  deriving DecidableEq, Repr

/-- What an X.509 certificate of slot 0 holds beside its form (R402): the serial number, issuer and validity (DER), the names
of the subject (DER) and its serial, the public key, the extensions (DER) and the signature (r, s). -/
structure Certificate where
  number : Nat
  issuer : List Byte
  subject : List Byte
  subjectSerial : Option (BitVec 128)
  key : Nat × Nat
  extensions : List Byte
  signature : Nat × Nat
  deriving DecidableEq, Repr

/-- Certificate `i` of slot 0 as manufacture made it: 0 root, 1 product, 2 device (log 9). -/
def Certificate.made (i : Nat) (subjectSerial : Option (BitVec 128)) : Certificate :=
  { number := Config.certNumber i, issuer := Config.certIssuer i, subject := Config.certSubject i,
    subjectSerial := subjectSerial, key := Config.certKey i, extensions := Config.certExtensions i,
    signature := Config.certSignature i }

/-- The identity partition (R402, R407): helper data, device certificate and product certificate, written at manufacture. -/
structure Identity where
  helper : List Byte
  device : Certificate                     -- its subject serial is the module serial
  product : Certificate
  deriving DecidableEq, Repr

structure Flash where
  boot : BootRecord := {}
  bootWrites : Nat := 0                    -- the partition's monotonic write counter (R407)
  bootMac : List Byte := []                -- HMAC-SM3 of its last write under the key of the seed (R407)
  identity : Identity := { helper := Config.helperData, device := Certificate.made 2 (some Config.serial),
                           product := Certificate.made 1 none }
  slots : Vector (Option Image) 2
  staging : List Byte := []                -- R412
  stagingComplete : Bool := false
  grade : Grade := .a                      -- R3
  steppings : Byte := 0x04#8               -- R407, R410: bit 2 is B1
  profiles : Vector Profile 4              -- R407, R422
  profilesFormat : Nat := 3
  powerLog : List (Nat × Nat) := []        -- R456: (cause, lowest mV), newest first
  powerLogNew : Bool := false              -- the newest record has not been reported (R456)
  activationCut : Bool := false            -- power was lost during an activation (R457)
  disabled : List TileId := []             -- tiles disabled at manufacture (R2)
  deriving DecidableEq, Repr

structure Firmware where
  image : Image                            -- running image
  identity : Bool := true                  -- R403
  puf : List Byte := []                    -- power-up state of the CMB's 4 KiB PUF array, empty without power (R400)
  seed : Option (List Byte) := none        -- R400; gone with the CMB's power
  deviceKey : Option Nat := none           -- the SM2 private key d (R400)
  aliasKey : Option Nat := none            -- R401: derived once the running image is verified
  activation : Option Nat := none          -- R414: scheduled epoch
  activating : Option Nat := none          -- R416: steps of an activation in progress that are done
  trial : Bool := false                    -- R418
  trialReady : Bool := false
  trialStart : Nat := 0
  memProfiles : Option (Vector Profile 4) := none  -- R421: profiles held in memory in place of the partition
  chosenProfile : Fin 4 := 0               -- R423
  profileSource : Nat := 1                 -- 1 contacts, 2 mailbox
  activeProfile : Fin 4 := 0
  profile : Profile                        -- contents in force
  deriving DecidableEq, Repr

/-! ### Host interface (R356 to R399) -/

/-- MODULE of STATE (R361). -/
inductive ModState where
  | powerOn | bringUp | ready | computeReset | bench | activation | mgmtFault
  deriving DecidableEq, Repr

/-- PROGRAM of STATE (R361, R215). -/
inductive PState where
  | empty | loaded | running | paused | halted
  deriving DecidableEq, Repr

/-- An event entry before the event ring gives it a phase (R377). -/
structure Event where
  code : Nat
  ring : Nat
  source : Word16
  seq : Word16
  lost : Bool
  payload : List Byte
  deriving DecidableEq, Repr

/-- A command started and not completed (R374, R385). -/
structure Executing where
  cmd : Cmd
  discard : Bool                           -- its completion is discarded (R366)
  deriving DecidableEq, Repr

/-- How far a command to a squad member is (R394): its host data on their way to the member, forwarded, or its results on
their way to host memory under the completion that came. -/
inductive ProxyStage where
  | moving (raw : List Byte)
  | forwarded
  | returning (e : Event)
  deriving DecidableEq, Repr

/-- A command forwarded to a squad member (R394). -/
structure Proxied where
  node : Word16
  cmd : Cmd
  stage : ProxyStage := .forwarded
  discard : Bool := false                  -- its completion is discarded (R366)
  deriving DecidableEq, Repr

/-- A command whose data are being written to another module, with the completion it then gives (R383). -/
structure Awaited where
  cmd : Cmd
  result : Nat
  v1 : Nat
  v2 : Nat
  deriving DecidableEq, Repr

/-- PCI Express configuration of the function that the host writes (R356, R358, R389). -/
structure Pcie where
  d3hot : Bool := false                    -- power state: D0 or D3hot
  maxPayload : Nat := 128                  -- bytes
  maxRead : Nat := 512                     -- max read request size, bytes
  timeoutUs : Nat := 50000                 -- completion timeout
  bar0 : Word64 := 0
  bar2 : Word64 := 0
  aerStatus : Word32 := 0                  -- AER uncorrectable error status
  msixEnable : Bool := true                -- MSI-X enable; set at reset, as R382 has interrupts sent (log 111)
  msixMask : Bool := false                 -- MSI-X function mask
  linkRate : Nat := 0                      -- tenths of a GT/s; 0 while the link is not up
  linkWidth : Nat := 0
  flit : Bool := false                     -- FLIT mode
  deriving DecidableEq, Repr

structure Mbox where
  module : ModState := .powerOn
  mcpUp : Bool := false
  heartbeat : Word32 := 0
  sqTail : Vector (BitVec 12) 4 := Vector.replicate 4 0
  eqHead : BitVec 12 := 0
  ringBase : Vector Word64 5 := Vector.replicate 5 0
  ringSize : Vector (BitVec 13) 5 := Vector.replicate 5 0
  ringOn : Vector Bool 5 := Vector.replicate 5 false
  ringHead : Vector (BitVec 12) 5 := Vector.replicate 5 0
  phase : Bool := true                     -- RING_HEAD[4].PHASE
  ringErr : Vector (BitVec 3) 5 := Vector.replicate 5 0
  winBase : Vector Word64 4 := Vector.replicate 4 0xFFFF_1000_0000_0000#64
  winErr : Bool := false
  winCause : BitVec 3 := 0
  winErrAddr : Word64 := 0
  evtMask : Word64 := 0
  evtVec : Vector (BitVec 6) 64 := Vector.replicate 64 0
  coalCount : Word16 := 1
  coalDelay : Word16 := 0
  msix : Vector (BitVec 128) 64 := Vector.replicate 64 0
  msixPba : Word64 := 0
  evtSeq : Word16 := 0                     -- R377
  kept : List Event := []                  -- R380, R381
  heldCompletions : List Event := []       -- R380
  lostCount : Nat := 0
  lostFirst : Word16 := 0
  lostSources : List Word16 := []
  firstDue : Option Event := none          -- R381: entry due as the first of the re-enabled ring
  sinceIrq : Vector Nat 64 := Vector.replicate 64 0      -- R382
  rrNext : Fin 3 := 0                      -- R374: next of control, bulk, diagnostic
  executing : List Executing := []
  fetched : Nat := 0                       -- commands fetched or received since power-on
  awaiting : List Awaited := []            -- completions that wait for their data's acknowledgments
  pcie : Pcie := {}
  killed : List Nat := []                  -- ring 2 entries aborted before they were fetched (R385)
  lastPath : Vector (Option Nat) 3 := Vector.replicate 3 none   -- R398
  barLog2 : Nat := 30                      -- R358
  barPending : Nat := 30
  memEnable : Bool := false
  squad : List Word16 := []                -- R393
  unreachable : List Word16 := []          -- R396
  proxied : List Proxied := []             -- R394
  orphans : List (Word16 × Cmd) := []      -- commands that run on at a member that was out of reach (R396)
  restarts : List Nat := []                -- R447, R448: times of management restarts
  deriving DecidableEq, Repr

/-! ### Unit table (R436, R440, R442) -/

/-- Condition of a unit (R436). -/
inductive Cond where
  | inService | spare | suspect | failed | disabled
  deriving DecidableEq, Repr

structure UnitEntry where
  phys : PhysUnit
  logical : Option Nat
  cond : Cond
  cause : Nat
  mismatches : Nat
  step : Nat
  recent : List Nat                        -- R440: times of the mismatches of the last 24 h, ns
  standsFor : List Nat                     -- R442: logical units it stands in for
  deriving DecidableEq, Repr

/-! ### Outputs -/

/-- A KFT frame as it leaves a port, with the fields of R279. -/
structure Wire where
  port : Fin 12
  dstMac : BitVec 48
  srcMac : BitVec 48
  etherType : Nat
  srcIp : BitVec 128
  dstIp : BitVec 128
  v4 : Bool
  vlan : Option (Nat × Nat)                -- PCP, VLAN id
  trafficClass : Nat
  ipLength : Nat
  flowLabel : Nat
  hopLimit : Nat
  udpSrc : Nat
  udpDst : Nat
  udpChecksum : Nat
  kft : Kft
  crc : Word32
  deriving DecidableEq, Repr

/-- What the block puts on its outputs, oldest first. -/
inductive Output where
  | hostWrite (addr : Word64) (data : List Byte) (relaxed : Bool := false)   -- R388: the relaxed-ordering attribute
  | hostRead (addr : Word64) (n : Nat)     -- R372, R383, R387
  | aerReport (status : Word32)            -- R389
  | interrupt (vec : Nat)
  | readData (data : List Byte)
  | wire (w : Wire)
  | smbus (data : List Byte)
  | spdm (t : Transport) (data : List Byte)
  | doe (data : List Byte)
  | arpReply (p : Fin 12) (mac : BitVec 48) (ip : Word32) (peer : List Byte)
  | neighbourAdvert (p : Fin 12) (mac : BitVec 48) (ip : BitVec 128) (peer : List Byte)
  | echoReply (p : Fin 12) (v6 : Bool) (peer : List Byte) (data : List Byte)
  | lldp (p : Fin 12) (chassis : List Byte) (portId : Byte)
  | ptpSync (p : Fin 12) (v4 : Bool) (sequence : Word16)                 -- two-step: its Follow_Up has the time (R303)
  | ptpFollowUp (p : Fin 12) (v4 : Bool) (sequence : Word16) (origin : Nat)
  | ptpDelayReq (p : Fin 12) (v4 : Bool) (sequence : Word16)
  | ptpDelayResp (p : Fin 12) (v4 : Bool) (sequence : Word16) (rx : Nat)
  | refreshCmd (mpd : Nat)
  | refreshManage (mpd device : Nat)       -- refresh management that a device requests (R321)
  | cableReset (port : Nat)                -- RESET# of a physical port's cable, driven low in a retrain (R473)
  | railsOff
  deriving DecidableEq, Repr

/-! ### Memory system (R311 to R335) -/

/-- What waits until the bytes of some stripes are visible: a frame, the answer to a host read, or a DMA's write to the host. -/
inductive Release where
  | frame (f : Kft)
  | output (win : Nat) (addr : Nat) (o : Output)
  | dma (c : Cmd) (haddr : Word64) (data : List Byte)
  deriving DecidableEq, Repr

/-- A response that waits until the bytes of these stripes are visible (R297, R324). -/
structure HeldAck where
  what : Release
  stripes : List Nat
  deriving DecidableEq, Repr

/-- A stripe gathered in an MPD's write buffer (R323): bit i of `covered` is byte i of the stripe. -/
structure Stripe where
  number : Nat
  covered : Nat
  deriving DecidableEq, Repr

/-- A DMA command or a bulk transfer into this module that ends once its stripes have left the write buffer (R301, R388). -/
inductive Ending where
  | command (c : Cmd) (stripes : List Nat)
  | bulk (node : Word16) (tid : Word32) (stripes : List Nat)
  deriving DecidableEq, Repr

structure MemSys where
  sram : Memory := []                      -- space 0x0
  dram : Memory := []                      -- space 0x1
  buffers : Memory := []                   -- space 0x2
  devLost : Vector Bool 20 := Vector.replicate 20 false
  groupGone : Vector Bool 4 := Vector.replicate 4 false
  mr4 : Vector Nat 20 := Vector.replicate 20 0
  benchMr4 : Vector Nat 20 := Vector.replicate 20 0     -- R334: temperatures at bench entry
  refreshed : Vector Nat 4 := Vector.replicate 4 0      -- R331: time of the MPD's last refresh
  reconTimes : Vector (List Nat) 20 := Vector.replicate 20 []
  stripes : List Stripe := []              -- oldest first
  acks : List HeldAck := []                -- responses waiting for visibility
  ends : List Ending := []                 -- what ends once its bytes are visible
  leftEarly : List Stripe := []            -- stripes that left for want of room, whose reads are not reported yet (R323, R326)
  lostLines : List Nat := []               -- lines of space 0x0 whose bytes are lost (R319)
  scrubRow : Vector Nat 4 := Vector.replicate 4 0
  scrubLine : Nat := 0
  retention : Bool := false                -- R333
  deriving DecidableEq, Repr

/-! ### Program object (R189 to R209, R479) -/

/-- An instruction of a stage program (R203). -/
structure PInstr where
  cls : Nat
  stream : Nat
  reserved : Nat
  waitToken : Nat
  signalToken : Nat
  waitMode : Nat
  signalMode : Nat
  waitInc : Nat
  waitTarget : Nat
  beat : Nat
  count : Nat                              -- instances, 1 to 256
  stride : Nat
  desc : Nat
  operand : Nat
  deriving DecidableEq, Repr

/-- A token declaration (R200). -/
structure TokDecl where
  mode : Nat
  reserved : Nat
  init : Nat
  deriving DecidableEq, Repr

/-- A stage program section (R479). -/
structure Stage where
  unit : Nat
  tokens : List TokDecl
  f : List PInstr
  b : List PInstr
  u : List PInstr
  deriving DecidableEq, Repr

/-- A layout table entry (R194). -/
structure Layout where
  tensor : Nat
  rank : Nat
  axis : Nat
  flags : Nat
  reserved : Nat
  sizes : List Nat
  order : List Nat
  deriving DecidableEq, Repr

/-- A replica-set table entry (R208). -/
structure Replica where
  set : Nat
  members : Nat
  index : Nat
  reserved : Nat
  list : Nat
  deriving DecidableEq, Repr

/-- The program header (R207). -/
structure Header where
  magic : Nat
  patch : Nat
  minor : Nat
  major : Nat
  seed : Word64
  digest : List Byte
  period : Nat                             -- units of 4 us
  working : Nat
  stoppage : Nat
  holdLimit : Nat
  holdMargin : Nat
  huddleBeat : Nat
  runAhead : Nat
  ftTiles : Nat
  btTiles : Nat
  gradeReserved : Nat
  sectionOffset : Nat
  sectionCount : Nat
  reserved : Nat
  deriving DecidableEq, Repr

structure Program where
  hdr : Header
  descs : List (List Byte)
  kinds : List DescKind
  layouts : List Layout
  peers : List Nat
  replicas : List Replica
  stages : List Stage
  persistent : List Nat
  ves : List (Nat × VeDesc)                -- VE operand descriptors by slot (log 12)
  keep : List (Nat × KeepClass)            -- keep classes by tensor number (R176)
  recompute : List Recompute               -- recompute stages (R177)
  deriving DecidableEq, Repr

/-! ### Play sequencers (R196 to R201) -/

/-- An instance of a stage program: the unit, the stream, the instruction and the instance number. -/
structure Who where
  unit : Nat
  stream : Stream
  index : Nat
  inst : Nat
  deriving DecidableEq, Repr

/-- A token: its mode and its two 16-bit counts, one per step parity for a counter, the first alone otherwise (R200). -/
structure Token where
  mode : Nat
  v0 : Nat
  v1 : Nat
  deriving DecidableEq, Repr

/-- An issued instance that has not delivered its signal (R197). -/
structure InFlight where
  stream : Stream
  index : Nat
  inst : Nat
  finished : Bool
  waiting : Nat                            -- remote writes, moves or gated rows it still waits for
  stripes : List Nat := []                 -- stripes of space 0x1 that still gather its writes (R191, R324)
  deriving DecidableEq, Repr

/-- The array of a tile as R106 follows it: the configuration and compute time of the pass issued last, and the cycles from
its issue to the end of the drain of the pass before it. -/
structure TilePipe where
  config : Nat := 0                        -- half cycles of a block of the pair; 0 before the first pass
  compute : Nat := 0
  drain : Nat := 0
  deriving DecidableEq, Repr

/-- A residue mismatch as the tile reports it to its play sequencer (R113). -/
structure Mismatch where
  dpu : Nat
  cycle : Nat
  deriving DecidableEq, Repr

structure SeqUnit where
  unit : Nat
  posF : Nat × Nat := (0, 0)               -- next instruction and instance of each stream
  posB : Nat × Nat := (0, 0)
  posU : Nat × Nat := (0, 0)
  flight : List InFlight := []             -- issue order
  tokens : List Token := []                -- 256 once loaded
  flags : BitVec 5 := 0                    -- VE sticky flags (R48)
  pipe : TilePipe := {}                    -- a tile's array (R106)
  reported : Option Mismatch := none       -- the last mismatch its tile reported (R113)
  deriving DecidableEq, Repr

/-- A waiting row of a fill-gate group (R107 to R109). -/
structure GateRow where
  stream : Stream
  index : Nat
  inst : Nat
  row : Nat
  arrived : Nat
  deriving DecidableEq, Repr

/-- An open group of a tile's fill gate, by its group number, or a request that waits for one to empty (R107); `slot` is the
group descriptor its first row named. -/
structure GateGroup where
  unit : Nat
  group : Nat
  slot : Nat
  rows : List GateRow
  waits : Bool := false
  deriving DecidableEq, Repr

/-! ### Beat, whistle and huddle -/

/-- A write of the current beat to space 0x0 by an instance: where, and for a move its source (R319). -/
structure Wrote where
  who : Who
  move : Bool
  off : Nat
  len : Nat
  src : Nat
  deriving DecidableEq, Repr

/-- A whistle up frame's contents as combined (R305, R306). -/
structure Up where
  port : Fin 12
  hold : Bool
  abort : Bool
  halting : Bool
  members : Nat
  causes : Byte
  deriving DecidableEq, Repr

/-- The decision of a period (R306). -/
structure Decision where
  hold : Bool
  abort : Bool
  causes : Byte
  short : Bool := false                    -- fewer modules reported to the root than the domain has (R305)
  deriving DecidableEq, Repr

/-- What the hardware does to an instance's work that its program does not say: the timing of its passes (R101, R106), the
statistics records lost (R171), the additions that slip (R260), and what prefetch buffers or a first reading deliver (R81,
R264). It goes with an instance that waits. -/
structure WorkIn where
  time : PassTime := { idle := 0, stalls := [] }
  lost : List Nat := []
  slips : List AdderSlip := []
  stale : List (Nat × Byte) := []
  deriving DecidableEq, Repr

/-- An issued instance whose sources cannot be read yet: a remote read in flight (R300) or a view's sample (R351). -/
structure Deferred where
  who : Who
  view : Bool
  input : WorkIn := {}
  deriving DecidableEq, Repr

/-- An instance whose reader refetches a block (R82): the bytes that prefetch buffers still hold, and the blocks refetched,
as data base and block number, the one awaited first. -/
structure Refetch where
  who : Who
  stale : List (Nat × Byte)
  blocks : List (Nat × Nat)
  input : WorkIn := {}
  deriving DecidableEq, Repr

/-- An element to encode: its exact value, the weight of its source's lowest bit and its random cells (R54, R134). -/
structure Src where
  v : Val
  w : Int
  r : Nat
  deriving DecidableEq, Repr

/-- A block that waits to be encoded until the blocks of its span before it are (R79). -/
structure HeldBlock where
  who : Who
  slot : Nat
  b : Nat
  xs : List Src
  deriving DecidableEq, Repr

/-- Blocks of a span that a unit has read (R81): the unit, the data base of the tensor, the span and the blocks. -/
structure SpanRead where
  unit : Nat
  data : Nat
  span : Nat
  blocks : List Nat
  deriving DecidableEq, Repr

structure Beat where
  epoch : Nat := 0                         -- beat epoch, IEEE 1588 ns
  started : Bool := false                  -- period 0 has begun
  period : Nat := 0
  number : Nat := 0                        -- beat of the current period
  heldNow : Bool := false                  -- the current period is a held period
  stoppage : Nat := 0                      -- stoppage beats left
  holdRun : Nat := 0                       -- consecutive hold points that ended in requests (R213)
  reasons : List (Nat × Nat) := []         -- own hold requests of this period: cause (R211) and unit
  lastReasons : List (Nat × Nat) := []     -- those of the period before, while its decision is missing (R307)
  atHoldPoint : Bool := false              -- the hold point of this period has passed
  heldPeriods : Nat := 0
  latePeriods : Nat := 0
  down : Option Decision := none           -- decision of this period, when it has arrived
  ups : List Up := []                      -- up frames of this period
  seen : List Up := []                     -- the last up frame of each child (R241)
  upSent : Bool := false
  missed : Bool := false                   -- the last period ended without its down frame (R307)
  pauseAt : Option Word64 := none
  pauseCause : Nat := 0
  pauseDue : Bool := false                 -- the named step has ended (R216)
  halting : Bool := false                  -- halting and abort flags of R306
  haltCause : Option Nat := none           -- event code of a fault that halts at the end of the beat (R83, R201)
  abortFlags : Word32 := 0                 -- R237
  fills : List Nat := []                   -- version records whose fill pass runs (R234)
  reexec : List Who := []                  -- re-executions pending (R114)
  unrun : List (Who × Bool) := []          -- those of them whose own work had not run: none of it (true), or rows in the gate
  refetch : List Refetch := []             -- read checks that failed and wait for their refetch (R82)
  stopped : List Who := []                 -- where a block fault stopped its stream (R83)
  spanReads : List SpanRead := []          -- spans read in part in this step (R81)
  encoded : List (Who × Nat) := []         -- blocks encoded in this step: writer and block (R79)
  heldBlocks : List HeldBlock := []        -- blocks that wait for those before them (R79)
  released : List Nat := []                -- Row Engine records read in this beat (R173)
  rebuilt : List Who := []                 -- instances whose reads needed a reconstruction (R327)
  stuck : List (Who × Nat) := []           -- instances that cannot complete, and their hold cause (R300, R441)
  writes : List Wrote := []                -- R319: writes of the current beat to space 0x0
  moved : List (PhysUnit × Nat) := []      -- R446: logical numbers that left a unit in the current beat
  deferred : List Deferred := []           -- instances whose reads wait (R300, R351)
  members : Nat := 1                       -- modules of the beat domain (log 13)
  huddleSent : Bool := false
  huddleIn : List (Fin 12 × List Byte) := []   -- huddle messages whose last frame has not come, by port
  huddleParts : List (Fin 12 × Huddle) := []
  huddleOwn : Option Huddle := none
  combined : Option Huddle := none
  huddleOk : Bool := false                 -- decided at the hold point: ready, equal steps and digests
  huddleFailed : Bool := false             -- the huddle-failed event of this step is posted (R240)
  committed : Bool := false                -- the huddle of this step has completed
  late : Nat := 0                          -- late whistle decisions of the run
  deriving DecidableEq, Repr

/-! ### Scale tracking, monitors and coach (R139 to R162) -/

structure Tracker where
  tensor : Nat
  history : List Word16                    -- newest first, at most H
  st : Nat                                 -- tensor exponent
  adj : Nat                                -- minus the headroom adjustment, 0 to 15
  headroom : Nat
  refit : Bool                             -- a re-fit is decided for the next step that writes the tensor
  fit : Bool                               -- this step encodes the tensor under the fit rule (R147)
  base : Nat                               -- fit exponent of margin × A at the last huddle
  overflowed : List Nat                    -- positions that overflowed at the last huddle
  remote : List Byte := []                 -- what it has written into a bump table at another module (R144)
  stat : TrackStat                         -- statistics since this module's last contribution to a huddle
  last : TrackStat                         -- combined statistics of this step's huddle
  deriving DecidableEq, Repr

/-- What one block of an update adds to its layer's sums, exactly: w², Δw², the same per output channel, and, of a sampled
block, the four shadows' squared errors and the sum they are held against (R149, R157). -/
structure BlockSum where
  desc : Nat                               -- descriptor slot of the update
  block : Nat
  w2 : Val
  d2 : Val
  channels : List (Nat × Val × Val)
  errNum : List Val
  errDen : Val
  deriving DecidableEq, Repr

structure LayerState where
  layer : Nat
  format : Nat                             -- 0 K2, 1 K3, 2 K4, 3 K8f
  floor : Nat
  ceil : Nat
  since : Nat                              -- steps since change
  stall : Nat
  alarm : Bool
  advised : Bool
  pauseAsked : Bool
  ratio : Word32                           -- U of the update before
  window : List LayerStat                  -- newest first, at most W
  bounds : List (Word64 × Nat × Nat)       -- scheduled changes (R160)
  stat : LayerStat                         -- counts of the update in progress
  sums : List BlockSum                     -- its blocks, as they were written
  channels : List Word32                   -- channel ratios of the last huddle
  taken : Nat × Nat := (0, 0)              -- saturations and elements of its output tensor already in this step's contribution
  late : Nat × Nat := (0, 0)               -- those of the step before that came after its contribution (R156)
  deriving DecidableEq, Repr

/-- A watch-list entry (R152). -/
structure Watch where
  tensor : Nat
  zeroLimit : Nat
  satLimit : Nat
  nonFiniteLimit : Nat
  recordBase : Nat
  recordEntries : Nat
  deriving DecidableEq, Repr

/-- Watch counts of a tensor in the step (R153). -/
structure WatchCount where
  tensor : Nat
  written : Nat
  zeros : Nat
  saturations : Nat
  nonFinite : Nat
  accNonFinite : Nat
  deriving DecidableEq, Repr

structure Scales where
  trackers : List Tracker := []
  layers : List LayerState := []
  watch : Vector (Option Watch) 64 := Vector.replicate 64 none
  watchNext : List (Nat × Option Watch) := []    -- changes for the next huddle
  watchCounts : List WatchCount := []
  deriving DecidableEq, Repr

/-! ### Version slots (R230) -/

inductive SlotCond where
  | empty | writing | held | home
  deriving DecidableEq, Repr

structure VSlot where
  tag : Word16
  fmt : Nat                                -- block format code of R80
  cond : SlotCond
  deriving DecidableEq, Repr

structure VState where
  record : Nat                             -- descriptor-table slot of the version record
  unit : Nat                               -- its update engine
  s0 : VSlot
  s1 : VSlot
  spans : List Nat                         -- spans of the copy written in this update
  last : Option Who                        -- the instance whose signal waits for the swap (R233)
  deriving DecidableEq, Repr

/-! ### Reduction (R245 to R265) -/

structure Segment where
  number : Nat
  sums : List Int                          -- 256 accumulators
  amax : Word16
  flag : Bool
  contributors : Nat
  exponent : Option Nat
  seen : List Nat                          -- sources added: 0xFF own, else the child port
  done : Bool                              -- its result is written and forwarded
  freed : Bool                             -- it is complete and has left its accumulators (R261)
  deriving DecidableEq, Repr

structure TagState where
  tag : Nat
  sending : Bool                           -- the send instruction has issued
  own : List Nat                           -- own segments that wait for an accumulator (R261)
  segments : List Segment
  finished : Bool
  slips : List AdderSlip := []             -- what the own additions meet (R260)
  deriving DecidableEq, Repr

/-- A reduction frame whose credits are withheld, with what its additions will meet (R260, R261). -/
structure Withheld where
  port : Fin 12
  f : Kft
  slips : List AdderSlip
  deriving DecidableEq, Repr

structure Reduce where
  plans : Vector (Option (Word64)) 64 := Vector.replicate 64 none   -- entries written; none is the reset entry (R254)
  tags : List TagState := []
  pipes : Vector (Fin 2) 6 := Vector.replicate 6 0                  -- pipe in service per interface (R260)
  withheld : List Withheld := []                                    -- segments waiting for the tag window (R261)
  waitFrom : Nat := 0                                               -- time up to which credit waits are counted (R272)
  deriving DecidableEq, Repr

/-! ### Fabric (R273 to R310) -/

/-- The fabric record of R291. -/
structure FabricRec where
  node : Word16 := 0xFFFF#16
  captain : Word16 := 0xFFFF#16
  timeParent : Byte := 0xFF#8
  whistleParent : Byte := 0xFF#8
  whistleChildren : Word16 := 0
  deriving DecidableEq, Repr

/-- A port record of R292, its fields in order. -/
structure PortRec where
  partner : Word16 := 0xFFFF#16
  flags : Byte := 0x01#8
  maxPayload : Byte := 0x01#8
  vlan : Word16 := 0
  udp : Word16 := 0xB8A6#16
  ownMac : BitVec 48
  hopMac : BitVec 48 := 0
  ownIp : BitVec 128 := 0
  partnerIp : BitVec 128 := 0
  dscp : Vector Byte 6 := #v[46#8, 40#8, 26#8, 26#8, 18#8, 10#8]
  ceKib : Nat := 256
  timeoutUs : Nat := 200
  deriving DecidableEq, Repr

/-- State of a logical port's link (R276 to R278, R430, R431). -/
inductive Link where
  | training | gating | up | retraining | down
  deriving DecidableEq, Repr

/-- A rate limiter of R289, in fractions of the line rate. -/
structure Limiter where
  rate : Rat := 1
  alpha : Rat := 1
  echoIn : Bool := false                   -- an echo arrived in the 50 us interval
  decreased : Bool := false                -- a decrease was made in the interval
  deriving DecidableEq, Repr

/-- A frame queued on a port, with the port record it leaves under (R292). -/
structure Queued where
  f : Kft
  rcd : PortRec
  sent : Nat := 0                          -- retransmissions of it from the retry buffer (R285)
  deriving DecidableEq, Repr

structure Port where
  rcd : PortRec
  present : Bool                           -- the logical port exists in the port mode (R274)
  link : Link := .training
  fkm : Bool := false                      -- cable partner is an FKM-3250
  gated : Bool := false                    -- gate passed, failed or timed out since power-on (R432)
  noGate : Bool := false                   -- retrained by a compute reset: comes up without the gate (R434)
  lanes : Byte := 0xFF#8                   -- lanes in use, physical numbering
  lost : Byte := 0                         -- lanes lost
  nextSeq : BitVec 24 := 0
  retry : List Queued := []                -- unacked frames, oldest first (R284)
  expect : BitVec 24 := 0                  -- next sequence in order
  unacked : Nat := 0                       -- frames received since the last ack
  heard : Bool := false                    -- a frame has been received in order
  nakSent : Bool := false                  -- a NAK for `expect` has been sent (R285)
  credits : Vector Nat 6                   -- units of 64 B held at the partner (R287)
  owed : Vector Nat 6 := Vector.replicate 6 0            -- units to return
  queues : Vector (List Queued) 6 := Vector.replicate 6 []  -- class queues (R286)
  wrr : Vector Nat 4 := #v[0, 0, 0, 0]     -- bytes of classes 2 to 5 sent in the round (R286)
  echoDue : Vector Bool 6 := Vector.replicate 6 false    -- R288
  limiters : Vector Limiter 6 := Vector.replicate 6 {}
  discovery : List Byte := []              -- last discovery payload (R294)
  discoveryAt : Nat := 0
  lldpChassis : List Byte := []
  lldpPort : Byte := 0
  deriving DecidableEq, Repr

/-- Who waits for a remote access (R298, R300). -/
inductive Owner where
  | hostRead (win n : Nat)
  | hostPart (win addr n id : Nat)         -- one of the requests that a longer host read takes (R295, R368)
  | hostWrite (win : Nat)
  | unit (who : Who)
  | relay (who : Who)                      -- a move between two other modules (R301)
  | dma (c : Cmd)
  | data (c : Cmd)                         -- data that a command names at another module (R383)
  | proxy (c : Cmd)                        -- host data of a squad member's command (R394)
  | igd (igd engine : Nat)
  | nobody
  deriving DecidableEq, Repr

/-- A request of this module awaiting its response (R298). -/
structure Txn where
  tid : Word32
  typ : Nat                                -- the request's frame type
  port : Fin 12
  node : Word16
  addr : Word64
  len : Nat
  owner : Owner
  deriving DecidableEq, Repr

/-- A bulk transfer this module sends or asked for (R301). -/
structure Bulk where
  tid : Word32
  node : Word16
  inward : Bool                            -- the source is remote
  src : Word64
  dst : Word64
  len : Nat
  acked : Nat                              -- bytes acknowledged, or received
  rest : Nat                               -- bytes of the move still to be asked for
  served : Bool                            -- a bulk read of another module that this one serves
  owner : Owner
  deriving DecidableEq, Repr

/-- IEEE 1588 state of the time-receiver port (R303, R304); times and intervals in units of 0.5 ns. -/
structure Ptp where
  reqSeq : Word16 := 0                     -- sequence of the last Sync and Delay_Req sent
  sequence : Word16 := 0
  t1 : Nat := 0
  t2 : Nat := 0
  t3 : Nat := 0
  delay : Int := 0
  offset : Int := 0
  deriving DecidableEq, Repr

/-- Who reads a view: another module by a frame, the host through a window, at a global address, or a command (R351). -/
inductive ViewReader where
  | frame (f : Kft)
  | window (win addr n : Nat)
  | command (c : Cmd) (addr n : Nat)
  deriving DecidableEq, Repr

/-- A read of a view that waits, with the step and the beat of its issue (R351). -/
structure ViewRead where
  by_ : ViewReader
  step : Word64
  beat : Nat
  deriving DecidableEq, Repr

structure Fabric where
  rcd : FabricRec := {}
  ports : Vector Port 12
  routes : List (Nat × Nat) := []          -- node id → egress, rising; unlisted 0xF (R293)
  nextTid : Word32 := 0
  txns : List Txn := []
  bulks : List Bulk := []
  arrivals : List (Nat × List Host.Cell) := []  -- data read remotely, per unit (R300)
  bulkIn : List (Word16 × Word32 × Nat) := []  -- source, transaction, bytes since the last bulk ack (R301)
  lateReads : List (Word16 × Word32) := [] -- bulk reads that ended before their data: node and transaction (R298)
  waiting : List ViewRead := []            -- reads of a view that wait for its sample (R351)
  heldCredits : List (Fin 12 × Nat × Nat) := []  -- credits of classes 2 to 4 held while the pool lacks space: port, class, units (R287)
  ptp : Ptp := {}
  deriving DecidableEq, Repr

/-! ### Ingest (R336 to R355) -/

/-- A queued or decoding sample: descriptor slot, step and b (R350). -/
structure Sample where
  slot : Nat
  step : Word64
  b : Nat
  deriving DecidableEq, Repr

structure Ingest where
  queues : Vector (List Sample) 2 := Vector.replicate 2 []
  engines : Vector (Option Sample) 32 := Vector.replicate 32 none
  fetching : List Nat := []                -- engines whose fetch failed and repeats (R340)
  complete : List Sample := []
  deriving DecidableEq, Repr

/-! ### Journal (R242, R243) -/

structure Inbound where
  source : Nat
  kind : Nat
  addr : Nat
  beat : Nat
  signals : Nat
  data : List Byte
  deriving DecidableEq, Repr

/-- A journal being replayed (R244): its command, the inbound entries not yet applied, the combined huddle record and the
digests to compare. -/
structure Replay where
  cmd : Cmd
  log : List Inbound
  huddle : Huddle
  digests : List (Nat × List Byte)
  deriving DecidableEq, Repr

structure Journal where
  armed : Option (Word64 × Word64 × Nat) := none   -- step, base, capacity
  recording : Bool := false
  signals : Nat := 0                       -- signals this module has sent in the step
  log : List Inbound := []
  image : List Byte := []                  -- sections of kinds 0 to 4 taken at the start of the step
  replay : Option Replay := none           -- R244
  deriving DecidableEq, Repr

/-! ### SPDM (R404, R405) -/

structure Spdm where
  version : Option Byte := none
  caps : Bool := false
  algs : Bool := false
  transcript : List Byte := []             -- VCA, then the messages signed
  draws : Nat := 0
  deriving DecidableEq, Repr

/-! ### Counts (R450, R481) -/

structure CountRec where
  id : Nat
  instance_ : Nat
  tensor : Nat
  cur : Nat
  last : Nat
  total : Nat
  deriving DecidableEq, Repr

/-- The whole block. -/
structure State where
  pending : List Instr
  freeIdx : Nat
  timebase : Nat
  power : Power
  flash : Flash
  fw : Firmware
  mbox : Mbox
  units : List UnitEntry
  mem : MemSys
  pstate : PState
  program : Option Program
  step : Word64
  seqs : List SeqUnit
  gates : List GateGroup
  beat : Beat
  scales : Scales
  versions : List VState
  reduce : Reduce
  side : List (Nat × Word64)               -- Row Engine records: engine × 2^20 + index (R171), rising
  fabric : Fabric
  ingest : Ingest
  journal : Journal
  spdm : Vector Spdm 2                     -- DOE, MCTP
  counts : List CountRec
  out : List Output
  deriving DecidableEq, Repr

/-- ASCII bytes of a profile name, padded to 16 (R422). -/
def profileName (s : List Nat) : List Byte :=
  (s.map (BitVec.ofNat 8)) ++ List.replicate (16 - s.length) 0

/-- The default profiles of R424. -/
def defaultProfiles : Vector Profile 4 :=
  #v[{ name := profileName [70, 85, 76, 76], capW := 2400, ceilMhz := 1500, ports := 0x00#8, coolantC := 45 },
     { name := profileName [83, 80, 76, 73, 84], capW := 2400, ceilMhz := 1500, ports := 0x3F#8, coolantC := 45 },
     { name := profileName [67, 65, 80, 80, 69, 68], capW := 1800, ceilMhz := 1200, ports := 0x00#8, coolantC := 45 },
     { name := profileName [76, 79, 87], capW := 1200, ceilMhz := 900, ports := 0x00#8, coolantC := 45 }]

/-- The image the module is taken to ship with (log 5): Rilut 3.2.0. -/
def factoryImage : Image :=
  { patch := 0#8, minor := 2#8, major := 3#8, keyIndex := 0, keyFloor := 0, secVersion := 0, settingsFormat := 3,
    digest := List.replicate 32 0, microcode := List.replicate 32 0 }

/-- Logical port `p` at reset (R274, R292): the record's reset values, own MAC base + p (R386). -/
def Port.reset (p : Nat) : Port :=
  { rcd := { ownMac := Config.baseMac + BitVec.ofNat 48 p }, present := decide (p < 6),
    credits := #v[1024, 1024, 4096, 4096, 4096, 4096] }

/-- The module before its 50 V input is applied: power Off, every register of R361 at its reset value, no program,
memory with nothing listed. -/
def State.reset : State :=
  { pending := []
    freeIdx := 0
    timebase := 0
    power := {}
    flash := { slots := #v[some factoryImage, none], profiles := defaultProfiles }
    fw := { image := factoryImage, profile := defaultProfiles[0] }
    mbox := {}
    units := []
    mem := {}
    pstate := .empty
    program := none
    step := 0
    seqs := []
    gates := []
    beat := {}
    scales := {}
    versions := []
    reduce := {}
    side := []
    fabric := { ports := Vector.ofFn fun p => Port.reset p.val }
    ingest := {}
    journal := {}
    spdm := #v[{}, {}]
    counts := []
    out := [] }

end Sys2Proof.Machine
end

