-- ==== Sys2Proof/Machine/Ops.lean ====
section
/-! DEFINITION. The named operations over the state that the meanings share: memory (R9, R11 to R13, R311 to R324,
R351), free values, counts (R450), frames and routes (R286, R293), events and completions (R376 to R382, R395), program
states and halting faults (R83, R201, R215). -/

namespace Sys2Proof.Machine

open Sys2Proof

/-! ### Byte stores -/

/-- What address `a` of a store reads as; an unlisted address reads 0 (log 2). -/
def readByte (m : Memory) (a : Nat) : Byte :=
  match m with
  | [] => 0
  | (k, v) :: rest => if k = a then v else if a < k then 0 else readByte rest a

/-- A store with byte `v` at `a`, in canonical form. -/
def writeByte (m : Memory) (a : Nat) (v : Byte) : Memory :=
  match m with
  | [] => if v = 0 then [] else [(a, v)]
  | (k, w) :: rest =>
    if k < a then (k, w) :: writeByte rest a v
    else if k = a then (if v = 0 then rest else (a, v) :: rest)
    else if v = 0 then (k, w) :: rest else (a, v) :: (k, w) :: rest

/-- Bytes a .. a + n − 1. -/
def readBytes (m : Memory) (a : Nat) : Nat → List Byte
  | 0 => []
  | n + 1 => readByte m a :: readBytes m (a + 1) n

def writeBytes (m : Memory) (a : Nat) : List Byte → Memory
  | [] => m
  | b :: bs => writeBytes (writeByte m a b) (a + 1) bs

/-- Every listed address lies at or above `lo`, addresses rise strictly and no listed byte is 0. -/
def wfFrom (lo : Nat) : Memory → Bool
  | [] => true
  | (k, v) :: rest => decide (lo ≤ k) && decide (v ≠ 0) && wfFrom (k + 1) rest

/-- The canonical form of a store. -/
def Memory.wf (m : Memory) : Bool := wfFrom 0 m

/-! ### Free values (log 3) -/

/-- The free value at the state's counter, and the state with the counter advanced. -/
def drawFree (s : State) : Nat × State := (Config.freeNat s.freeIdx, { s with freeIdx := s.freeIdx + 1 })

/-! ### Outputs and counts -/

def emit (s : State) (o : Output) : State := { s with out := s.out ++ [o] }

/-- Records rise by count id, instance and tensor number (R450). -/
def countKey (c : CountRec) : Nat := (c.id * 65536 + c.instance_) * 2 ^ 32 + c.tensor

def bumpIn (id inst tensor n : Nat) : List CountRec → List CountRec
  | [] => [{ id := id, instance_ := inst, tensor := tensor, cur := n, last := 0, total := n }]
  | c :: cs =>
    let k := (id * 65536 + inst) * 2 ^ 32 + tensor
    if k < countKey c then { id := id, instance_ := inst, tensor := tensor, cur := n, last := 0, total := n } :: c :: cs
    else if k = countKey c then
      { c with cur := min (c.cur + n) (2 ^ 64 - 1), total := min (c.total + n) (2 ^ 64 - 1) } :: cs
    else c :: bumpIn id inst tensor n cs

/-- Count `id` (R481) of an instance and tensor advanced by `n`; counts saturate (R164). -/
def bump (s : State) (id inst tensor n : Nat) : State :=
  if n = 0 then s else { s with counts := bumpIn id inst tensor n s.counts }

/-- Instance and tensor fields of a count kept per neither (R450). -/
def noInst : Nat := 0xFFFF
def noTensor : Nat := 0xFFFF_FFFF

/-! ### Node ids and the address (R11) -/

def nodeOf (addr : Nat) : Nat := bitsOf addr 48 16
def spaceOf (addr : Nat) : Nat := bitsOf addr 44 4
def offsetOf (addr : Nat) : Nat := bitsOf addr 0 44

/-- Whether a node field names this module (R11). -/
def isLocal (s : State) (node : Nat) : Bool :=
  node == 0xFFFF || (node == s.fabric.rcd.node.toNat && s.fabric.rcd.node != 0xFFFF#16)

/-! ### Units (R190, R311, R436) -/

def gradeFts : Grade → Nat
  | .a => 24 | .b => 21

def gradeBts : Grade → Nat
  | .a => 72 | .b => 63

/-- The entry of the unit that holds a logical number. -/
def holder (s : State) (unit : Nat) : Option UnitEntry :=
  s.units.find? fun u => decide (u.logical = some unit ∧ u.phys.kind ≤ 7 ∧ u.cond ≠ .failed)

/-- Whether a logical tile of a TD is filled: some tile holds its number (R428, R441). -/
def tileFilled (s : State) (unit : Nat) : Bool := (holder s unit).isSome

/-- Whether local code `c` names a logical tile of the grade (R190). -/
def tileCode (g : Grade) (c : Nat) : Bool :=
  decide (c < gradeFts g) || (decide (0x20 ≤ c) && decide (c < 0x20 + gradeBts g))

/-- Filled logical tiles of a kind on a TD. -/
def filledTiles (s : State) (td : Nat) (k : TileKind) : Nat :=
  let (lo, n) := match k with
    | .ft => (0, gradeFts s.flash.grade)
    | .bt => (0x20, gradeBts s.flash.grade)
  ((List.range n).filter fun i => tileFilled s (td * 256 + lo + i)).length

/-- The smallest filled count over the eight TDs (R437). -/
def providedTiles (s : State) (k : TileKind) : Nat :=
  ((List.range 8).map fun td => filledTiles s td k).foldl min (match k with
    | .ft => gradeFts s.flash.grade
    | .bt => gradeBts s.flash.grade)

/-! ### Address map (R311, R313, R322, R328, R351, R390) -/

/-- Group of a space 0x1 offset (R322). -/
def groupOf (off : Nat) : Nat := off / 1024 % 4

/-- Device, channel and device address of a space 0x1 offset (R322). -/
def dramMap (off : Nat) : Nat × Nat × Nat :=
  let t := off / 1024
  let g := t % 4
  let r := t / 4
  let slot := (r % 5 + 1 + off / 256 % 4) % 5
  (5 * g + slot, off / 64 % 4, r * 256 + off % 256)

/-- Device that holds the parity unit of a stripe (R322). -/
def parityDevice (stripe : Nat) : Nat := 5 * (stripe % 4) + stripe / 4 % 5

/-- Data unit `j` of a stripe (R322). -/
def dataUnit (m : Memory) (stripe j : Nat) : List Byte := readBytes m (1024 * stripe + 256 * j) 256

/-- Bytewise XOR of units. -/
def xorUnits (us : List (List Byte)) : List Byte :=
  us.foldl (fun a u => (a.zip u).map fun x => x.1 ^^^ x.2) (List.replicate 256 0)

/-- The parity unit of a stripe (R322). It is no stored byte of space 0x1: whatever writes a data unit writes it too
(R323, R327). -/
def parityUnit (m : Memory) (stripe : Nat) : List Byte := xorUnits ((List.range 4).map (dataUnit m stripe))

/-- A data unit as it is reconstructed: the XOR of the other three and the parity unit (R326). -/
def rebuiltUnit (m : Memory) (stripe j : Nat) : List Byte :=
  xorUnits (parityUnit m stripe :: ((List.range 4).filter (· != j)).map (dataUnit m stripe))

/-- The OSD and the partition of a space 0x0 offset in the OSD windows (R316). -/
def osdMap (off : Nat) : Nat × Nat :=
  let a := off % 0x6000_0000
  (2 * (off / 0x6000_0000) + bitsOf a 6 1, bitsOf a 7 8 ^^^ bitsOf a 15 8)

/-- Whether a range of space 0x0 lies in one OSD window or one populated tile window (R311, R313). -/
def sramPopulated (s : State) (off n : Nat) : Bool :=
  if off + n ≤ 0x003_0000_0000 then decide (off / 0x6000_0000 = (off + n - 1) / 0x6000_0000)
  else if 0x010_0000_0000 ≤ off ∧ off + n ≤ 0x010_8000_0000 then
    let o := off - 0x010_0000_0000
    let td := o / 0x1000_0000
    let c := o % 0x1000_0000 / 0x20_0000
    decide (o / 0x20_0000 = (o + n - 1) / 0x20_0000) && tileCode s.flash.grade c && tileFilled s (td * 256 + c)
  else false

/-- Whether every stripe of a space 0x1 range lies in a group still populated (R322, R328). -/
def dramPopulated (s : State) (off n : Nat) : Bool :=
  decide (off + n ≤ 0x80_0000_0000) &&
    (List.range (min 4 ((off + n - 1) / 1024 - off / 1024 + 1))).all fun i =>
      !(s.mem.groupGone.toList.getD (groupOf (off + 1024 * i)) false)

/-- Whether a range of space 0x2 lies in one IGD's buffer (R351). -/
def bufferPopulated (off n : Nat) : Bool :=
  decide (off + n ≤ 0x000_1800_0000) || (decide (0x000_2000_0000 ≤ off) && decide (off + n ≤ 0x000_3800_0000))

/-- Whether the compute units are in a compute reset, that of an activation included (R309, R416, R433). -/
def inReset (s : State) : Bool := s.mbox.module == .computeReset || s.mbox.module == .activation

/-- What an access got: bytes, a status of R298, or a wait for a sample (R351). -/
inductive Got where
  | bytes (b : List Byte)
  | fail (status : Nat)
  | wait
  deriving DecidableEq, Repr

/-- The ingest descriptor slot, ring offset and sample stride behind a view (R347, R349, R351): the fields are read from
the loaded program's descriptor of that view. -/
def viewDesc (s : State) (v : Nat) : Option (Nat × List Byte) :=
  match s.program with
  | none => none
  | some p =>
    let c := (p.kinds.zip p.descs).zipIdx.find? fun x => x.1.1 == DescKind.ingest && field x.1.2 28 1 == v
    c.map fun x => (x.2, x.1.2)

/-- Bytes of one sample: tensor rounded up to 64, then its record (R347). -/
def sampleStride (d : List Byte) : Nat :=
  let shape := field d 40 1
  let c := bitsOf shape 4 2 + 1
  let w := if bitsOf shape 6 2 = 0 then 2 else 1
  let elems := field d 30 1 * (field d 34 2 * field d 36 2) * c
  roundUp 64 (elems * w) + 64

/-- Offset in space 0x2 of sample b of a step in a descriptor's ring (R349). -/
def sampleBase (s : State) (d : List Byte) (step b : Nat) : Nat :=
  let r := (s.program.map (·.hdr.runAhead)).getD 1
  field d 29 1 * 0x2000_0000 + field d 8 8 +
    (step % (r + 1) * field d 32 1 + (b - field d 31 1)) * sampleStride d

/-- Where an access issued in a step to a view lands (R351): none for an address error, otherwise the buffer offset and
whether every sample it touches is complete. A view's samples follow one another, so a range may span several. -/
def viewPlaceAt (s : State) (step : Word64) (off n : Nat) : Option (Nat × Bool) :=
  if off < 0x008_0000_0000 then none
  else
    let v := (off - 0x008_0000_0000) / 0x4000_0000
    let o := (off - 0x008_0000_0000) % 0x4000_0000
    match viewDesc s v with
    | none => none
    | some (slot, d) =>
      let st := sampleStride d
      if field d 32 1 * st < o + n ∨ n = 0 then none
      else
        let b := field d 31 1 + o / st
        let done := (List.range ((o + n - 1) / st - o / st + 1)).all fun i =>
          s.ingest.complete.any fun x => x.slot == slot && x.step == step && x.b == b + i
        some (sampleBase s d step.toNat b + o % st, done)

/-- An access issued now. -/
def viewPlace (s : State) (off n : Nat) : Option (Nat × Bool) := viewPlaceAt s s.step off n

/-- The IGD whose view a space 0x2 offset lies in. -/
def igdOfView (s : State) (off : Nat) : Nat :=
  ((viewDesc s ((off - 0x008_0000_0000) / 0x4000_0000)).map (fun d => field d.2 29 1)).getD 0

/-- Whether a range of space 0x0 touches a line whose bytes are lost: the module does not deliver them (R319; the status of
such a read is a DESIGN CHOICE, log 107). -/
def lineLost (s : State) (off n : Nat) : Bool :=
  s.mem.lostLines.any fun l => decide (l < off + n) && decide (off < l + 64)

/-- A read of this module's memory at a space and offset, issued in a step: data, or a status of R298 (R13, R309, R320,
R351). -/
def readLocalAt (s : State) (step : Word64) (space off n : Nat) : Got :=
  match space with
  | 0 =>
    if s.mem.retention then .fail 1
    else if inReset s then .fail 2
    else if sramPopulated s off n && !lineLost s off n then .bytes (readBytes s.mem.sram off n) else .fail 1
  | 1 => if !s.mem.retention && dramPopulated s off n then .bytes (readBytes s.mem.dram off n) else .fail 1
  | 2 =>
    if s.mem.retention then .fail 1
    else if inReset s then .fail 2
    else if bufferPopulated off n then .bytes (readBytes s.mem.buffers off n)
    else match viewPlaceAt s step off n with
      | none => .fail 1
      | some (a, done) => if done then .bytes (readBytes s.mem.buffers a n) else .wait
  | _ => .fail 1

/-- A read issued now. -/
def readLocal (s : State) (space off n : Nat) : Got := readLocalAt s s.step space off n

/-! ### Frames and routes (R282, R283, R286, R291, R293) -/

/-- A frame put on a class queue of a logical port (R286). -/
def enqueue (s : State) (p : Fin 12) (f : Kft) : State :=
  let q := s.fabric.ports[p]
  let c := f.cls.toNat
  let queues := q.queues.toList.zipIdx.map fun x => if x.2 = c then x.1 ++ [{ f := f, rcd := q.rcd }] else x.1
  let q' := { q with queues := Vector.ofFn fun i => queues.getD i [] }
  { s with fabric := { s.fabric with ports := s.fabric.ports.set p q' } }

/-- The route of a node id: 0xF when unlisted (R293). -/
def routeOf (s : State) (node : Nat) : Nat := ((s.fabric.routes.find? fun r => r.1 == node).map (·.2)).getD 0xF

/-- The egress port toward a node, when it is up (R293). -/
def egress (s : State) (node : Nat) : Option (Fin 12) :=
  let r := routeOf s node
  if h : r < 12 then
    (if s.fabric.ports[r].link = .up ∨ s.fabric.ports[r].link = .retraining then some ⟨r, h⟩ else none)
  else none

/-- Largest payload of a port, in bytes (R292). -/
def maxPayload (p : Port) : Nat :=
  match p.rcd.maxPayload.toNat with
  | 0 => 1024 | 1 => 4096 | _ => 8192

/-- The class of a frame type (R283). -/
def classOf (typ : Nat) : Option Nat :=
  match typ with
  | 0x01 => some 2 | 0x02 => some 3 | 0x03 => some 2 | 0x04 => some 3 | 0x05 => some 2 | 0x06 => some 3
  | 0x07 => some 1 | 0x08 => some 4 | 0x09 => some 4 | 0x0A => some 4 | 0x0B => some 5 | 0x0C => some 0
  | 0x0D => some 1 | 0x0E => some 1 | 0x0F => some 1 | 0x10 => some 1 | _ => none

/-- A frame of this module, 15 hops left, before a port gives it its link fields (R282). -/
def mkFrame (s : State) (typ dst status len tid : Nat) (arg : Word64) (payload : List Byte) : Kft :=
  { cls := BitVec.ofNat 3 ((classOf typ).getD 0), typ := BitVec.ofNat 8 typ, src := s.fabric.rcd.node,
    dst := BitVec.ofNat 16 dst, hops := 15, flags := 0, seq := 0, status := BitVec.ofNat 8 status, ack := 0,
    credit := 0, grant := 0, len := BitVec.ofNat 16 len, tid := BitVec.ofNat 32 tid, arg := arg, payload := payload, ce := false }

/-- A frame sent toward its destination node; dropped when there is no route or no node id (R291, R293). -/
def sendFrame (s : State) (f : Kft) : State :=
  if s.fabric.rcd.node = 0xFFFF#16 then s
  else match egress s f.dst.toNat with
    | none => s
    | some p => enqueue s p f

/-- A frame put on a port toward its link partner (whistle, huddle, reduction, link control). -/
def sendOn (s : State) (p : Fin 12) (f : Kft) : State :=
  if s.fabric.rcd.node = 0xFFFF#16 ∧ f.typ ≠ 0x0F#8 then s
  else if s.fabric.ports[p].link = .up ∨ s.fabric.ports[p].link = .retraining then enqueue s p f else s

/-- A link-control frame (R283): subtype and sequence. -/
def linkFrame (s : State) (p : Fin 12) (subtype seq : Nat) (flags : Byte) : Kft :=
  { mkFrame s 0x0F (s.fabric.ports[p].rcd.partner.toNat) 0 8 0 0
      ([BitVec.ofNat 8 subtype] ++ leBytes 3 seq ++ List.replicate 4 0) with flags := flags }

def linkControl (s : State) (p : Fin 12) (subtype seq : Nat) (flags : Byte) : State :=
  sendOn s p (linkFrame s p subtype seq flags)

/-! ### Events (R376 to R382, R395) -/

/-- Packed little-endian fields (width in bytes, value), zero-filled to 24 bytes (R378). -/
def packed (fs : List (Nat × Nat)) : List Byte := padTo 24 (fs.flatMap fun f => leBytes f.1 f.2)

/-- The 32 bytes of an event entry with a phase bit (R377). -/
def entryBytes (e : Event) (phase : Bool) : List Byte :=
  leBytes 2 e.code ++ [BitVec.ofNat 8 ((if phase then 1 else 0) + (if e.lost then 2 else 0)), BitVec.ofNat 8 e.ring] ++
    leBytes 2 e.source.toNat ++ leBytes 2 e.seq.toNat ++ padTo 24 e.payload

/-- Event class: bits [15:8] of the code (R361). -/
def eventClass (code : Nat) : Nat := bitsOf code 8 8

/-- Whether a class is masked; class 0x00 never is (R382). -/
def masked (s : State) (code : Nat) : Bool :=
  let c := eventClass code
  c != 0 && decide (c < 64) && s.mbox.evtMask.getLsbD c

/-- An interrupt on a vector: sent, or left pending while the function's or the table entry's mask bit is set, and not sent while
MSI-X is disabled; `left` of the vector's events await a further one (R356, R382; log 111). -/
def interrupt (s : State) (v left : Nat) : State :=
  let s := { s with mbox := { s.mbox with sinceIrq := Vector.ofFn fun i => if i.val = v then left else s.mbox.sinceIrq[i] } }
  if !s.mbox.pcie.msixEnable then s
  else if s.mbox.pcie.msixMask || (s.mbox.msix.toList.getD v 0).getLsbD 96 then
    { s with mbox := { s.mbox with msixPba := s.mbox.msixPba ||| (1#64 <<< v) } }
  else emit s (.interrupt v)

/-- Whether the event ring is full: (INDEX + 1) mod SIZE = EQ_HEAD (R376). -/
def ringFull (s : State) : Bool :=
  let size := s.mbox.ringSize[4].toNat
  size == 0 || (s.mbox.ringHead[4].toNat + 1) % size == s.mbox.eqHead.toNat

/-- An entry written at RING_HEAD[4], the phase changed at a wrap, and the vector's count advanced (R376, R382). -/
def writeEntry (s : State) (e : Event) : State :=
  let m := s.mbox
  let size := m.ringSize[4].toNat
  let i := m.ringHead[4].toNat
  let lost := m.lostSources.contains e.source
  let e := { e with lost := e.lost || lost }
  let s := emit s (.hostWrite (m.ringBase[4] + BitVec.ofNat 64 (32 * i)) (entryBytes e m.phase))
  let wrap := decide (size ≤ i + 1)
  let v := (m.evtVec.toList.getD (eventClass e.code) 0).toNat
  let n := m.sinceIrq.toList.getD v 0 + 1
  let s := { s with mbox := { m with
    ringHead := m.ringHead.set 4 (if wrap then 0 else BitVec.ofNat 12 (i + 1))
    phase := if wrap then !m.phase else m.phase
    lostSources := m.lostSources.filter (· != e.source)
    sinceIrq := Vector.ofFn fun j => if j.val = v then n else m.sinceIrq[j] } }
  s

/-- An event that cannot be written now is kept, up to 256, or discarded and counted (R380, R381); one of a masked class is not
counted as lost (R382). -/
def keepEvent (s : State) (e : Event) : State :=
  if s.mbox.kept.length < 256 then { s with mbox := { s.mbox with kept := s.mbox.kept ++ [e] } }
  else if masked s e.code then s
  else
    let m := s.mbox
    let s := { s with mbox := { m with
      lostCount := m.lostCount + 1
      lostFirst := if m.lostCount = 0 then e.seq else m.lostFirst
      lostSources := if m.lostSources.contains e.source then m.lostSources else m.lostSources ++ [e.source] } }
    bump s 0x0E01 noInst noTensor 1

/-- Whether this module is a squad member of another captain (R392). -/
def isMember (s : State) : Bool :=
  s.fabric.rcd.captain != 0xFFFF#16 && s.fabric.rcd.captain != s.fabric.rcd.node

/-- A proxy frame of events or completions toward the captain (R394, R395). -/
def proxyEvents (s : State) (es : List Event) : State :=
  let body := es.flatMap fun e => entryBytes e false
  sendFrame s (mkFrame s 0x10 s.fabric.rcd.captain.toNat 0 body.length 0 1 body)

/-- An event put into the event ring, or kept while it cannot be (R380 to R382). -/
def deliverEvent (s : State) (e : Event) : State :=
  if masked s e.code && s.mbox.ringOn[4] then s
  else if s.mbox.ringOn[4] && s.mbox.firstDue.isNone && s.mbox.kept.isEmpty && s.mbox.heldCompletions.isEmpty &&
      !ringFull s then writeEntry s e
  else keepEvent s e

/-- The module posts an event: it takes the next sequence number, masked or not (R377); a squad member sends it to its
captain (R395). A module whose MCP is stopped by a management fault posts none (R448). -/
def post (s : State) (code : Nat) (payload : List Byte) : State :=
  if s.mbox.module = .mgmtFault then s
  else
    let e : Event := { code := code, ring := 0xFF, source := 0xFFFF#16, seq := s.mbox.evtSeq, lost := false,
                       payload := payload }
    let s := { s with mbox := { s.mbox with evtSeq := s.mbox.evtSeq + 1 } }
    if isMember s then (if masked s code then s else proxyEvents s [e]) else deliverEvent s e

/-- The event ring takes the events-lost event, filtered by the mask as every event is (R380 to R382). -/
def writeLost (s : State) : State :=
  let e : Event := { code := 0x0E01, ring := 0xFF, source := 0xFFFF#16, seq := s.mbox.evtSeq, lost := false,
                     payload := packed [(4, s.mbox.lostCount), (4, s.mbox.lostFirst.toNat)] }
  let s := { s with mbox := { s.mbox with lostCount := 0, evtSeq := s.mbox.evtSeq + 1 } }
  if masked s e.code then s else writeEntry s e

/-- Held entries written while the ring has room: the entry due as the first, the events-lost event before what is held,
completions, then the kept events (R380, R381). `n` bounds the entries written. -/
def flushHeld : Nat → State → State
  | 0, s => s
  | n + 1, s =>
    if !s.mbox.ringOn[4] || ringFull s then s
    else match s.mbox.firstDue with
      | some e =>
        let s := { s with mbox := { s.mbox with firstDue := none } }
        flushHeld n (if masked s e.code then s else writeEntry s e)
      | none =>
        if s.mbox.lostCount ≠ 0 then flushHeld n (writeLost s)
        else match s.mbox.heldCompletions, s.mbox.kept with
          | c :: cs, _ => flushHeld n (writeEntry { s with mbox := { s.mbox with heldCompletions := cs } } c)
          | [], e :: es =>
            let s := { s with mbox := { s.mbox with kept := es } }
            flushHeld n (if masked s e.code then s else writeEntry s e)
          | [], [] => s

/-! ### Completions (R379, R394, R397) -/

/-- Payload of a completion (R379). -/
def completionPayload (c : Cmd) (status result v1 v2 : Nat) : List Byte :=
  packed [(4, c.tag.toNat), (1, status), (1, result), (2, c.opcode), (8, v1), (8, v2)]

/-- A completion entry. -/
def completionEvent (c : Cmd) (seq : Word16) (status result v1 v2 : Nat) : Event :=
  { code := 0x0001, ring := c.ring, source := 0xFFFF#16, seq := seq, lost := false,
    payload := completionPayload c status result v1 v2 }

/-- A completion entry written, or held while the ring is full (R380). -/
def deliverCompletion (s : State) (e : Event) : State :=
  if s.mbox.ringOn[4] && s.mbox.heldCompletions.isEmpty && !ringFull s then writeEntry s e
  else if s.mbox.ringOn[4] then { s with mbox := { s.mbox with heldCompletions := s.mbox.heldCompletions ++ [e] } }
  else keepEvent s e

/-- A command completes: its completion goes back by the path it came, unless a mailbox reset discarded it (R366). -/
def complete (s : State) (c : Cmd) (status result v1 v2 : Nat) : State :=
  let ex := s.mbox.executing.find? fun e => e.cmd == c
  let s := { s with mbox := { s.mbox with executing := s.mbox.executing.filter fun e => e.cmd != c } }
  if (ex.map (·.discard)).getD false then s
  else
    let e := completionEvent c s.mbox.evtSeq status result v1 v2
    let s := { s with mbox := { s.mbox with evtSeq := s.mbox.evtSeq + 1 } }
    match c.path with
    | .pcie => deliverCompletion s e
    | .proxy => proxyEvents s [e]
    | .smbus => emit s (.smbus (entryBytes e false))

def done (s : State) (c : Cmd) (status : Nat) : State := complete s c status 0 0 0

/-! ### The MPD write buffer (R323, R324) -/

/-- Bits lo .. lo + n − 1 set. -/
def maskRange (lo n : Nat) : Nat := (2 ^ n - 1) * 2 ^ lo

/-- The part of [off, off + n) inside stripe `t`, as a mask of its bytes. -/
def stripeMask (t off n : Nat) : Nat :=
  let a := max off (1024 * t)
  let b := min (off + n) (1024 * (t + 1))
  if a < b then maskRange (a - 1024 * t) (b - a) else 0

/-- Data units of a stripe that a mask touches. -/
def touchedUnits (mask : Nat) : Nat :=
  ((List.range 4).filter fun u => bitsOf mask (256 * u) 256 != 0).length

/-! ### Reads of LPDDR5X devices (R326, R327) -/

/-- Units on a device reconstructed from their stripe rows, counted with their times (R326, R327). -/
def reconstruct (s : State) (d n : Nat) : State :=
  if n = 0 then s
  else
    let old := (getAt s.mem.reconTimes d []).filter fun t => s.timebase < t + 10 ^ 9
    let s := { s with mem := { s.mem with reconTimes := setAt s.mem.reconTimes d (List.replicate n s.timebase ++ old) } }
    bump s 0x0C06 d noTensor n

def deviceLost (s : State) (d : Nat) : Bool := getAt s.mem.devLost d false

/-- Data units of [off, off + n) by the device that holds each. -/
def unitsOn (off n d : Nat) : Nat :=
  ((rangeFrom (off / 256) ((off + n - 1) / 256 - off / 256 + 1)).filter fun u => (dramMap (256 * u)).1 == d).length

/-- A read of space 0x1: every unit on a lost device is reconstructed (R327). -/
def chargeRead (s : State) (off n : Nat) : State :=
  if n = 0 then s
  else (List.range 20).foldl (fun s d => if deviceLost s d then reconstruct s d (unitsOn off n d) else s) s

/-- What the reads of units met on the devices (R326), `units` the units read on each: corrections of link ECC, at most 2
repeats of each of a unit's four bursts, and the units that a device in service flagged, or whose repeats failed,
reconstructed while the rest of their group is in service. -/
def deviceReads (s : State) (units : Nat → Nat) (rs : List DevRead) : State :=
  rs.foldl (fun s r =>
    let d := r.device.val
    let s := bump (bump s 0x0C04 d noTensor r.corrected) 0x0C05 d noTensor (min r.repeats (8 * units d))
    if (List.range 5).any fun k => deviceLost s (5 * (d / 5) + k) then s else reconstruct s d (min r.flagged (units d))) s

/-- A read of a global address charged where it is this module's space 0x1. -/
def chargeAt (s : State) (addr n : Nat) : State :=
  if isLocal s (nodeOf addr) ∧ spaceOf addr = 1 then chargeRead s (offsetOf addr) n else s

/-- An instance waits for a unit that is reconstructed (R327). -/
def markRebuilt (s : State) (w : Who) : State :=
  if s.beat.rebuilt.contains w then s else { s with beat := { s.beat with rebuilt := s.beat.rebuilt ++ [w] } }

/-! ### Stripes leaving the write buffer -/

/-- What waits for a stripe no longer does. -/
def Ending.without (e : Ending) (t : Nat) : Ending :=
  match e with
  | .command c ts => .command c (ts.filter (· != t))
  | .bulk n i ts => .bulk n i (ts.filter (· != t))

/-- The stripes that it waits for. -/
def Ending.stripes (e : Ending) : List Nat := match e with | .command _ ts => ts | .bulk _ _ ts => ts

/-- Held responses whose stripes have all left go out, and instances wait for them no longer (R191, R297, R324). -/
def releaseAcks (s : State) (t : Nat) : State :=
  let acks := s.mem.acks.map fun a => { a with stripes := a.stripes.filter (· != t) }
  let s := { s with
    mem := { s.mem with acks := acks.filter (fun a => !a.stripes.isEmpty), ends := s.mem.ends.map (·.without t) }
    seqs := s.seqs.map fun q =>
      { q with flight := q.flight.map fun f => { f with stripes := f.stripes.filter (· != t) } } }
  (acks.filter fun a => a.stripes.isEmpty).foldl (fun s a => match a.what with
    | .frame f => sendFrame s f
    | .output _ _ o => emit s o
    | .dma _ haddr data => emit s (.hostWrite haddr data true)) s

/-- A stripe leaves: in full-stripe mode when all 1 KiB is covered, otherwise each touched data unit by
read-modify-write, counted (R323), its old unit reconstructed first where its device is lost (R326, R327). -/
def flushStripe (s : State) (t : Nat) : State :=
  match s.mem.stripes.find? (·.number == t) with
  | none => s
  | some st =>
    let s := { s with mem := { s.mem with stripes := s.mem.stripes.filter (·.number != t) } }
    let s := if st.covered = 2 ^ 1024 - 1 then s
      else
        let old := (List.range 4).filter fun u => bitsOf st.covered (256 * u) 256 != 0
        let s := old.foldl (fun s u => chargeRead s (1024 * t + 256 * u) 1) s
        bump s 0x0C07 (t % 4) noTensor (touchedUnits st.covered)
    releaseAcks s t

/-- Stripes of [off, off + n) of space 0x1 that are still in the write buffer. -/
def stripesHeld (s : State) (space off n : Nat) : List Nat :=
  if space = 1 ∧ 0 < n then
    (s.mem.stripes.map (·.number)).filter fun t => decide (off / 1024 ≤ t) && decide (t ≤ (off + n - 1) / 1024)
  else []

/-- A response sent once the stripes of [off, off + n) that are still in the write buffer have left (R297, R324). -/
def ackWhenVisible (s : State) (space off n : Nat) (f : Kft) : State :=
  let held := stripesHeld s space off n
  if held.isEmpty then sendFrame s f
  else { s with mem := { s.mem with acks := s.mem.acks ++ [{ what := .frame f, stripes := held }] } }

/-- An output given once those stripes have left: the MPD completes the accesses to a stripe in arrival order (R324). -/
def outputWhenVisible (s : State) (space off n win addr : Nat) (o : Output) : State :=
  let held := stripesHeld s space off n
  if held.isEmpty then emit s o
  else { s with mem := { s.mem with acks := s.mem.acks ++ [{ what := .output win addr o, stripes := held }] } }

/-- A DMA's data, likewise; they stop with the command (R366, R385). -/
def toHostWhenVisible (s : State) (c : Cmd) (space off n haddr : Nat) (data : List Byte) : State :=
  let held := stripesHeld s space off n
  if held.isEmpty then emit s (.hostWrite (BitVec.ofNat 64 haddr) data true)
  else { s with mem := { s.mem with acks := s.mem.acks ++ [{ what := .dma c (BitVec.ofNat 64 haddr) data, stripes := held }] } }

/-- Something that ends once those stripes have left (R301, R388). -/
def endWhenVisible (s : State) (space off n : Nat) (e : List Nat → Ending) : State :=
  { s with mem := { s.mem with ends := s.mem.ends ++ [e (stripesHeld s space off n)] } }

/-- A stripe leaves before its 2 µs are over: what the reads of its read-modify-write meet is reported later (R323, R326; log
102). -/
def flushEarly (s : State) (st : Stripe) : State :=
  let s := if st.covered = 2 ^ 1024 - 1 then s else { s with mem := { s.mem with leftEarly := s.mem.leftEarly ++ [st] } }
  flushStripe s st.number

/-- The bytes of a write gathered in the buffer; a full stripe leaves at once, and the oldest stripe leaves when an MPD
would hold more than 256 (R323). -/
def gatherStripe (s : State) (t mask : Nat) : State :=
  let old := s.mem.stripes.find? (·.number == t)
  let m := (old.map (·.covered)).getD 0 ||| mask
  let st : Stripe := { number := t, covered := m }
  let stripes : List Stripe := match old with
    | some _ => s.mem.stripes.map fun x => if x.number = t then st else x
    | none => s.mem.stripes ++ [st]
  let s := { s with mem := { s.mem with stripes := stripes } }
  let mine := stripes.filter fun x => x.number % 4 == t % 4
  let s := match mine with
    | x :: _ => if 256 < mine.length then flushEarly s x else s
    | [] => s
  if m = 2 ^ 1024 - 1 then flushStripe s t else s

def gather (s : State) (off n : Nat) : State :=
  if n = 0 then s
  else (rangeFrom (off / 1024) ((off + n - 1) / 1024 - off / 1024 + 1)).foldl
    (fun s t => gatherStripe s t (stripeMask t off n)) s

/-- A write of this module's memory: the state after it, or a status (R13, R309, R320, R351). -/
def writeLocal (s : State) (space off : Nat) (data : List Byte) : Nat × State :=
  let n := data.length
  if s.mem.retention then (1, s)
  else match space with
  | 0 =>
    if inReset s then (2, s)
    else if sramPopulated s off n then
      (0, { s with mem := { s.mem with
        sram := writeBytes s.mem.sram off data
        lostLines := s.mem.lostLines.filter fun l => decide (l < off) || decide (off + n < l + 64) } })
    else (1, s)
  | 1 =>
    if dramPopulated s off n then
      (0, gather { s with mem := { s.mem with dram := writeBytes s.mem.dram off data } } off n)
    else (1, s)
  | 2 =>
    if inReset s then (2, s)
    else if bufferPopulated off n then
      (0, { s with mem := { s.mem with buffers := writeBytes s.mem.buffers off data } })
    else if (viewPlace s off n).isSome then (4, s)
    else (1, s)
  | _ => (1, s)

/-- A read of a global address: local memory, or what a remote read of this unit has brought (R300). -/
def readGlobal (s : State) (unit addr n : Nat) : Got :=
  if n = 0 then .bytes []
  else if isLocal s (nodeOf addr) then readLocal s (spaceOf addr) (offsetOf addr) n
  else match s.fabric.arrivals.find? (·.1 == unit) with
    | some (_, m) =>
      if (List.range n).all fun i => m.any fun c => c.1 == addr + i then
        .bytes ((List.range n).map fun i => ((m.find? fun c => c.1 == addr + i).map (·.2)).getD 0)
      else .wait
    | none => .wait

/-- Unit number of no unit, for reads and writes the MCP makes: no key of the arrivals of a unit, an engine or a command. -/
def mcpUnit : Nat := 0x10800

/-- The 64-byte lines of a range, cut to the range. -/
def linesOf (addr n : Nat) : List (Nat × Nat) :=
  if n = 0 then []
  else (rangeFrom (addr / 64) ((addr + n - 1) / 64 - addr / 64 + 1)).map fun t =>
    (max addr (64 * t), min (addr + n) (64 * (t + 1)) - max addr (64 * t))

/-- Bytes of a global address, a range across windows by its lines, 0 where the access fails: for readers that have checked
the access already. -/
def peek (s : State) (unit addr n : Nat) : List Byte :=
  match readGlobal s unit addr n with
  | .bytes b => b
  | _ => (linesOf addr n).flatMap fun l => match readGlobal s unit l.1 l.2 with
    | .bytes b => b
    | _ => List.replicate l.2 0

/-! ### Remote requests (R295, R298) -/

/-- A squad member cannot be reached: its proxied commands complete with status 0x09, those that it has run on there, and one
event is posted (R396). -/
def memberUnreachable (s : State) (node : Word16) : State :=
  if s.mbox.squad.contains node && !s.mbox.unreachable.contains node then
    let lost := s.mbox.proxied.filter (·.node == node)
    let s := { s with
      mbox := { s.mbox with
        unreachable := s.mbox.unreachable ++ [node]
        orphans := s.mbox.orphans ++ (lost.filter (·.stage == .forwarded)).map fun p => (node, p.cmd)
        proxied := s.mbox.proxied.filter (·.node != node) }
      fabric := { s.fabric with bulks := s.fabric.bulks.filter fun b => !(lost.any fun p => b.owner == .proxy p.cmd) } }
    let s := lost.foldl (fun s p => if p.discard then s else done s p.cmd 0x09) s
    post s 0x0E05 (packed [(2, node.toNat), (4, lost.length)])
  else s

/-- A request frame toward a node, registered as outstanding; with no way there it completes at once with status 3, and a
squad member is then out of reach (R396). -/
def request (s : State) (typ : Nat) (addr : Word64) (len : Nat) (payload : List Byte) (o : Owner) : Nat × State :=
  let node := nodeOf addr.toNat
  match (if s.fabric.rcd.node = 0xFFFF#16 then none else egress s node) with
  | none => (3, memberUnreachable s (BitVec.ofNat 16 node))
  | some p =>
    let tid := s.fabric.nextTid
    let f := mkFrame s typ node 0 len tid.toNat addr payload
    let s := enqueue s p f
    let t : Txn := { tid := tid, typ := typ, port := p, node := BitVec.ofNat 16 node, addr := addr, len := len, owner := o }
    (0, { s with fabric := { s.fabric with nextTid := tid + 1, txns := s.fabric.txns ++ [t] } })

/-- Pieces of a byte string of at most `k` bytes, with their offsets. -/
def pieces (k : Nat) : Nat → Nat → List Byte → List (Nat × List Byte)
  | 0, _, _ => []
  | f + 1, off, bs => if bs.isEmpty then [] else (off, bs.take k) :: pieces k f (off + k) (bs.drop k)

/-! ### Writes to other modules (R295, R296; DESIGN CHOICE, log 118) -/

/-- Payload of an atomic request. -/
def atomicPayload (op w v : Nat) : List Byte :=
  leBytes 1 op ++ leBytes 1 w ++ List.replicate 6 0 ++ leBytes 8 v ++ List.replicate 8 0

/-- Some bytes of one word, by two atomics: an AND that clears them and an OR that sets them. -/
def partWord (addr : Nat) (data : List Byte) : List (Nat × Nat × List Byte) :=
  if data.isEmpty then []
  else
    let lo := addr / 4 * 4
    let k := 8 * (addr - lo)
    [(5, lo, atomicPayload 1 4 (2 ^ 32 - 1 - maskRange k (8 * data.length))), (5, lo, atomicPayload 2 4 (leNat data * 2 ^ k))]

/-- The requests that write bytes at another module: frame type, address and payload of each. Whole words go by write requests
of at most `k` bytes, a word of which some bytes alone are written by atomics. -/
def remoteWrites (k addr : Nat) (data : List Byte) : List (Nat × Nat × List Byte) :=
  let head := min data.length ((4 - addr % 4) % 4)
  let rest := data.drop head
  let n := rest.length / 4 * 4
  partWord addr (data.take head) ++
    ((pieces k (n / k + 1) 0 (rest.take n)).map fun x => (3, addr + head + x.1, x.2)) ++
    partWord (addr + head + n) (rest.drop n)

/-- What a unit has fetched follows what it writes itself. -/
def ownWrite (s : State) (unit addr : Nat) (data : List Byte) : State :=
  { s with fabric := { s.fabric with arrivals := s.fabric.arrivals.map fun a =>
      if a.1 = unit then (a.1, a.2.map fun c =>
        if addr ≤ c.1 ∧ c.1 < addr + data.length then (c.1, data.getD (c.1 - addr) 0) else c) else a } }

/-- One more write, move or row that an issued instance waits for. -/
def addWaiting (s : State) (w : Who) (n : Nat) : State :=
  { s with seqs := s.seqs.map fun q =>
      if q.unit == w.unit then
        { q with flight := q.flight.map fun f =>
            if f.stream == w.stream && f.index == w.index && f.inst == w.inst then { f with waiting := f.waiting + n } else f }
      else q }

/-! ### Writes of instances (R191, R300) -/

/-- An instance's access failed: it does not complete, the module posts a remote-access-failed event, and the instance
holds its beat with cause 0x5 (R300). -/
def accessFailed (s : State) (w : Who) (status addr : Nat) : State :=
  let s := post s 0x0B05 (packed [(2, w.unit), (1, status), (8, addr)])
  if s.beat.stuck.any (·.1 == w) then s
  else { s with beat := { s.beat with stuck := s.beat.stuck ++ [(w, 5)] } }

/-- Whether a journal is replayed: the module's own traffic to the fabric is suppressed (R244). -/
def replaying (s : State) : Bool := s.journal.replay.isSome

/-- Whether the program's beats run: Running, or in a replay (R210, R244). -/
def live (s : State) : Bool := s.pstate == .running || replaying s

/-- Stripes that hold an instance's writes back from its signal (R191, R324). -/
def addStripes (s : State) (w : Who) (ts : List Nat) : State :=
  if ts.isEmpty then s
  else { s with seqs := s.seqs.map fun q =>
      if q.unit == w.unit then
        { q with flight := q.flight.map fun f =>
            if f.stream == w.stream && f.index == w.index && f.inst == w.inst then
              { f with stripes := f.stripes ++ ts.filter fun t => !f.stripes.contains t } else f }
      else q }

/-- A write or an atomic of an instance leaves for another module; the instance waits for its acknowledgment (R191, R295,
R296). -/
def sendWrite (w : Who) (s : State) (x : Nat × Nat × List Byte) : State :=
  let r := request s x.1 (BitVec.ofNat 64 x.2.1) x.2.2.length x.2.2 (.unit w)
  if r.1 = 0 then addWaiting r.2 w 1 else accessFailed r.2 w r.1 x.2.1

/-- A write to a global address by an instance: local at once, remote as requests of at most the smallest maximum payload,
for whose acknowledgments the instance waits (R191, R295). A failure is handled under R300. -/
def writeGlobal (s : State) (w : Who) (addr : Nat) (data : List Byte) : State :=
  if data.isEmpty then s
  else if isLocal s (nodeOf addr) then
    let (st, s) := writeLocal s (spaceOf addr) (offsetOf addr) data
    let s := if spaceOf addr = 0 ∧ st = 0 then
        { s with beat := { s.beat with writes := s.beat.writes ++
            [{ who := w, move := false, off := offsetOf addr, len := data.length, src := 0 }] } }
      else s
    if st = 0 then addStripes s w (stripesHeld s (spaceOf addr) (offsetOf addr) data.length) else accessFailed s w st addr
  else if replaying s then s
  else (remoteWrites 1024 addr data).foldl (sendWrite w) (ownWrite s w.unit addr data)

/-! ### Program states and faults (R83, R201, R213, R215, R240) -/

def pstateCode : PState → Nat
  | .empty => 0 | .loaded => 1 | .running => 2 | .paused => 3 | .halted => 4

/-- A change of program state, with the program-state event of R399 that shows `step`. The fields of an event that the
table of R378 gives no width take 4 bytes, an event code 2 (DEDUCED, log 94). -/
def setPStateAt (s : State) (new : PState) (cause step : Nat) : State :=
  let old := s.pstate
  post { s with pstate := new } 0x0E02 (packed [(4, pstateCode old), (4, pstateCode new), (4, step), (2, cause)])

def setPState (s : State) (new : PState) (cause : Nat) : State := setPStateAt s new cause s.step.toNat

/-- Credit units of 64 B of a frame: header, payload and trailer (R287). -/
def creditUnits (f : Kft) : Nat := ceilDiv (36 + f.payload.length) 64

/-- Reduction frames that wait for the tag window do so no longer: they are dropped, and their credits return (R261, R287). -/
def dropWithheld (s : State) : State :=
  s.reduce.withheld.foldl (fun s x =>
    let q := s.fabric.ports[x.port]
    let c := x.f.cls.toNat
    let q' := { q with owed := Vector.ofFn fun i => if i.val = c then q.owed[i] + creditUnits x.f else q.owed[i] }
    { s with fabric := { s.fabric with ports := s.fabric.ports.set x.port q' } })
    { s with reduce := { s.reduce with withheld := [] } }

/-- The program halts now: the halted event, Halted, and the halting and abort flags for later up frames (R306). No reduction
frame is withheld for it any longer (R287). -/
def haltProgram (s : State) (cause : Nat) : State :=
  if s.pstate = .running ∨ s.pstate = .paused then
    let s := dropWithheld s
    let s := post s 0x0808 (packed [(4, s.step.toNat), (2, s.beat.number), (2, cause)])
    let s := setPState s .halted cause
    { s with beat := { s.beat with halting := true, haltCause := none, pauseAt := none, pauseDue := false } }
  else s

/-- A halting fault: no huddle of the step, and the program halts at the end of the current beat (R83, R201, R231,
R319, R328). `bit` is its abort flag of R237. -/
def raiseFault (s : State) (cause bit : Nat) : State :=
  if live s then
    { s with beat := { s.beat with
        haltCause := some (s.beat.haltCause.getD cause)
        abortFlags := s.beat.abortFlags ||| (1#32 <<< bit) } }
  else s

/-- Block-format or stream-skew fault (R83, R452): the event pair, then the halt at the end of the beat. -/
def blockFault (s : State) (unit tensor b cause expected received : Nat) : State :=
  let code := if cause = 1 ∨ cause = 2 then 0x1010 else 0x1011
  let s := bump s (if cause = 1 ∨ cause = 2 then 0x1002 else 0x1003) (unit / 256) noTensor 1
  let s := post s code (packed [(4, tensor), (8, b), (1, cause), (2, unit)])
  let s := post s 0x1012 (packed [(8, expected), (8, received)])
  raiseFault s code 0

/-- Token fault (R201). -/
def tokenFault (s : State) (unit token case_ : Nat) : State :=
  raiseFault (post s 0x0804 (packed [(2, unit), (4, token), (4, case_)])) 0x0804 1

/-- Reduction fault (R262, R452). -/
def reductionFault (s : State) (cause tag segment port expected received : Nat) : State :=
  raiseFault (post s 0x0A03 (packed [(1, cause), (2, tag), (2, segment), (1, port), (8, expected), (8, received)]))
    0x0A03 0

/-! ### Pins and registers that are views (R361, R470) -/

def modCode : ModState → Nat
  | .powerOn => 0 | .bringUp => 1 | .ready => 2 | .computeReset => 3 | .bench => 4 | .activation => 5 | .mgmtFault => 6

/-- STATE (R361): MODULE, PROGRAM, MBOX_READY and CAPTAIN. -/
def stateReg (s : State) : Nat :=
  modCode s.mbox.module + 16 * pstateCode s.pstate +
    (if s.mbox.mcpUp && s.mbox.ringOn.toList.any id then 256 else 0) +
    (if s.mbox.squad.isEmpty then 0 else 512)

/-- DEV_ID (R361). -/
def devIdReg (s : State) : Nat := 0x3250 + (match s.flash.grade with | .a => 0xA | .b => 0xB) * 0x10000 + 0xB1 * 0x100000

/-- FW_VER (R361). -/
def fwVerReg (s : State) : Nat :=
  s.fw.image.patch.toNat + 256 * s.fw.image.minor.toNat + 65536 * s.fw.image.major.toNat

/-- STATUS_READY#: low while MODULE is 2 (R470). -/
def statusReadyPin (s : State) : Bool := s.mbox.module != .ready

/-- STATUS_FAULT#: low while MODULE is 6, or a thermal fault or a supply warning of R455 stands (R470; DEDUCED, log 21). -/
def statusFaultPin (s : State) : Bool :=
  !(s.mbox.module == .mgmtFault || s.power.thermalFault || s.power.warning)

/-- Own 8-byte view of the serial for event fields: the last 8 bytes (R378). -/
def serialBytes : List Byte := leBytes 16 Config.serial.toNat

end Sys2Proof.Machine
end

