-- ==== Sys2Proof/Machine/Num.lean ====
section
/-! DEFINITION. The number formats of R30 to R63 and R477: exact values of codes, exact arithmetic on values, and the one
rounding into a destination. A finite code's magnitude is its ordinal among the format's magnitudes, which is also its
magnitude field, so one rounding serves every format. -/

namespace Sys2Proof.Machine

/-! ### Formats as grids -/

/-- Significand bits of a normal value. -/
def precision : Fmt → Nat
  | .k16 => 8 | .k8f => 4 | .k8b => 3 | .b32 => 24 | .b16 => 11

/-- Exponent of the smallest subnormal (R33, R37, R38; R54's weights). -/
def quantum : Fmt → Int
  | .k16 => -133 | .k8f => -10 | .k8b => -17 | .b32 => -149 | .b16 => -24

/-- Magnitude field of the largest finite value (R33, R37, R38). -/
def maxOrd : Fmt → Nat
  | .k16 => 0x7F7F | .k8f => 0x7E | .k8b => 0x7E | .b32 => 0x7F7F_FFFF | .b16 => 0x7BFF

/-- Width of a code in bits. -/
def codeBits : Fmt → Nat
  | .k16 => 16 | .k8f => 8 | .k8b => 8 | .b32 => 32 | .b16 => 16

/-- Width of an element in bytes. -/
def fmtBytes (f : Fmt) : Nat := codeBits f / 8

/-- Canonical NaN (R31). -/
def nanCode : Fmt → Nat
  | .k16 => 0x7FC0 | .k8f => 0x7F | .k8b => 0x7F | .b32 => 0x7FC0_0000 | .b16 => 0x7E00

/-- Whether the format saturates and has no infinity (R37, R38, R56). -/
def saturates : Fmt → Bool
  | .k8f | .k8b => true
  | _ => false

/-- Magnitude `n × 2^x` of ordinal `o` on the grid of precision `p` and quantum `q`. -/
def ordMag (p : Nat) (q : Int) (o : Nat) : Nat × Int :=
  if o < 2 ^ p then (o, q)
  else
    let e := o / 2 ^ (p - 1) - 1
    (o - e * 2 ^ (p - 1), q + e)

/-- Value of a code (R33, R37, R38; binary32 and binary16 under IEEE 754-2019). -/
def decode (f : Fmt) (code : Nat) : Val :=
  let w := codeBits f
  let neg := bitAt code (w - 1)
  let o := code % 2 ^ (w - 1)
  if o ≤ maxOrd f then
    let (n, x) := ordMag (precision f) (quantum f) o
    .fin neg n x
  else if saturates f then .nan
  else if o = maxOrd f + 1 then .inf neg
  else .nan

/-- Exponent of the weight of the lowest significand bit of a code (R54). -/
def codeWeight (f : Fmt) (code : Nat) : Int :=
  (ordMag (precision f) (quantum f) (code % 2 ^ (codeBits f - 1))).2

/-! ### Exact values -/

/-- The signed significand of a finite value. -/
def signedMag (neg : Bool) (m : Nat) : Int := if neg then -(m : Int) else m

/-- Whether `m1 × 2^e1 ≤ m2 × 2^e2`. -/
def magLe (m1 : Nat) (e1 : Int) (m2 : Nat) (e2 : Int) : Bool :=
  let e := min e1 e2
  m1 * 2 ^ (e1 - e).toNat ≤ m2 * 2 ^ (e2 - e).toNat

def magLt (m1 : Nat) (e1 : Int) (m2 : Nat) (e2 : Int) : Bool := !magLe m2 e2 m1 e1

/-- A finite value from a signed significand; zero takes the sign given. -/
def ofInt (zeroNeg : Bool) (i : Int) (e : Int) : Val :=
  if i = 0 then .fin zeroNeg 0 e else .fin (i < 0) i.natAbs e

def Val.isNan : Val → Bool
  | .nan => true
  | _ => false

def Val.isFinite : Val → Bool
  | .fin .. => true
  | _ => false

def Val.isZero : Val → Bool
  | .fin _ 0 _ => true
  | _ => false

def Val.neg : Val → Val
  | .fin n m e => .fin (!n) m e
  | .inf n => .inf (!n)
  | .nan => .nan

def Val.abs : Val → Val
  | .fin _ m e => .fin false m e
  | .inf _ => .inf false
  | .nan => .nan

def Val.one : Val := .fin false 1 0
def Val.zero : Val := .fin false 0 0

/-- Exact product; infinity × 0 is NaN (R126, R477). -/
def Val.mul : Val → Val → Val
  | .fin n1 m1 e1, .fin n2 m2 e2 => .fin (n1 != n2) (m1 * m2) (e1 + e2)
  | .nan, _ => .nan
  | _, .nan => .nan
  | .inf n1, .inf n2 => .inf (n1 != n2)
  | .inf n1, .fin n2 m _ => if m = 0 then .nan else .inf (n1 != n2)
  | .fin n1 m _, .inf n2 => if m = 0 then .nan else .inf (n1 != n2)

/-- Exact sum; an exact zero is −0 when both terms are negative zeros, otherwise +0 (R477). -/
def Val.add : Val → Val → Val
  | .fin n1 m1 e1, .fin n2 m2 e2 =>
    let e := min e1 e2
    let i := signedMag n1 (m1 * 2 ^ (e1 - e).toNat) + signedMag n2 (m2 * 2 ^ (e2 - e).toNat)
    ofInt (m1 == 0 && m2 == 0 && n1 && n2) i e
  | .nan, _ => .nan
  | _, .nan => .nan
  | .inf n1, .inf n2 => if n1 = n2 then .inf n1 else .nan
  | .inf n, _ => .inf n
  | _, .inf n => .inf n

def Val.sub (a b : Val) : Val := a.add b.neg

/-- Exact sum in which a zero term keeps the other term as it is, with the weight of its lowest bit (R129). -/
def Val.addTerm (a b : Val) : Val :=
  match a, b with
  | .fin _ 0 _, .fin _ (_ + 1) _ => b
  | .fin _ (_ + 1) _, .fin _ 0 _ => a
  | _, _ => a.add b

/-- Exact comparison `a < b`; false when either is a NaN. -/
def Val.lt (a b : Val) : Bool :=
  match a, b with
  | .nan, _ => false
  | _, .nan => false
  | .inf n1, .inf n2 => n1 && !n2
  | .inf n, _ => n
  | _, .inf n => !n
  | .fin n1 m1 e1, .fin n2 m2 e2 =>
    let e := min e1 e2
    decide (signedMag n1 (m1 * 2 ^ (e1 - e).toNat) < signedMag n2 (m2 * 2 ^ (e2 - e).toNat))

def Val.eq (a b : Val) : Bool := !a.isNan && !b.isNan && !a.lt b && !b.lt a
def Val.le (a b : Val) : Bool := a.lt b || a.eq b
def Val.max (a b : Val) : Val := if a.lt b then b else a

/-- Exponent of the value's lowest held bit: the weight of an accumulator-held or decoded value (R54, R129). -/
def Val.weight : Val → Int
  | .fin _ _ e => e
  | _ => 0

/-- Twice-scaled multiplication by a power of two. -/
def Val.scale (v : Val) (k : Int) : Val :=
  match v with
  | .fin n m e => .fin n m (e + k)
  | v => v

/-! ### Rounding (R52 to R58) -/

/-- Bits `k` of R54: log2 of the spacing at the value over the weight `w` of the source's lowest bit. -/
def stochBits (p : Nat) (q : Int) (m : Nat) (e w : Int) : Nat :=
  let u := max q (Int.ofNat m.log2 + e - (p - 1 : Int))
  min (u - w).toNat 24

/-- Ordinal of the chosen neighbour of `m × 2^e` (m > 0) on the grid, `neg` its sign, `w` the source weight and `r` the
random bits (R52 to R54). -/
def roundOrd (p : Nat) (q : Int) (rnd : Rnd) (neg : Bool) (m : Nat) (e w : Int) (r : Nat) : Nat :=
  let u := max q (Int.ofNat m.log2 + e - (p - 1 : Int))
  let d := (u - e).toNat
  let n := if u ≤ e then m * 2 ^ (e - u).toNat else m / 2 ^ d
  let rem := if u ≤ e then 0 else m % 2 ^ d
  let lo := (u - q).toNat * 2 ^ (p - 1) + n
  if rem = 0 then lo
  else match rnd with
    | .nearestEven =>
      if 2 ^ (d - 1) < rem then lo + 1 else if rem = 2 ^ (d - 1) then lo + lo % 2 else lo
    | .towardZero => lo
    | .towardPos => if neg then lo else lo + 1
    | .towardNeg => if neg then lo + 1 else lo
    | .stochastic =>
      let k := min (u - w).toNat 24
      let t := if k ≤ d then rem / 2 ^ (d - k) else rem * 2 ^ (k - d)
      if 2 ^ k ≤ t + r % 2 ^ k then lo + 1 else lo

/-- The result of one conversion: the code, and what R62 and the IEEE flags of R48 say of it. -/
structure Conv where
  code : Nat
  saturated : Bool := false
  inexact : Bool := false
  overflow : Bool := false
  underflow : Bool := false
  deriving DecidableEq, Repr

/-- A magnitude ordinal with a sign as a code. -/
def signed (f : Fmt) (neg : Bool) (o : Nat) : Nat := o + (if neg then 2 ^ (codeBits f - 1) else 0)

/-- The code on overflow of a destination with infinities (R58). -/
def overflowOrd (f : Fmt) (rnd : Rnd) (neg : Bool) : Nat :=
  match rnd with
  | .nearestEven | .stochastic => maxOrd f + 1
  | .towardZero => maxOrd f
  | .towardPos => if neg then maxOrd f else maxOrd f + 1
  | .towardNeg => if neg then maxOrd f + 1 else maxOrd f

/-- Whether the value, rounded to `p` bits with an unbounded exponent range, lies below the smallest normal (R48:
tininess after rounding). A stochastic rounding takes the random bits 0 here, that is truncates (DESIGN CHOICE, log 98). -/
def tiny (p : Nat) (q : Int) (rnd : Rnd) (neg : Bool) (m : Nat) (e : Int) : Bool :=
  let q' := Int.ofNat m.log2 + e - (p - 1 : Int)
  let (n, x) := ordMag p q' (roundOrd p q' rnd neg m e e 0)
  magLt n x 1 (q + (p - 1 : Int))

/-- Conversion of an exact value into a scalar format: one rounding under R51 to R58, with source weight `w` and random
bits `r` for stochastic rounding. -/
def convertFull (f : Fmt) (rnd : Rnd) (w : Int) (r : Nat) (v : Val) : Conv :=
  match v with
  | .nan => { code := nanCode f }
  | .inf n =>
    if saturates f then { code := signed f n (maxOrd f), saturated := true }
    else { code := signed f n (maxOrd f + 1) }
  | .fin n 0 _ => { code := signed f n 0 }
  | .fin n m e =>
    let p := precision f
    let q := quantum f
    let (mm, mx) := ordMag p q (maxOrd f)
    if saturates f && magLt mm mx m e then
      { code := signed f n (maxOrd f), saturated := true, inexact := true, overflow := true }
    else
      let o := roundOrd p q rnd n m e w r
      if maxOrd f < o then
        { code := signed f n (overflowOrd f rnd n), inexact := true, overflow := true }
      else
        let (n', x') := ordMag p q o
        let inexact := !(magLe n' x' m e && magLe m e n' x')
        { code := signed f n o, inexact := inexact, underflow := inexact && tiny p q rnd n m e }

/-- The code of a conversion. -/
def convert (f : Fmt) (rnd : Rnd) (w : Int) (r : Nat) (v : Val) : Nat := (convertFull f rnd w r v).code

/-- Nearest-even into a scalar format. -/
def near (f : Fmt) (v : Val) : Nat := convert f .nearestEven 0 0 v

/-- A value rounded once to binary32 nearest-even (round32 of R165). -/
def round32 (v : Val) : Val := decode .b32 (near .b32 v)

/-- Random bits a conversion consumes (R54, R135): 0 when it is exact or saturates. -/
def drawsBits (f : Fmt) (v : Val) (w : Int) : Nat :=
  match v with
  | .fin _ (m + 1) e =>
    let (mm, mx) := ordMag (precision f) (quantum f) (maxOrd f)
    if saturates f && magLt mm mx (m + 1) e then 0 else stochBits (precision f) (quantum f) (m + 1) e w
  | _ => 0

/-- A non-negative magnitude rounded toward +∞ to K16 (R143, R250). -/
def amaxK16 (v : Val) : Nat := convert .k16 .towardPos 0 0 v.abs

/-! ### Block elements (R39 to R42, R65, R66) -/

def blockPrec : BFmt → Nat
  | .k4 => 2 | .k3 => 1 | .k2 => 1 | .bk8f => 4 | .bk8b => 3

def blockQuantum : BFmt → Int
  | .k4 => -1 | .k3 => 0 | .k2 => 0 | .bk8f => -10 | .bk8b => -17

/-- Magnitude field of the largest code magnitude Q. -/
def blockMaxOrd : BFmt → Nat
  | .k4 => 7 | .k3 => 3 | .k2 => 1 | .bk8f => 0x7E | .bk8b => 0x7E

/-- Element width w (R65). -/
def blockWidth : BFmt → Nat
  | .k4 => 4 | .k3 => 3 | .k2 => 2 | .bk8f => 8 | .bk8b => 8

/-- Slot size in bytes (R65). -/
def slotBytes (f : BFmt) : Nat := 4 * blockWidth f

/-- Whether the format has no escapes (R66). -/
def isBlocked : BFmt → Bool
  | .bk8f | .bk8b => true
  | _ => false

/-- Largest code magnitude Q (R65). -/
def blockQ : BFmt → Nat
  | .k4 => 6 | .k3 => 4 | .k2 => 1 | .bk8f => 224 | .bk8b => 49152

/-- Escape code (R40 to R42). -/
def escapeCode (f : BFmt) : Nat := 2 ^ (blockWidth f - 1)

/-- Block format of a format code (R80). -/
def bfmtOf : Nat → Option BFmt
  | 0 => some .k4 | 1 => some .k3 | 2 => some .k2 | 3 => some .bk8f | 4 => some .bk8b | _ => none

def bfmtCode : BFmt → Nat
  | .k4 => 0 | .k3 => 1 | .k2 => 2 | .bk8f => 3 | .bk8b => 4

/-- Value of an element code in a block of exponent field `s` (R39 to R42, R66); the escape is handled by the reader. -/
def blockDecode (f : BFmt) (s code : Nat) : Val :=
  let w := blockWidth f
  let sc : Int := (s : Int) - 127
  let neg := bitAt code (w - 1)
  let o := code % 2 ^ (w - 1)
  if f = .k2 then
    if code = 1 then .fin false 1 sc else if code = 3 then .fin true 1 sc else .fin false 0 sc
  else if isBlocked f && blockMaxOrd f < o then .nan
  else
    let (n, x) := ordMag (blockPrec f) (blockQuantum f) o
    .fin neg n (x + sc)

/-- An element code from a sign and a magnitude ordinal: a zero of a K4, K3 or K2 element is the positive zero code
(R32), K2's −1 is 0b11 (R42), and a blocked K8 code keeps its sign. -/
def blockCode (f : BFmt) (neg : Bool) (o : Nat) : Nat :=
  if f = .k2 then (if o = 0 then 0 else if neg then 3 else 1)
  else if !isBlocked f && o = 0 then 0
  else o + (if neg then 2 ^ (blockWidth f - 1) else 0)

/-- Whether a finite value saturates in a block of exponent `s` (R56). -/
def blockSaturates (f : BFmt) (s : Nat) (v : Val) : Bool :=
  match v with
  | .fin _ m e => magLt (blockQ f) ((s : Int) - 127) m e
  | _ => false

/-- Conversion of a value into an element code of a block of exponent field `s` (R51 to R57, R73). -/
def blockConvert (f : BFmt) (s : Nat) (rnd : Rnd) (w : Int) (r : Nat) (v : Val) : Nat :=
  match v with
  | .nan => if isBlocked f then 0x7F else 0
  | .inf n => blockCode f n (blockMaxOrd f)
  | .fin n 0 _ => blockCode f n 0
  | .fin n m e =>
    if blockSaturates f s v then blockCode f n (blockMaxOrd f)
    else
      let sc : Int := (s : Int) - 127
      blockCode f n (roundOrd (blockPrec f) (blockQuantum f) rnd n m (e - sc) (w - sc) r)

/-- The smallest `s` in 1 to 255 with `m ≤ q × 2^(s − 127)`, 255 when none (R69). -/
def fitFrom (m : Nat) (e : Int) (q : Nat) : Nat → Nat → Nat
  | 0, s => s
  | n + 1, s => if magLe m e q ((s : Int) - 127) then s else fitFrom m e q n (s + 1)

/-- fit_exponent of R69; +∞ runs to the end (R142). -/
def fitExponent (v : Val) (q : Nat) : Nat :=
  match v with
  | .fin _ m e => fitFrom m e q 254 1
  | _ => 255

/-! ### G16 (R44, R45, R54, R60) -/

/-- A G16 element in a segment of exponent E: its 16-bit code and whether the segment is flagged. R56 lists G16 among the
saturating destinations; a value too large is written 0 with the flag, as R60 says (DEDUCED, log 98). -/
def g16Encode (E : Nat) (w : Int) (r : Nat) (v : Val) : Nat × Bool :=
  match v with
  | .fin n m e =>
    if m = 0 then (0, false)
    else
      let u : Int := (E : Int) - 141
      if magLt 32767 u m e then (0, true)
      else
        let d := (u - e).toNat
        let lo := if u ≤ e then m * 2 ^ (e - u).toNat else m / 2 ^ d
        let rem := if u ≤ e then 0 else m % 2 ^ d
        let k := min (u - w).toNat 24
        let t := if k ≤ d then rem / 2 ^ (d - k) else rem * 2 ^ (k - d)
        let q := if rem = 0 then lo else if 2 ^ k ≤ t + r % 2 ^ k then lo + 1 else lo
        (if n then (65536 - q) % 65536 else q, false)
  | _ => (0, true)

/-- Random bits a G16 conversion consumes (R54). -/
def g16Draws (E : Nat) (w : Int) : Nat := min ((E : Int) - 141 - w).toNat 24

/-- A 16-bit two's-complement code as an integer. -/
def int16 (c : Nat) : Int := if c % 65536 < 32768 then (c % 65536 : Nat) else (c % 65536 : Nat) - 65536

/-- A 32-bit two's-complement code as an integer. -/
def int32 (c : Nat) : Int := (BitVec.ofNat 32 c).toInt

/-! ### Division and square root, correctly rounded (R48, R165) -/

/-- Integer square root, one bit a step. -/
def isqrtBits : Nat → Nat → Nat → Nat
  | 0, _, acc => acc
  | k + 1, n, acc =>
    let t := acc + 2 ^ k
    isqrtBits k n (if t * t ≤ n then t else acc)

def isqrt (n : Nat) : Nat := isqrtBits (n.log2 / 2 + 1) n 0

/-- A value whose single rounding to at most 60 bits equals that of a / b (b not zero): quotient bits and a sticky bit. -/
def quotient (m1 : Nat) (e1 : Int) (m2 : Nat) (e2 : Int) : Nat × Int :=
  let k := 96 + m2.log2
  let q := m1 * 2 ^ k / m2
  (2 * q + (if m1 * 2 ^ k % m2 = 0 then 0 else 1), e1 - e2 - k - 1)

/-- IEEE division with exact or sticky magnitude. -/
def Val.div : Val → Val → Val
  | .nan, _ => .nan
  | _, .nan => .nan
  | .inf _, .inf _ => .nan
  | .inf n1, .fin n2 _ _ => .inf (n1 != n2)
  | .fin n1 _ _, .inf n2 => .fin (n1 != n2) 0 0
  | .fin n1 m1 e1, .fin n2 m2 e2 =>
    if m2 = 0 then (if m1 = 0 then .nan else .inf (n1 != n2))
    else
      let (q, e) := quotient m1 e1 m2 e2
      .fin (n1 != n2) q e

/-- Square root with sticky magnitude; a negative non-zero operand gives NaN, −0 gives −0. -/
def Val.sqrt : Val → Val
  | .nan => .nan
  | .inf n => if n then .nan else .inf false
  | .fin n m e =>
    if m = 0 then .fin n 0 e
    else if n then .nan
    else
      let m' := if e % 2 = 0 then m else 2 * m
      let e' := if e % 2 = 0 then e else e - 1
      let big := m' * 2 ^ 160
      let s := isqrt big
      .fin false (2 * s + (if s * s = big then 0 else 1)) (e' / 2 - 81)

def div32 (a b : Val) : Val := round32 (a.div b)
def sqrt32 (a : Val) : Val := round32 a.sqrt
def recip32 (a : Val) : Val := div32 Val.one a

end Sys2Proof.Machine
end

