-- ==== Sys2Proof/Machine/Rand.lean ====
section
/-! DEFINITION. The random-bit generator of R132 to R134, keyed by the element's identity. -/

namespace Sys2Proof.Machine

/-- mix of R133. -/
def mix (h v : Word64) : Word64 :=
  let h := (h ^^^ v) * 0xB4F3_8E2D_61A7_C539#64
  let h := h ^^^ (h >>> 29)
  let h := h * 0x8C1D_72E5_3F9B_A4C7#64
  h ^^^ (h >>> 32)

/-- ca_init of R133. -/
def caInit (seed step : Word64) (stream : Nat) (tensor : Nat) (index : Nat) : Word64 :=
  let h := mix seed step
  let h := mix h (BitVec.ofNat 64 (stream * 2 ^ 32 + tensor))
  let h := mix h (BitVec.ofNat 64 index)
  if h = 0 then 1 else h

/-- One step of the automaton of R134: null boundaries, rule 150 where the mask bit is 1, rule 90 elsewhere. -/
def caStep (s : Word64) : Word64 :=
  (s <<< 1) ^^^ (s >>> 1) ^^^ (0x9A3C_5E71_D2B8_0F46#64 &&& s)

/-- The cells after the 4 steps of R134. -/
def caBits (h : Word64) : Word64 := caStep (caStep (caStep (caStep h)))

/-- The generator's key for one rounding site: program seed, step, stream and destination tensor (R132). -/
structure Key where
  seed : Word64
  step : Word64
  stream : Nat
  tensor : Nat
  deriving DecidableEq, Repr

/-- The random cells of element `index`; R54 takes the low k′ of them. -/
def drawBits (k : Key) (index : Nat) : Nat := (caBits (caInit k.seed k.step k.stream k.tensor index)).toNat

end Sys2Proof.Machine
end

