-- ==== Sys2Proof/Machine/Operands.lean ====
section
/-! DEFINITION. Operand forms: the descriptors of the descriptor table as the spec lays them out, tensor layouts (R194,
R195), the matrices a product reads and writes (R478) and the fields of an instruction (R203). -/

namespace Sys2Proof.Machine

open Sys2Proof

/-! ### Rounding and format codes (R80, R130, R175, R206) -/

/-- Rounding field: 0 nearest-even, 1 toward zero, 2 stochastic. -/
def rndOf (c : Nat) : Rnd :=
  match c with
  | 1 => .towardZero
  | 2 => .stochastic
  | _ => .nearestEven

/-- Format byte of a plain tensor, a row operand or a non-block destination: 0 K16, 1 K8f, 2 K8b, 3 binary32. -/
def fmtOf (c : Nat) : Fmt :=
  match c with
  | 1 => .k8f
  | 2 => .k8b
  | 3 => .b32
  | _ => .k16

/-! ### Block tensor and plain tensor descriptors (R80, R206) -/

structure BlockDesc where
  data : Nat
  scale : Nat
  side : Nat
  dir : Nat
  n : Nat
  tensor : Nat
  fmt : Nat
  rank : Nat                               -- escape rank k
  threshold : Nat
  capacity : Nat                           -- span capacity S
  rule : Nat                               -- byte [46]
  deriving DecidableEq, Repr

def parseBlock (d : List Byte) : BlockDesc :=
  { data := field d 0 8, scale := field d 8 8, side := field d 16 8, dir := field d 24 8, n := field d 32 4,
    tensor := field d 36 4, fmt := field d 40 1, rank := field d 41 1, threshold := field d 42 2,
    capacity := field d 44 2, rule := field d 46 1 }

def BlockDesc.bfmt (d : BlockDesc) : BFmt := (bfmtOf d.fmt).getD .k4
def BlockDesc.tracked (d : BlockDesc) : Bool := bitAt d.rule 0
def BlockDesc.rnd (d : BlockDesc) : Rnd := rndOf (bitsOf d.rule 1 2)

structure PlainDesc where
  base : Nat
  tensor : Nat
  fmt : Nat
  deriving DecidableEq, Repr

def parsePlain (d : List Byte) : PlainDesc := { base := field d 0 8, tensor := field d 8 4, fmt := field d 12 1 }

/-! ### Output stage, product, fill gate and move (R111, R130, R205, R206) -/

structure OutDesc where
  dest : Nat
  scaleBase : Nat
  biasBase : Nat
  carryBase : Nat
  tensor : Nat
  clipLow : Nat
  clipHigh : Nat
  fmt : Nat
  control : Nat
  stream : Nat
  deriving DecidableEq, Repr

def parseOut (d : List Byte) : OutDesc :=
  { dest := field d 0 8, scaleBase := field d 8 8, biasBase := field d 16 8, carryBase := field d 24 8,
    tensor := field d 32 4, clipLow := field d 36 2, clipHigh := field d 38 2, fmt := field d 40 1,
    control := field d 41 1, stream := field d 42 2 }

/-- Channel axis: output row when set. -/
def OutDesc.rowChannel (d : OutDesc) : Bool := bitAt d.control 0
def OutDesc.rnd (d : OutDesc) : Rnd := rndOf (bitsOf d.control 1 2)
/-- Block axis: along the output column when set. -/
def OutDesc.columnBlocks (d : OutDesc) : Bool := bitAt d.control 3

structure ProductDesc where
  a : Nat
  b : Nat
  out : Nat
  gate : Nat
  layoutA : Nat
  layoutB : Nat
  layoutOut : Nat
  orders : Nat
  instBase : Nat
  firstK : Nat
  kBlocks : Nat
  rows : Nat
  columns : Nat
  deriving DecidableEq, Repr

def parseProduct (d : List Byte) : ProductDesc :=
  { a := field d 0 2, b := field d 2 2, out := field d 4 2, gate := field d 6 2, layoutA := field d 8 2,
    layoutB := field d 10 2, layoutOut := field d 12 2, orders := field d 14 1, instBase := field d 15 1,
    firstK := field d 16 4, kBlocks := field d 20 4, rows := field d 24 4, columns := field d 28 4 }

def ProductDesc.aColumn (d : ProductDesc) : Bool := bitAt d.orders 0
def ProductDesc.bColumn (d : ProductDesc) : Bool := bitAt d.orders 1
/-- Column groups G of R205. -/
def ProductDesc.groups (d : ProductDesc) : Nat := ceilDiv d.columns 32
/-- Passes of the product. -/
def ProductDesc.passes (d : ProductDesc) : Nat := ceilDiv d.rows 32 * d.groups

structure GateDesc where
  waitNs : Nat
  flushNs : Nat
  group : Nat
  deriving DecidableEq, Repr

def parseGate (d : List Byte) : GateDesc := { waitNs := field d 0 4, flushNs := field d 4 4, group := field d 8 1 }

structure MoveDesc where
  src : Nat
  dst : Nat
  len : Nat
  deriving DecidableEq, Repr

def parseMove (d : List Byte) : MoveDesc := { src := field d 0 8, dst := field d 8 8, len := field d 16 8 }

/-! ### Trackers and layers (R148, R161) -/

structure TrackDesc where
  tensor : Nat
  history : Nat
  headBits : Nat
  headSteps : Nat
  replica : Nat
  margin : Nat
  refit : Nat
  positions : Nat
  bump : Nat
  deriving DecidableEq, Repr

def parseTrack (d : List Byte) : TrackDesc :=
  { tensor := field d 0 4, history := field d 4 1, headBits := field d 5 1, headSteps := field d 6 1,
    replica := field d 7 1, margin := field d 8 2, refit := field d 10 2, positions := field d 12 4, bump := field d 16 8 }

structure LayerDesc where
  layer : Nat
  weight : Nat
  output : Nat
  floor : Nat
  ceil : Nat
  initial : Nat
  flags : Nat
  eHi : Nat
  eLo : Nat
  sHi : Nat
  sLo : Nat
  errMax : Nat
  uNar : Nat
  stallFloor : Nat
  stallSteps : Nat
  window : Nat
  dwell : Nat
  shard : Nat
  replica : Nat
  record : Nat
  channels : Nat
  entries : Nat
  deriving DecidableEq, Repr

def parseLayer (d : List Byte) : LayerDesc :=
  { layer := field d 0 4, weight := field d 4 4, output := field d 8 4, floor := field d 12 1, ceil := field d 13 1,
    initial := field d 14 1, flags := field d 15 1, eHi := field d 16 2, eLo := field d 18 2, sHi := field d 20 2,
    sLo := field d 22 2, errMax := field d 24 2, uNar := field d 26 2, stallFloor := field d 28 2,
    stallSteps := field d 30 2, window := field d 32 2, dwell := field d 34 2, shard := field d 36 2,
    replica := field d 38 1, record := field d 40 8, channels := field d 48 8, entries := field d 56 2 }

/-! ### Row operations, checkpoints, tie groups (R175, R180, R187) -/

structure RowDesc where
  src : Nat
  grad : Nat
  affine : Nat
  dst : Nat
  paramGrad : Nat
  rows : Nat
  n : Nat
  tensor : Nat
  record : Nat
  stream : Nat
  eps : Nat                                -- epsilon or temperature
  mask : Nat
  op : Nat
  maskMode : Nat
  opReserved : Nat
  formats : Nat
  deriving DecidableEq, Repr

def parseRow (d : List Byte) : RowDesc :=
  { src := field d 0 8, grad := field d 8 8, affine := field d 16 8, dst := field d 24 8, paramGrad := field d 32 8,
    rows := field d 40 4, n := field d 44 4, tensor := field d 48 4, record := field d 52 4, stream := field d 56 2,
    eps := field d 58 2, mask := field d 60 2, op := bitsOf (field d 62 1) 0 4, maskMode := bitsOf (field d 62 1) 4 2,
    opReserved := bitsOf (field d 62 1) 6 2, formats := field d 63 1 }

def RowDesc.srcFmt (d : RowDesc) : Fmt := fmtOf (bitsOf d.formats 0 2)
def RowDesc.dstFmt (d : RowDesc) : Fmt := fmtOf (bitsOf d.formats 2 2)
def RowDesc.rnd (d : RowDesc) : Rnd := rndOf (bitsOf d.formats 4 2)
def RowDesc.keep (d : RowDesc) : Bool := bitAt d.formats 6
def RowDesc.chain (d : RowDesc) : Bool := bitAt d.formats 7

structure CkptDesc where
  src : Nat
  base : Nat
  count : Nat
  tensor : Nat
  fmt : Nat                                -- 0 K8f, 1 K16
  mode : Nat
  threshold : Nat
  deriving DecidableEq, Repr

def parseCkpt (d : List Byte) : CkptDesc :=
  { src := field d 0 8, base := field d 8 8, count := field d 16 8, tensor := field d 24 4, fmt := field d 28 1,
    mode := field d 29 1, threshold := field d 30 2 }

def CkptDesc.segments (d : CkptDesc) : Nat := ceilDiv d.count 8192

/-- The K4 block tensor of a narrowed checkpoint (R183). -/
def CkptDesc.narrowed (d : CkptDesc) : BlockDesc :=
  let scale := d.base + roundUp 64 (d.count / 2)
  let dir := scale + roundUp 64 (d.count / 16)
  { data := d.base, scale := scale, dir := dir, side := dir + roundUp 64 (8 * d.segments), n := d.count / 32,
    tensor := d.tensor, fmt := bfmtCode .k4, rank := 8, threshold := d.threshold, capacity := 1792, rule := 0 }

/-- The same block tensor where a load puts it: at the source base, its regions in their order (R178, R183; log 37). -/
def CkptDesc.loaded (d : CkptDesc) : BlockDesc :=
  let b := d.narrowed
  let at_ (x : Nat) : Nat := x - d.base + d.src
  { b with data := at_ b.data, scale := at_ b.scale, dir := at_ b.dir, side := at_ b.side }

structure TieDesc where
  weight : Nat
  uses : Nat
  orient : Nat
  tensors : List Nat
  deriving DecidableEq, Repr

def parseTie (d : List Byte) : TieDesc :=
  { weight := field d 0 4, uses := field d 4 1, orient := field d 5 1,
    tensors := (List.range 8).map fun u => field d (8 + 4 * u) 4 }

/-! ### Update and version records (R228 to R230) -/

structure UpdateDesc where
  master : Nat
  grad : Nat
  m1 : Nat
  m2 : Nat
  fwd : Nat
  trans : Nat
  layer : Nat
  stream : Nat
  mode : Nat
  clipGroup : Nat
  rows : Nat
  count : Nat
  beta1 : Nat
  beta2 : Nat
  eps : Nat
  tau : Nat
  gs : Nat
  sched : Nat
  schedLen : Nat
  deriving DecidableEq, Repr

def parseUpdate (d : List Byte) : UpdateDesc :=
  { master := field d 0 2, grad := field d 2 2, m1 := field d 4 2, m2 := field d 6 2, fwd := field d 8 2,
    trans := field d 10 2, layer := field d 12 2, stream := field d 14 2, mode := field d 16 1, clipGroup := field d 17 1,
    rows := field d 18 2, count := field d 20 4, beta1 := field d 24 4, beta2 := field d 28 4, eps := field d 32 4,
    tau := field d 36 4, gs := field d 40 4, sched := field d 44 8, schedLen := field d 52 4 }

def UpdateDesc.kind (d : UpdateDesc) : Nat := bitsOf d.mode 0 2
def UpdateDesc.clipMode (d : UpdateDesc) : Nat := bitsOf d.mode 2 2
def UpdateDesc.gradTransposed (d : UpdateDesc) : Bool := bitAt d.mode 4
def UpdateDesc.columns (d : UpdateDesc) : Nat := d.count / d.rows

structure VersionDesc where
  slot0 : Nat
  slot1 : Nat
  tensor : Nat
  epochToken : Nat
  ref0 : Nat
  ref1 : Nat
  role : Nat
  fixed : Nat
  deriving DecidableEq, Repr

def parseVersion (d : List Byte) : VersionDesc :=
  { slot0 := field d 0 2, slot1 := field d 2 2, tensor := field d 4 4, epochToken := field d 8 1, ref0 := field d 9 1,
    ref1 := field d 10 1, role := field d 11 1, fixed := field d 12 1 }

def VersionDesc.slotDesc (d : VersionDesc) (i : Nat) : Nat := if i % 2 = 0 then d.slot0 else d.slot1
def VersionDesc.refToken (d : VersionDesc) (i : Nat) : Nat := if i % 2 = 0 then d.ref0 else d.ref1

/-! ### Buckets and ingest (R246, R346, R349) -/

structure BucketDesc where
  tensor : Nat
  tag : Nat
  plan : Nat
  history : Nat
  staging : Nat
  result : Nat
  grad : Nat
  segTable : Nat
  flags : Nat
  first : Nat
  count : Nat
  margin : Nat
  initial : Nat
  deriving DecidableEq, Repr

def parseBucket (d : List Byte) : BucketDesc :=
  { tensor := field d 0 4, tag := field d 4 2, plan := field d 6 1, history := field d 7 1, staging := field d 8 8,
    result := field d 16 8, grad := field d 24 8, segTable := field d 32 8, flags := field d 40 8, first := field d 48 4,
    count := field d 52 4, margin := field d 56 2, initial := field d 58 1 }

/-- Segments G of a bucket (R245). -/
def BucketDesc.segments (d : BucketDesc) : Nat := ceilDiv d.count 256

structure IngestDesc where
  catalogue : Nat
  ring : Nat
  key : Word64
  entries : Nat
  view : Nat
  igd : Nat
  frames : Nat
  b0 : Nat
  bs : Nat
  b : Nat
  wo : Nat
  ho : Nat
  pw : Nat
  ph : Nat
  shape : Nat
  colour : Nat
  replica : Nat
  digest : Nat
  store : Nat
  deriving DecidableEq, Repr

def parseIngest (d : List Byte) : IngestDesc :=
  { catalogue := field d 0 8, ring := field d 8 8, key := BitVec.ofNat 64 (field d 16 8), entries := field d 24 4,
    view := field d 28 1, igd := field d 29 1, frames := field d 30 1, b0 := field d 31 1, bs := field d 32 1,
    b := field d 33 1, wo := field d 34 2, ho := field d 36 2, pw := field d 38 1, ph := field d 39 1,
    shape := field d 40 1, colour := field d 41 2, replica := field d 43 1, digest := field d 44 8, store := field d 52 4 }

def IngestDesc.fx (d : IngestDesc) : Nat := 2 ^ bitsOf d.shape 0 2
def IngestDesc.fy (d : IngestDesc) : Nat := 2 ^ bitsOf d.shape 2 2
def IngestDesc.channels (d : IngestDesc) : Nat := bitsOf d.shape 4 2 + 1
def IngestDesc.fmt (d : IngestDesc) : Fmt := if bitsOf d.shape 6 2 = 0 then .k16 else .k8f

/-! ### The loaded program's tables (R189) -/

/-- Slot `i` of a program's descriptor table; a slot beyond it reads as zeros. -/
def descOf (p : Program) (i : Nat) : List Byte := p.descs.getD i (List.replicate 64 0)
def kindOf (p : Program) (i : Nat) : DescKind := p.kinds.getD i .unused

/-- A layout of rank 0, for an index beyond the table. -/
def noLayout : Layout :=
  { tensor := 0, rank := 0, axis := 0xFF, flags := 0, reserved := 0, sizes := List.replicate 6 1, order := [] }

def layoutOf (p : Program) (i : Nat) : Layout := p.layouts.getD i noLayout

/-- Slots of a kind with their bytes, in ascending slot. -/
def slotsOf (p : Program) (k : DescKind) : List (Nat × List Byte) :=
  ((p.kinds.zip p.descs).zipIdx.filter fun x => x.1.1 == k).map fun x => (x.2, x.1.2)

def replicaSet (p : Program) (r : Nat) : Option Replica := p.replicas.find? (·.set == r)

/-! ### Layouts (R194, R195) -/

def Layout.size (l : Layout) (d : Nat) : Nat := l.sizes.getD d 1
/-- Size of the dimension `back` places from the end, 1 where the rank is below `back` (R478; log 89). -/
def Layout.inner (l : Layout) (back : Nat) : Nat := if back ≤ l.rank then l.size (l.rank - back) else 1
def Layout.square (l : Layout) : Bool := bitAt l.flags 0
def Layout.microBatch (l : Layout) : Bool := bitAt l.flags 1

/-- Size of dimension `d` as R195 counts it: in blocks along the block axis. -/
def Layout.span (l : Layout) (d : Nat) : Nat := if d = l.axis then (l.size d + 31) / 32 else l.size d

/-- Block number and element number of coordinates (R195). -/
def blockPlace (l : Layout) (e : List Nat) : Nat × Nat :=
  let ax := l.axis
  let b := (l.order.take l.rank).foldl (fun b d => b * l.span d + (if d = ax then e.getD d 0 / 32 else e.getD d 0)) 0
  let elem := e.getD ax 0 % 32
  if l.square then
    let ncb := (l.size ax + 31) / 32
    let rb := b / ncb
    let cb := b % ncb
    (32 * (rb / 32 * ncb + cb) + rb % 32, elem)
  else (b, elem)

/-- Mixed-radix digits of `n`, the radices given from the innermost outward. -/
def digits : List Nat → Nat → List Nat
  | [], _ => []
  | r :: rs, n => n % max r 1 :: digits rs (n / max r 1)

/-- Coordinates of element `i` of block `b`, the inverse of `blockPlace`. -/
def blockCoords (l : Layout) (b i : Nat) : List Nat :=
  let ncb := max 1 ((l.size l.axis + 31) / 32)
  let b := if l.square then (32 * (b / 32 / ncb) + b % 32) * ncb + b / 32 % ncb else b
  let dims := (l.order.take l.rank).reverse
  let ds := digits (dims.map l.span) b
  (List.range l.rank).map fun d =>
    let x := ds.getD (dims.idxOf d) 0
    if d = l.axis then 32 * x + i else x

/-- Coordinates of the element at position `k` of a plain tensor's storage order, the inverse of `plainPlace`. -/
def plainCoords (l : Layout) (k : Nat) : List Nat :=
  let dims := (l.order.take l.rank).reverse
  let ds := digits (dims.map l.size) k
  (List.range l.rank).map fun d => ds.getD (dims.idxOf d) 0

/-- Whether coordinates lie inside the logical sizes; others pad the block axis (R195). -/
def inside (l : Layout) (e : List Nat) : Bool := (List.range l.rank).all fun d => decide (e.getD d 0 < l.size d)

/-- Position of coordinates in a plain tensor's storage order (R195). -/
def plainPlace (l : Layout) (e : List Nat) : Nat :=
  (l.order.take l.rank).foldl (fun k d => k * l.size d + e.getD d 0) 0

/-- Element index of R132: row-major over the logical sizes, dimension 0 outermost. -/
def elemIndex (l : Layout) (e : List Nat) : Nat :=
  (List.range l.rank).foldl (fun k d => k * l.size d + e.getD d 0) 0

/-- Elements of a layout. -/
def Layout.elements (l : Layout) : Nat := (List.range l.rank).foldl (fun k d => k * l.size d) 1

/-- Blocks of a layout (R195). -/
def Layout.blocks (l : Layout) : Nat :=
  let n := (l.order.take l.rank).foldl (fun b d => b * l.span d) 1
  if l.square then
    let ncb := (l.size l.axis + 31) / 32
    32 * ncb * ceilDiv (n / max ncb 1) 32
  else n

/-- Coordinates of element index `k`. -/
def coordsOf (l : Layout) (k : Nat) : List Nat :=
  (List.range l.rank).map fun d =>
    k / ((List.range l.rank).foldl (fun m x => if d < x then m * l.size x else m) 1) % l.size d

/-! ### Matrices of a product (R478) -/

/-- Coordinates of matrix element (r, c) over the two innermost dimensions, at micro-batch `mb`. -/
def matCoords (l : Layout) (mb r c : Nat) : List Nat :=
  (List.range l.rank).map fun d =>
    if d + 2 = l.rank then r else if d + 1 = l.rank then c else if d = 0 ∧ l.microBatch then mb else 0

/-- A tensor operand with its layout. -/
inductive Operand where
  | block (d : BlockDesc) (l : Layout)
  | plain (d : PlainDesc) (l : Layout)
  deriving DecidableEq, Repr

def Operand.layout : Operand → Layout
  | .block _ l => l
  | .plain _ l => l

def Operand.tensor : Operand → Nat
  | .block d _ => d.tensor
  | .plain d _ => d.tensor

/-- Whether K runs along dimension rank − 1. -/
def Operand.kLast (o : Operand) (column : Bool) : Bool :=
  let stored := match o with
    | .block _ l => decide (l.axis + 1 = l.rank)
    | .plain _ _ => true
  stored != column

/-- Coordinates of the element with row or column number `i` and K position `k`. -/
def Operand.at (o : Operand) (column : Bool) (mb i k : Nat) : List Nat :=
  if o.kLast column then matCoords o.layout mb i k else matCoords o.layout mb k i

/-- Size along K, and along the rows or columns. -/
def Operand.kSize (o : Operand) (column : Bool) : Nat :=
  o.layout.inner (if o.kLast column then 1 else 2)

def Operand.iSize (o : Operand) (column : Bool) : Nat :=
  o.layout.inner (if o.kLast column then 2 else 1)

/-! ### Instructions (R199, R203, R229, R247, R482) -/

/-- The 16 bytes of an instruction (R203). -/
def parseInstr (b : List Byte) : PInstr :=
  let w := leNat b
  { cls := bitsOf w 0 4, stream := bitsOf w 4 2, reserved := bitsOf w 6 2, waitToken := bitsOf w 8 8,
    signalToken := bitsOf w 16 8, waitMode := bitsOf w 24 2, signalMode := bitsOf w 26 2, waitInc := bitsOf w 28 4,
    waitTarget := bitsOf w 32 16, beat := bitsOf w 48 16, count := bitsOf w 64 8 + 1, stride := bitsOf w 72 8,
    desc := bitsOf w 80 16, operand := bitsOf w 96 32 }

/-- Beat of instance `i` (R199). -/
def PInstr.beatOf (p : PInstr) (i : Nat) : Nat := p.beat + i * p.stride

/-- Signed offset of an epoch wait, as a 16-bit pattern added to the step (R200, R203). -/
def PInstr.offset (p : PInstr) : Nat := let o := bitsOf p.waitTarget 0 8; if o < 128 then o else o + 0xFF00

/-- SIGNAL operand: token, unit, count (R204). -/
def PInstr.sigToken (p : PInstr) : Nat := bitsOf p.operand 0 8
def PInstr.sigUnit (p : PInstr) : Nat := bitsOf p.operand 8 16
def PInstr.sigCount (p : PInstr) : Nat := bitsOf p.operand 24 8

/-- PASS operand: first pass and pass count, 0 meaning 65,536 (R204). -/
def PInstr.firstPass (p : PInstr) : Nat := bitsOf p.operand 0 16
def PInstr.passCount (p : PInstr) : Nat := let n := bitsOf p.operand 16 16; if n = 0 then 65536 else n

/-- UPDATE operand: first span, span count, pass kind (R229). -/
def PInstr.firstSpan (p : PInstr) : Nat := bitsOf p.operand 0 19
def PInstr.spanCount (p : PInstr) : Nat := bitsOf p.operand 19 11 + 1
def PInstr.passKind (p : PInstr) : Nat := bitsOf p.operand 30 2

/-! ### VE instructions (R48 to R55, R204; log 12) -/

/-- The operations by their code in bits [7:0] of the operand. -/
def veFns : List VeFn :=
  [.add, .sub, .mul, .fma, .div, .sqrt, .min, .max, .minNumber, .maxNumber, .compareEq, .compareLt, .compareLe, .toInt,
    .fromInt, .convert, .toG16, .fromBlock, .toBlock, .sum, .tieSum, .fromCarry, .flagRead]

/-- Whether R55 permits a rounding mode for a scalar destination. -/
def roundsTo (f : Fmt) (r : Rnd) : Bool :=
  match f, r with
  | .b32, .stochastic | .b16, .stochastic => false
  | .b32, _ | .b16, _ => true
  | _, .towardPos | _, .towardNeg => false
  | _, _ => true

/-- Whether an operation's result is binary32, binary16 or an integer, which have the directed modes and no stochastic
one. -/
def veBinary (fn : VeFn) (dst : Fmt) : Bool :=
  match fn with
  | .toInt | .sum | .tieSum | .fromCarry => true
  | .toG16 | .toBlock => false
  | _ => dst == .b32 || dst == .b16

/-- The rounding in bits [9:8] of the operand: the codes of R130, then the directed modes where the destination has them
(log 12). -/
def veRnd (binary : Bool) : Nat → Rnd
  | 0 => .nearestEven
  | 1 => .towardZero
  | 2 => if binary then .towardPos else .stochastic
  | _ => .towardNeg

/-- What a VE instruction does: the operation, rounding and stream number of its operand, and its operand descriptor. -/
structure VeOp extends VeDesc where
  fn : VeFn
  rnd : Rnd
  stream : Nat
  deriving DecidableEq, Repr

/-- Whether R55 permits the rounding code of a VE instruction for its destination. -/
def veRndOk (fn : VeFn) (dst : Fmt) (code : Nat) : Bool :=
  match fn with
  | .toG16 => code == 2
  | .flagRead => true
  | .toBlock => decide (code < 3)
  | _ => veBinary fn dst || decide (code < 3)

/-- The operation of a VE instruction, with the operand descriptor of its slot. -/
def veOpOf (p : Program) (i : PInstr) : Option VeOp :=
  match veFns[bitsOf i.operand 0 8]?, p.ves.find? (·.1 == i.desc) with
  | some fn, some (_, d) =>
    some { d with fn := fn, rnd := veRnd (veBinary fn d.dst.fmt) (bitsOf i.operand 8 2), stream := bitsOf i.operand 16 16 }
  | _, _ => none

/-- BUCKET operand: kind and the number of descriptors of a norm (R247). -/
def PInstr.bucketKind (p : PInstr) : Nat := bitsOf p.operand 0 2
def PInstr.bucketCount (p : PInstr) : Nat := bitsOf p.operand 16 16

end Sys2Proof.Machine
end

