-- ==== Sys2Proof/Machine/Flags.lean ====
section
/-! DEFINITION. The five sticky flags of a Vector Engine (R48, R50) and the scoreboard tokens (R200 to R202). -/

namespace Sys2Proof.Machine

open Sys2Proof

/-! ### IEEE exception flags (R48) -/

/-- Flag bits in the order of R48: invalid, division by zero, overflow, underflow, inexact. -/
def flagInvalid : BitVec 5 := 1
def flagDivZero : BitVec 5 := 2
def flagOverflow : BitVec 5 := 4
def flagUnderflow : BitVec 5 := 8
def flagInexact : BitVec 5 := 16

def flagIf (b : Bool) (f : BitVec 5) : BitVec 5 := if b then f else 0

/-- Flags of one rounding (R48, R58). -/
def convFlags (c : Conv) : BitVec 5 :=
  flagIf c.overflow flagOverflow ||| flagIf c.underflow flagUnderflow ||| flagIf c.inexact flagInexact

/-- A binary32 signalling NaN: a NaN whose top fraction bit is 0 (R48). That a binary16 signalling NaN which a VE loads raises
no invalid is a DESIGN CHOICE (R49; log 98). -/
def signalling (f : Fmt) (code : Nat) : Bool :=
  f == .b32 && (decode .b32 code).isNan && !bitAt code 22

/-- Invalid operation: the exact result of operands that are no NaN is a NaN (R34, R48, IEEE 754-2019). That a multiply-add of
0 × ∞ and a quiet NaN raises none is a DESIGN CHOICE (log 98). -/
def invalidOf (operands : List Val) (r : Val) : Bool := r.isNan && operands.all fun v => !v.isNan

/-! ### Tokens (R200, R201) -/

def noToken : Token := { mode := 0, v0 := 0, v1 := 0 }

def tokenOf (q : SeqUnit) (t : Nat) : Token := q.tokens.getD t noToken

def seqOf (s : State) (unit : Nat) : Option SeqUnit := s.seqs.find? (·.unit == unit)

def updSeq (s : State) (unit : Nat) (f : SeqUnit → SeqUnit) : State :=
  { s with seqs := s.seqs.map fun q => if q.unit == unit then f q else q }

/-- A token's count of a step parity (R200). -/
def Token.count (t : Token) (parity : Nat) : Nat := if t.mode = 1 ∧ parity = 1 then t.v1 else t.v0

def Token.setCount (t : Token) (parity v : Nat) : Token :=
  if t.mode = 1 ∧ parity = 1 then { t with v1 := v } else { t with v0 := v }

/-- Whether a wait of instance `inst` is satisfied in step `step` (R199, R200, R203). -/
def waitSatisfied (step : Nat) (q : SeqUnit) (p : PInstr) (inst : Nat) : Bool :=
  let t := tokenOf q p.waitToken
  match p.waitMode with
  | 1 => decide (p.waitTarget + inst * p.waitInc ≤ t.count (step % 2))
  | 2 => decide ((t.v0 + 2 * 65536 - (step + p.offset) % 65536) % 65536 < 32768)
  | 3 => t.v0 == 0
  | _ => true

/-- What a signal of `mode` (1 add, 2 acquire, 3 release) and count `n` in a step of a parity makes of a token, and the
case of a token fault (R200, R201, R482). -/
def signalToken (t : Token) (mode n parity : Nat) : Token × Option Nat :=
  match mode with
  | 1 =>
    if t.mode = 1 then (t.setCount parity ((t.count parity + n) % 65536), none)
    else ({ t with v0 := (t.v0 + n) % 65536 }, if 0xFFFF < t.v0 + n then some 3 else none)
  | 2 => ({ t with v0 := (t.v0 + 1) % 65536 }, if 0xFFFF < t.v0 + 1 then some 3 else none)
  | 3 => if t.v0 = 0 then (t, some 2) else ({ t with v0 := t.v0 - 1 }, none)
  | _ => (t, none)

/-- A signal reaches a token of this module (R200, R201). -/
def applySignal (s : State) (unit tok mode n parity : Nat) : State :=
  match seqOf s unit with
  | none => s
  | some q =>
    let (t, fault) := signalToken (tokenOf q tok) mode n parity
    let s := updSeq s unit fun q => { q with tokens := q.tokens.set tok t }
    match fault with
    | some c => tokenFault s unit tok c
    | none => s

/-- Counter tokens of a parity read 0 from the end of a step of that parity on (R200). -/
def clearParity (parity : Nat) (t : Token) : Token := if t.mode = 1 then t.setCount parity 0 else t

/-- A token at its declared initial value, in a step of a parity (R200). -/
def freshToken (d : TokDecl) (parity : Nat) : Token :=
  let t : Token := { mode := d.mode, v0 := 0, v1 := 0 }
  t.setCount parity d.init

end Sys2Proof.Machine
end

