-- ==== Sys2Proof/Machine/Codec.lean ====
section
/-! DEFINITION. The block codec (R64 to R87): reading a block with the checks of R81, choosing exponent and escapes
(R69 to R75), and writing a block's slot, scale word, side list and directory (R76 to R79) with its counts and the
statistics of R143, R145 and R153. -/

namespace Sys2Proof.Machine

open Sys2Proof

/-! ### Reading (R67, R76 to R82) -/

/-- Reads `n` bytes at a global address. -/
abbrev Reader := Nat → Nat → List Byte

/-- A failed check: its block, cause code and the expected and received field values (R81, R83). -/
structure Skew where
  b : Nat
  cause : Nat
  expected : Nat
  received : Nat
  deriving DecidableEq, Repr

/-- Whether the low `n` bits of `w` hold an odd number of ones. -/
def oddParity (n w : Nat) : Bool := popCount n w % 2 == 1

/-- The parity bit at position `i` that makes the low `n` bits of a word odd. -/
def withParity (n i w : Nat) : Nat := if oddParity n w then w else w + 2 ^ i

/-- A failed parity check: the bit expected is the complement of the bit received. -/
def parityBit (w i : Nat) : Nat × Nat := if bitAt w i then (0, 1) else (1, 0)

def scaleExp (w : Nat) : Nat := bitsOf w 8 8
def scaleSeq (w : Nat) : Nat := bitsOf w 4 4
def scaleCount (w : Nat) : Nat := bitsOf w 1 3

/-- Whether a 4-bit sequence is one off (R81). -/
def offByOne (want got : Nat) : Bool := got == (want + 1) % 16 || got == (want + 15) % 16

/-- The checks of R81 on a scale word, in order. -/
def checkScale (f : BFmt) (b w : Nat) : Option Skew :=
  if !oddParity 16 w then some { b := b, cause := 3, expected := (parityBit w 0).1, received := (parityBit w 0).2 }
  else if scaleSeq w ≠ b % 16 then
    some { b := b, cause := if offByOne (b % 16) (scaleSeq w) then 1 else 4, expected := b % 16, received := scaleSeq w }
  else if isBlocked f && scaleCount w != 0 then some { b := b, cause := 9, expected := 0, received := scaleCount w }
  else none

/-- The 32 codes of a data slot (R65). -/
def slotCodes (f : BFmt) (slot : List Byte) : List Nat :=
  let v := leNat slot
  (List.range 32).map fun i => bitsOf v (blockWidth f * i) (blockWidth f)

/-- A side-list entry (R76). -/
structure Entry where
  value : Nat
  element : Nat
  seq : Nat
  word : Nat
  deriving DecidableEq, Repr

def parseEntry (w : Nat) : Entry := { value := bitsOf w 0 16, element := bitsOf w 16 5, seq := bitsOf w 21 4, word := w }

/-- The checks of R81 on a block's side-list entries, in order: parity, sequence, and the element against the escape code's
position or, in a sparse block (`want` none), against the entry before it. -/
def checkEntries (b : Nat) : List (Option Nat) → Nat → List Entry → Option Skew
  | w :: ws, lo, e :: es =>
    if !oddParity 32 e.word then
      some { b := b, cause := 5, expected := (parityBit e.word 31).1, received := (parityBit e.word 31).2 }
    else if e.seq ≠ b % 16 then
      some { b := b, cause := if offByOne (b % 16) e.seq then 2 else 5, expected := b % 16, received := e.seq }
    else match w with
      | some p => if e.element ≠ p then some { b := b, cause := 7, expected := p, received := e.element }
                  else checkEntries b ws (e.element + 1) es
      | none => if e.element < lo then some { b := b, cause := 7, expected := lo, received := e.element }
                else checkEntries b ws (e.element + 1) es
  | _, _, _ => none

/-- A block as read: its exponent field, its codes (none of an all-zero or sparse block) and its escapes. -/
structure Blk where
  s : Nat
  codes : List Nat
  escapes : List (Nat × Nat)               -- element number and K16 value
  deriving DecidableEq, Repr

def scaleWordAt (rd : Reader) (d : BlockDesc) (b : Nat) : Nat := leNat (rd (d.scale + 2 * b) 2)

def dirStart (rd : Reader) (d : BlockDesc) (span : Nat) : Nat := bitsOf (leNat (rd (d.dir + 8 * span) 8)) 0 32
def dirCount (rd : Reader) (d : BlockDesc) (span : Nat) : Nat := bitsOf (leNat (rd (d.dir + 8 * span) 8)) 32 11

/-- Escape counts of the blocks of b's span before b (R78). -/
def usedBefore (rd : Reader) (d : BlockDesc) (b : Nat) : Nat :=
  ((rangeFrom (b / 256 * 256) (b % 256)).map fun i => scaleCount (scaleWordAt rd d i)).sum

/-- The first failed scale-word check among the blocks of b's span before b, whose words give the entry offset (R78). -/
def checkBefore (rd : Reader) (d : BlockDesc) (f : BFmt) (b : Nat) : Option Skew :=
  (rangeFrom (b / 256 * 256) (b % 256)).findSome? fun i => checkScale f i (scaleWordAt rd d i)

/-- Entries of block `b`, `c` of them (R77, R78). -/
def entriesAt (rd : Reader) (d : BlockDesc) (b c : Nat) : List Entry :=
  let at0 := dirStart rd d (b / 256) + usedBefore rd d b
  (List.range c).map fun j => parseEntry (leNat (rd (d.side + 4 * (at0 + j)) 4))

/-- Reads block `b` with the checks of R81. -/
def readBlock (rd : Reader) (d : BlockDesc) (b : Nat) : Except Skew Blk :=
  let f := d.bfmt
  let w := scaleWordAt rd d b
  match checkScale f b w with
  | some e => .error e
  | none =>
    let s := scaleExp w
    let c := scaleCount w
    let codes := if s = 0 then [] else slotCodes f (rd (d.data + b * slotBytes f) (slotBytes f))
    let esc := if isBlocked f then [] else (List.range 32).filter fun i => codes.getD i 0 == escapeCode f
    if s ≠ 0 ∧ esc.length ≠ c then .error { b := b, cause := 6, expected := c, received := esc.length }
    else if c = 0 then .ok { s := s, codes := codes, escapes := [] }
    else match checkBefore rd d f b with
      | some e => .error e
      | none =>
        let es := entriesAt rd d b c
        match checkEntries b (if s = 0 then List.replicate c none else esc.map some) 0 es with
        | some e => .error e
        | none => .ok { s := s, codes := codes, escapes := es.map fun e => (e.element, e.value) }

/-- Directory count against the span's escape counts, once every block of the span has been read (R81). The failure names
the span's last block (DEDUCED, log 96). -/
def checkSpan (rd : Reader) (d : BlockDesc) (span : Nat) : Option Skew :=
  if isBlocked d.bfmt then none
  else
    let hi := min (256 * (span + 1)) d.n
    let sum := ((rangeFrom (256 * span) (hi - 256 * span)).map fun i => scaleCount (scaleWordAt rd d i)).sum
    let got := dirCount rd d span
    if got ≠ sum then some { b := hi - 1, cause := 8, expected := sum, received := got } else none

/-- Blocks of a span. -/
def spanRange (d : BlockDesc) (p : Nat) : List Nat := rangeFrom (256 * p) (min (256 * (p + 1)) d.n - 256 * p)

/-- First failed check over a list of blocks, and over the spans that they complete with the blocks read `before`. -/
def checkBlocks (rd : Reader) (d : BlockDesc) (before bs : List Nat) : Option Skew :=
  match bs.findSome? fun b => match readBlock rd d b with
    | .error e => some e
    | .ok _ => none with
  | some e => some e
  | none =>
    let spans := (bs.map (· / 256)).eraseDups
    (spans.filter fun p => (spanRange d p).all fun b => bs.contains b || before.contains b).findSome? (checkSpan rd d)

/-- Blocks of a tensor that a unit has read of the spans it has not finished (R81). -/
def readBefore (s : State) (unit : Nat) (d : BlockDesc) : List Nat :=
  (s.beat.spanReads.filter fun x => x.unit == unit && x.data == d.data).flatMap (·.blocks)

/-- Blocks that a unit has read: a span that they finish starts again (R81). -/
def noteRead (s : State) (unit : Nat) (d : BlockDesc) (bs : List Nat) : State :=
  let one (rs : List SpanRead) (p : Nat) : List SpanRead :=
    let mine (x : SpanRead) : Bool := x.unit == unit && x.data == d.data && x.span == p
    let blocks := (((rs.filter mine).flatMap (·.blocks)) ++ bs.filter fun b => b / 256 == p).eraseDups
    let rest := rs.filter fun x => !mine x
    if (spanRange d p).all blocks.contains then rest
    else rest ++ [{ unit := unit, data := d.data, span := p, blocks := blocks }]
  if isBlocked d.bfmt then s
  else { s with beat := { s.beat with spanReads := ((bs.map (· / 256)).eraseDups).foldl one s.beat.spanReads } }

/-- Where the side-list entries of a span lie from those of block `b` on, wherever its directory entry puts them (R78): the
first address and the one behind the last. -/
def spanEntries (rd : Reader) (d : BlockDesc) (p b : Nat) : Nat × Nat :=
  let start := dirStart rd d p
  let counts := ((spanRange d p).map fun i => scaleCount (scaleWordAt rd d i)).sum
  (d.side + 4 * (start + usedBefore rd d b), d.side + 4 * (start + max counts (dirCount rd d p)))

/-- The prefetched bytes that stay when a block fails its checks: all of the tensor from that block onward go (R82). -/
def dropStale (rd : Reader) (d : BlockDesc) (b : Nat) (stale : List (Nat × Byte)) : List (Nat × Byte) :=
  let spans := ceilDiv d.n 256
  let gone (a lo hi : Nat) : Bool := decide (lo ≤ a) && decide (a < hi)
  stale.filter fun x =>
    !(gone x.1 (d.data + b * slotBytes d.bfmt) (d.data + d.n * slotBytes d.bfmt) ||
      gone x.1 ((d.scale + 2 * b) / 64 * 64) (d.scale + 2 * d.n) ||
      (!isBlocked d.bfmt && (gone x.1 (d.dir + 8 * (b / 256)) (d.dir + 8 * spans) ||
        (rangeFrom (b / 256) (spans - b / 256)).any fun p =>
          let (lo, hi) := spanEntries rd d p (if p = b / 256 then b else 256 * p)
          gone x.1 lo hi)))

/-- Value of element `i` of a block: an escape's side-list value, otherwise its code's (R39, R43, R66, R68). -/
def blkVal (f : BFmt) (k : Blk) (i : Nat) : Val :=
  match k.escapes.find? (·.1 == i) with
  | some e => decode .k16 e.2
  | none => if k.s = 0 then .fin false 0 0 else blockDecode f k.s (k.codes.getD i 0)

/-- Value of element `i` of block `b`; the checks of R81 have passed where this is used. -/
def blockElem (rd : Reader) (d : BlockDesc) (b i : Nat) : Val :=
  match readBlock rd d b with
  | .ok k => blkVal d.bfmt k i
  | .error _ => .nan

/-- What reading blocks takes of memory, as their words say (R66, R67, R76 to R78, R81, R86): the scale words, the data slots of
the blocks that have one, the directory entries of their spans, and where a block has escapes the scale words before it and its
side-list entries. -/
def blockParts (rd : Reader) (d : BlockDesc) (bs : List Nat) : List (Nat × Nat) :=
  (bs.flatMap fun b =>
    let w := scaleWordAt rd d b
    let slot := if scaleExp w = 0 then [] else [(d.data + b * slotBytes d.bfmt, slotBytes d.bfmt)]
    let entries := if isBlocked d.bfmt || scaleCount w == 0 then []
      else [(d.scale + 2 * (b / 256 * 256), 2 * (b % 256)),
        (d.side + 4 * (dirStart rd d (b / 256) + usedBefore rd d b), 4 * scaleCount w)]
    (d.scale + 2 * b, 2) :: (slot ++ entries)) ++
  (if isBlocked d.bfmt then [] else ((bs.map (· / 256)).eraseDups).map fun p => (d.dir + 8 * p, 8))

/-! ### Encoding (R69 to R75) -/

def Src.zero : Src := { v := .fin false 0 0, w := 0, r := 0 }

/-- Whether magnitude `a` of a finite value exceeds that of `b`. -/
def magAbove (a b : Val) : Bool := b.abs.lt a.abs

/-- Elements ranked by magnitude, largest first, equal magnitudes by ascending element number (R71). -/
def rankFinite (xs : List Src) : List Nat :=
  let fin := (List.range xs.length).filter fun i => (xs.getD i Src.zero).v.isFinite
  fin.mergeSort fun i j =>
    let a := (xs.getD i Src.zero).v
    let b := (xs.getD j Src.zero).v
    magAbove a b || (!magAbove b a && decide (i ≤ j))

/-- What an encoder makes of a block. -/
structure Encoded where
  s : Nat
  codes : List Nat
  escapes : List (Nat × Nat)               -- element number and K16 value, ascending
  excessFinite : Nat
  excessNonFinite : Nat
  trackedSat : Nat
  saturated : Nat                          -- conversions of R62
  capLoss : Nat
  amax : Val                               -- R143
  codeBits : Nat                           -- R145
  zeros : Nat                              -- R153
  nonFinite : Nat                          -- R153
  deriving DecidableEq, Repr

/-- The largest magnitude among elements, +0 when there is none. -/
def maxMag (vs : List Val) : Val := vs.foldl (fun m v => if m.lt v.abs then v.abs else m) (.fin false 0 0)

/-- Exponent field under the fit rule (R66, R69). -/
def fitRule (f : BFmt) (m0 : Val) (excess : List Val) : Nat :=
  let q := blockQ f
  if !m0.isZero then fitExponent m0 q
  else if isBlocked f then
    if excess.any fun v => !v.isNan && !v.isFinite then 255 else if excess.any Val.isNan then 1 else 0
  else
    let fin := (excess.filter Val.isFinite)
    if !fin.isEmpty then fitExponent (maxMag fin) q
    else if excess.any fun v => !v.isNan then 255
    else 0

/-- Magnitude field of a code (R145). -/
def codeMagBits (f : BFmt) (code : Nat) : Nat :=
  if f = .k2 then bitLen (code % 2)
  else
    let m := code % 2 ^ (blockWidth f - 1)
    if isBlocked f && blockMaxOrd f < m then 0 else bitLen m

/-- Whether a code is a zero code or a NaN code of the block format. -/
def codeIsZero (f : BFmt) (code : Nat) : Bool := code % 2 ^ (blockWidth f - 1) == 0 && !(f == .k2 && code != 0)
def codeIsNan (f : BFmt) (code : Nat) : Bool := isBlocked f && decide (blockMaxOrd f < code % 2 ^ (blockWidth f - 1))

/-- One block encoded (R66, R69 to R75). `tracked` is the tracker's exponent under the tracked rule; `cap` the span capacity
left. -/
def encodeBlock (f : BFmt) (k threshold : Nat) (rnd : Rnd) (tracked : Option Nat) (cap : Nat) (xs : List Src) : Encoded :=
  let el (i : Nat) : Src := xs.getD i Src.zero
  let idx := List.range 32
  let nf := if isBlocked f then [] else idx.filter fun i => !(el i).v.isFinite
  let fin := rankFinite xs
  let mk : Val := if k ≤ fin.length then (el (fin.getD (k - 1) 0)).v.abs else .fin false 0 0
  let t := decode .k16 threshold
  let cand := if isBlocked f then [] else fin.filter fun i => (t.mul mk).lt (el i).v.abs
  let order := nf ++ cand
  let n := min (min 7 order.length) cap
  let esc := order.take n
  let excess := if isBlocked f then idx.filter fun i => !(el i).v.isFinite else order.drop n
  let m0 := maxMag ((fin.filter fun i => !cand.contains i).map fun i => (el i).v)
  let rest := idx.filter fun i => !esc.contains i
  let allZero := rest.all fun i => (el i).v.isZero
  let s := if allZero then 0
    else match tracked with
      | some e => e
      | none => fitRule f m0 (excess.map fun i => (el i).v)
  let code (i : Nat) : Nat :=
    if esc.contains i then escapeCode f
    else blockConvert f s rnd (el i).w (el i).r (el i).v
  let codes := if s = 0 then [] else idx.map code
  let sats := rest.filter fun i => s ≠ 0 ∧ blockSaturates f s (el i).v
  let escapes := ((List.range 32).filter esc.contains).map fun i =>
    (i, convert .k16 rnd (el i).w (el i).r (el i).v)
  let zeros := if s = 0 then rest.length else (rest.filter fun i => codeIsZero f (code i)).length
  let exNon := if isBlocked f then 0 else (excess.filter fun i => !(el i).v.isFinite).length
  { s := s, codes := codes, escapes := escapes
    excessFinite := (excess.filter fun i => (el i).v.isFinite).length
    excessNonFinite := exNon
    trackedSat := if tracked.isSome then sats.length else 0
    saturated := (idx.filter fun i =>
      if isBlocked f then sats.contains i || (!(el i).v.isFinite && !(el i).v.isNan)
      else excess.contains i || sats.contains i).length
    capLoss := order.length.min 7 - n
    amax := maxMag ((rest.filter fun i => (el i).v.isFinite).map fun i => (el i).v)
    codeBits := if s = 0 then 0 else (rest.map fun i => codeMagBits f (code i)).foldl max 0
    zeros := zeros
    nonFinite := (escapes.filter fun e => !(decode .k16 e.2).isFinite).length + exNon +
      (if s = 0 then 0 else (rest.filter fun i => codeIsNan f (code i)).length) }

/-! ### Words written (R65, R67, R76, R78) -/

def scaleWordOf (b s c : Nat) : Nat := withParity 16 0 (s * 256 + b % 16 * 16 + c * 2)

def entryWordOf (b elem value : Nat) : Nat := withParity 32 31 (value + elem * 65536 + b % 16 * 2 ^ 21)

/-- Codes packed into a data slot (R65). -/
def slotOf (f : BFmt) (codes : List Nat) : List Byte :=
  leBytes (slotBytes f) ((codes.zipIdx.map fun x => x.1 * 2 ^ (blockWidth f * x.2)).sum)

/-- A directory entry. A start beyond its 32 bits keeps its low 32 bits (DESIGN CHOICE, log 96). -/
def dirWordOf (start count : Nat) : Nat := start % 2 ^ 32 + count * 2 ^ 32

/-! ### Statistics of a step (R143, R145, R153, R164) -/

def noStat (tensor : Nat) : TrackStat :=
  { tensor := tensor, amax := 0, codeBits := 0, overflowed := [], overflowCut := false, written := false }

def noWatch (tensor : Nat) : WatchCount :=
  { tensor := tensor, written := 0, zeros := 0, saturations := 0, nonFinite := 0, accNonFinite := 0 }

/-- Whether a tensor is on the watch list (R152). -/
def watched (s : State) (tensor : Nat) : Bool := s.scales.watch.toList.any fun w => match w with
  | some e => e.tensor == tensor
  | none => false

/-- Watch counts of a tensor advanced (R153); only watched tensors keep them. -/
def noteWatch (s : State) (tensor : Nat) (f : WatchCount → WatchCount) : State :=
  if !watched s tensor then s
  else
    let cs := s.scales.watchCounts
    let cs := if cs.any (·.tensor == tensor) then cs.map fun c => if c.tensor == tensor then f c else c
      else cs ++ [f (noWatch tensor)]
    { s with scales := { s.scales with watchCounts := cs } }

def addWatch (written zeros sats nonFin acc : Nat) (c : WatchCount) : WatchCount :=
  { c with written := c.written + written, zeros := c.zeros + zeros, saturations := c.saturations + sats,
           nonFinite := c.nonFinite + nonFin, accNonFinite := c.accNonFinite + acc }

/-- Zero and non-finite codes of a scalar format (R153). -/
def codeZero (f : Fmt) (c : Nat) : Bool := c % 2 ^ (codeBits f - 1) == 0
def codeNonFinite (f : Fmt) (c : Nat) : Bool := !(decode f c).isFinite

def trackerOf (s : State) (tensor : Nat) : Option Tracker := s.scales.trackers.find? (·.tensor == tensor)

/-- The tracker descriptor that names a tensor (R148). -/
def trackDescOf (s : State) (tensor : Nat) : Option TrackDesc :=
  match s.program with
  | none => none
  | some p => ((slotsOf p .tracker).map fun x => parseTrack x.2).find? (·.tensor == tensor)

/-- The bump table of a tracked tensor (R144). A table at another module holds what this module's tracker has written there
(DEDUCED, log 99). -/
def bumpTable (s : State) (d : TrackDesc) : List Byte :=
  if isLocal s (nodeOf d.bump) then peek s mcpUnit d.bump d.positions
  else padTo d.positions (((trackerOf s d.tensor).map (·.remote)).getD [])

/-- The exponent a tracked tensor's block takes, or none when the block is encoded under the fit rule (R70, R144, R147). -/
def trackedExp (s : State) (d : BlockDesc) (b : Nat) : Option Nat :=
  if !d.tracked then none
  else match trackDescOf s d.tensor, trackerOf s d.tensor with
    | some td, some t =>
      if t.fit then none
      else some ((bumpTable s td).getD (b % max td.positions 1) 0).toNat
    | _, _ => none

/-- A tracked tensor's statistics advanced by one block (R70, R143, R145). -/
def noteTrack (s : State) (d : BlockDesc) (b : Nat) (e : Encoded) : State :=
  match trackDescOf s d.tensor with
  | none => s
  | some td =>
    let pos := b % max td.positions 1
    let upd (t : Tracker) : Tracker :=
      let st := t.stat
      { t with stat := { st with
          amax := BitVec.ofNat 16 (max st.amax.toNat (amaxK16 e.amax))
          codeBits := max st.codeBits e.codeBits
          overflowed := if 0 < e.trackedSat then insertNat pos st.overflowed else st.overflowed
          written := true } }
    { s with scales := { s.scales with trackers := s.scales.trackers.map fun t =>
        if t.tensor == d.tensor then upd t else t } }

/-- The counts of R87 and R62, and the watch counts, of one encoded block. -/
def noteBlock (s : State) (d : BlockDesc) (b : Nat) (e : Encoded) : State :=
  let t := d.tensor
  let s := bump s 0x0301 noInst t 1
  let s := bump s 0x0302 noInst t e.escapes.length
  let s := bump s 0x0303 noInst t e.excessFinite
  let s := bump s 0x0304 noInst t e.excessNonFinite
  let s := bump s 0x0305 noInst t e.trackedSat
  let s := bump s 0x0306 noInst t (if 0 < e.trackedSat then 1 else 0)
  let s := bump s 0x0307 noInst t (if e.s = 0 ∧ e.escapes.isEmpty then 1 else 0)
  let s := bump s 0x0308 noInst t (if e.s = 0 ∧ !e.escapes.isEmpty then 1 else 0)
  let s := bump s 0x0309 noInst t e.capLoss
  let s := bump s 0x0201 noInst t e.saturated
  let s := noteWatch s t (addWatch 32 e.zeros e.saturated e.nonFinite 0)
  if d.tracked then noteTrack s d b e else s

/-! ### Writing a block (R65, R72, R76 to R79) -/

/-- Block `b` encoded and written by an instance, with `used` entries of its span taken before it: the entries taken after
it, what was encoded, and the state. -/
def writeBlock (s : State) (w : Who) (d : BlockDesc) (rnd : Rnd) (b used : Nat) (xs : List Src) : Nat × Encoded × State :=
  let f := d.bfmt
  let e := encodeBlock f d.rank d.threshold rnd (trackedExp s d b) (d.capacity - used) xs
  let c := e.escapes.length
  let span := b / 256
  let start := span * d.capacity
  let s := writeGlobal s w (d.scale + 2 * b) (leBytes 2 (scaleWordOf b e.s c))
  let s := if e.s = 0 then s else writeGlobal s w (d.data + b * slotBytes f) (slotOf f e.codes)
  let s := if c = 0 then s
    else writeGlobal s w (d.side + 4 * (start + used)) (e.escapes.flatMap fun x => leBytes 4 (entryWordOf b x.1 x.2))
  let s := if isBlocked f then s else writeGlobal s w (d.dir + 8 * span) (leBytes 8 (dirWordOf start (used + c)))
  (used + c, e, noteBlock s d b e)

/-- Blocks written in ascending block number, with what was encoded. The entries of a span taken so far are those of the
blocks before the first one, as its scale words say, and then those this instance writes (R78, R79; log 34). -/
def writeBlocksFull (w : Who) (d : BlockDesc) (rnd : Rnd) :
    List (Nat × List Src) → Option (Nat × Nat) → List Encoded → State → List Encoded × State
  | [], _, es, s => (es, s)
  | (b, xs) :: rest, last, es, s =>
    let before := usedBefore (peek s w.unit) d b
    let used := match last with
      | some (p, u) => if p + 1 = b ∧ b % 256 ≠ 0 then u else before
      | none => before
    let used := if isBlocked d.bfmt then 0 else used
    let (u, e, s) := writeBlock s w d rnd b used xs
    writeBlocksFull w d rnd rest (some (b, u)) (es ++ [e]) s

/-- The state after blocks are written. -/
def writeBlocks (w : Who) (d : BlockDesc) (rnd : Rnd) (bs : List (Nat × List Src)) (s : State) : State :=
  (writeBlocksFull w d rnd bs none [] s).2

end Sys2Proof.Machine
end

