-- ==== Sys2Proof/Machine/Sm2.lean ====
section
/-! DEFINITION. Keys, signatures and certificates of attestation (R400 to R402): the SM3-based key derivation and the SM2
signature of GB/T 32918, and the DER of an alias certificate. The curve's numbers, the key derivation's counter and the DER
rules are those of the standards the spec names (PRESUMED, log 108). -/

namespace Sys2Proof.Machine

open Sys2Proof

/-! ### The SM2 curve (GB/T 32918) -/

def sm2P : Nat := 0xFFFFFFFEFFFFFFFFFFFFFFFFFFFFFFFFFFFFFFFF00000000FFFFFFFFFFFFFFFF
def sm2A : Nat := sm2P - 3
def sm2B : Nat := 0x28E9FA9E9D9F5E344D5A9E4BCF6509A7F39789F515AB8F92DDBCBD414D940E93
def sm2N : Nat := 0xFFFFFFFEFFFFFFFFFFFFFFFFFFFFFFFF7203DF6B21C6052B53BBF40939D54123
def sm2G : Nat × Nat := (0x32C4AE2C1F1981195F9904466A39C9948FE30BBFF2660BE1715A4589334C74C7,
  0xBC3736A2F4F6779C59BDCEE36B692153D0A9877CC62A474002DF32E52139F0A0)

/-- b ^ e mod m over the low `n` bits of e. -/
def powMod (m : Nat) : Nat → Nat → Nat → Nat
  | 0, _, _ => 1 % m
  | n + 1, b, e =>
    let r := powMod m n (b * b % m) (e / 2)
    if e % 2 = 1 then b * r % m else r

/-- The inverse modulo a prime below 2^256. -/
def invMod (m a : Nat) : Nat := powMod m 256 (a % m) (m - 2)

/-- The sum of two points; none is the point at infinity. -/
def sm2Add (x y : Option (Nat × Nat)) : Option (Nat × Nat) :=
  match x, y with
  | none, y => y
  | x, none => x
  | some (x1, y1), some (x2, y2) =>
    let go (l : Nat) : Option (Nat × Nat) :=
      let x3 := (l * l + 2 * sm2P - x1 - x2) % sm2P
      some (x3, (l * (x1 + sm2P - x3) + sm2P - y1) % sm2P)
    if x1 = x2 then
      if (y1 + y2) % sm2P = 0 then none else go ((3 * x1 * x1 + sm2A) * invMod sm2P (2 * y1) % sm2P)
    else go ((y2 + sm2P - y1) * invMod sm2P (x2 + sm2P - x1) % sm2P)

/-- The multiple of a point over the low `n` bits of k. -/
def sm2Mul : Nat → Nat → Option (Nat × Nat) → Option (Nat × Nat)
  | 0, _, _ => none
  | n + 1, k, x =>
    let r := sm2Mul n (k / 2) (sm2Add x x)
    if k % 2 = 1 then sm2Add x r else r

/-- The public key of a private key. -/
def sm2Public (d : Nat) : Nat × Nat := (sm2Mul 256 d (some sm2G)).getD (0, 0)

/-- The default user identity "1234567812345678" (R402). -/
def sm2Identity : List Byte := (List.range 16).map fun i => BitVec.ofNat 8 (0x31 + i % 8)

/-- ZA of a public key under the default user identity (R402). -/
def sm2Za (q : Nat × Nat) : List Byte :=
  sm3 (beBytes 2 128 ++ sm2Identity ++ beBytes 32 sm2A ++ beBytes 32 sm2B ++ beBytes 32 sm2G.1 ++ beBytes 32 sm2G.2 ++
    beBytes 32 q.1 ++ beBytes 32 q.2)

/-- The SM2 signature (r, s) of a message by private key d, with the random number k. -/
def sm2Sign (d k : Nat) (message : List Byte) : Nat × Nat :=
  let e := beNat (sm3 (sm2Za (sm2Public d) ++ message))
  let r := (e + (sm2Public k).1) % sm2N
  (r, invMod sm2N (1 + d) * (k + r * (sm2N - d)) % sm2N)

/-- A signature by a private key; its random number is an open value (log 3). -/
def signBy (d : Nat) (message : List Byte) : Nat × Nat := sm2Sign d (Config.signNonce d message) message

/-! ### Derivation (R400, R401) -/

/-- `n` bytes of the SM3-based key derivation of GB/T 32918. -/
def sm3Kdf (z : List Byte) (n : Nat) : List Byte :=
  ((List.range ((n + 31) / 32)).flatMap fun i => sm3 (z ++ beBytes 4 (i + 1))).take n

/-- 1 + (KDF(seed, label) mod (n − 1)), over 256 derived bits (R400; the length DEDUCED, log 108). -/
def deriveKey (seed label : List Byte) : Nat := 1 + beNat (sm3Kdf (seed ++ label) 32) % (sm2N - 1)

def asciiBytes (s : List Nat) : List Byte := s.map (BitVec.ofNat 8)

/-- The label "FKM-DEV" of the device key. -/
def devLabel : List Byte := asciiBytes [0x46, 0x4B, 0x4D, 0x2D, 0x44, 0x45, 0x56]

/-- The label "FKM-ALIAS" of the alias key. -/
def aliasLabel : List Byte := asciiBytes [0x46, 0x4B, 0x4D, 0x2D, 0x41, 0x4C, 0x49, 0x41, 0x53]

/-- The device key of a seed (R400). -/
def deviceKey (seed : List Byte) : Nat := deriveKey seed devLabel

/-- The alias key of a seed and a running image's digest (R401). -/
def aliasKey (seed digest : List Byte) : Nat := deriveKey seed (aliasLabel ++ padTo 32 digest)

/-- HMAC-SM3, which authenticates the boot record's partition (R407). -/
def hmacSm3 (key message : List Byte) : List Byte :=
  let k := padTo 64 (if 64 < key.length then sm3 key else key)
  sm3 (k.map (· ^^^ 0x5C#8) ++ sm3 (k.map (· ^^^ 0x36#8) ++ message))

/-! ### DER (R402) -/

/-- One DER element. -/
def der (tag : Nat) (body : List Byte) : List Byte :=
  let n := body.length
  [BitVec.ofNat 8 tag] ++
    (if n < 128 then [BitVec.ofNat 8 n] else if n < 256 then [0x81#8, BitVec.ofNat 8 n] else 0x82#8 :: beBytes 2 n) ++ body

/-- A non-negative DER integer of at most 32 bytes. -/
def derInt (n : Nat) : List Byte :=
  let bs := (beBytes 32 n).dropWhile (· == 0#8)
  der 2 (if bs.isEmpty || (bs.headD 0).getLsbD 7 then 0#8 :: bs else bs)

/-- OID 1.2.156.10197.1.501, SM2 with SM3. -/
def oidSign : List Byte := der 6 [0x2A, 0x81, 0x1C, 0xCF, 0x55, 0x01, 0x83, 0x75]

/-- OID 1.2.156.10197.1.301, the SM2 curve. -/
def oidCurve : List Byte := der 6 [0x2A, 0x81, 0x1C, 0xCF, 0x55, 0x01, 0x82, 0x2D]

/-- OID 1.2.840.10045.2.1, an elliptic-curve public key. -/
def oidEcKey : List Byte := der 6 [0x2A, 0x86, 0x48, 0xCE, 0x3D, 0x02, 0x01]

/-- SubjectPublicKeyInfo of a point. -/
def derKey (q : Nat × Nat) : List Byte :=
  der 0x30 (der 0x30 (oidEcKey ++ oidCurve) ++ der 3 ([0#8, 4#8] ++ beBytes 32 q.1 ++ beBytes 32 q.2))

/-- An X.509 v3 certificate: version, serial number, algorithm, issuer to subject, key, extensions; then the signature. -/
def derCertificate (number : Nat) (names : List Byte) (key : Nat × Nat) (extensions : List Byte)
    (sign : List Byte → Nat × Nat) : List Byte :=
  let tbs := der 0x30 (der 0xA0 (derInt 2) ++ derInt number ++ der 0x30 oidSign ++ names ++ derKey key ++ extensions)
  let sig := sign tbs
  der 0x30 (tbs ++ der 0x30 oidSign ++ der 3 (0#8 :: der 0x30 (derInt sig.1 ++ derInt sig.2)))

/-- The relative name of a subject serial number: OID 2.5.4.5 and its ASCII bytes, byte 0 first. -/
def derSerial (serial : BitVec 128) : List Byte :=
  der 0x31 (der 0x30 (der 6 [0x55, 0x04, 0x05] ++ der 0x13 (leBytes 16 serial.toNat)))

/-- The DER bytes of a certificate of slot 0 (R402). -/
def certificateDer (c : Certificate) : List Byte :=
  derCertificate c.number
    (c.issuer ++ der 0x30 (c.subject ++ (c.subjectSerial.map derSerial).getD [])) c.key c.extensions
    fun _ => c.signature

/-- The root certificate, which the boot ROM's key stands behind (R402). -/
def rootCertificate : List Byte := certificateDer (Certificate.made 0 none)

/-- The alias certificate of an alias key, X.509 v3, signed with the device key (R401, R402). The names, validity and
extensions are open values (log 9). -/
def aliasCertificate (device alias_ : Nat) : List Byte :=
  derCertificate (Config.aliasSerial alias_) (Config.aliasNames alias_) (sm2Public alias_) (Config.aliasExtensions alias_)
    (signBy device)

end Sys2Proof.Machine
end

