-- ==== Sys2Proof/Machine/Units.lean ====
section
/-! DEFINITION. The unit table and what changes it: logical numbering (R428, R436), residue mismatches, substitutes,
re-probes and compaction (R438 to R441), stand-ins (R442), the two management paths (R444 to R446), and lines of space 0x0
that cannot be corrected (R319). -/

namespace Sys2Proof.Machine

open Sys2Proof

/-! ### Building the table (R428, R436) -/

def kindCode : TileKind → Nat
  | .ft => 1 | .bt => 2

/-- First local code of a kind of unit (R190); none for a kind without logical numbers. -/
def codeBase (kind : Nat) : Option Nat :=
  match kind with
  | 1 => some 0 | 2 => some 0x20 | 3 => some 0x80 | 4 => some 0x90 | 5 => some 0xA0 | 6 => some 0xA1 | 7 => some 0xA2
  | _ => none

/-- The logical number that a unit's own index names. -/
def ownNumber (u : PhysUnit) : Option Nat := (codeBase u.kind).map fun b => u.die * 256 + b + u.index

def mkUnit (kind die index : Nat) (logical : Option Nat) (cond : Cond) (cause : Nat) : UnitEntry :=
  { phys := { kind := kind, die := die, index := index }, logical := logical, cond := cond, cause := cause,
    mismatches := 0, step := 0, recent := [], standsFor := [] }

/-- The tiles of one kind of a TD: those that passed take the next logical number in ascending physical index, the rest
of those that passed are spares (R428). -/
def numberTiles (kind die base count : Nat) (disabled failed : List Nat) : Nat → List Nat → List UnitEntry
  | _, [] => []
  | nxt, i :: is =>
    if disabled.contains i then
      mkUnit kind die i none .disabled 0 :: numberTiles kind die base count disabled failed nxt is
    else if failed.contains i then
      mkUnit kind die i none .failed 1 :: numberTiles kind die base count disabled failed nxt is
    else if nxt < count then
      mkUnit kind die i (some (die * 256 + base + nxt)) .inService 0 ::
        numberTiles kind die base count disabled failed (nxt + 1) is
    else mkUnit kind die i none .spare 0 :: numberTiles kind die base count disabled failed nxt is

def tilesOf (td : Nat) (k : TileKind) (ts : List TileId) : List Nat :=
  (ts.filter fun t => t.td.val == td && t.kind == k).map (·.index)

/-- Physical tiles of a kind on a TD beyond the grade's logical count and its spares: 2 FT and 4 BT spares (R2). -/
def disabledCount (g : Grade) : TileKind → Nat
  | .ft => 26 - gradeFts g - 2
  | .bt => 76 - gradeBts g - 4

/-- The tiles of a kind on a TD that manufacturing test disabled: as many as the grade has, the recorded ones first (R2). -/
def disabledTiles (g : Grade) (recorded : List TileId) (td : Nat) (k : TileKind) : List Nat :=
  let all := (List.range (match k with | .ft => 26 | .bt => 76)).reverse
  let mine := tilesOf td k recorded
  ((all.filter mine.contains) ++ (all.filter fun i => !mine.contains i)).take (disabledCount g k)

/-- Units other than tiles that fail the power-on self-test (R426): the entry is failed and its number has no holder. -/
def failAtBoot (us : List PhysUnit) (e : UnitEntry) : UnitEntry :=
  if 2 < e.phys.kind ∧ us.contains e.phys then { e with cond := .failed, cause := 1, logical := none } else e

/-- The unit table at the end of the power-on self-test, in ascending kind, die and index (R426, R428, R436). -/
def bootUnits (f : Flash) (b : BootIn) : List UnitEntry :=
  let g := f.grade
  (((List.range 8).flatMap fun d =>
    numberTiles 1 d 0 (gradeFts g) (disabledTiles g f.disabled d .ft) (tilesOf d .ft b.failed) 0 (List.range 26)) ++
  ((List.range 8).flatMap fun d =>
    numberTiles 2 d 0x20 (gradeBts g) (disabledTiles g f.disabled d .bt) (tilesOf d .bt b.failed) 0 (List.range 76)) ++
  ((List.range 8).flatMap fun d => (List.range 12).map fun k => mkUnit 3 d k (some (d * 256 + 0x80 + k)) .inService 0) ++
  ((List.range 8).flatMap fun d => (List.range 2).map fun k => mkUnit 4 d k (some (d * 256 + 0x90 + k)) .inService 0) ++
  ((List.range 8).map fun d => mkUnit 5 d 0 (some (d * 256 + 0xA0)) .inService 0) ++
  ((List.range 8).map fun d => mkUnit 6 d 0 (some (d * 256 + 0xA1)) .inService 0) ++
  ((List.range 8).map fun d => mkUnit 7 d 0 (some (d * 256 + 0xA2)) .inService 0) ++
  ((List.range 8).flatMap fun d => (List.range 2).map fun k => mkUnit 8 d k none .inService 0) ++
  ((List.range 20).map fun i =>
    if b.untrained.any (·.val == i) then mkUnit 9 (0x0B + i / 5) (i % 5) none .failed 6
    else mkUnit 9 (0x0B + i / 5) (i % 5) none .inService 0) ++
  ((List.range 12).map fun i =>
    mkUnit 0xA 8 i none (if i % 2 = 0 ∨ b.failedUnits.contains ⟨0xA, 8, i - 1⟩ then .inService else .spare) 0) ++
  ((List.range 48).map fun i => mkUnit 0xB 8 i none .inService 0) ++
  ((List.range 32).map fun i => mkUnit 0xC (9 + i / 16) (i % 16) none .inService 0) ++
  [mkUnit 0xD 0xF 0 none .inService 0]).map (failAtBoot b.failedUnits)

/-- Tiles that hold a logical number other than their own physical index (R429). -/
def substitutesInUse (s : State) : Nat :=
  (s.units.filter fun u => decide (u.phys.kind ≤ 2) && u.logical.isSome && u.logical != ownNumber u.phys &&
    u.cond != .failed).length

def failedUnits (s : State) : Nat := (s.units.filter fun u => u.cond == .failed).length

/-- Filled FTs and BTs of a TD in the form of R207. -/
def tdCounts (s : State) (td : Nat) : Nat := filledTiles s td .ft + 256 * filledTiles s td .bt

/-! ### Changing an entry -/

def findUnit (s : State) (u : PhysUnit) : Option UnitEntry := s.units.find? (·.phys == u)

def updUnit (s : State) (u : PhysUnit) (f : UnitEntry → UnitEntry) : State :=
  { s with units := s.units.map fun e => if e.phys == u then f e else e }

/-- A change of condition, with its cause and the low 32 bits of the step number (R436). -/
def setCond (s : State) (u : PhysUnit) (c : Cond) (cause : Nat) : State :=
  updUnit s u fun e => { e with cond := c, cause := cause, step := s.step.toNat % 2 ^ 32 }

def unitEvent (s : State) (code : Nat) (u : PhysUnit) (cause : Option Nat) : State :=
  post s code (packed ([(1, u.kind), (1, u.die), (1, u.index)] ++
    (match cause with | some c => [(1, c)] | none => []) ++ [(4, s.step.toNat)]))

def dayNs : Nat := 24 * 3600 * 10 ^ 9

/-- A residue mismatch in the unit's own entry (R436, R440). -/
def noteMismatch (s : State) (u : PhysUnit) : State :=
  updUnit s u fun e => { e with
    mismatches := min (e.mismatches + 1) (2 ^ 32 - 1)
    recent := s.timebase :: e.recent.filter fun t => s.timebase < t + dayNs }

/-- A residue mismatch of a tile, VE, Row Engine or update engine: its entry and the count of its TD (R436, R450). -/
def countMismatch (s : State) (u : PhysUnit) : State := bump (noteMismatch s u) 0x1004 u.die noTensor 1

/-- The logical numbers whose stage programs a unit runs: its own and those it stands in for (R442). -/
def numbersOf (e : UnitEntry) : List Nat := e.logical.toList ++ e.standsFor

/-- A logical number leaves a unit; while a program runs, the unit's results of this beat under it can still be discarded
(R446). -/
def leaveNumber (s : State) (u : PhysUnit) (n : Nat) : State :=
  let s := updUnit s u fun e => { e with logical := e.logical.filter (· != n), standsFor := e.standsFor.filter (· != n) }
  if live s then { s with beat := { s.beat with moved := s.beat.moved ++ [(u, n)] } } else s

/-- Mismatches of a unit in the past 24 h (R440). -/
def recentMismatches (s : State) (u : PhysUnit) : Nat :=
  ((findUnit s u).map fun e => (e.recent.filter fun t => s.timebase < t + dayNs).length).getD 0

/-- Instances in flight of a unit run again from their retained inputs; the run produces the same bits (R112, R136), so only
their completion and the count of instances re-run change. -/
def rerunThose (s : State) (unit : Nat) (again : InFlight → Bool) : State :=
  match s.seqs.find? (·.unit == unit) with
  | none => s
  | some q =>
    let todo : List Who := (q.flight.filter again).map fun f =>
      { unit := unit, stream := f.stream, index := f.index, inst := f.inst }
    let s := { s with
      seqs := s.seqs.map fun x =>
        if x.unit == unit then
          { x with flight := x.flight.map fun f => { f with finished := f.finished && !again f } } else x
      beat := { s.beat with reexec := s.beat.reexec.filter (fun r => !todo.contains r) ++ todo } }
    bump s 0x1006 (unit / 256) noTensor todo.length

/-- Fault handling of R439 and R442: the unit's instances that have not completed run again. -/
def rerun (s : State) (unit : Nat) : State := rerunThose s unit fun f => !(f.finished && f.waiting == 0)

/-- The healthy spare of the kind on the TD with the lowest physical index (R439). -/
def lowestSpare (s : State) (kind die : Nat) : Option UnitEntry :=
  s.units.find? fun u => u.phys.kind == kind && u.phys.die == die && u.cond == .spare

/-- A substitute takes a suspect or failed tile's logical number (R439). The tile window names the logical number, so the
copied 2 MiB and the repointed window leave space 0x0 as it reads (R312). -/
def substitute (s : State) (u : PhysUnit) (unit cause : Nat) (sub : PhysUnit) : State :=
  let s := leaveNumber s u unit
  let s := updUnit s sub fun e => { e with logical := some unit, cond := .inService, cause := 0,
                                           step := s.step.toNat % 2 ^ 32 }
  let s := bump s 0x1005 u.die noTensor 1
  let s := post s 0x1002 (packed [(2, unit), (1, sub.index), (1, u.index), (4, s.step.toNat), (2, s.beat.number), (1, cause)])
  rerun s unit

/-! ### Compaction (R441) -/

/-- The logical numbers of a kind on a TD with the units of a condition that have them. -/
def numbersWith (s : State) (kind die : Nat) (ok : Cond → Bool) : List (PhysUnit × Nat) :=
  (s.units.filter fun u => u.phys.kind == kind && ok u.cond).flatMap fun u =>
    ((numbersOf u).filter fun n => n / 256 == die).map fun n => (u.phys, n)

/-- The highest filled logical number of a kind on a TD and the unit that runs it. -/
def highestFilled (s : State) (kind die : Nat) : Option (PhysUnit × Nat) :=
  (numbersWith s kind die (· != .failed)).foldl (fun best x => match best with
    | none => some x
    | some b => if b.2 < x.2 then some x else some b) none

/-- A failed unit's logical number leaves: the unit of the highest filled number of the kind takes it, and the highest number
becomes unfilled (R441). -/
def compactOne (s : State) (x : PhysUnit × Nat) : State :=
  let (u, n) := x
  let s := leaveNumber s u n
  let (left, s) := match highestFilled s u.kind (n / 256) with
    | some (h, top) =>
      if n < top then (top, updUnit s h fun e => { e with
        logical := e.logical.map fun k => if k = top then n else k
        standsFor := e.standsFor.map fun k => if k = top then n else k })
      else (n, s)
    | none => (n, s)
  post s 0x1006 (packed [(2, left), (4, s.step.toNat), (4, tdCounts s (n / 256))])

/-- Numbers of a kind on a TD whose unit has failed and which no other has taken. -/
def awaiting (s : State) (kind die : Nat) : List (PhysUnit × Nat) := numbersWith s kind die (· == .failed)

/-- The compaction of one kind on a TD; only while no instance of the program can run (R441). -/
def compact (s : State) (kind die : Nat) : State :=
  if live s then s else (awaiting s kind die).foldl compactOne s

/-- The numbers of a tile kind on a TD are compacted, and with them those of its units without spares (R441, R442). -/
def execCapacityCompaction (td : Fin 8) (kind : TileKind) (s : State) : Host.Outcome State Fault Refusal :=
  .next ([kindCode kind, 3, 4, 5, 6, 7].foldl (fun s k => compact s k td.val) s)

/-! ### Lines of space 0x0 that cannot be corrected (R319) -/

/-- The instances of the current beat that have issued. -/
def beatInstances (s : State) : List Who :=
  match s.program with
  | none => []
  | some p => s.seqs.flatMap fun q => match p.stages.find? (·.unit == q.unit) with
    | none => []
    | some g => [(Stream.F, g.f, q.posF), (Stream.B, g.b, q.posB), (Stream.U, g.u, q.posU)].flatMap fun x =>
        x.2.1.zipIdx.flatMap fun i => (List.range i.1.count).filterMap fun k =>
          if (i.2 < x.2.2.1 ∨ (i.2 = x.2.2.1 ∧ k < x.2.2.2)) ∧ i.1.beatOf k = s.beat.number then
            some { unit := q.unit, stream := x.1, index := i.2, inst := k }
          else none

/-- What of an instance's own work has not run as its re-execution is asked for: none of it, while its sources or a refetch are
awaited, or its rows in the fill gate. -/
def workLeft (s : State) (w : Who) : Option (Who × Bool) :=
  if s.beat.deferred.any (·.who == w) || s.beat.refetch.any (·.who == w) then some (w, true)
  else if s.gates.any fun g => g.unit == w.unit && g.rows.any fun r =>
      r.stream == w.stream && r.index == w.index && r.inst == w.inst then some (w, false)
  else none

/-- Instances run again (R114, R319): the count of R450 is of the re-runs of R439, R442 and R446 alone. -/
def reexecute (s : State) (ws : List Who) : State :=
  { s with beat := { s.beat with
    reexec := ws.foldl (fun rs w => rs.filter (· != w) ++ [w]) s.beat.reexec
    unrun := (s.beat.unrun.filter fun x => !ws.contains x.1) ++ ws.filterMap (workLeft s) } }

/-- Every result of the current beat under these numbers is discarded: what has issued in the beat or is in flight runs again,
and is counted unless its re-run is pending (R446, R450). -/
def rerunAll (s : State) (units : List Nat) : State :=
  let flight : List Who := s.seqs.flatMap fun q =>
    q.flight.map fun f => { unit := q.unit, stream := f.stream, index := f.index, inst := f.inst }
  let todo := ((flight ++ beatInstances s).filter fun w => units.contains w.unit && !s.beat.reexec.contains w).eraseDups
  let s := { s with seqs := s.seqs.map fun q =>
    if units.contains q.unit then { q with flight := q.flight.map fun f => { f with finished := false } } else q }
  todo.foldl (fun s w => bump s 0x1006 (w.unit / 256) noTensor 1) (reexecute s todo)

/-- Whether a move's source still holds what the move wrote to a line; a source on another module is taken to (log 102). -/
def sourceIntact (s : State) (w : Wrote) (line : Nat) : Bool :=
  let lo := max w.off line
  let n := min (w.off + w.len) (line + 64) - lo
  let a := w.src + (lo - w.off)
  w.move && (!isLocal s (nodeOf a) ||
    readLocal s (spaceOf a) (offsetOf a) n == .bytes (readBytes s.mem.sram lo n))

/-- An uncorrectable word or line of space 0x0, failing its second read: moved again from its source with the reading
instance run again, rewritten by re-execution of the beat, or lost (R319): a lost line is not delivered until it is written again, and the
instance that has read it meets a failed access (DESIGN CHOICE, log 107). -/
def sramLost (s : State) (off : Nat) (reader : Option Who) : State :=
  let line := off / 64 * 64
  match (s.beat.writes.filter fun w => decide (w.off < line + 64) && decide (line < w.off + w.len)).getLast? with
  | some w => if sourceIntact s w line then reexecute s reader.toList else reexecute s (beatInstances s)
  | none =>
    let s := { s with mem := { s.mem with lostLines := s.mem.lostLines.filter (· != line) ++ [line] } }
    let s := match reader with
      | some w => accessFailed s w 1 (0xFFFF * 2 ^ 48 + off)
      | none => s
    raiseFault (post s 0x0C01 (packed [(8, line), (4, s.step.toNat), (2, s.beat.number)])) 0x0C01 4

/-! ### Residue mismatches and re-probes (R113, R438 to R442) -/

def tilePhys (t : TileId) : PhysUnit := { kind := kindCode t.kind, die := t.td.val, index := t.index }

/-- A unit becomes suspect: the table entry and the unit-suspect event (R436, R452; the event DEDUCED, log 22). -/
def suspect (s : State) (u : PhysUnit) (cause : Nat) : State := unitEvent (setCond s u .suspect cause) 0x1003 u (some cause)

/-- An adder pipe in service that is suspect or has failed leaves service to the other pipe of its interface, unless that
one has failed (R260, R442, R445). -/
def replacePipe (s : State) (u : PhysUnit) : State :=
  let iface := u.index / 2
  let other := { u with index := 2 * iface + (1 - u.index % 2) }
  if u.kind ≠ 0xA ∨ (getAt s.reduce.pipes iface 0).val ≠ u.index % 2 then s
  else match (findUnit s other).map fun x => (x.cond : Cond) with
    | some .failed | none => s
    | some c =>
      let new : Fin 2 := if u.index % 2 = 0 then 1 else 0
      let s := { s with reduce := { s.reduce with pipes := setAt s.reduce.pipes iface new } }
      if c = .spare then setCond s other .inService 0 else s

/-- A suspect tile is replaced by a spare, or keeps its number and runs again itself after a passed re-probe (R439, R441); an
adder pipe is replaced by the other of its interface (R445). -/
def replaceOrKeep (s : State) (u : PhysUnit) (cause : Nat) : State :=
  let s := replacePipe s u
  match (findUnit s u).bind (·.logical) with
  | none => s
  | some unit => match lowestSpare s u.kind u.die with
    | some sub => substitute s u unit cause sub.phys
    | none => s

/-- A tile reports a residue mismatch to its play sequencer, naming the DPU and the cycle (R113, R439): a stopped, failed or
disabled tile reports none. `lost` are the lines that were uncorrectable in the copy to the substitute (R439). -/
def execTileResidueMismatch (t : TileId) (s : State) (dpu : Nat := 0) (cycle : Nat := 0) (lost : List Nat := []) : Host.Outcome State Fault Refusal :=
  let u := tilePhys t
  match findUnit s u with
  | none => .next s
  | some e =>
    if e.cond = .inService then
      let s := countMismatch s u
      let s := match e.logical with
        | some unit => updSeq (bump s 0x0409 unit noTensor 1) unit fun q => { q with reported := some { dpu := dpu, cycle := cycle } }
        | none => s
      let s := replaceOrKeep (suspect s u 2) u 2
      .next (if ((findUnit s u).bind (·.logical)).isSome then s
        else (lost.filter fun a => sramPopulated s (a / 64 * 64) 64).foldl (fun s a => sramLost s a none) s)
    else .next s

/-- The condition of a unit that its re-probe has cleared (R440, R441, R445): a tile or an adder pipe whose place another has
taken is a spare, any other unit is in service. -/
def cleared (s : State) (u : PhysUnit) (e : UnitEntry) : Cond :=
  let replaced := if u.kind ≤ 2 then e.logical.isNone
    else u.kind == 0xA && (getAt s.reduce.pipes (u.index / 2) 0).val != u.index % 2
  if replaced then .spare else .inService

/-- A passed or failed re-probe of a suspect unit (R440, R441). One that kept its number runs its instances again itself
when it passes. Failed, or with 3 mismatches in 24 h, it fails. -/
def reprobe (s : State) (u : PhysUnit) (e : UnitEntry) (passes : Bool) : State :=
  let s := if passes then (numbersOf e).foldl rerun s else s
  if passes && decide (recentMismatches s u < 3) then
    unitEvent (setCond s u (cleared s u e) 0) 0x1004 u none
  else
    let cause := if passes then 7 else 3
    unitEvent (setCond s u .failed cause) 0x1005 u (some cause)

/-- Incomplete instances of a failed unit without a substitute stay incomplete: their re-execution is given up and the
module holds with cause 0x1 (R441). -/
def abandon (s : State) (unit : Nat) : State :=
  match s.seqs.find? (·.unit == unit) with
  | none => s
  | some q =>
    let todo : List (Who × Nat) :=
      q.flight.map fun f => ({ unit := unit, stream := f.stream, index := f.index, inst := f.inst }, 1)
    { s with beat := { s.beat with
        reexec := s.beat.reexec.filter (·.unit != unit)
        stuck := s.beat.stuck ++ todo } }

/-- A suspect tile's re-probe (R440, R441). -/
def execTileReprobe (t : TileId) (passes : Bool) (s : State) : Host.Outcome State Fault Refusal :=
  let u := tilePhys t
  match findUnit s u with
  | none => .next s
  | some e =>
    if e.cond = .suspect then
      let s := reprobe s u e passes
      match ((findUnit s u).map fun x => x.cond : Option Cond), e.logical with
      | some .failed, some unit => .next (compact (if passes then s else abandon s unit) u.kind u.die)
      | _, _ => .next s
    else .next s

/-! ### Units without spares (R442) -/

/-- Units that may stand in for a failed one, in the order searched (R442). -/
def standInOrder (u : PhysUnit) : List PhysUnit :=
  match u.kind with
  | 3 => (List.range 11).map fun i => { u with index := (u.index + 1 + i) % 12 }
  | 4 => [{ u with index := 1 - u.index }]
  | 5 | 6 | 7 => (List.range 7).map fun i => { u with die := (u.die + 1 + i) % 8 }
  | _ => []

/-- The stand-in of a failed unit is assigned, or its number is lost as a tile's is (R441, R442). The side records that a
Row Engine's stand-in lacks are rebuilt under R171. -/
def standIn (s : State) (u : PhysUnit) (unit : Nat) : State :=
  let found := (standInOrder u).find? fun v => (findUnit s v).any fun e => e.cond == .inService
  match found with
  | some v =>
    let s := leaveNumber s u unit
    let s := updUnit s v fun e => { e with standsFor := e.standsFor ++ [unit] }
    let s := post s 0x100A (packed [(2, unit), (2, ((findUnit s v).bind (·.logical)).getD 0xFFFF), (4, s.step.toNat)])
    rerun s unit
  | none => compact (abandon s unit) u.kind (unit / 256)

/-- The unit that runs a logical unit's stage program: its holder, or its stand-in. -/
def runner (s : State) (unit : Nat) : Option UnitEntry :=
  match holder s unit with
  | some e => some e
  | none => s.units.find? fun u => u.standsFor.contains unit && u.cond != .failed

/-- Whether a logical unit is stopped: the unit that holds it or stands in for it is suspect, and no other has taken its
number (R439, R441, R446). -/
def unitStopped (s : State) (unit : Nat) : Bool := (runner s unit).any (·.cond == .suspect)

/-- A re-probe outcome of a unit without spares: a failed one leaves every number it runs to stand-ins, an adder pipe its
place (R442). -/
def reprobeUnit (s : State) (e : UnitEntry) (passes : Bool) : State :=
  let s := reprobe s e.phys e passes
  match (findUnit s e.phys).map fun x => (x.cond : Cond) with
  | some .failed => (numbersOf e).foldl (fun s n => standIn s e.phys n) (replacePipe s e.phys)
  | _ => s

/-- A mismatch in a VE, Row Engine or update engine (R113, R167, R223, R442): the first re-runs the unit's incomplete
instances on the unit, under every number it runs; a second in the same re-run makes it suspect and re-probes it. -/
def execUnitResidueMismatch (unit : Nat) (second reprobePasses : Bool) (s : State) : Host.Outcome State Fault Refusal :=
  match runner s unit with
  | none => .next s
  | some e =>
    if 3 ≤ e.phys.kind ∧ e.phys.kind ≤ 5 ∧ e.cond = .inService then
      let s := countMismatch s e.phys
      if second then
        let s := suspect s e.phys 2
        let e := (findUnit s e.phys).getD e
        .next (reprobeUnit s e reprobePasses)
      else .next ((numbersOf e).foldl rerun s)
    else .next s

/-! ### Management path and data path (R444 to R446) -/

/-- What the management path says of a unit beside what the data path says (R444, R445): a disagreement makes the unit
suspect; a report on a suspect unit other than a tile is its re-probe (log 23). -/
def execManagementTelemetry (r : UnitReport) (s : State) : Host.Outcome State Fault Refusal :=
  match findUnit s r.phys with
  | none => .next s
  | some e =>
    if e.cond = .suspect ∧ 2 < r.phys.kind then .next (reprobeUnit s e r.managementSound)
    else if r.managementSound = r.dataPathSound ∨ (e.cond ≠ .inService ∧ e.cond ≠ .spare) then .next s
    else
      let cause := if r.managementSound then 5 else 4
      .next (replaceOrKeep (suspect s r.phys cause) r.phys cause)

/-- A die scheduler acts on the table: results of the current beat of a suspect or failed unit are discarded and its
instances run again (R446). -/
def execUnitTableApply (u : PhysUnit) (s : State) : Host.Outcome State Fault Refusal :=
  match findUnit s u with
  | none => .next s
  | some e =>
    if e.cond = .suspect ∨ e.cond = .failed then
      .next (rerunAll s (numbersOf e ++ (s.beat.moved.filter (·.1 == u)).map (·.2)))
    else .next s

end Sys2Proof.Machine
end

