-- ==== Sys2Proof/Machine/Access.lean ====
section
/-! DEFINITION. How an access ends for whoever made it: window errors (R370), unreachable members (R396), completed
requests (R298, R300) and bulk transfers (R301). -/

namespace Sys2Proof.Machine

open Sys2Proof

/-- Set `ports[p]`. -/
def setPort (s : State) (p : Fin 12) (q : Port) : State :=
  { s with fabric := { s.fabric with ports := s.fabric.ports.set p q } }

def updPort (s : State) (p : Fin 12) (f : Port → Port) : State := setPort s p (f s.fabric.ports[p])

/-- A failed BAR2 access: the first since ERR was clear is recorded and posts a window-error event (R361, R370). -/
def windowError (s : State) (win cause addr : Nat) : State :=
  if s.mbox.winErr then s
  else
    let s := { s with mbox := { s.mbox with winErr := true, winCause := BitVec.ofNat 3 cause,
                                            winErrAddr := BitVec.ofNat 64 addr } }
    post s 0x0E04 (packed [(1, win), (1, cause), (8, addr)])

/-- An entry of the inbound log, while the journal records (R243). Kinds: 0 write, 1 atomic result, 2 signal, 3 reduction
result (log 38). -/
def logInbound (s : State) (source kind addr : Nat) (data : List Byte) : State :=
  if s.journal.recording then
    { s with journal := { s.journal with log := s.journal.log ++
        [{ source := source, kind := kind, addr := addr, beat := s.beat.number, signals := s.journal.signals, data := data }] } }
  else s

/-- Bytes kept for a unit of what its remote reads brought (R300). -/
def addArrival (s : State) (key addr : Nat) (data : List Byte) : State :=
  let cells : List Host.Cell := data.zipIdx.map fun x => (addr + x.2, x.1)
  let old := ((s.fabric.arrivals.find? (·.1 == key)).map (·.2)).getD []
  let keep := old.filter fun c => decide (c.1 < addr) || decide (addr + data.length ≤ c.1)
  { s with fabric := { s.fabric with
      arrivals := s.fabric.arrivals.filter (·.1 != key) ++ [(key, keep ++ cells)] } }

/-- Keys of what commands and the host fetch: what a program's end leaves. -/
def hostArrivals (s : State) : List (Nat × List Host.Cell) := s.fabric.arrivals.filter fun a => decide (0x20000 ≤ a.1)

/-- The fetches of the decode engines end with what they were for (R352). -/
def dropFetches (s : State) : State :=
  let igd (o : Owner) : Bool := match o with | .igd _ _ => true | _ => false
  { s with fabric := { s.fabric with
      txns := s.fabric.txns.filter fun t => !igd t.owner
      lateReads := s.fabric.lateReads ++ (s.fabric.bulks.filter fun b => igd b.owner).map fun b => (b.node, b.tid)
      bulks := s.fabric.bulks.filter fun b => !igd b.owner } }

def dropArrivals (s : State) (key : Nat) : State :=
  { s with fabric := { s.fabric with arrivals := s.fabric.arrivals.filter (·.1 != key) } }

/-- One awaited write, move or row of an instance is done. -/
def lessWaiting (s : State) (w : Who) : State :=
  { s with seqs := s.seqs.map fun q =>
      if q.unit == w.unit then
        { q with flight := q.flight.map fun f =>
            if f.stream == w.stream && f.index == w.index && f.inst == w.inst then { f with waiting := f.waiting - 1 } else f }
      else q }

/-- Key of a decode engine's fetched bytes among the arrivals. -/
def engineKey (igd engine : Nat) : Nat := 0x10000 + 16 * igd + engine

/-- A fetch of a decode engine failed: the IGD posts the event and repeats the fetch later (R340). -/
def fetchFailed (s : State) (igd engine status addr : Nat) : State :=
  let k := 16 * igd + engine
  let s := post s 0x0B05 (packed [(2, (9 + igd) * 256), (1, status), (8, addr)])
  { s with ingest := { s.ingest with
      fetching := if s.ingest.fetching.contains k then s.ingest.fetching else s.ingest.fetching ++ [k] } }

/-- Key of a command's fetched data among the arrivals (R383), and of a host read in parts. -/
def cmdKey (c : Cmd) : Nat := 0x20000 + 2 * c.nth
def hostKey (id : Nat) : Nat := 0x20001 + 2 * id

/-- Whether a request or transfer of an owner is still outstanding. -/
def outstanding (s : State) (o : Owner) : Bool := s.fabric.txns.any (·.owner == o) || s.fabric.bulks.any (·.owner == o)

/-- The completion that a command's last acknowledged write allows (R383). -/
def dataWritten (s : State) (c : Cmd) : State :=
  match s.mbox.awaiting.find? (·.cmd == c) with
  | some a =>
    if outstanding s (.data c) then s
    else complete { s with mbox := { s.mbox with awaiting := s.mbox.awaiting.filter (·.cmd != c) } } c 0 a.result a.v1 a.v2
  | none => s

/-- An access of a command's data at another module failed: the command ends with status 0x07 (R383, R384). -/
def dataFailed (s : State) (c : Cmd) : State :=
  let s := dropArrivals { s with mbox := { s.mbox with awaiting := s.mbox.awaiting.filter (·.cmd != c) } } (cmdKey c)
  if s.mbox.executing.any (·.cmd == c) then done s c 0x07 else s

/-- One of the requests of a host read has its data; the last of them completes the read (R368). -/
def hostPartDone (s : State) (o : Owner) (addr n id : Nat) : State :=
  if outstanding s o then s
  else
    let m := ((s.fabric.arrivals.find? (·.1 == hostKey id)).map (·.2)).getD []
    emit (dropArrivals s (hostKey id)) (.readData ((List.range n).map fun i =>
      ((m.find? fun c => c.1 == addr + i).map (·.2)).getD 0))

/-- A request completes with a status (R298): its data or its failure reaches the issuer (R300, R340, R370). -/
def finishTxn (s : State) (t : Txn) (status : Nat) (data : List Byte) : State :=
  let s := { s with fabric := { s.fabric with txns := s.fabric.txns.filter (·.tid != t.tid) } }
  let s := match t.owner with
    | .hostRead win n =>
      if status = 0 then emit s (.readData data)
      else emit (windowError s win 3 t.addr.toNat) (.readData (List.replicate n 0xFF))
    | .hostWrite win => if status = 0 then s else windowError s win 3 t.addr.toNat
    | .unit w =>
      if status ≠ 0 then accessFailed s w status t.addr.toNat
      else if t.typ = 1 then addArrival s w.unit t.addr.toNat data
      else lessWaiting s w
    | .hostPart win addr n id =>
      if status = 0 then hostPartDone (addArrival s (hostKey id) t.addr.toNat data) t.owner addr n id
      else
        let s := { s with fabric := { s.fabric with txns := s.fabric.txns.map fun x =>
          if x.owner == t.owner then { x with owner := .nobody } else x } }
        emit (windowError (dropArrivals s (hostKey id)) win 3 t.addr.toNat) (.readData (List.replicate n 0xFF))
    | .data c =>
      if status ≠ 0 then dataFailed s c
      else if t.typ = 1 then addArrival s (cmdKey c) t.addr.toNat data
      else dataWritten s c
    | .dma c => if status = 0 then s else done s c (if status = 3 ∨ status = 6 then 0x09 else 0x07)
    | .nobody | .proxy _ | .relay _ => s
    | .igd i e =>
      if status = 0 then addArrival s (engineKey i e) t.addr.toNat data
      else fetchFailed s i e status t.addr.toNat
  if status = 3 ∨ status = 6 then memberUnreachable s t.node else s

/-- Whether `x` is the transfer `b`: transaction ids are the requester's, so those of served reads are other modules'. -/
def sameBulk (b x : Bulk) : Bool := x.tid == b.tid && x.served == b.served && x.node == b.node

def dropBulk (s : State) (b : Bulk) : State :=
  { s with fabric := { s.fabric with bulks := s.fabric.bulks.filter fun x => !sameBulk b x } }

/-- Proxied commands of a member and ring go to it in their order, each once its host data are there (R394). -/
def forwardFrom (node : Word16) (ring : Nat) : List Proxied → State → State
  | [], s => s
  | p :: ps, s =>
    if p.node ≠ node ∨ p.cmd.ring ≠ ring then forwardFrom node ring ps s
    else match p.stage with
      | .moving raw =>
        if s.fabric.bulks.any (·.owner == .proxy p.cmd) then s
        else
          let s := { s with mbox := { s.mbox with proxied := s.mbox.proxied.map fun x =>
            if x == p then { x with stage := .forwarded } else x } }
          forwardFrom node ring ps (sendFrame s (mkFrame s 0x10 node.toNat 0 64 0 0 (padTo 64 raw)))
      | _ => forwardFrom node ring ps s

/-- A member's completion goes back by the path its command came (R394, R398), unless a mailbox reset discarded it (R366). -/
def returnCompletion (s : State) (p : Proxied) (e : Event) : State :=
  let s := { s with mbox := { s.mbox with proxied := s.mbox.proxied.filter (·.cmd != p.cmd) } }
  if p.discard then s
  else match p.cmd.path with
    | .smbus => emit s (.smbus (entryBytes e false))
    | _ => deliverCompletion s e

/-- The host data of a member's command have been moved: the command is forwarded, or its completion is given (R394). -/
def proxyMoved (s : State) (c : Cmd) : State :=
  match s.mbox.proxied.find? (·.cmd == c) with
  | none => s
  | some p => match p.stage with
    | .moving _ => forwardFrom p.node c.ring s.mbox.proxied s
    | .returning e => returnCompletion s p e
    | .forwarded => s

/-- The transfer of such data failed: the command ends with status 0x07, and those behind it go on. A member out of reach
ends them all (R396). -/
def proxyFailed (s : State) (c : Cmd) : State :=
  match s.mbox.proxied.find? (·.cmd == c) with
  | none => s
  | some p =>
    let s := { s with mbox := { s.mbox with proxied := s.mbox.proxied.filter (·.cmd != c) } }
    let s := if p.discard then s else done s c 0x07
    forwardFrom p.node c.ring s.mbox.proxied s

/-- A bulk transfer ends without its last ack; what a bulk read still brings is late (R278, R298, R300, R301). -/
def failBulk (s : State) (b : Bulk) (status : Nat) : State :=
  let s := dropBulk s b
  let s := if b.inward && !b.served && status != 3 then { s with fabric := { s.fabric with
      lateReads := s.fabric.lateReads ++ [(b.node, b.tid)] } } else s
  let s := match b.owner with
    | .unit w | .relay w => accessFailed s w status (if b.inward then b.src.toNat else b.dst.toNat)
    | .dma c => done { s with fabric := { s.fabric with bulks := s.fabric.bulks.filter (·.owner != .dma c) } } c
        (if status = 3 ∨ status = 6 then 0x09 else 0x07)
    | .proxy c => if status = 3 ∨ status = 6 then s else proxyFailed s c
    | .igd i e => fetchFailed s i e status b.src.toNat
    | _ => s
  if status = 3 ∨ status = 6 then memberUnreachable s b.node else s

/-- Most bytes one bulk-read request can ask for: its length field has 16 bits (R282; log 30). -/
def bulkAsk : Nat := 0xFFC0

/-- A bulk read from a node begins (R301). What its request's length field does not reach is asked for when it is complete,
so a move has one transfer in flight (log 30). -/
def startBulkIn (s : State) (node src dst len : Nat) (o : Owner) : State :=
  let tid := s.fabric.nextTid
  let n := min len bulkAsk
  let b : Bulk := { tid := tid, node := BitVec.ofNat 16 node, inward := true, src := BitVec.ofNat 64 src,
                    dst := BitVec.ofNat 64 dst, len := n, acked := 0, rest := len - n, served := false, owner := o }
  let s := { s with fabric := { s.fabric with nextTid := tid + 1, bulks := s.fabric.bulks ++ [b] } }
  if s.fabric.rcd.node = 0xFFFF#16 ∨ (egress s node).isNone then failBulk s b 3
  else sendFrame s (mkFrame s 0x09 node 0 n tid.toNat (BitVec.ofNat 64 src) (leBytes 8 dst))

/-- Bulk data frames of a byte string to a node, in pieces of the port's maximum payload; the last carries the
end-of-message flag (R282, R301). Frames of a read of space 0x1 go once the writes to its stripes before it are done
(R324): `from_` is its offset there. -/
def sendBulk (s : State) (node tid dst : Nat) (data : List Byte) (from_ : Option Nat) : State :=
  match egress s node with
  | none => s
  | some p =>
    let k := maxPayload s.fabric.ports[p]
    let ps := pieces k (data.length / k + 1) 0 data
    ps.zipIdx.foldl (fun s x =>
      let f := mkFrame s 0x08 node 0 x.1.2.length tid (BitVec.ofNat 64 (dst + x.1.1)) x.1.2
      let f := { f with flags := if x.2 + 1 = ps.length then 4 else 0 }
      match from_ with
      | some off => ackWhenVisible s 1 off data.length f
      | none => enqueue s p f) s

/-- A bulk transfer outward begins: registered, then sent (R301). `rest` is what a move between two other modules has still to
fetch after it, `from_` the offset of a source in this module's space 0x1 (R324). -/
def startBulkOut (s : State) (node src dst : Nat) (data : List Byte) (o : Owner) (rest : Nat := 0) (from_ : Option Nat := none) :
    State :=
  let tid := s.fabric.nextTid
  let b : Bulk := { tid := tid, node := BitVec.ofNat 16 node, inward := false, src := BitVec.ofNat 64 src,
                    dst := BitVec.ofNat 64 dst, len := data.length, acked := 0, rest := rest,
                    served := false, owner := o }
  let s := { s with fabric := { s.fabric with nextTid := tid + 1, bulks := s.fabric.bulks ++ [b] } }
  if s.fabric.rcd.node = 0xFFFF#16 ∨ (egress s node).isNone then failBulk s b 3
  else sendBulk s node tid.toNat dst data from_

/-- Key of what a move between two other modules has fetched, among the arrivals. -/
def relayKey (b : Bulk) : Nat := 0x11000 + b.tid.toNat % 0xF000

/-- One half of a piece of a move between two other modules is done: what was fetched goes on to its destination, and then the
next piece is fetched (R301; log 30). -/
def relayOn (s : State) (w : Who) (b : Bulk) : State :=
  let a := b.dst.toNat
  if b.inward then
    let m := ((s.fabric.arrivals.find? (·.1 == relayKey b)).map (·.2)).getD []
    let data := (List.range b.len).map fun i => ((m.find? fun c => c.1 == a + i).map (·.2)).getD 0
    startBulkOut (dropArrivals s (relayKey b)) (nodeOf a) b.src.toNat a data (.relay w) b.rest
  else if 0 < b.rest then
    startBulkIn s (nodeOf b.src.toNat) (b.src.toNat + b.len) (a + b.len) b.rest (.relay w)
  else lessWaiting s w

/-- A bulk transfer is complete: its move is, or goes on with what remains (R301). -/
def finishBulk (s : State) (b : Bulk) : State :=
  let s := dropBulk s b
  match b.owner with
  | .relay w => relayOn s w b
  | o =>
    if 0 < b.rest then startBulkIn s b.node.toNat (b.src.toNat + b.len) (b.dst.toNat + b.len) b.rest o
    else match o with
    | .unit w => lessWaiting s w
    | .dma c => if s.fabric.bulks.any (·.owner == .dma c) then s else done s c 0
    | .proxy c => if s.fabric.bulks.any (·.owner == .proxy c) then s else proxyMoved s c
    | _ => s

/-- What waited for its bytes to be visible, and does no longer, ends: a command, with the completion it has due, or a move's
transfer (R301, R324, R388). -/
def settleEnds (s : State) : State :=
  let go := s.mem.ends.filter (·.stripes.isEmpty)
  let s := { s with mem := { s.mem with ends := s.mem.ends.filter fun e => !e.stripes.isEmpty } }
  go.foldl (fun s e => match e with
    | .command c _ => match s.mbox.awaiting.find? (·.cmd == c) with
      | some a => complete { s with mbox := { s.mbox with awaiting := s.mbox.awaiting.filter (·.cmd != c) } } c 0 a.result a.v1 a.v2
      | none => done s c 0
    | .bulk node tid _ =>
      match s.fabric.bulks.find? fun b => b.tid == tid && b.inward && b.node == node && !b.served with
      | some b => finishBulk s b
      | none => s) s

/-- What a request that cannot be delivered means for its issuer: this module's own completes, another module's is
answered (R278, R293). `typ` is the request's frame type. -/
def refuseRequest (s : State) (f : Kft) (status : Nat) : State :=
  let typ := f.typ.toNat
  if f.src = s.fabric.rcd.node then
    if typ = 8 ∨ typ = 9 then
      match s.fabric.bulks.find? (fun b => b.tid == f.tid && !b.served) with
      | some b => failBulk s b status
      | none => s
    else match s.fabric.txns.find? (·.tid == f.tid) with
      | some t => finishTxn s t status []
      | none => s
  else if typ = 1 ∨ typ = 3 ∨ typ = 5 then
    let r := mkFrame s (typ + 1) f.src.toNat status 0 f.tid.toNat f.arg []
    sendFrame s r
  else if typ = 9 ∨ typ = 8 then sendFrame s (mkFrame s 0x0A f.src.toNat status 0 f.tid.toNat f.arg [])
  else s

/-- Whether a frame is a request that R278 and R293 answer with a status: bulk data are one where they write, which of this
module's own its transfers tell. -/
def isRequest (s : State) (f : Kft) : Bool :=
  f.typ == 1 || f.typ == 3 || f.typ == 5 || f.typ == 9 ||
    (f.typ == 8 && (f.src != s.fabric.rcd.node ||
      s.fabric.bulks.any fun b => b.tid == f.tid && b.node == f.dst && !b.served && !b.inward))

/-- Frames discarded (count 0x0B0D of R481): the logical port and the reason. -/
def discard (s : State) (p : Nat) (reason n : Nat) : State := bump s 0x0B0D (p + 256 * reason) noTensor n

/-- Lanes of a logical port: physical numbering (R274). -/
def portLanes (s : State) (p : Fin 12) : Nat :=
  if p.val < 6 then (if (s.fabric.ports.toList.getD (p.val + 6) s.fabric.ports[p]).present then 0x0F else 0xFF) else 0xF0

/-- The routes of a port lead nowhere: the squad members behind it cannot be reached (R396). -/
def routesLost (s : State) (p : Nat) : State :=
  s.mbox.squad.foldl (fun s n => if routeOf s n.toNat = p then memberUnreachable s n else s) s

/-- A logical port is down: its requests end with status 0x3, its other queued frames are discarded and counted, and its
routes lead nowhere (R278, R396). -/
def portDrops (s : State) (p : Fin 12) : State :=
  let q := s.fabric.ports[p]
  let queued := q.queues.toList.flatten.map (·.f)
  let s := setPort s p { q with link := .down, gated := true, queues := Vector.replicate 6 [], retry := [] }
  let others := (queued.filter fun f => !isRequest s f).length
  let s := (((q.retry.map (·.f)) ++ queued).filter (isRequest s)).foldl (fun s f => refuseRequest s f 3) s
  routesLost (discard s p.val 11 others) p.val

/-- A logical port goes down, with its event (R278). -/
def portDown (s : State) (p : Fin 12) (cause : Nat) : State := portDrops (post s 0x0B02 (packed [(1, p.val), (1, cause)])) p

end Sys2Proof.Machine
end

