-- ==== Sys2Proof/Machine/Wire.lean ====
section
/-! DEFINITION. A frame on the wire (R279, R280, R282), the sending side of a port (R284 to R289) and the receiving side
(R284, R285, R287, R288, R293). -/

namespace Sys2Proof.Machine

open Sys2Proof

/-- The 32 bytes of a KFT header (R282). -/
def kftHeader (f : Kft) : List Byte :=
  [BitVec.ofNat 8 (1 + 16 * f.cls.toNat), f.typ] ++ leBytes 2 f.src.toNat ++ leBytes 2 f.dst.toNat ++ [f.hops, f.flags] ++
    leBytes 3 f.seq.toNat ++ [f.status] ++ leBytes 3 f.ack.toNat ++ [f.credit] ++ leBytes 2 f.grant.toNat ++
    leBytes 2 f.len.toNat ++ leBytes 4 f.tid.toNat ++ leBytes 8 f.arg.toNat

/-- Trailer of a frame: CRC-32C over header and payload (R282). -/
def kftCrc (f : Kft) : Word32 := crc32c (kftHeader f ++ f.payload)

/-- Hash of R280. -/
def flowHash (f : Kft) : Nat :=
  (mix (BitVec.ofNat 64 f.src.toNat) (BitVec.ofNat 64 (f.dst.toNat * 8 + f.cls.toNat))).toNat % 2 ^ 32

/-- The fields a port puts around a frame under a port record (R279, R280, R288, R292). The UDP checksum covers the
CRC-32C trailer with its low byte first, as the header's fields have theirs (DESIGN CHOICE, log 100): R9 and R282 give no
order for it. -/
def wireOf (r : PortRec) (p : Fin 12) (f : Kft) : Wire :=
  let v4 := r.flags.getLsbD 1
  let c := f.cls.toNat
  let h := flowHash f
  let ecn := if c < 2 then 0 else if f.ce then 3 else 2
  let src := 0xC000 + h % 0x4000
  let crc := kftCrc f
  let body := kftHeader f ++ f.payload ++ leBytes 4 crc.toNat
  let len := 8 + body.length
  let pseudo := leBytes 16 r.ownIp.toNat ++ leBytes 16 r.partnerIp.toNat ++ beBytes 4 len ++ beBytes 4 17 ++
    beBytes 2 src ++ beBytes 2 r.udp.toNat ++ beBytes 2 len ++ beBytes 2 0 ++ body
  { port := p, dstMac := r.hopMac, srcMac := r.ownMac, etherType := if v4 then 0x0800 else 0x86DD
    srcIp := r.ownIp, dstIp := r.partnerIp, v4 := v4
    vlan := if r.flags.getLsbD 2 then some (7 - c, r.vlan.toNat % 4096) else none
    trafficClass := (r.dscp.toList.getD c 0).toNat % 64 * 4 + ecn
    ipLength := f.payload.length + (if v4 then 64 else 84)
    flowLabel := if v4 then 0 else h % 2 ^ 20
    hopLimit := 64, udpSrc := src, udpDst := r.udp.toNat
    udpChecksum := if v4 then 0 else udpSum pseudo
    kft := f, crc := crc }

/-- The checksum of an IPv4 header. -/
def ipSum (bs : List Byte) : Nat := if udpSum bs = 65535 then 0 else udpSum bs

/-- The IP header of a frame (R279). -/
def ipHeader (w : Wire) : List Byte :=
  if w.v4 then
    let lead := [0x45#8, BitVec.ofNat 8 w.trafficClass] ++ beBytes 2 w.ipLength ++ beBytes 4 (Config.ipv4Ident w.crc) ++
      [BitVec.ofNat 8 w.hopLimit, 17#8]
    let ends := (leBytes 16 w.srcIp.toNat).take 4 ++ (leBytes 16 w.dstIp.toNat).take 4
    lead ++ beBytes 2 (ipSum (lead ++ ends)) ++ ends
  else
    beBytes 4 (6 * 2 ^ 28 + w.trafficClass * 2 ^ 20 + w.flowLabel) ++ beBytes 2 (w.ipLength - 40) ++
      [17#8, BitVec.ofNat 8 w.hopLimit] ++ leBytes 16 w.srcIp.toNat ++ leBytes 16 w.dstIp.toNat

/-- The bytes of a frame in the order of R279, up to the CRC-32C trailer. -/
def wireBytes (w : Wire) : List Byte :=
  leBytes 6 w.dstMac.toNat ++ leBytes 6 w.srcMac.toNat ++
    (match w.vlan with
      | some (pcp, id) => beBytes 2 0x8100 ++ beBytes 2 (pcp * 8192 + id)
      | none => []) ++
    beBytes 2 w.etherType ++ ipHeader w ++ beBytes 2 w.udpSrc ++ beBytes 2 w.udpDst ++
    beBytes 2 (w.ipLength - if w.v4 then 20 else 40) ++ beBytes 2 w.udpChecksum ++ kftHeader w.kft ++ w.kft.payload ++
    leBytes 4 w.crc.toNat

/-- The FCS that ends the frame (R279). -/
def fcsOf (w : Wire) : Word32 := crc32 (wireBytes w)

/-- The class whose credits a frame returns: the lowest with units owed (R282, R287). -/
def grantClass (q : Port) : Option Nat := (List.range 6).find? fun c => decide (0 < q.owed.toList.getD c 0)

/-- A frame as the port sends it: link sequence, ack field, credit grant and congestion echo (R282, R284, R287, R288). -/
def stamp (q : Port) (f : Kft) : Kft :=
  let g := grantClass q
  let echo := q.echoDue.toList.getD f.cls.toNat false
  { f with
    seq := q.nextSeq
    ack := if q.heard then q.expect - 1 else 0
    flags := (f.flags &&& 0x05#8) ||| (if echo then 1#8 else 0#8) ||| (if q.heard then 2#8 else 0#8)
    credit := (g.map fun c => BitVec.ofNat 8 (8 + c)).getD 0
    grant := (g.map fun c => BitVec.ofNat 16 (min (q.owed.toList.getD c 0) 65535)).getD 0 }

/-- A frame leaves a port under a port record: stamped, kept in the retry buffer, its credits spent (R284, R287). -/
def transmit (s : State) (p : Fin 12) (x : Queued) : State :=
  let q := s.fabric.ports[p]
  let f := x.f
  let f' := stamp q f
  let g := grantClass q
  let c := f.cls.toNat
  let q' := { q with
    nextSeq := q.nextSeq + 1
    retry := q.retry ++ [{ f := f', rcd := x.rcd }]
    unacked := 0
    credits := Vector.ofFn fun i => if i.val = c then q.credits[i] - creditUnits f else q.credits[i]
    owed := Vector.ofFn fun i => if some i.val = g then q.owed[i] - min q.owed[i] 65535 else q.owed[i]
    echoDue := Vector.ofFn fun i => if i.val = c then false else q.echoDue[i] }
  let s := bump (setPort s p q') 0x0B01 p.val noTensor 1
  emit s (.wire (wireOf x.rcd p f'))

/-- A frame sent again from the retry buffer with flag bit [3] set, one retransmission more of it (R285). -/
def resend (s : State) (p : Fin 12) (x : Queued) : State :=
  let s := updPort s p fun q => { q with retry := q.retry.map fun y => if y.f.seq = x.f.seq then { y with sent := y.sent + 1 } else y }
  let f := { x.f with flags := x.f.flags ||| 8#8 }
  emit (bump s 0x0B03 p.val noTensor 1) (.wire (wireOf x.rcd p f))

/-- The most retransmissions of a frame of the retry buffer: none of them has been covered by an ack (R285). -/
def Port.retries (q : Port) : Nat := q.retry.foldl (fun n x => max n x.sent) 0

/-- A frame toward the link partner that leaves at once, before the link changes, while the port holds the credits that
cover it; otherwise it waits in its class's queue (R277, R287, R306). -/
def transmitNow (s : State) (p : Fin 12) (f : Kft) : State :=
  if creditUnits f ≤ s.fabric.ports[p].credits.toList.getD f.cls.toNat 0 then
    transmit s p { f := f, rcd := s.fabric.ports[p].rcd }
  else enqueue s p f

/-! ### The packet buffer pool (R16, R287, R290), in units of 64 B -/

/-- Units of a list of frames. -/
def unitsOf (xs : List Queued) : Nat := (xs.map fun x => creditUnits x.f).sum

/-- Units of the 4 MiB retry buffer of a logical port's physical port that are free (R290). -/
def retryRoom (s : State) (p : Fin 12) : Nat :=
  65536 - ((List.finRange 12).filter fun r => r.val % 6 == p.val % 6).foldl (fun n r => n + unitsOf s.fabric.ports[r].retry) 0

/-- Frames of a class of other modules that wait on this module's ports (R290). -/
def transitOf (s : State) (c : Nat) : Nat :=
  ((List.finRange 12).map fun p => unitsOf ((s.fabric.ports[p].queues.toList.getD c []).filter fun x =>
    x.f.src != s.fabric.rcd.node)).sum

/-- Those of classes 2 to 5. -/
def transitUnits (s : State) : Nat := ((rangeFrom 2 4).map (transitOf s)).sum

/-- Units of the response to a request of this module: a bulk read's data come in frames of at least 1 KiB (R287). -/
def responseUnits (typ len : Nat) : Nat :=
  if typ = 9 then ceilDiv len 64 + ceilDiv len 1024
  else ceilDiv (36 + (if typ = 1 then len else if typ = 5 then 8 else 0)) 64

/-- Whether a frame waits on a port. -/
def isQueued (s : State) (tid : Word32) : Bool :=
  (List.finRange 12).any fun p => s.fabric.ports[p].queues.toList.any fun q =>
    q.any fun x => x.f.tid == tid && x.f.src == s.fabric.rcd.node &&
      (x.f.typ == 1 || x.f.typ == 3 || x.f.typ == 5 || x.f.typ == 9)

/-- Space reserved for the responses to requests that have left (R287). -/
def reservedUnits (s : State) : Nat :=
  ((s.fabric.txns.filter fun t => !isQueued s t.tid).map fun t => responseUnits t.typ t.len).sum +
    ((s.fabric.bulks.filter fun b => b.inward && !b.served && !isQueued s b.tid).map fun b => responseUnits 9 b.len).sum

/-- Accumulators in use: 1,024 B for each segment held and not yet complete (R261, R290). -/
def accumulatorUnits (s : State) : Nat := 16 * (s.reduce.tags.map fun t => (t.segments.filter fun g => !g.freed).length).sum

def portsInUse (s : State) : Nat := (s.fabric.ports.toList.filter fun q => q.present).length

/-- What the retry buffers hold. -/
def retryUnits (s : State) : Nat := (s.fabric.ports.toList.map fun q => unitsOf q.retry).sum

/-- Free units of the 64 MiB pool for inbound and transit frames, beside what the retry buffers and the accumulators hold,
the reserve of classes 0 and 1, what waits and what is reserved for responses (R290). -/
def poolRoom (s : State) : Nat :=
  1048576 - retryUnits s - accumulatorUnits s - 1024 * portsInUse s - transitUnits s - reservedUnits s -
    (s.reduce.withheld.map fun x => creditUnits x.f).sum

/-- Room for a frame of class `c`: the others leave class 3 what it does not yet hold of its 256 KiB for each logical port in
use (R290). -/
def classRoom (s : State) (c : Nat) : Nat :=
  if c = 3 then poolRoom s else poolRoom s - (4096 * portsInUse s - transitOf s 3)

/-- Credits held for want of space return as space frees, in their order (R287); `n` bounds them. -/
def returnHeld : Nat → State → State
  | 0, s => s
  | n + 1, s =>
    match s.fabric.heldCredits with
    | [] => s
    | (p, c, k) :: rest =>
      if k ≤ classRoom s c then
        let s := { s with fabric := { s.fabric with heldCredits := rest } }
        returnHeld n (updPort s p fun q => { q with
          owed := Vector.ofFn fun i => if i.val = c then q.owed[i] + k else q.owed[i] })
      else s

/-! ### Egress order (R286) -/

/-- Whether the head of class `c` can leave a port: the queue is not empty, its credits cover it, the retry buffer has
room, and a request has its response's space (R287, R290). Without a node id only discovery, LLDP and link-control frames
leave (R291). -/
def canSend (s : State) (p : Fin 12) (c : Nat) : Bool :=
  let q := s.fabric.ports[p]
  match (q.queues.toList.getD c []).head? with
  | some x =>
    let request := x.f.src == s.fabric.rcd.node && (x.f.typ == 1 || x.f.typ == 3 || x.f.typ == 5 || x.f.typ == 9)
    decide (creditUnits x.f ≤ q.credits.toList.getD c 0) && decide (creditUnits x.f ≤ retryRoom s p) &&
      (!request || decide (responseUnits x.f.typ.toNat x.f.len.toNat ≤ classRoom s (if x.f.typ == 9 then 4 else 3))) &&
      (s.fabric.rcd.node != 0xFFFF#16 || x.f.typ == 0x0F)
  | none => false

/-- Bytes that the weight of class `i` + 2 gives it in a round: frames of the maximum payload (R286). -/
def roundBytes (q : Port) (i : Nat) : Nat := [1, 2, 2, 3].getD i 0 * (36 + maxPayload q)

/-- Class that leaves next and the bytes of the round: classes 0 and 1 strictly, then the weighted round robin (R286). -/
def nextClass (s : State) (p : Fin 12) : Option (Nat × Vector Nat 4) :=
  let q := s.fabric.ports[p]
  if canSend s p 0 then some (0, q.wrr)
  else if canSend s p 1 then some (1, q.wrr)
  else
    let size (c : Nat) : Nat := (((q.queues.toList.getD c []).head?).map fun x => 36 + x.f.payload.length).getD 0
    let pick (w : Vector Nat 4) : Option (Nat × Vector Nat 4) :=
      ((List.range 4).find? fun i => canSend s p (i + 2) && decide (w.toList.getD i 0 < roundBytes q i)).map fun i =>
        (i + 2, Vector.ofFn fun j => if j.val = i then w[j] + size (i + 2) else w[j])
    match pick q.wrr with
    | some x => some x
    | none => pick #v[0, 0, 0, 0]

/-- A port sends its next frame. -/
def sendNext (s : State) (p : Fin 12) : State :=
  let q := s.fabric.ports[p]
  if q.link ≠ .up then s
  else match nextClass s p with
    | none => s
    | some (c, w) => match q.queues.toList.getD c [] with
      | [] => s
      | x :: rest =>
        let q' := { q with wrr := w, queues := Vector.ofFn fun i => if i.val = c then rest else q.queues[i] }
        returnHeld s.fabric.heldCredits.length (transmit (setPort s p q') p x)

/-! ### Whistle frames (R305) -/

/-- The 32 bytes of a whistle frame's payload. -/
def whistlePayload (period step beat dir flags members causes : Nat) : List Byte :=
  leBytes 8 period ++ leBytes 4 step ++ leBytes 2 beat ++ [BitVec.ofNat 8 dir, BitVec.ofNat 8 flags] ++
    leBytes 2 members ++ [BitVec.ofNat 8 causes] ++ List.replicate 13 0

/-- Flags byte of R305. -/
def whistleFlags (hold abort halting : Bool) : Nat :=
  (if hold then 1 else 0) + (if abort then 2 else 0) + (if halting then 4 else 0)

def whistleFrame (s : State) (p : Fin 12) (payload : List Byte) : Kft :=
  mkFrame s 0x0C s.fabric.ports[p].rcd.partner.toNat 0 32 0 0 payload

/-- The whistle parent's port, when the record names one. -/
def parentPort (s : State) : Option (Fin 12) :=
  let p := s.fabric.rcd.whistleParent.toNat
  if h : p < 12 then some ⟨p, h⟩ else none

/-- The whistle children's ports, ascending. -/
def childPorts (s : State) : List (Fin 12) :=
  (List.finRange 12).filter fun p => s.fabric.rcd.whistleChildren.getLsbD p.val

/-- One up frame with the halting and abort flags, sent at once (R306, R456, R467); the bench sends none (R459). -/
def haltingUp (s : State) : State :=
  match parentPort s with
  | none => s
  | some p =>
    if s.fabric.rcd.node = 0xFFFF#16 ∨ s.fabric.ports[p].link ≠ .up ∨ s.power.mode = .bench then s
    else transmitNow s p (whistleFrame s p
      (whistlePayload s.beat.period (s.step.toNat % 2 ^ 32) s.beat.number 0 (whistleFlags false true true) 1 0))

/-! ### Arrival (R281 to R288, R293, R309, R459) -/

/-- Sequence distance a − b modulo 2^24. -/
def seqDist (a b : BitVec 24) : Nat := (a - b).toNat

/-- Frames that an ack sequence covers leave the retry buffer (R284). -/
def takeAck (s : State) (p : Fin 12) (a : BitVec 24) : State :=
  let q := s.fabric.ports[p]
  let left := q.retry.filter fun g => decide (2 ^ 23 ≤ seqDist a g.f.seq)
  if left.length = q.retry.length then s else setPort s p { q with retry := left }

/-- Returned credits (R287). -/
def takeGrant (s : State) (p : Fin 12) (c n : Nat) : State :=
  updPort s p fun q => { q with credits := Vector.ofFn fun i => if i.val = c then q.credits[i] + n else q.credits[i] }

/-- A congestion echo on a class's limiter: at most one decrease per 50 us, never below 1/256 of the line rate (R289). -/
def echoClass (s : State) (p : Fin 12) (c : Fin 6) : State :=
  if c.val < 2 then s
  else
    let q := s.fabric.ports[p]
    let l := q.limiters[c]
    let l' := if l.decreased then { l with echoIn := true }
      else { l with echoIn := true, decreased := true, rate := max (l.rate * (1 - l.alpha / 2)) (1 / 256) }
    let s := setPort s p { q with limiters := q.limiters.set c l' }
    if l.decreased then s else bump s 0x0B0C p.val noTensor 1

/-- A frame's congestion echo: its own class, or every limited class when a link-control ack carries it (R288; log 24). -/
def takeEcho (s : State) (p : Fin 12) (f : Kft) : State :=
  if !f.flags.getLsbD 0 then s
  else
    let s := bump s 0x0B0B p.val noTensor 1
    if f.typ = 0x0F then (List.finRange 6).foldl (fun s c => echoClass s p c) s
    else if h : f.cls.toNat < 6 then echoClass s p ⟨f.cls.toNat, h⟩ else s

def ackFrame (s : State) (p : Fin 12) : State :=
  linkControl s p 0 (s.fabric.ports[p].expect - 1).toNat 0

/-- A NAK naming the first sequence still needed (R285). -/
def sendNak (s : State) (p : Fin 12) : State :=
  let s := bump s 0x0B04 p.val noTensor 1
  let s := linkControl s p 1 s.fabric.ports[p].expect.toNat 0
  updPort s p fun q => { q with nakSent := true }

/-- Credits of a frame that has come in: those of classes 2 to 4 are held while the pool lacks space (R287). -/
def oweCredits (s : State) (p : Fin 12) (f : Kft) : State :=
  let c := f.cls.toNat
  if 2 ≤ c ∧ c ≤ 4 ∧ classRoom s c < creditUnits f then
    { s with fabric := { s.fabric with heldCredits := s.fabric.heldCredits ++ [(p, c, creditUnits f)] } }
  else updPort s p fun q => { q with
    owed := Vector.ofFn fun i => if i.val = c then q.owed[i] + creditUnits f else q.owed[i] }

/-- Whether a frame's type is defined and travels in its own class (R283). -/
def knownFrame (f : Kft) : Bool := classOf f.typ.toNat == some f.cls.toNat

/-- Whether a frame as a port's addressing frames it passes the MAC's 9,216 bytes (R275). -/
def oversize (r : PortRec) (f : Kft) : Bool :=
  decide (9216 < f.payload.length + 18 + (if r.flags.getLsbD 1 then 64 else 84) + (if r.flags.getLsbD 2 then 4 else 0))

/-- What the FEC met on the lanes (R310). -/
def countLanes (s : State) (p : Fin 12) (ls : List (Fin 8 × Nat × Nat)) : State :=
  ls.foldl (fun s l => bump (bump s 0x0B07 (8 * (p.val % 6) + l.1.val) noTensor l.2.1) 0x0B08 (8 * (p.val % 6) + l.1.val)
    noTensor l.2.2) s

/-- A frame has come in on a port: what its lanes met, and the frame, are counted (R310). -/
def countFrame (s : State) (x : Rx) : State := bump (countLanes s x.port x.lanes) 0x0B02 x.port.val noTensor 1

/-- What the fields of a frame in sequence do: congestion mark, ack, grant and echo (R284, R287, R288). -/
def linkTaken (s : State) (x : Rx) : State :=
  let p := x.port
  let f := x.f
  let s := if f.ce then updPort (bump s 0x0B0A p.val noTensor 1) p fun q =>
      { q with echoDue := Vector.ofFn fun i => q.echoDue[i] || decide (i.val = f.cls.toNat) } else s
  let s := if f.flags.getLsbD 1 then takeAck s p f.ack else s
  let s := if f.credit.getLsbD 3 then takeGrant s p (f.credit.toNat % 8) f.grant.toNat else s
  takeEcho s p f

/-- The link layer takes a frame: none when it is not received in order or not sound (R284, R285, R287, R288). An oversize
frame and one whose UDP checksum fails are discarded, and the sequence gap they leave is repaired (R275, R279; log 101); an
uncorrectable error of the pool counts as a CRC failure (R290). Of a frame that is discarded no field acts (R285). -/
def linkReceive (s : State) (x : Rx) : State × Bool :=
  let p := x.port
  let q := s.fabric.ports[p]
  if q.link ≠ .up ∧ q.link ≠ .retraining then (s, false)
  else
    let s := countFrame s x
    if oversize q.rcd x.f then (discard s p.val 1 1, false)
    else if !x.fcsOk then (sendNak (discard (bump s 0x0B05 p.val noTensor 1) p.val 1 1) p, false)
    else if !x.udpOk then (discard s p.val 1 1, false)
    else if !x.crcOk || !x.poolOk then (sendNak (discard (bump s 0x0B06 p.val noTensor 1) p.val 1 1) p, false)
    else
      let d := seqDist x.f.seq q.expect
      if d = 0 then
        let n := q.unacked + 1
        let s := updPort (linkTaken s x) p fun q => { q with expect := q.expect + 1, unacked := n, heard := true, nakSent := false }
        (if 16 ≤ n then updPort (ackFrame s p) p fun q => { q with unacked := 0 } else s, true)
      else if d < 2 ^ 23 then (if q.nakSent then s else sendNak s p, false)
      else (updPort s p fun q => { q with unacked := q.unacked + 1 }, false)

/-- Depth of a class queue in KiB against the CE threshold (R288). -/
def queueBytes (q : Port) (c : Nat) : Nat := ((q.queues.toList.getD c []).map fun x => 36 + x.f.payload.length).sum

/-- A frame for another module is forwarded on its route or discarded (R293); it leaves as ECT(0), or as CE from a deep
queue (R288). -/
def forward (s : State) (x : Rx) : State :=
  let f := x.f
  let p := x.port
  let drop (s : State) (reason : Nat) : State :=
    if isRequest s f then refuseRequest s f 3 else discard s p.val reason 1
  if f.hops = 0 then drop s 5
  else match egress s f.dst.toNat with
    | none => drop s 6
    | some e =>
      if e = p then drop s 6
      else
        let q := s.fabric.ports[e]
        let deep := decide (2 ≤ f.cls.toNat) && decide (q.rcd.ceKib * 1024 < queueBytes q f.cls.toNat)
        enqueue s e { f with hops := f.hops - 1, flags := f.flags &&& 0x04#8, credit := 0, grant := 0, ce := deep }

/-- A KFT frame of type `typ` arrives: the link layer, the discards of R283, R291 and R459, forwarding under R293, and
`deliver` for a frame of this module. Credits return as the frame leaves the pool (R287). -/
def arrive (s : State) (x : Rx) (typ : Nat) (deliver : State → Kft → State) : State :=
  if x.f.typ.toNat ≠ typ then s
  else
    let (s, ok) := linkReceive s x
    if !ok then s
    else
      let s := oweCredits s x.port x.f
      if !knownFrame x.f then discard s x.port.val 2 1
      else if s.power.mode = .bench ∧ typ ≠ 0x0F then discard s x.port.val 10 1
      else if s.fabric.rcd.node = 0xFFFF#16 ∧ typ ≠ 0x0F then discard s x.port.val 4 1
      else if typ = 0x0F ∨ x.f.dst = s.fabric.rcd.node then deliver s x.f
      else forward s x

end Sys2Proof.Machine
end

