-- ==== Sys2Proof/Machine/Reset.lean ====
section
/-! DEFINITION. Resets the families share: the clock in force (R460, R461), profiles coming into force (R423), READY
(R426, R432), mailbox reset (R366), compute reset (R434) and booting an image (R416, R419, R421). -/

namespace Sys2Proof.Machine

open Sys2Proof

/-- Bytes [lo .. lo + n − 1] of a 64-byte command, whose payload is bytes [63:16] (R373, R384). -/
def arg (c : Cmd) (lo n : Nat) : Nat := field c.payload (lo - 16) n

/-- Payload bytes a command does not use are 0 (R373): `used` lists the (first byte, length) of those it uses. -/
def restZero (c : Cmd) (used : List (Nat × Nat)) : Bool :=
  c.payload.zipIdx.all fun x => x.1 == 0 || used.any fun u => decide (u.1 ≤ x.2 + 16) && decide (x.2 + 16 < u.1 + u.2)

/-! ### The TD clock (R460, R461) -/

/-- The supply voltage of a TD clock, interpolated between the nominal points (R460). -/
def nominalVolt (mhz : Nat) : Rat :=
  if mhz ≤ 900 then 58 / 100 + (7 / 100) * ((mhz : Rat) - 500) / 400
  else if mhz ≤ 1200 then 65 / 100 + (7 / 100) * ((mhz : Rat) - 900) / 300
  else 72 / 100 + (8 / 100) * ((mhz : Rat) - 1200) / 300

/-- The supply voltage of the TDs: that of the clock in force, as the module's own table is trimmed (R460; log 115). -/
def supplyVolt (p : Power) : Rat := p.tdVolt + Config.voltTrim p.tdMhz

/-- The lowest of the four clocks of R461. -/
def tdClock (p : Power) : Nat :=
  min (min p.ceilMhz p.loopMhz) (min (p.thermalMhz.getD 1500) (p.supplyMhz.getD 1500))

/-- The clock and the voltage follow the four clocks (R461, R463). -/
def settleClock (s : State) : State :=
  { s with power := { s.power with tdMhz := tdClock s.power, tdVolt := nominalVolt (tdClock s.power) } }

/-! ### Profiles (R422, R423) -/

/-- The stored profiles: the partition's, or those held in memory in its place (R421). -/
def profiles (s : State) : Vector Profile 4 := s.fw.memProfiles.getD s.flash.profiles

/-- A logical port as a port mode gives it: whether it exists and its lanes (R274). -/
def portShape (modes : Nat) (p : Nat) : Bool × Nat :=
  let split := bitAt modes (p % 6)
  if p < 6 then (true, if split then 0x0F else 0xFF) else (split, 0xF0)

/-- Lanes that survive on a logical port: the group of R274 without a lost lane, none when there is none. -/
def survivors (all lost : Nat) : Option Nat :=
  if lost &&& all = 0 then some all
  else
    let groups := if all = 0xFF then [0x0F, 0xF0] else if all = 0x0F then [0x03, 0x0C] else [0x30, 0xC0]
    groups.find? fun g => lost &&& g == 0

/-- The entry of a lane of a logical port in the unit table (R436). -/
def lanePhys (p : Nat) (lane : Nat) : PhysUnit := { kind := 0xB, die := 8, index := 8 * (p % 6) + lane }

/-- Lanes of a port that failed self-test (R426): the FD does not use them (R446). -/
def lanesFailed (us : List UnitEntry) (p : Nat) : Nat :=
  ((List.range 8).filter fun k => us.any fun e => e.phys == lanePhys p k && e.cond == .failed && e.cause == 1).foldl
    (fun m k => m ||| 2 ^ k) 0

/-- The lanes of `all` that a port can train on (R274); 0 when none can. -/
def usableLanes (us : List UnitEntry) (p all : Nat) : Nat := (survivors all (lanesFailed us p)).getD 0

/-- A port whose mode changed retrains and comes up without the link gate (R273, R434). -/
def reshapePort (us : List UnitEntry) (modes : Nat) (p : Nat) (old : Bool) (q : Port) : Port :=
  let (present, lanes) := portShape modes p
  if old = bitAt modes (p % 6) then q
  else { Port.reset p with rcd := q.rcd, present := present, lanes := BitVec.ofNat 8 (usableLanes us p lanes),
                           gated := true, noGate := true }

/-- The chosen profile's contents come into force (R423, R461): cap, ceiling and port modes. A port whose mode changes goes
down first (R278), and its retrain drives RESET# of its cable low (R473). A cap that was reported as not met has still not
been met (R462). -/
def applyProfile (s : State) : State :=
  let p := (profiles s)[s.fw.chosenProfile]
  let old := s.fw.profile.ports.toNat
  let changed (i : Nat) : Bool := bitAt old (i % 6) != bitAt p.ports.toNat (i % 6)
  let s := (List.finRange 12).foldl (fun s i => if changed i.val then portDrops s i else s) s
  let s := ((List.range 6).filter changed).foldl (fun s i => emit s (.cableReset i)) s
  let ports := Vector.ofFn fun i : Fin 12 =>
    reshapePort s.units p.ports.toNat i.val (bitAt old (i.val % 6)) s.fabric.ports[i]
  settleClock { s with
    fw := { s.fw with activeProfile := s.fw.chosenProfile, profile := p }
    power := { s.power with capW := p.capW, ceilMhz := p.ceilMhz, loopMhz := p.ceilMhz, msBelow := none,
                            msAtFloor := none }
    fabric := { s.fabric with ports := ports } }

/-! ### READY (R426, R432) -/

/-- A logical port that takes part: it exists in the port mode and its record enables it (R274, R292). -/
def enabled (q : Port) : Bool := q.present && q.rcd.flags.getLsbD 0

def portsDown (s : State) : Nat := (s.fabric.ports.toList.filter fun q => enabled q && q.link != .up).length

/-- The ready event (R452). -/
def readyEvent (s : State) (cause : Nat) : State :=
  post s 0x1001 (packed [(1, cause), (4, substitutesInUse s), (4, failedUnits s), (4, portsDown s)])

/-- Group `g` has lost a second device (R328). -/
def lostInGroup (s : State) (g : Nat) : List Nat :=
  (List.range 5).map (5 * g + ·) |>.filter fun d => s.mem.devLost.toList.getD d false

/-- The reports that go with the first READY after power-on: lost devices and groups, the previous power-down, an activation
cut short (R330, R456, R457). -/
def bootReports (s : State) : State :=
  let s := { s with power := { s.power with bootReported := true } }
  let s := (List.range 20).foldl (fun s d =>
    if s.mem.devLost.toList.getD d false then post s 0x0C02 (packed [(4, d), (1, 4)]) else s) s
  let s := (List.range 4).foldl (fun s g =>
    match lostInGroup s g with
    | a :: b :: _ => post s 0x0C03 (packed [(1, g), (4, a), (4, b)])
    | _ => s) s
  let s := if s.flash.powerLogNew then
      match s.flash.powerLog with
      | (c, low) :: _ => post { s with flash := { s.flash with powerLogNew := false } } 0x1103 (packed [(1, c), (4, low)])
      | [] => s
    else s
  if s.flash.activationCut then post { s with flash := { s.flash with activationCut := false } } 0x0F05 (packed [(1, 2)])
  else s

/-- The module declares READY once every enabled logical port has passed, failed or timed out (R432). -/
def checkReady (s : State) : State :=
  if s.mbox.module = .bringUp ∧ s.fabric.ports.toList.all (fun q => !enabled q || q.gated) then
    let s := { s with mbox := { s.mbox with module := .ready }
                      power := { s.power with mode := .active, computeStopped := false } }
    bootReports (readyEvent s 1)
  else s

/-- The 64 bytes of a discovery frame's payload (R294). -/
def discoveryPayload (s : State) (p : Fin 12) : List Byte :=
  let q := s.fabric.ports[p]
  let lanes := popCount 8 q.lanes.toNat
  let split := portLanes s p != 0xFF
  let v := s.fw.image
  leBytes 16 Config.serial.toNat ++ leBytes 2 s.fabric.rcd.node.toNat ++
    [BitVec.ofNat 8 p.val, BitVec.ofNat 8 (lanes + (if split then 16 else 0))] ++ leBytes 6 q.rcd.ownMac.toNat ++
    [v.patch, v.minor, v.major] ++ List.replicate 35 0

/-- The IPv6 address and MAC address of bytes in wire order. -/
def ipOf (bs : List Nat) : BitVec 128 := BitVec.ofNat 128 (leNat (bs.map (BitVec.ofNat 8)))
def macOf (bs : List Nat) : BitVec 48 := BitVec.ofNat 48 (leNat (bs.map (BitVec.ofNat 8)))

/-- The EUI-64 link-local address of a MAC address. -/
def linkLocal (mac : BitVec 48) : BitVec 128 :=
  let m := (leBytes 6 mac.toNat).map BitVec.toNat
  ipOf ([0xFE, 0x80, 0, 0, 0, 0, 0, 0] ++ [(m.getD 0 0) ^^^ 2] ++ (m.drop 1).take 2 ++ [0xFF, 0xFE] ++ m.drop 3)

/-- The addressing of a discovery frame: IPv6, from the port's link-local address to ff02::1 (R294). -/
def discoveryRec (r : PortRec) : PortRec :=
  { r with
    flags := r.flags &&& 0xFD#8, hopMac := macOf [0x33, 0x33, 0, 0, 0, 1], ownIp := linkLocal r.ownMac
    partnerIp := ipOf [0xFF, 0x02, 0, 0, 0, 0, 0, 0, 0, 0, 0, 0, 0, 0, 0, 1] }

/-- A discovery frame leaves a port; it goes to all nodes and takes no link sequence (R284, R294; log 32). -/
def sendDiscovery (s : State) (p : Fin 12) : State :=
  let f := mkFrame s 0x0E 0xFFFF 0 64 0 0 (discoveryPayload s p)
  emit (bump s 0x0B01 p.val noTensor 1) (.wire (wireOf (discoveryRec s.fabric.ports[p].rcd) p f))

/-- Lanes that a port uses again after a loss are in service. -/
def lanesServe (s : State) (p : Nat) (lanes : Nat) : State :=
  (List.range 8).foldl (fun s k =>
    if bitAt lanes k ∧ (findUnit s (lanePhys p k)).any (fun e => e.cond == .failed && e.cause == 6)
    then setCond s (lanePhys p k) .inService 0 else s) s

/-- A logical port comes up: its routes lead on, with the port-up event and its first discovery frame (R294, R310, R396). -/
def portUp (s : State) (p : Fin 12) (lanes : Nat) : State :=
  let s := updPort s p fun q => { q with link := .up, lanes := BitVec.ofNat 8 lanes, gated := true, noGate := false }
  let s := lanesServe { s with mbox := { s.mbox with
    unreachable := s.mbox.unreachable.filter fun n => routeOf s n.toNat != p.val } } p.val lanes
  sendDiscovery (post s 0x0B03 (packed [(1, p.val), (1, lanes), (1, Config.phyCode p.val)])) p

/-! ### Mailbox reset (R363, R366, R381) -/

/-- Whether a fetched command has started: on the urgent ring at once, on the bulk ring eight at a time, on the others one
at a time in ring order (R374). -/
def Mbox.started (m : Mbox) (c : Cmd) : Bool :=
  let mine := (m.executing.filter fun e => e.cmd.ring == c.ring).map (·.cmd)
  if c.ring = 0 then mine.contains c
  else if c.ring = 2 then (mine.take 8).contains c
  else mine.head? == some c

/-- Commands of the rings that a mailbox reset ends: those not yet started, and DMA commands (R366). -/
def resetEnds (m : Mbox) : List Cmd :=
  (m.executing.filter fun e => e.cmd.path == .pcie && (e.cmd.opcode == 0x0601 || !m.started e.cmd)).map (·.cmd)

/-- Proxied commands that it ends: those not forwarded yet, which have not started, and those whose results were on their way to
host memory, since DMA into it stops (R366). What executes at a member goes on there, and its completion is discarded. -/
def proxiedEnds (m : Mbox) : List Cmd :=
  (m.proxied.filter fun p => p.cmd.path == .pcie && p.stage != .forwarded).map (·.cmd)

/-- The transfers, requests and waits of commands that have ended move nothing more. -/
def dropTransfers (s : State) (cs : List Cmd) : State :=
  let mine (o : Owner) : Bool := match o with | .dma c | .data c | .proxy c => cs.contains c | _ => false
  { s with
    fabric := { s.fabric with
      bulks := s.fabric.bulks.filter fun b => !mine b.owner
      lateReads := s.fabric.lateReads ++ (s.fabric.bulks.filter fun b => b.inward && mine b.owner).map fun b => (b.node, b.tid)
      txns := s.fabric.txns.map fun t => if mine t.owner then { t with owner := .nobody } else t
      arrivals := s.fabric.arrivals.filter fun a => !(cs.any fun c => a.1 == cmdKey c)
      waiting := s.fabric.waiting.filter fun r => match r.by_ with
        | .command c _ _ => !cs.contains c
        | _ => true }
    mbox := { s.mbox with awaiting := s.mbox.awaiting.filter fun a => !cs.contains a.cmd }
    mem := { s.mem with
      ends := s.mem.ends.filter fun e => match e with
        | .command c _ => !cs.contains c
        | .bulk .. => true
      acks := s.mem.acks.filter fun a => match a.what with
        | .dma c _ _ => !cs.contains c
        | _ => true } }

/-- Configuration of the function after a reset of it or of its link: bits that clear only by a write stay (PCI Express;
PRESUMED, log 111). -/
def Mbox.functionReset (m : Mbox) : Mbox :=
  { m with
    memEnable := false
    pcie := { aerStatus := m.pcie.aerStatus, linkRate := m.pcie.linkRate, linkWidth := m.pcie.linkWidth, flit := m.pcie.flit } }

/-- The link is down: it has no rate and no width (R356). -/
def Mbox.linkDown (m : Mbox) : Mbox := { m with pcie := { m.pcie with linkRate := 0, linkWidth := 0, flit := false } }

/-- Rings and registers at the reset values of R361; what R366 keeps is kept. -/
def resetRings (m : Mbox) : Mbox :=
  { m with
    sqTail := Vector.replicate 4 0, eqHead := 0, ringBase := Vector.replicate 5 0, ringSize := Vector.replicate 5 0
    ringOn := Vector.replicate 5 false, ringHead := Vector.replicate 5 0, phase := true
    ringErr := Vector.replicate 5 0, winBase := Vector.replicate 4 0xFFFF_1000_0000_0000#64, winErr := false
    winCause := 0, winErrAddr := 0, evtMask := 0, evtVec := Vector.replicate 64 0, coalCount := 1, coalDelay := 0
    sinceIrq := Vector.replicate 64 0, heldCompletions := [], killed := [], rrNext := 0
    awaiting := m.awaiting.filter fun a => !(resetEnds m).contains a.cmd
    executing := (m.executing.filter fun e => !(resetEnds m).contains e.cmd).map fun e =>
      if e.cmd.path = .pcie then { e with discard := true } else e
    proxied := (m.proxied.filter fun p => !(proxiedEnds m).contains p.cmd).map fun p =>
      if p.cmd.path = .pcie then { p with discard := true } else p }

/-- An event due as the first entry of the re-enabled event ring (R366, R381, R416, R447); a squad member sends it to its
captain at once (R395). -/
def dueFirst (s : State) (code : Nat) (payload : List Byte) : State :=
  if isMember s then post s code payload
  else
    let e : Event := { code := code, ring := 0xFF, source := 0xFFFF#16, seq := s.mbox.evtSeq, lost := false,
                       payload := payload }
    let kept := (s.mbox.firstDue.map fun x => x :: s.mbox.kept).getD s.mbox.kept
    { s with mbox := { s.mbox with firstDue := some e, kept := kept, evtSeq := s.mbox.evtSeq + 1 } }

/-- The effects of a mailbox reset on rings, registers and commands; DMA into host memory stops (R363, R366). -/
def ringsReset (s : State) : State :=
  let t := dropTransfers s (resetEnds s.mbox ++ proxiedEnds s.mbox)
  { t with
    mbox := resetRings s.mbox
    mem := { t.mem with acks := t.mem.acks.filter fun a => match a.what with
      | .dma .. => false
      | _ => true } }

/-- A mailbox reset by one of the causes of R365: the registers take their reset values whether the MCP runs or not (R10,
R363), and an MCP that runs has the event due (R366). -/
def mailboxReset (s : State) (cause : Nat) : State :=
  let t := ringsReset s
  if s.mbox.mcpUp then dueFirst t 0x0E07 (packed [(1, cause)]) else t

/-! ### Compute reset (R433 to R435) -/

/-- Commands that a compute reset ends with status 0x0A (R385): a DMA to another module's spaces needs nothing of this one. -/
def needsCompute (s : State) (c : Cmd) : Bool :=
  c.opcode == 0x0101 || c.opcode == 0x0106 || c.opcode == 0x0107 || c.opcode == 0x0205 ||
    (c.opcode == 0x0601 && isLocal s (nodeOf (arg c 24 8)) && (spaceOf (arg c 24 8) == 0 || spaceOf (arg c 24 8) == 2))

/-- Transfers and requests that a compute reset ends: those of instances and decode engines, and of the commands it ends. The
FD and the ports go on with the others (R385, R435). -/
def keptOwner (s : State) : Owner → Bool
  | .unit _ | .relay _ | .igd _ _ => false
  | .dma c | .data c => !needsCompute s c
  | _ => true

/-- Tiles that fail the self-test of a compute reset: spares first, then holders, which are replaced (R434 step 6). -/
def failTile (s : State) (u : PhysUnit) : State :=
  match findUnit s u with
  | none => s
  | some e =>
    if e.cond = .failed ∨ e.cond = .disabled then s
    else
      let s := unitEvent (setCond s u .failed 1) 0x1005 u (some 1)
      match e.logical with
      | none => s
      | some unit => match lowestSpare s u.kind u.die with
        | some sub => substitute s u unit 1 sub.phys
        | none => compact s u.kind u.die

def selfTest (s : State) (failed : List TileId) : State :=
  let us := failed.map tilePhys
  let isSpare (u : PhysUnit) : Bool := (findUnit s u).any fun e => e.cond == .spare
  (us.filter isSpare ++ us.filter fun u => !isSpare u).foldl failTile s

/-- Steps 1 to 3 of a compute reset (R434); `cause` is that of event 0x1009. -/
def computeStop (s : State) (cause : Nat) : State :=
  let s := post s 0x1009 (packed [(1, cause)])
  let s := haltProgram s 0x1009
  let s := { s with mbox := { s.mbox with module := .computeReset }
                    power := { s.power with mode := .computeReset, computeStopped := true } }
  let s := { s with beat := { s.beat with halting := true, pauseAt := none, pauseDue := false, reexec := [], unrun := [], refetch := [],
                                          stuck := [], stopped := [], writes := [], moved := [], deferred := [], rebuilt := [],
                                          spanReads := [], encoded := [], heldBlocks := [], released := [] } }
  let kept := s.fabric.bulks.filter fun b => keptOwner s b.owner
  let asked := s.fabric.txns.filter fun t => keptOwner s t.owner
  let ended := (s.mbox.executing.filter fun e => needsCompute s e.cmd).map (·.cmd)
  let s := ended.foldl (fun s c => done s c 0x0A) (dropTransfers s ended)
  let s := dropWithheld s
  let s := { s with
    reduce := { s.reduce with tags := [] }
    mem := { s.mem with sram := [], buffers := [], lostLines := [] }
    side := [], gates := [], ingest := {}
    seqs := s.seqs.map fun q => { q with flight := [], flags := 0 }
    fabric := { s.fabric with
      arrivals := hostArrivals s, bulks := kept, txns := asked, waiting := []
      lateReads := s.fabric.lateReads ++ (s.fabric.bulks.filter fun b => b.inward && !keptOwner s b.owner).map fun b =>
        (b.node, b.tid) }
    journal := { s.journal with recording := false, replay := none } }
  s

/-- Steps 4 to 6 (R434). -/
def computeServe (s : State) (failed : List TileId) : State :=
  let s := applyProfile s
  let s := post s 0x0F08 (packed [(1, s.fw.activeProfile.val), (1, s.fw.profileSource)])
  selfTest s failed

/-- Steps 1 to 6 of a compute reset (R434). -/
def computeResetSteps (s : State) (cause : Nat) (failed : List TileId) : State := computeServe (computeStop s cause) failed

/-- Step 7: READY (R434). Where it is the first READY of the power cycle, the reports of power-on go with it. -/
def resetReady (s : State) (cause : Nat) : State :=
  let s := readyEvent { s with mbox := { s.mbox with module := .ready }
                               power := { s.power with mode := .active, computeStopped := false } } cause
  if s.power.bootReported then s else bootReports s

def computeReset (s : State) (cause : Nat) (failed : List TileId) : State :=
  resetReady (computeResetSteps s cause failed) 2

/-- Whether a compute reset can run now: the compute units are up, or stopped by a thermal fault that has cleared (R467). -/
def canReset (s : State) : Bool :=
  (s.mbox.module == .ready || s.mbox.module == .computeReset) && !s.power.thermalFault

/-! ### Booting an image (R409, R416, R419, R421) -/

/-- The image of a slot that anti-rollback lets boot (R420). -/
def bootable (fl : Flash) (slot : Nat) : Option Image :=
  (fl.slots.toList.getD slot none).bind fun i =>
    if fl.boot.secVersion ≤ i.secVersion ∧ fl.boot.keyFloor ≤ i.keyIndex then some i else none

/-- The 4,096 bytes of the boot record (R408). -/
def bootRecordBytes (b : BootRecord) : List Byte :=
  padTo 4096 ([BitVec.ofNat 8 b.activeSlot, BitVec.ofNat 8 (b.trialSlot.getD 0xFF), BitVec.ofNat 8 b.keyFloor, 0] ++
    leBytes 4 b.secVersion ++ leBytes 2 b.settingsFormat)

/-- The boot record is rewritten whole in one write, authenticated under the key of the seed; the write counter moves on, so
that no copy of older contents is taken again (R407, R408). Without the seed nothing is written (R403). -/
def writeBoot (s : State) (b : BootRecord) : State :=
  match s.fw.seed with
  | none => s
  | some seed =>
    let n := s.flash.bootWrites + 1
    { s with flash := { s.flash with
      boot := b, bootWrites := n, bootMac := hmacSm3 (Config.bootRecordKey seed) (bootRecordBytes b ++ leBytes 4 n) } }

/-- The image, verified, runs: its alias key is derived (R401), and its settings are the partition's, or the defaults held in
memory (R421). -/
def bootImage (s : State) (i : Image) (settingsOk : Bool) : State :=
  let s := { s with fw := { s.fw with image := i, memProfiles := none, aliasKey := s.fw.seed.map fun x => aliasKey x i.digest } }
  if i.settingsFormat ≠ s.flash.boot.settingsFormat then
    post { s with fw := { s.fw with memProfiles := some defaultProfiles } } 0x0F06 (packed [(1, 1)])
  else if !settingsOk then
    post { s with fw := { s.fw with memProfiles := some defaultProfiles } } 0x0F06 (packed [(1, 2)])
  else s

/-- No image boots: the MCP runs none, and MODULE reads 6 (R409, R420). -/
def bootStops (s : State) : State := { s with mbox := { s.mbox with module := .mgmtFault, mcpUp := false } }

/-- The active slot's image boots and goes on by `k`; one that anti-rollback refuses is never booted (R420). -/
def bootActive (s : State) (settingsOk : Bool) (k : State → State) : State :=
  match bootable s.flash s.flash.boot.activeSlot with
  | some i => k (bootImage s i settingsOk)
  | none => bootStops s

/-- Steps 4 to 7 of a compute reset; while a thermal fault stands the compute units stay stopped, and the reset is left to
the host (R467; log 116). -/
def serveReady (s : State) (cause : Nat) (failed : List TileId) : State :=
  if s.power.thermalFault then s else resetReady (computeServe s failed) cause

/-- The fallback of R419: a compute reset, the trial slot cleared, the active slot booted, which brings its own profiles into
force, the fallback event. The MCP runs again. -/
def fallback (s : State) (cause : Nat) (failed : List TileId) (settingsOk : Bool) : State :=
  let s := { s with mbox := { s.mbox with mcpUp := true, module := .computeReset } }
  let s := writeBoot (computeStop s 4) { s.flash.boot with trialSlot := none }
  bootActive { s with fw := { s.fw with trial := false, trialReady := false, activating := none } } settingsOk fun s =>
    let s := serveReady s 2 failed
    post s 0x0F04 (packed ([(1, cause)] ++ [(8, leNat (s.fw.image.digest.take 8))]))

end Sys2Proof.Machine
end

