-- ==== Sys2Proof/Machine/Power.lean ====
section
/-! DEFINITION. Power, bring-up, thermal limits, coolant and the MCP's watchdog (R409, R426 to R432, R447, R448, R453 to
R472). A command whose condition does not hold leaves the state as it is. -/

namespace Sys2Proof.Machine

open Sys2Proof

/-! ### Power-down (R456, R468, R472) -/

/-- Every rail off: what is not in flash is lost, and the power log takes the cause and the lowest voltage (R456). The
contacts' levels and the sample of PROFILE_SEL stand (R471, R472). -/
def railsDown (s : State) (mode : PowerMode) (cause low : Nat) : State :=
  { State.reset with
    pending := s.pending
    freeIdx := s.freeIdx
    flash := { s.flash with powerLog := (cause, low) :: s.flash.powerLog, powerLogNew := true,
                            activationCut := s.flash.activationCut || s.fw.activating.isSome }
    power := { mode := mode, vinMv := s.power.vinMv, resetInLow := s.power.resetInLow, perstLow := s.power.perstLow,
               profileSel := s.power.profileSel }
    out := s.out ++ [.railsOff] }

/-- Lowest input voltage at a power-down: the current excursion's, else the last sample (R456). -/
def lowestVoltage (s : State) (mv : Nat) : Nat := min mv ((s.power.excursion.map (·.lowMv)).getD mv)

def isPowered (s : State) : Bool := s.power.mode != .off && s.power.mode != .standby

/-- A module that is in Standby is Off once its input leaves the operating range (R458). -/
def inputGone (s : State) : State :=
  { s with power := { s.power with mode := if s.power.mode = .standby then .off else s.power.mode } }

/-- The reset level (R456): the clocks stop, one halting up frame goes out, the record is written, the rails go off. -/
def supplyDown (s : State) (cause mv : Nat) : State :=
  let s := { s with power := { s.power with vinMv := mv } }
  if isPowered s then
    let low := lowestVoltage s mv
    let s := haltingUp s
    railsDown s .off cause low
  else inputGone s

/-! ### Power-on (R400, R403, R409, R420, R421, R426 to R428, R330) -/

/-- The boot record's field check of R403. -/
def bootFieldsOk (b : BootRecord) : Bool :=
  decide (b.activeSlot ≤ 1) && decide (b.trialSlot.getD 0 ≤ 1) && decide (b.keyFloor ≤ 3)

/-- Ports as the profile's modes give them at power-on, to train on the lanes that passed self-test and be gated (R274, R430). -/
def bootPorts (us : List UnitEntry) (modes : Nat) : Vector Port 12 :=
  Vector.ofFn fun i : Fin 12 =>
    { Port.reset i.val with
      present := (portShape modes i.val).1
      lanes := BitVec.ofNat 8 (usableLanes us i.val (portShape modes i.val).2) }

/-- Steps 2 to 4 of R426 after Rilut has started: rails, LPDDR5X trained and zeroed (R330), microcode, self-test, ports
training. -/
def bringUp (s : State) (b : BootIn) : State :=
  let lost := Vector.ofFn fun d : Fin 20 =>
    b.untrained.contains d || b.failedUnits.contains ⟨9, 0x0B + d.val / 5, d.val % 5⟩
  let gone := Vector.ofFn fun g : Fin 4 => decide (2 ≤ ((List.range 5).filter fun k => lost.toList.getD (5 * g.val + k) false).length)
  let s := { s with mem := { s.mem with devLost := lost, groupGone := gone, dram := [], stripes := [] }
                    units := bootUnits s.flash b }
  let pipes : Vector (Fin 2) 6 := Vector.ofFn fun i => if b.failedUnits.contains ⟨0xA, 8, 2 * i.val⟩ then 1 else s.reduce.pipes[i]
  let s := { s with reduce := { s.reduce with pipes := pipes } }
  let s := b.failedUnits.foldl (fun s u => match ownNumber u with
    | some n => if 2 < u.kind then standIn s u n else s
    | none => s) s
  let s := { s with fw := { s.fw with chosenProfile := b.profileSel.toFin, profileSource := 1 }
                    power := { s.power with profileSel := b.profileSel } }
  let p := (profiles s)[s.fw.chosenProfile]
  let s := settleClock { s with
    fw := { s.fw with activeProfile := s.fw.chosenProfile, profile := p }
    power := { s.power with capW := p.capW, ceilMhz := p.ceilMhz, loopMhz := p.ceilMhz }
    fabric := { s.fabric with ports := bootPorts s.units p.ports.toNat } }
  checkReady s

/-- The CMB reads its PUF array and derives the seed and the device key (R400); without a seed there is neither (R403). -/
def deriveIdentity (s : State) (b : BootIn) : State :=
  let puf := padTo 4096 b.puf
  let seed := if b.seedOk then some (padTo 32 (Config.pufSeed puf s.flash.identity.helper)) else none
  { s with fw := { s.fw with identity := b.seedOk, puf := puf, seed := seed, deviceKey := seed.map deviceKey, aliasKey := none } }

/-- The authentication of a read of the boot record (R407): a partition written since manufacture carries the HMAC of its
contents and write counter, so that an older copy is refused. One that has not is judged by what the flash device reports. -/
def bootAuthentic (s : State) : Bool :=
  match s.fw.seed with
  | some seed => s.flash.bootMac.isEmpty ||
      s.flash.bootMac == hmacSm3 (Config.bootRecordKey seed) (bootRecordBytes s.flash.boot ++ leBytes 4 s.flash.bootWrites)
  | none => true

/-- The power-on steps of R426, from a module whose rails were off. A trial that the power loss cut short is a fallback
(R409, R419); its compute reset has nothing left to stop but is reported, with the profile it applies (R423, R433). -/
def powerOnSteps (s : State) (b : BootIn) : State :=
  let s := { s with power := { s.power with mode := .bringUp, vinMv := b.mv, hardTrip := false } }
  let s := deriveIdentity s b
  if !b.bootRecordOk || !bootAuthentic s || !b.configOk || !bootFieldsOk s.flash.boot then bootStops s
  else match (if b.slotOk then bootable s.flash s.flash.boot.activeSlot else none) with
    | none => bootStops s
    | some img =>
      let fall := b.seedOk && s.flash.boot.trialSlot.isSome
      let s := if fall then writeBoot s { s.flash.boot with trialSlot := none } else s
      let s := { s with mbox := { s.mbox with module := .bringUp, mcpUp := true } }
      let s := if b.seedOk then s else post s 0x0F07 (packed [(1, 1)])
      let s := bootImage s img b.settingsOk
      let s := if fall then
          let s := post s 0x1009 (packed [(1, 4)])
          let s := post s 0x0F08 (packed [(1, b.profileSel.toNat), (1, 1)])
          post s 0x0F04 (packed [(1, 3), (8, leNat (img.digest.take 8))])
        else s
      bringUp s b

/-- The start threshold is met: from Off, unless a hard thermal trip holds the module off (R453, R458, R468), and PROFILE_SEL is
sampled (R471); with RESET_IN# low the module stays in Standby (R472). -/
def execPowerOn (b : BootIn) (s : State) : Host.Outcome State Fault Refusal :=
  if s.power.mode = .off ∧ 44000 ≤ b.mv ∧ b.mv ≤ 60000 ∧ !s.power.hardTrip then
    if s.power.resetInLow then .next { s with power := { s.power with mode := .standby, vinMv := b.mv, profileSel := b.profileSel } }
    else .next (powerOnSteps s b)
  else .next s

/-! ### Ports at bring-up (R430 to R432) -/

/-- A logical port links up: its gate window starts, or it carries frames at once where R434 spares it the gate. -/
def execPortLinkUp (p : Fin 12) (fkm : Bool) (s : State) : Host.Outcome State Fault Refusal :=
  let q := s.fabric.ports[p]
  if isPowered s ∧ s.mbox.mcpUp ∧ enabled q ∧ q.link = .training ∧ q.lanes ≠ 0 then
    if q.noGate then .next (portUp (updPort s p fun q => { q with fkm := fkm }) p q.lanes.toNat)
    else .next (updPort s p fun q => { q with link := .gating, fkm := fkm })
  else .next s

/-- Lanes whose pre-FEC bit error ratio over the window was above 1 × 10⁻⁶ (R430), beside those already named. -/
def ratioLanes (named : Nat) (ms : List LaneTest) : Nat :=
  ms.foldl (fun m x => if x.bits < x.errors * 1000000 then m ||| 2 ^ x.lane.val else m) named

/-- Lanes with an uncorrectable codeword in the window, beside those already named. -/
def codewordLanes (named : Nat) (ms : List LaneTest) : Nat :=
  ms.foldl (fun m x => if 0 < x.codewords then m ||| 2 ^ x.lane.val else m) named

/-- The gate's verdict on a port: `ratio` and `codewords` name the lanes whose error ratio was above the limit and those
with an uncorrectable codeword (R430). A port that fails stays down, and its failing lanes are those a retrain leaves out
(R431). -/
def gateVerdict (s : State) (p : Fin 12) (lanes ratio codewords : Nat) : State :=
  let bad := (ratio ||| codewords) &&& lanes
  if bad = 0 then portUp s p lanes
  else
    let s := updPort s p fun q => { q with lost := q.lost ||| BitVec.ofNat 8 bad }
    portDrops (post s 0x1007 (packed [(1, p.val), (1, bad), (1, if ratio &&& lanes = 0 then 2 else 1)])) p

/-- The gate window ends: each lane is judged on what the window measured (R430). -/
def execLinkGateWindowEnd (p : Fin 12) (ratio codewords : Byte) (s : State) (measured : List LaneTest := []) :
    Host.Outcome State Fault Refusal :=
  let q := s.fabric.ports[p]
  if q.link = .gating then .next (checkReady (gateVerdict s p q.lanes.toNat (ratioLanes ratio.toNat measured)
    (codewordLanes codewords.toNat measured)))
  else .next s

/-- A port not linked up 30 s after step 4 is left down with cause 3; it runs the gate if it links up later (R431). The
lanes the event names are an open value (log 3). -/
def execPortLinkTimeout (p : Fin 12) (s : State) : Host.Outcome State Fault Refusal :=
  let q := s.fabric.ports[p]
  if s.mbox.module = .bringUp ∧ enabled q ∧ q.link = .training ∧ !q.gated then
    let (v, s) := drawFree s
    let s := updPort s p fun q => { q with gated := true }
    .next (checkReady (post s 0x1007 (packed [(1, p.val), (1, v), (1, 3)])))
  else .next s

/-! ### The 50 V input (R453 to R456) -/

/-- A sample below 44 V: a new excursion is counted, and its lowest voltage is kept (R454). One that begins before the recovery
from the one before is reported is counted for itself and reported with it (log 114). -/
def noteExcursion (s : State) (mv : Nat) : State :=
  match s.power.excursion with
  | some e =>
    let t := { s with power := { s.power with
      vinMv := mv, excursion := some { e with lowMv := min e.lowMv mv, ended := false } } }
    if e.ended then bump t 0x1101 noInst noTensor 1 else t
  | none => bump { s with power := { s.power with vinMv := mv, excursion := some { lowMv := mv, warned := false } } }
      0x1101 noInst noTensor 1

/-- The input of a module that is not powered falls below the start threshold: a module in Standby is Off (R458), and a hard
trip's latch clears (R468). -/
def inputRemoved (s : State) (mv : Nat) : State :=
  inputGone { s with power := { s.power with vinMv := mv, hardTrip := false } }

/-- A sample below 44 V; one at or above it is the end of the excursion (R454). -/
def execSupplyExcursion (mv : Nat) (s : State) : Host.Outcome State Fault Refusal :=
  if 44000 ≤ mv then
    match s.power.excursion with
    | some e => .next { s with power := { s.power with vinMv := mv, excursion := some { e with ended := true } } }
    | none => .next s
  else if isPowered s then .next (noteExcursion s mv)
  else .next (inputRemoved s mv)

/-- 42 V or below, falling: the TD clock is held at half, on the 25 MHz grid and not below 500 MHz, with an event (R455). -/
def execSupplyWarning (mv : Nat) (s : State) : Host.Outcome State Fault Refusal :=
  if 42000 < mv then .next s
  else if !isPowered s then .next (inputRemoved s mv)
  else
    let s := noteExcursion s mv
    if s.power.warning then .next s
    else
      let half := max 500 (s.power.tdMhz / 2 / 25 * 25)
      let s := settleClock { s with power := { s.power with
        warning := true, supplyMhz := some half
        excursion := s.power.excursion.map fun e => { e with warned := true } } }
      .next (post s 0x1101 (packed [(4, mv), (4, s.step.toNat)]))

/-- Recovery: the excursion ends with every state kept, the clock returns, and one event is posted (R454). -/
def execSupplyRecovery (mv us : Nat) (s : State) : Host.Outcome State Fault Refusal :=
  match s.power.excursion with
  | none => .next s
  | some e =>
    if mv < 44000 ∨ !isPowered s then .next s
    else
      let s := settleClock { s with power := { s.power with
        vinMv := mv, excursion := none, warning := false, supplyMhz := none } }
      .next (post s 0x1102 (packed [(4, e.lowMv), (4, us), (1, if e.warned then 1 else 0)]))

def execSupplyReset (mv : Nat) (s : State) : Host.Outcome State Fault Refusal :=
  if 38000 < mv then .next s
  else if isPowered s then .next (supplyDown s 1 mv)
  else .next (inputRemoved s mv)

def execOvervoltageStop (mv : Nat) (s : State) : Host.Outcome State Fault Refusal :=
  if mv ≤ 60000 then .next s else .next (supplyDown s 2 mv)

/-! ### RESET_IN# and PERST# (R472) -/

/-- RESET_IN# held low for 100 ms: the rails go off and the module enters Standby. -/
def execResetInAssert (s : State) : Host.Outcome State Fault Refusal :=
  let s := { s with power := { s.power with resetInLow := true } }
  if isPowered s then .next (railsDown s .standby 4 (lowestVoltage s s.power.vinMv))
  else if 44000 ≤ s.power.vinMv then .next { s with power := { s.power with mode := .standby, hardTrip := false } }
  else .next s

/-- RESET_IN# released: the module powers on under R426, from Standby with the sample of PROFILE_SEL taken when the input came
(R471). -/
def execResetInRelease (b : BootIn) (s : State) : Host.Outcome State Fault Refusal :=
  if s.power.resetInLow then
    let b := if s.power.mode = .standby then { b with profileSel := s.power.profileSel } else b
    let s := { s with power := { s.power with resetInLow := false, hardTrip := false } }
    if !isPowered s ∧ 44000 ≤ b.mv ∧ b.mv ≤ 60000 then .next (powerOnSteps s b)
    else .next { s with power := { s.power with mode := .off } }
  else .next s

/-- PERST# asserted: a loss of the link, which resets the mailbox and nothing else. -/
def execPerstAssert (s : State) : Host.Outcome State Fault Refusal :=
  let s := mailboxReset { s with power := { s.power with perstLow := true } } 4
  .next { s with mbox := s.mbox.functionReset.linkDown }

/-! ### Thermal limits (R466 to R468) -/

def execThermalThrottleStart (die celsius : Nat) (s : State) : Host.Outcome State Fault Refusal :=
  if isPowered s ∧ 100 ≤ celsius ∧ !s.power.throttling then
    let s := { s with power := { s.power with throttling := true, thermalMhz := some s.power.tdMhz } }
    .next (post s 0x1104 (packed [(1, 1), (1, die), (4, celsius)]))
  else .next s

def execThermalClockLower (celsius : Nat) (s : State) : Host.Outcome State Fault Refusal :=
  match s.power.thermalMhz with
  | some m =>
    if isPowered s ∧ 100 ≤ celsius ∧ s.power.throttling then
      .next (settleClock { s with power := { s.power with thermalMhz := some (max 500 (m - 25)) } })
    else .next s
  | none => .next s

/-- The thermal clock rises until it no longer limits; throttling then ends with an event (R466). -/
def execThermalClockRaise (die celsius : Nat) (s : State) : Host.Outcome State Fault Refusal :=
  match s.power.thermalMhz with
  | some m =>
    if isPowered s ∧ celsius < 97 ∧ s.power.throttling then
      if tdClock { s.power with thermalMhz := none } ≤ m + 25 then
        let s := settleClock { s with power := { s.power with thermalMhz := none, throttling := false } }
        .next (post s 0x1104 (packed [(1, 2), (1, die), (4, celsius)]))
      else .next (settleClock { s with power := { s.power with thermalMhz := some (m + 25) } })
    else .next s
  | none => .next s

/-- A thermal fault (R467): the compute clocks stop, an up frame with the halting and abort flags goes out, the program is
Halted, MODULE reads 3. -/
def thermalFault (s : State) (die celsius : Nat) : State :=
  if isPowered s ∧ !s.power.thermalFault then
    let s := haltingUp s
    let s := { s with
      power := { s.power with thermalFault := true, computeStopped := true, refreshDoubled := true }
      beat := { s.beat with abortFlags := s.beat.abortFlags ||| 0x20#32, halting := true } }
    let s := haltProgram s 0x1105
    let s := post s 0x1105 (packed [(1, die), (4, celsius), (4, s.step.toNat)])
    { s with mbox := { s.mbox with module := if s.mbox.module = .mgmtFault then .mgmtFault else .computeReset } }
  else s

def execThermalFault (die celsius : Nat) (s : State) : Host.Outcome State Fault Refusal :=
  if 105 ≤ celsius then .next (thermalFault s die celsius) else .next s

/-- Every sensor below 90 °C: a compute reset may run again (R467). -/
def execThermalFaultClear (celsius : Nat) (s : State) : Host.Outcome State Fault Refusal :=
  if celsius < 90 ∧ s.power.thermalFault then
    .next { s with power := { s.power with thermalFault := false, refreshDoubled := false } }
  else .next s

/-- Dies whose sensors trip at 110 °C: FD, MPDs and CMB (R468). -/
def coolDies (die : Nat) : Bool := die == 0x08 || (decide (0x0B ≤ die) && decide (die ≤ 0x0F))

/-- The comparator switches every rail off, and the module stays Off until RESET_IN# is pulsed or the input removed (R468). -/
def execHardThermalTrip (die celsius : Nat) (s : State) : Host.Outcome State Fault Refusal :=
  if isPowered s ∧ (115 ≤ celsius ∨ (coolDies die ∧ 110 ≤ celsius)) then
    let s := railsDown s .off 3 (lowestVoltage s s.power.vinMv)
    .next { s with power := { s.power with hardTrip := true } }
  else .next s

/-! ### Coolant (R469) -/

/-- Estimated flow in mL/min, rounded down: 0.95 × input power / (66.3 × (outlet − inlet)) (R469): negative where the outlet is
the colder, and none where the two are equal. -/
def flowMl (inlet outlet watts : Nat) : Option Int :=
  if outlet = inlet then none else some ((9500 * watts : Int) / (663 * ((outlet : Int) - inlet)))

/-- The coolant-warning event; the flow field of an estimate that is negative or that there is none of is an open value
(log 3). -/
def coolantWarning (s : State) (cause inlet : Nat) (flow : Option Int) : State :=
  let (v, s) := match flow with
    | some (Int.ofNat f) => (f, s)
    | _ => drawFree s
  post s 0x1106 (packed [(1, cause), (4, inlet), (4, v)])

def execCoolantInletWarning (inlet outlet watts : Nat) (s : State) : Host.Outcome State Fault Refusal :=
  if isPowered s ∧ s.fw.profile.coolantC ≤ inlet then .next (coolantWarning s 1 inlet (flowMl inlet outlet watts))
  else .next s

def execCoolantFlowWarning (inlet outlet watts : Nat) (s : State) : Host.Outcome State Fault Refusal :=
  let flow := flowMl inlet outlet watts
  if isPowered s ∧ (flow.any fun f => decide (f < 1800)) ∧ 600 ≤ watts then .next (coolantWarning s 2 inlet flow)
  else .next s

/-! ### MR4 (R331) -/

/-- The MR4 reading of a device in service; above 105 °C it is a thermal fault (R331, R335, R467). -/
def takeMr4 (s : State) (d t : Nat) : State :=
  if deviceLost s d then s
  else
    let s := { s with mem := { s.mem with mr4 := setAt s.mem.mr4 d t } }
    if 105 < t then thermalFault (post s 0x0C05 (packed [(4, d), (4, t)])) (0x0B + d / 5) t else s

/-- Each MPD reads the MR4 register of its devices in service. -/
def execMr4Read (mpd : Fin 4) (celsius : List Nat) (s : State) : Host.Outcome State Fault Refusal :=
  if !isPowered s ∨ s.power.mode = .bench then .next s
  else .next (((List.range 5).zip celsius).foldl (fun s x => takeMr4 s (5 * mpd.val + x.1) x.2) s)

/-! ### The adaptive voltage and clock loop (R461, R462) -/

/-- The loop's millisecond: the 10 ms average `watts` against the cap in force. -/
def execAvcLoopTick (watts : Nat) (s : State) : Host.Outcome State Fault Refusal :=
  let p := s.power
  if !isPowered s ∨ p.computeStopped then .next s
  else
    let floor (m : Nat) (was : Option Nat) : Option Nat := if m = 500 then some (((was.map (· + 1)).getD 0)) else none
    if p.capW < watts then
      let m := max 500 (p.loopMhz - 25)
      .next (settleClock { s with power := { p with loopMhz := m, msBelow := none, msAtFloor := floor m p.msAtFloor } })
    else
      let p := { p with capReported := false }
      if watts < p.capW - 50 then
        let n := (p.msBelow.map (· + 1)).getD 0
        if 10 ≤ n ∧ p.loopMhz + 25 ≤ p.ceilMhz then
          .next (settleClock { s with power := { p with loopMhz := p.loopMhz + 25, msBelow := some 0, msAtFloor := none } })
        else .next { s with power := { p with msBelow := some n, msAtFloor := floor p.loopMhz p.msAtFloor } }
      else .next { s with power := { p with msBelow := none, msAtFloor := floor p.loopMhz p.msAtFloor } }

def execCapUnreachable (watts : Nat) (s : State) : Host.Outcome State Fault Refusal :=
  let p := s.power
  if isPowered s ∧ p.loopMhz = 500 ∧ 100 ≤ p.msAtFloor.getD 0 ∧ p.capW < watts ∧ !p.capReported then
    .next (post { s with power := { p with capReported := true } } 0x1107 (packed [(4, p.capW), (4, watts)]))
  else .next s

/-! ### The MCP (R361, R447, R448) -/

def execHeartbeatTick (s : State) : Host.Outcome State Fault Refusal :=
  if s.mbox.mcpUp then .next { s with mbox := { s.mbox with heartbeat := s.mbox.heartbeat + 1 } } else .next s

/-- Management restarts of the last 600 s. -/
def recentRestarts (s : State) : List Nat := s.mbox.restarts.filter fun t => s.timebase < t + 600 * 10 ^ 9

/-- The watchdog restarts the MCP (R447): the rings are reset, the unit table is rebuilt and disagreements are handled
under R445, and the management-restart event is the first entry of the re-enabled ring. -/
def execManagementRestart (reports : List UnitReport) (s : State) : Host.Outcome State Fault Refusal :=
  if isPowered s ∧ s.mbox.mcpUp ∧ (recentRestarts s).length < 3 then
    let times := s.timebase :: recentRestarts s
    let s := bump s 0x1007 noInst noTensor 1
    let s := ringsReset s
    let s := { s with mbox := { s.mbox with restarts := times } }
    let s := dueFirst s 0x1008 (packed [(4, times.length), (1, 1)])
    reports.foldl (fun o r => match o with
      | .next s => execManagementTelemetry r s
      | o => o) (.next s)
  else .next s

/-- After a third restart within 600 s the MCP is not restarted again: MODULE reads 6, no command is served and no event
posted (R448). -/
def execManagementFault (s : State) : Host.Outcome State Fault Refusal :=
  if isPowered s ∧ s.mbox.mcpUp ∧ 3 ≤ (recentRestarts s).length then
    .next { s with mbox := { s.mbox with module := .mgmtFault, mcpUp := false } }
  else .next s

end Sys2Proof.Machine
end

