-- ==== Sys2Proof/WellFormed.lean ====
section
/-! DEFINITION. Commands that are well formed: every operand lies within the bounds that the spec gives it. `exec` is total
and does not ask for this; a command outside these bounds is one that the outside cannot send. -/

namespace Sys2Proof

/-- A unit number that R190's table names; grade A has the most tiles. -/
def unitOk (u : Nat) : Bool :=
  let local_ := u % 256
  if u < 0x800 then
    decide (local_ ≤ 0x17) || (decide (0x20 ≤ local_) && decide (local_ ≤ 0x67)) ||
      (decide (0x80 ≤ local_) && decide (local_ ≤ 0x8B)) || local_ == 0x90 || local_ == 0x91 ||
      (decide (0xA0 ≤ local_) && decide (local_ ≤ 0xA2))
  else [0x800, 0x900, 0xA00].contains u

/-- A physical tile: 26 Forward Tiles and 76 Backward Tiles stand on a Tensor Die (R2). -/
def tileOk (t : TileId) : Bool :=
  match t.kind with
  | .ft => decide (t.index < 26)
  | .bt => decide (t.index < 76)

/-- A kind and a die of the unit table (R436). -/
def physOk (u : PhysUnit) : Bool := decide (1 ≤ u.kind) && decide (u.kind ≤ 0xD) && decide (u.die ≤ 0xF)

/-- A mailbox command has its opcode, one of the four rings and the 48 payload bytes [63:16] (R372, R373, R384). -/
def cmdOk (opcode : Nat) (c : Cmd) : Bool := c.opcode == opcode && decide (c.ring < 4) && c.payload.length == 48

/-- No MAC frame is longer than 9,216 bytes (R275): the headers, trailer and FCS of R279 take at least 82 of them. -/
def payloadOk (x : Rx) : Bool := decide (x.f.payload.length ≤ 9134)

/-- A frame has the type of its row (R283). -/
def frameOk (typ : Nat) (x : Rx) : Bool := x.f.typ.toNat == typ && payloadOk x

/-- A list of one reading per place. -/
def listOk (n : Nat) (l : List Nat) : Bool := decide (l.length ≤ n)

/-- What a read of host memory returns has the length that was asked for. -/
def hostOk (n : Nat) (h : HostRead) : Bool := (h.map (·.length == n)).getD true

/-- The tiles and units that power-on reports are units of the module. -/
def bootOk (b : BootIn) : Bool := b.failed.all tileOk && b.failedUnits.all physOk

/-- Counts of a device's read errors are those of one access, at most 1,024 bytes of units (R295, R326). -/
def readOk (r : DevRead) : Bool := decide (r.flagged ≤ 40)

/-- A lane's measurement: no more errors than bits (R430). -/
def laneOk (t : LaneTest) : Bool := decide (t.errors ≤ t.bits)

/-- A completion timeout, in µs, that lies in a range of A to D (R356; the bounds are those of PCI Express, log 111). -/
def timeoutOk (us : Nat) : Bool :=
  [(50, 100), (1000, 10000), (16000, 55000), (65000, 210000), (260000, 900000), (1000000, 3500000), (4000000, 13000000),
    (17000000, 64000000)].any fun r => decide (r.1 ≤ us) && decide (us ≤ r.2)

/-- The settings that a configuration write can make: payloads up to 512 bytes, read requests up to 4,096, timeouts of ranges A
to D, and a link of at least four lanes (R356). -/
def configOk (c : ConfigWrite) : Bool :=
  (c.maxPayload.map [128, 256, 512].contains).getD true &&
    (c.maxRead.map [128, 256, 512, 1024, 2048, 4096].contains).getD true && (c.timeoutUs.map timeoutOk).getD true &&
    (c.link.map fun l => decide (25 ≤ l.rate) && decide (4 ≤ l.width)).getD true

/-- The BAR2 sizes of R358: 1 GB to 512 GB. -/
def barOk (k : Option Nat) : Bool := (k.map fun k => decide (30 ≤ k) && decide (k ≤ 39)).getD true

/-- The operands of a command are ones that the spec's rows allow. -/
def Instr.wf : Instr → Bool
  | .powerOn b => bootOk b
  | .portLinkUp _ _ => true
  | .linkGateWindowEnd _ _ _ measured => measured.all laneOk
  | .portLinkTimeout _ => true
  | .supplyExcursion _ => true
  | .supplyWarning _ => true
  | .supplyRecovery _ _ => true
  | .supplyReset _ => true
  | .overvoltageStop _ => true
  | .resetInAssert => true
  | .resetInRelease b => bootOk b
  | .perstAssert => true
  | .thermalThrottleStart _ _ => true
  | .thermalClockLower _ => true
  | .thermalClockRaise _ _ => true
  | .thermalFault _ _ => true
  | .thermalFaultClear _ => true
  | .hardThermalTrip _ _ => true
  | .coolantInletWarning _ _ _ => true
  | .coolantFlowWarning _ _ _ => true
  | .mr4Read _ celsius => listOk 5 celsius
  | .avcLoopTick _ => true
  | .capUnreachable _ => true
  | .heartbeatTick => true
  | .managementRestart reports => reports.all (fun r => physOk r.phys)
  | .managementFault => true
  | .resetCtrlMboxReset _ => true
  | .resetCtrlComputeReset _ failed => failed.all tileOk
  | .sqTailDoorbell _ _ => true
  | .eqHeadWrite _ => true
  | .ringCtrlWrite _ _ => true
  | .ringBaseWrite _ _ _ => true
  | .registerWrite _ width _ => [1, 4, 8].contains width
  | .bar2Read _ n => decide (1 ≤ n)
  | .bar2Write _ data => decide (1 ≤ data.length)
  | .functionLevelReset => true
  | .pcieHotReset => true
  | .pcieLinkLoss => true
  | .commandFetch entry _ => hostOk 64 entry
  | .eventCoalesceDelay _ => true
  | .eventCountInterrupt _ => true
  | .load c _ _ => cmdOk 0x0101 c
  | .unload c => cmdOk 0x0102 c
  | .start c _ => cmdOk 0x0103 c
  | .fillPassComplete => true
  | .pause c => cmdOk 0x0104 c
  | .pauseTakesEffect => true
  | .resume c _ => cmdOk 0x0105 c
  | .save c => cmdOk 0x0106 c
  | .restore c _ => cmdOk 0x0107 c
  | .halt c => cmdOk 0x0108 c
  | .computeResetCommand c failed => cmdOk 0x0109 c && failed.all tileOk
  | .benchEnter c => cmdOk 0x010A c
  | .benchLeave c celsius _ => cmdOk 0x010A c && listOk 20 celsius
  | .watchSet c => cmdOk 0x0201 c
  | .watchClear c => cmdOk 0x0202 c
  | .layerBounds c => cmdOk 0x0203 c
  | .journalArm c => cmdOk 0x0204 c
  | .journalReplay c => cmdOk 0x0205 c
  | .fabricRecord c => cmdOk 0x0301 c
  | .portRecord c _ => cmdOk 0x0302 c
  | .routeWrite c _ => cmdOk 0x0303 c
  | .planWrite c => cmdOk 0x0304 c
  | .portRetrain c _ _ measured => cmdOk 0x0305 c && measured.all laneOk
  | .squadSet c _ => cmdOk 0x0306 c
  | .readTable c => cmdOk 0x0401 c
  | .powerCap c => cmdOk 0x0501 c
  | .profileSelect c => cmdOk 0x0502 c
  | .profileWrite c _ => cmdOk 0x0503 c
  | .fwStage c _ => cmdOk 0x0504 c
  | .fwActivate c => cmdOk 0x0505 c
  | .activationEpoch a => a.failed.all tileOk
  | .fwConfirm c => cmdOk 0x0506 c
  | .trialConfirmTimeout failed _ => failed.all tileOk
  | .trialWatchdog failed _ => failed.all tileOk
  | .dma c _ => cmdOk 0x0601 c
  | .abort c _ => cmdOk 0x0602 c
  | .proxyCommandReceive x => frameOk 0x10 x
  | .proxyCompletionReceive x => frameOk 0x10 x
  | .smbusMctpCommand msg _ => decide (67 ≤ msg.length)
  | .spdmGetVersion _ req => decide (4 ≤ req.length)
  | .spdmGetCapabilities _ req => decide (4 ≤ req.length)
  | .spdmNegotiateAlgorithms _ req => decide (4 ≤ req.length)
  | .spdmGetDigests _ req => decide (4 ≤ req.length)
  | .spdmGetCertificate _ req => decide (4 ≤ req.length)
  | .spdmChallenge _ req => decide (4 ≤ req.length)
  | .spdmGetMeasurements _ req => decide (4 ≤ req.length)
  | .spdmRespondIfReady _ req => decide (4 ≤ req.length)
  | .periodBoundary => true
  | .headroomHalving _ => true
  | .stallAlarm _ => true
  | .holdPoint => true
  | .holdLimit => true
  | .whistleUpDeadline => true
  | .whistleUpFrame x => frameOk 0x0C x
  | .whistleDownFrame x => frameOk 0x0C x
  | .huddleEnter => true
  | .huddleFrame x _ => frameOk 0x0D x
  | .wait unit => unitOk unit
  | .signalAdd unit => unitOk unit
  | .signalAcquire unit => unitOk unit
  | .signalRelease unit => unitOk unit
  | .pass unit _ _ => unitOk unit
  | .fillGateWaitLimit unit group _ => unitOk unit && decide (group < 64)
  | .fillGateFlushPoint unit group _ => unitOk unit && decide (group < 64)
  | .blockRefetchComplete unit _ => unitOk unit
  | .veOperation unit _ => unitOk unit
  | .veFlagRead td ve => unitOk (veUnit td ve)
  | .rowSoftmaxForward unit => unitOk unit
  | .rowSoftmaxBackward unit _ => unitOk unit
  | .rowLayerNormForward unit => unitOk unit
  | .rowLayerNormBackward unit _ => unitOk unit
  | .rowRmsNormForward unit => unitOk unit
  | .rowRmsNormBackward unit _ => unitOk unit
  | .rowCategoricalDraw unit => unitOk unit
  | .move unit => unitOk unit
  | .ckptStore unit => unitOk unit
  | .ckptLoad unit _ => unitOk unit
  | .updateMainPass unit _ => unitOk unit
  | .updateCopyPass unit => unitOk unit
  | .awaySlotWriteStart _ => true
  | .versionSlotSwap _ => true
  | .bucketSend _ => true
  | .bucketFinish unit _ => unitOk unit
  | .bucketNorm unit => unitOk unit
  | .ingest unit => unitOk unit
  | .instanceComplete unit _ _ _ _ => unitOk unit
  | .tileResidueMismatch t _ _ _ => tileOk t
  | .tileReprobe t _ => tileOk t
  | .capacityCompaction _ _ => true
  | .unitResidueMismatch unit _ _ => unitOk unit
  | .managementTelemetry r => physOk r.phys
  | .unitTableApply u => physOk u
  | .reductionFrame x _ => frameOk 0x0B x
  | .readRequest x reads => frameOk 0x01 x && reads.all readOk
  | .readResponse x => frameOk 0x02 x
  | .writeRequest x => frameOk 0x03 x
  | .writeAck x => frameOk 0x04 x
  | .atomicRequest x => frameOk 0x05 x
  | .atomicResponse x => frameOk 0x06 x
  | .signalFrame x => frameOk 0x07 x
  | .bulkData x => frameOk 0x08 x
  | .bulkReadRequest x => frameOk 0x09 x
  | .bulkAck x => frameOk 0x0A x
  | .discoveryFrame x => frameOk 0x0E x
  | .linkControlAck x => frameOk 0x0F x
  | .linkControlNak x => frameOk 0x0F x
  | .creditGrant x => frameOk 0x0F x
  | .laneChangeRequest x => frameOk 0x0F x
  | .laneChangeConfirm x => frameOk 0x0F x
  | .frameTransit x => payloadOk x
  | .frameSend _ => true
  | .arpRequest _ _ sender => sender.length == 6
  | .neighbourSolicitation _ target sender => target.length == 16 && sender.length == 6
  | .icmpEchoRequest _ _ sender _ => sender.length == 6
  | .icmpv6EchoRequest _ target sender _ => target.length == 16 && sender.length == 6
  | .lldpFrame _ chassis _ => decide (1 ≤ chassis.length) && decide (chassis.length ≤ 255)
  | .pauseFrame _ => true
  | .nonKftFrame _ => true
  | .ptpSync _ _ _ => true
  | .ptpFollowUp _ _ _ => true
  | .ptpDelayReq _ _ _ => true
  | .ptpDelayResp _ _ _ => true
  | .ptpSyncInterval => true
  | .ackInterval _ => true
  | .retransmitTimeout _ => true
  | .retryExhausted _ => true
  | .responseTimeout _ => true
  | .ecnEchoTimeout _ _ => true
  | .rateAlphaInterval _ _ => true
  | .rateRecoveryInterval _ _ => true
  | .discoveryInterval _ => true
  | .lldpInterval => true
  | .laneLost _ _ _ _ => true
  | .laneRetrainComplete _ _ => true
  | .laneRetrainTimeout _ => true
  | .stripeFlushTimeout _ reads => reads.all readOk
  | .reconstructionRateLimit _ => true
  | .deviceCommandTimeout _ => true
  | .dqsTracking _ _ => true
  | .refresh _ _ => true
  | .lpddr5xScrub _ group reads _ _ => reads.all (fun r => readOk r && r.device.val / 5 == group.val)
  | .sramScrub _ _ _ _ => true
  | .sampleDecodeStart _ => true
  | .sampleComplete _ _ _ => true
  | .bitstreamFetchRetry _ _ => true
  | .beatEpoch => true
  | .memorySpaceEnable sizeLog2 cfg => barOk sizeLog2 && configOk cfg
  | .doeDiscovery req => decide (9 ≤ req.length)

end Sys2Proof
end

