-- ==== Sys2Proof/Machine/Registers.lean ====
section
/-! DEFINITION. The registers of BAR0 and what writing them does (R359 to R363), resets of the function (R365), BAR2
windows (R367 to R371) and interrupts (R382). -/

namespace Sys2Proof.Machine

open Sys2Proof

/-! ### Rings (R362, R372, R376, R381) -/

/-- A bit of RING_ERR becomes set: ENABLE is cleared and a ring-error event posted (R362). -/
def ringError (s : State) (i : Fin 5) (bit : Nat) : State :=
  let e := s.mbox.ringErr[i] ||| BitVec.ofNat 3 bit
  let fresh := e != s.mbox.ringErr[i]
  let s := { s with mbox := { s.mbox with ringErr := s.mbox.ringErr.set i e, ringOn := s.mbox.ringOn.set i false } }
  if fresh then post s 0x0E03 (packed [(1, i.val), (1, e.toNat)]) else s

/-- What was held leaves while the event ring has room (R380, R381). -/
def drainEvents (s : State) : State :=
  flushHeld (s.mbox.kept.length + s.mbox.heldCompletions.length + 3) s

/-- A SIZE that R361 allows. -/
def sizeOk (n : Nat) : Bool := decide (16 ≤ n) && decide (n ≤ 4096) && n == 2 ^ n.log2

/-- A write of RING_CTRL (R361, R362). A write that leaves SIZE as it is, is no write to SIZE (DEDUCED, log 25). -/
def writeRingCtrl (s : State) (i : Fin 5) (v : Nat) : State :=
  let size := bitsOf v 0 13
  let en := bitAt v 16
  if s.mbox.ringOn[i] then
    if size ≠ s.mbox.ringSize[i].toNat then ringError s i 4
    else { s with mbox := { s.mbox with ringOn := s.mbox.ringOn.set i en } }
  else
    let written := en || size != s.mbox.ringSize[i].toNat
    let s := { s with mbox := { s.mbox with ringSize := s.mbox.ringSize.set i (BitVec.ofNat 13 size) } }
    if written && !sizeOk size then ringError s i 4
    else if !en then s
    else
      let s := { s with mbox := { s.mbox with ringOn := s.mbox.ringOn.set i true } }
      if i.val = 4 then drainEvents s else s

/-- A write of a half or of all of a 64-bit register. -/
def mergeHalf (old : Word64) (h : Half) (v : Word64) : Word64 :=
  match h with
  | .whole => v
  | .low => (old &&& 0xFFFF_FFFF_0000_0000#64) ||| (v &&& 0xFFFF_FFFF#64)
  | .high => (old &&& 0xFFFF_FFFF#64) ||| (v <<< 32)

/-- A write of RING_BASE: ignored while the ring is enabled, with CONFIG_ENABLED set (R362). -/
def writeRingBase (s : State) (i : Fin 5) (h : Half) (v : Word64) : State :=
  if s.mbox.ringOn[i] then ringError s i 4
  else
    let b := mergeHalf s.mbox.ringBase[i] h v &&& 0xFFFF_FFFF_FFFF_F000#64
    { s with mbox := { s.mbox with ringBase := s.mbox.ringBase.set i b } }

/-- A doorbell: a value at or beyond SIZE is BAD_DOORBELL, whether the ring is enabled or not (R361). -/
def writeTail (s : State) (r : Fin 4) (v : Nat) : State :=
  let t := bitsOf v 0 12
  let s := { s with mbox := { s.mbox with sqTail := s.mbox.sqTail.set r (BitVec.ofNat 12 t) } }
  let i : Fin 5 := ⟨r.val, by omega⟩
  if s.mbox.ringSize[i].toNat ≤ t then ringError s i 1 else s

/-- EQ_HEAD: entries are returned, and held entries take the room (R376, R380); a value at or beyond SIZE is BAD_DOORBELL
(R361). -/
def writeEqHead (s : State) (v : Nat) : State :=
  let h := bitsOf v 0 12
  let s := { s with mbox := { s.mbox with eqHead := BitVec.ofNat 12 h } }
  if s.mbox.ringSize[4].toNat ≤ h then ringError s 4 1 else drainEvents s

/-- RESET_CTRL: without the key the write has no effect (R361). A compute reset that cannot run now is not begun (log 26). -/
def writeResetCtrl (s : State) (v : Nat) (failed : List TileId) : State :=
  if bitsOf v 16 16 ≠ 0xA5C3 then s
  else
    let s := if bitAt v 0 then mailboxReset s 1 else s
    if bitAt v 1 ∧ canReset s then computeReset s 1 failed else s

/-! ### The register map (R359 to R361) -/

/-- Width in bytes of the register that begins at an offset; 0 for RSVD offsets. -/
def regWidth (off : Nat) : Nat :=
  if off = 0 ∨ off = 4 ∨ off = 8 ∨ off = 0xC ∨ off = 0x10 then 4
  else if 0x1000 ≤ off ∧ off ≤ 0x1010 ∧ off % 4 = 0 then 4
  else if 0x2000 ≤ off ∧ off < 0x20A0 then
    match off % 0x20 with
    | 0 => 8 | 8 => 4 | 0xC => 4 | 0x10 => 4 | _ => 0
  else if 0x3000 ≤ off ∧ off < 0x3020 ∧ off % 8 = 0 then 8
  else if off = 0x3020 then 4
  else if off = 0x3028 ∨ off = 0x4000 then 8
  else if 0x4040 ≤ off ∧ off < 0x4080 then 1
  else if off = 0x4080 then 4
  else if 0x10000 ≤ off ∧ off < 0x10400 ∧ off % 8 = 0 then 8
  else if off = 0x11000 then 8
  else 0

/-- Value of the register that begins at an offset (R361); write-only fields and RSVD offsets read 0. -/
def regValue (s : State) (off : Nat) : Nat :=
  let m := s.mbox
  if off = 0 then devIdReg s
  else if off = 4 then fwVerReg s
  else if off = 8 then stateReg s
  else if off = 0xC then m.heartbeat.toNat
  else if 0x1000 ≤ off ∧ off < 0x1010 then (getAt m.sqTail ((off - 0x1000) / 4) 0).toNat
  else if off = 0x1010 then m.eqHead.toNat
  else if 0x2000 ≤ off ∧ off < 0x20A0 then
    let i := (off - 0x2000) / 0x20
    match off % 0x20 with
    | 0 => (getAt m.ringBase i 0).toNat
    | 8 => (getAt m.ringSize i 0).toNat + (if getAt m.ringOn i false then 0x10000 else 0)
    | 0xC => (getAt m.ringHead i 0).toNat + (if i ≠ 4 ∨ m.phase then 0x1000 else 0)
    | 0x10 => (getAt m.ringErr i 0).toNat
    | _ => 0
  else if 0x3000 ≤ off ∧ off < 0x3020 then (getAt m.winBase ((off - 0x3000) / 8) 0).toNat
  else if off = 0x3020 then (if m.winErr then 1 else 0) + 2 * m.winCause.toNat
  else if off = 0x3028 then m.winErrAddr.toNat
  else if off = 0x4000 then m.evtMask.toNat
  else if 0x4040 ≤ off ∧ off < 0x4080 then (getAt m.evtVec (off - 0x4040) 0).toNat
  else if off = 0x4080 then m.coalCount.toNat + 65536 * m.coalDelay.toNat
  else if 0x10000 ≤ off ∧ off < 0x10400 then
    bitsOf (getAt m.msix ((off - 0x10000) / 16) 0).toNat (off % 16 * 8) 64
  else if off = 0x11000 then m.msixPba.toNat
  else 0

/-- The register an access of `width` bytes covers and which half (R360): none for an access that is ignored. -/
def regAccess (off width : Nat) : Option (Nat × Half) :=
  if width = 0 then none
  else if regWidth off = width then some (off, .whole)
  else if width = 4 ∧ regWidth off = 8 then some (off, .low)
  else if width = 4 ∧ off % 8 = 4 ∧ regWidth (off - 4) = 8 then some (off - 4, .high)
  else none

/-- A read of BAR0 (R360). -/
def regRead (s : State) (off width : Nat) : Nat :=
  match regAccess off width with
  | none => 0
  | some (o, .whole) => regValue s o
  | some (o, .low) => regValue s o % 2 ^ 32
  | some (o, .high) => regValue s o / 2 ^ 32

/-- Interrupts left pending go out once nothing masks them (PCI Express MSI-X; log 6). -/
def sendPending (s : State) : State :=
  if !s.mbox.pcie.msixEnable || s.mbox.pcie.msixMask then s
  else ((List.range 64).filter fun v => s.mbox.msixPba.getLsbD v && !(getAt s.mbox.msix v 0).getLsbD 96).foldl (fun s v =>
    emit { s with mbox := { s.mbox with msixPba := s.mbox.msixPba &&& ~~~(1#64 <<< v) } } (.interrupt v)) s

/-- Clearing a vector's mask bit sends an interrupt that was left pending (PCI Express MSI-X; log 6). -/
def msixWrite (s : State) (off : Nat) (h : Half) (v : Word64) : State :=
  let i := (off - 0x10000) / 16
  let hi := off % 16 = 8
  let old := getAt s.mbox.msix i 0
  let part := if hi then (old >>> 64).setWidth 64 else old.setWidth 64
  let part := mergeHalf part h v
  let new : BitVec 128 := if hi then (old &&& (BitVec.ofNat 128 (2 ^ 64 - 1))) ||| (part.setWidth 128 <<< 64)
    else (old >>> 64 <<< 64) ||| part.setWidth 128
  sendPending { s with mbox := { s.mbox with msix := setAt s.mbox.msix i new } }

/-- A write of BAR0 (R360 to R362). Read-only and RSVD fields ignore it. -/
def regWrite (s : State) (off width : Nat) (v : Word64) : State :=
  match regAccess off width with
  | none => s
  | some (o, h) =>
    let m := s.mbox
    if o = 0x10 then writeResetCtrl s (v.toNat % 2 ^ 32) []
    else if hr : 0x1000 ≤ o ∧ o < 0x1010 then writeTail s ⟨(o - 0x1000) / 4, by omega⟩ v.toNat
    else if o = 0x1010 then writeEqHead s v.toNat
    else if hr : 0x2000 ≤ o ∧ o < 0x20A0 then
      let i : Fin 5 := ⟨(o - 0x2000) / 0x20, by omega⟩
      match o % 0x20 with
      | 0 => writeRingBase s i h v
      | 8 => writeRingCtrl s i (v.toNat % 2 ^ 32)
      | 0x10 => { s with mbox := { m with ringErr := m.ringErr.set i (m.ringErr[i] &&& ~~~(v.setWidth 3)) } }
      | _ => s
    else if hr : 0x3000 ≤ o ∧ o < 0x3020 then
      let i : Fin 4 := ⟨(o - 0x3000) / 8, by omega⟩
      { s with mbox := { m with winBase := m.winBase.set i (mergeHalf m.winBase[i] h v &&& 0xFFFF_FFFF_F000_0000#64) } }
    else if o = 0x3020 then
      if v.getLsbD 0 then { s with mbox := { m with winErr := false } } else s
    else if o = 0x4000 then { s with mbox := { m with evtMask := mergeHalf m.evtMask h v &&& 0xFFFF_FFFF_FFFF_FFFE#64 } }
    else if 0x4040 ≤ o ∧ o < 0x4080 then
      { s with mbox := { m with evtVec := setAt m.evtVec (o - 0x4040) (v.setWidth 6) } }
    else if o = 0x4080 then
      { s with mbox := { m with coalCount := v.setWidth 16, coalDelay := (v >>> 16).setWidth 16 } }
    else if 0x10000 ≤ o ∧ o < 0x10400 then msixWrite s o h v
    else s

/-! ### Register commands -/

/-- Whether the function answers memory accesses at its BARs: Memory Space Enable is set and the function is in D0 (R356, R358;
the effect of the two PRESUMED from PCI Express, log 111). -/
def barsOpen (s : State) : Bool := s.mbox.memEnable && !s.mbox.pcie.d3hot

/-- A write at a BAR: none takes effect while the function does not answer. -/
def atBar (s : State) (k : State → State) : Host.Outcome State Fault Refusal := .next (if barsOpen s then k s else s)

/-- A mailbox reset of which the function itself is reset, or its link is lost (R358, R365). -/
def functionReset (s : State) (cause : Nat) : State :=
  let s := mailboxReset s cause
  { s with mbox := s.mbox.functionReset }

def execResetCtrlMboxReset (key : Word16) (s : State) : Host.Outcome State Fault Refusal :=
  atBar s fun s => writeResetCtrl s (key.toNat * 65536 + 1) []

def execResetCtrlComputeReset (key : Word16) (failed : List TileId) (s : State) : Host.Outcome State Fault Refusal :=
  atBar s fun s => writeResetCtrl s (key.toNat * 65536 + 2) failed

def execSqTailDoorbell (r : Fin 4) (v : Word32) (s : State) : Host.Outcome State Fault Refusal :=
  atBar s fun s => writeTail s r v.toNat

def execEqHeadWrite (v : Word32) (s : State) : Host.Outcome State Fault Refusal := atBar s fun s => writeEqHead s v.toNat

def execRingCtrlWrite (r : Fin 5) (v : Word32) (s : State) : Host.Outcome State Fault Refusal :=
  atBar s fun s => writeRingCtrl s r v.toNat

def execRingBaseWrite (r : Fin 5) (h : Half) (v : Word64) (s : State) : Host.Outcome State Fault Refusal :=
  atBar s fun s => writeRingBase s r h v

def execRegisterWrite (offset width : Nat) (v : Word64) (s : State) : Host.Outcome State Fault Refusal :=
  atBar s fun s => regWrite s offset width v

/-- Function Level Reset (R365). -/
def execFunctionLevelReset (s : State) : Host.Outcome State Fault Refusal := .next (functionReset s 2)

def execPcieHotReset (s : State) : Host.Outcome State Fault Refusal := .next (functionReset s 3)

/-- The link is lost; its next training sets its rate and width anew (R356, R365). -/
def execPcieLinkLoss (s : State) : Host.Outcome State Fault Refusal :=
  let t := functionReset s 4
  .next { t with mbox := t.mbox.linkDown }

/-! ### PCI Express configuration (R356 to R358) -/

/-- The configuration header and capabilities that a host reads: identity, class, BAR sizes and the BARs themselves. -/
structure PcieHeader where
  vendor : Word16
  device : Nat
  classCode : Nat
  subsystem : Nat
  serial : List Byte                       -- Device Serial Number capability
  bar0Size : Nat
  bar2Size : Nat
  bar0 : Word64
  bar2 : Word64
  bar0Type : Nat                           -- low four bits of the BAR: 64-bit, non-prefetchable
  bar2Type : Nat                           -- 64-bit, prefetchable
  capabilities : List Nat                  -- ids of the capabilities of R356
  extended : List Nat                      -- ids of its extended capabilities
  deriving DecidableEq, Repr

/-- The header as it stands (R356 to R358): Power Management, PCI Express and MSI-X; Advanced Error Reporting, Device Serial
Number, Resizable BAR, Data Link Feature, Physical Layer 16.0 GT/s, Lane Margining, Physical Layer 32.0 GT/s, Data Object
Exchange, Physical Layer 64.0 GT/s and FLIT Logging. Ids and type bits are those of PCI Express (PRESUMED, log 111). -/
def pcieHeader (s : State) : PcieHeader :=
  { vendor := Config.vendorId, device := 0x3250, classCode := 0x12_0000
    subsystem := match s.flash.grade with | .a => 0x000A | .b => 0x000B
    serial := (leBytes 16 Config.serial.toNat).take 8, bar0Size := 2 ^ 24, bar2Size := 2 ^ s.mbox.barLog2
    bar0 := s.mbox.pcie.bar0, bar2 := s.mbox.pcie.bar2, bar0Type := 0x4, bar2Type := 0xC
    capabilities := [0x01, 0x10, 0x11]
    extended := [0x01, 0x03, 0x15, 0x25, 0x26, 0x27, 0x2A, 0x2E, 0x31, 0x32] }

/-- A base address as a BAR of a size holds it. -/
def barValue (log2 : Nat) (v : Word64) : Word64 := v >>> log2 <<< log2

/-- The rates of R356, in tenths of a GT/s. -/
def linkRates : List Nat := [640, 320, 160, 80, 50, 25]

/-- The link as it trains with its other end: the highest rate and the width that both support; FLIT mode at 64 GT/s, and below
it where the other end supports it (R356). -/
def trained (p : Pcie) (l : LinkEnd) : Pcie :=
  let rate := (linkRates.find? fun r => decide (r ≤ l.rate)).getD 0
  let width := if 8 ≤ l.width then 8 else if 4 ≤ l.width then 4 else 0
  if rate = 0 ∨ width = 0 then { p with linkRate := 0, linkWidth := 0, flit := false }
  else { p with linkRate := rate, linkWidth := width, flit := rate == 640 || l.flit }

/-- What the host's configuration writes set, where the value is one of R356. -/
def configured (p : Pcie) (log2 : Nat) (cfg : ConfigWrite) : Pcie :=
  let p := (cfg.link.map (trained p)).getD p
  { p with
    d3hot := cfg.d3hot.getD p.d3hot
    maxPayload := (cfg.maxPayload.filter [128, 256, 512].contains).getD p.maxPayload
    maxRead := (cfg.maxRead.filter [128, 256, 512, 1024, 2048, 4096].contains).getD p.maxRead
    timeoutUs := (cfg.timeoutUs.filter timeoutOk).getD p.timeoutUs
    msixEnable := cfg.msixEnable.getD p.msixEnable
    msixMask := cfg.msixMask.getD p.msixMask
    bar0 := (cfg.bar0.map (barValue 24)).getD p.bar0
    bar2 := (cfg.bar2.map (barValue log2)).getD p.bar2
    aerStatus := p.aerStatus &&& ~~~cfg.aerClear }

/-- Configuration writes, the last of which sets or clears Memory Space Enable (R356, R358). The BAR2 size changes only while
the bit is clear and takes effect when it is next set; a size outside R358 is not taken. -/
def execMemorySpaceEnable (sizeLog2 : Option Nat) (s : State) (cfg : ConfigWrite := {}) : Host.Outcome State Fault Refusal :=
  let m := s.mbox
  let size := match sizeLog2 with
    | some k => if 30 ≤ k ∧ k ≤ 39 ∧ !m.memEnable then k else m.barPending
    | none => m.barPending
  let now := if cfg.enable then size else m.barLog2
  .next (sendPending { s with mbox := { m with memEnable := cfg.enable, barPending := size, barLog2 := now
                                               pcie := configured m.pcie now cfg }
                              power := { s.power with perstLow := false } })

/-! ### Interrupts (R382) -/

/-- DELAY µs have passed since the first event written after the vector's last interrupt; a DELAY of 0 has passed at once. -/
def execEventCoalesceDelay (vec : Fin 64) (s : State) : Host.Outcome State Fault Refusal :=
  if 1 ≤ s.mbox.sinceIrq[vec] then .next (interrupt s vec.val 0) else .next s

/-- COUNT events have been written on the vector since its last interrupt; a COUNT of 0 acts as 1. Those written beyond COUNT
await the next one. -/
def execEventCountInterrupt (vec : Fin 64) (s : State) : Host.Outcome State Fault Refusal :=
  let count := max 1 s.mbox.coalCount.toNat
  if count ≤ s.mbox.sinceIrq[vec] then .next (interrupt s vec.val (s.mbox.sinceIrq[vec] - count)) else .next s

/-! ### BAR2 windows (R367 to R371) -/

/-- Segment of a BAR2 offset, whether the access stays in it, and the global address (R367). -/
def bar2Place (s : State) (off n : Nat) : Nat × Bool × Nat :=
  let seg := 2 ^ (s.mbox.barLog2 - 2)
  let i := off / seg % 4
  let w := (getAt s.mbox.winBase i 0).toNat
  let base := bitsOf w 28 16 * 2 ^ 28 / seg * seg
  (i, decide (off / seg = (off + max n 1 - 1) / seg), bitsOf w 44 20 * 2 ^ 44 + base + off % seg)

/-- Cause of a window error for a local access's status (R361, R370). -/
def winCauseOf (status : Nat) : Nat := match status with | 2 => 2 | 4 => 4 | _ => 1

/-- Bytes that one request toward a node can carry (R295). -/
def requestMax (s : State) (node : Nat) : Nat := ((egress s node).map fun p => maxPayload s.fabric.ports[p]).getD 1024

/-- A host read of another module: one request, or as many as its length takes (R295, R368). -/
def remoteRead (s : State) (win addr n : Nat) : Nat × State :=
  let k := requestMax s (nodeOf addr)
  if n ≤ k then request s 0x01 (BitVec.ofNat 64 addr) n [] (.hostRead win n)
  else
    let o := Owner.hostPart win addr n s.fabric.nextTid.toNat
    (List.range (ceilDiv n k)).foldl (fun r i =>
      if r.1 ≠ 0 then r else request r.2 0x01 (BitVec.ofNat 64 (addr + k * i)) (min k (n - k * i)) [] o) (0, s)

/-- A host write to another module (R295, R368). -/
def remoteWrite (s : State) (win addr : Nat) (data : List Byte) : Nat × State :=
  let k := requestMax s (nodeOf addr)
  (pieces k (data.length / k + 1) 0 data).foldl (fun r x =>
    if r.1 ≠ 0 then r else request r.2 0x03 (BitVec.ofNat 64 (addr + x.1)) x.2.length x.2 (.hostWrite win)) (0, s)

/-- A failed host read: the window error, and bytes 0xFF (R370). -/
def badRead (s : State) (win cause addr n : Nat) : State :=
  emit (windowError s win cause addr) (.readData (List.replicate n 0xFF))

/-- A read of a view by another module, the host or a command waits, counted (R351, R355). -/
def waitForView (s : State) (off : Nat) (r : ViewReader) : State :=
  let s := bump s 0x0D07 (igdOfView s off) noTensor 1
  { s with fabric := { s.fabric with waiting := s.fabric.waiting ++
      [{ by_ := r, step := s.step, beat := s.beat.number }] } }

/-- A local read through a window at a global address, issued in a step: its data once earlier writes to the same stripes are done (R324), or a
window error; a view whose sample is not complete is read later (R351). -/
def windowRead (s : State) (step : Word64) (win addr n : Nat) : State :=
  let off := offsetOf addr
  match readLocalAt s step (spaceOf addr) off n with
  | .bytes b =>
    outputWhenVisible (if spaceOf addr = 1 then chargeRead s off n else s) (spaceOf addr) off n win addr (.readData b)
  | .fail st => badRead s win (winCauseOf st) addr n
  | .wait => waitForView s off (.window win addr n)

/-- A host read through a window (R367, R368, R370): the data, or bytes 0xFF on failure. -/
def execBar2Read (offset n : Nat) (s : State) : Host.Outcome State Fault Refusal :=
  let (win, inside, addr) := bar2Place s offset n
  if !barsOpen s then .next (emit s (.readData (List.replicate n 0xFF)))
  else if !inside then .next (badRead s win 5 addr n)
  else if isLocal s (nodeOf addr) then
    .next (if spaceOf addr = 8 then badRead s win 4 addr n else windowRead s s.step win addr n)
  else
    let (st, s) := remoteRead s win addr n
    .next (if st = 0 then s else badRead s win 3 addr n)

/-- A host write through a window; a failed one is discarded (R370). -/
def execBar2Write (offset : Nat) (data : List Byte) (s : State) : Host.Outcome State Fault Refusal :=
  let n := data.length
  let (win, inside, addr) := bar2Place s offset n
  if !barsOpen s then .next s
  else if !inside then .next (windowError s win 5 addr)
  else if isLocal s (nodeOf addr) then
    if spaceOf addr = 8 then .next (windowError s win 4 addr)
    else
      let (st, s) := writeLocal s (spaceOf addr) (offsetOf addr) data
      .next (if st = 0 then s else windowError s win (winCauseOf st) addr)
  else
    let (st, s) := remoteWrite s win addr data
    .next (if st = 0 then s else windowError s win 3 addr)

end Sys2Proof.Machine
end

