-- ==== Sys2Proof/Machine/Mailbox.lean ====
section
/-! DEFINITION. The mailbox: fetching commands (R372 to R375), the checks every command meets (R383 to R385), proxied
commands (R392 to R397), and the commands on records, power and profiles (R291 to R293, R393, R422, R423, R461). -/

namespace Sys2Proof.Machine

open Sys2Proof

/-! ### What every command meets -/

/-- Whether a started command may run now (R374). -/
def mayStart (s : State) (c : Cmd) : Bool := s.mbox.started c

/-- Whether the module's state allows a command that needs the compute units or memory (R384, R426, R459). -/
def moduleOk (s : State) (compute memory : Bool) : Bool :=
  match s.mbox.module with
  | .mgmtFault => false
  | .bench => !compute && !memory
  | .activation => s.fw.trial && !compute
  | .ready => s.power.mode != .bench || (!compute && !memory)
  | .powerOn | .bringUp | .computeReset => !compute && (s.power.mode != .bench || !memory)

/-- Whether a command's data are on their way, so that it only waits: for the acknowledgment of what it wrote, for its
transfers, or for its bytes to be visible (R383, R388). -/
def underWay (s : State) (c : Cmd) : Bool :=
  s.mbox.awaiting.any (·.cmd == c) || outstanding s (.dma c) || s.mem.ends.any fun e => match e with
    | .command d _ => d == c
    | .bulk .. => false

/-- A started command of opcode `op` is executed by `k`; anything else leaves the state as it is, as does a command whose data
are on their way. -/
def command (s : State) (c : Cmd) (op : Nat) (k : State → State) : Host.Outcome State Fault Refusal :=
  if c.opcode = op ∧ s.mbox.mcpUp ∧ mayStart s c ∧ !underWay s c then .next (k s) else .next s

/-- The checks of R384 in the model's order (log 27): ring, module state, fields, program state. -/
def gated (s : State) (c : Cmd) (ring : Nat) (compute memory : Bool) (states : List PState) (wellFormed : Bool)
    (k : State → State) : State :=
  if c.ring ≠ ring then done s c 0x03
  else if !moduleOk s compute memory then done s c 0x0B
  else if !wellFormed then done s c 0x02
  else if !states.contains s.pstate then done s c 0x04
  else k s

def anyState : List PState := [.empty, .loaded, .running, .paused, .halted]

/-! ### Data of commands (R383, R389, R394) -/

/-- A host memory access failed: the function's AER report, whose status the PCI Express specification gives (R389; log 3). -/
def hostFailed (s : State) : State :=
  let (v, s) := drawFree s
  let status := BitVec.ofNat 32 v
  emit { s with mbox := { s.mbox with pcie := { s.mbox.pcie with aerStatus := s.mbox.pcie.aerStatus ||| status } } }
    (.aerReport status)

/-- Where a member's command finds and leaves its host data, in its space 0x1 (R394; log 109). -/
def proxyOffset (c : Cmd) : Nat := Config.proxyBuffer c.ring c.tag.toNat

/-- Host data read by DMA; at a squad member, what its captain has put into space 0x1 (R383, R394). -/
def fromHost (s : State) (c : Cmd) (addr n : Nat) (host : HostRead) : Got × State :=
  if c.path = .proxy then
    match readLocal s 1 (proxyOffset c) n with
    | .bytes b => (.bytes b, chargeRead s (proxyOffset c) n)
    | _ => (.fail 7, s)
  else
    let s := emit s (.hostRead (BitVec.ofNat 64 addr) n)
    match host with
    | some b => (.bytes (padTo n b), s)
    | none => (.fail 6, hostFailed s)

/-- Host data written by DMA, with relaxed ordering (R388); a command whose completion a mailbox reset discarded writes no
more (R366). -/
def toHost (s : State) (c : Cmd) (addr : Nat) (data : List Byte) : Nat × State :=
  if c.path = .proxy then
    let (st, s') := writeLocal s 1 (proxyOffset c) data
    if st = 0 then (0, s') else (7, s)
  else if s.mbox.executing.any (fun e => e.cmd == c && e.discard) then (0, s)
  else (0, emit s (.hostWrite (BitVec.ofNat 64 addr) data true))

/-- What a command's reads of another module have brought. -/
def cmdArrival (s : State) (c : Cmd) (addr n : Nat) : Option (List Byte) :=
  let m := ((s.fabric.arrivals.find? (·.1 == cmdKey c)).map (·.2)).getD []
  if (List.range n).all fun i => m.any fun x => x.1 == addr + i then
    some ((List.range n).map fun i => ((m.find? fun x => x.1 == addr + i).map (·.2)).getD 0)
  else none

/-- The step in which a command's read of a view was issued: one that waits maps to the ring of that step (R351). -/
def issueStep (s : State) (c : Cmd) : Word64 :=
  ((s.fabric.waiting.find? fun r => match r.by_ with
    | .command d _ _ => d == c
    | _ => false).map (·.step)).getD s.step

/-- A command's read of a view is over. -/
def viewRead (s : State) (c : Cmd) : State :=
  { s with fabric := { s.fabric with waiting := s.fabric.waiting.filter fun r => match r.by_ with
    | .command d _ _ => d != c
    | _ => true } }

/-- A command waits for a view: counted and a reason to hold from its first try on (R351, R355). -/
def waitAsCommand (s : State) (c : Cmd) (addr n : Nat) : State :=
  if s.fabric.waiting.any fun r => match r.by_ with
    | .command d _ _ => d == c
    | _ => false
  then s else waitForView s (offsetOf addr) (.command c addr n)

/-- Reads of whole words cover the bytes a command names at another module (R295). -/
def askData (s : State) (c : Cmd) (addr n : Nat) : Nat × State :=
  let k := requestMax s (nodeOf addr)
  let a := addr / 4 * 4
  let len := roundUp 4 (addr + n - a)
  (List.range (ceilDiv len k)).foldl (fun r i =>
    if r.1 ≠ 0 then r else request r.2 0x01 (BitVec.ofNat 64 (a + k * i)) (min k (len - k * i)) [] (.data c)) (0, s)

/-- Data a command names by address (R383): the bytes, a status, or a wait for another module, a view, or the writes before it to
its stripes (R324). `host` is what came
back from host memory, or inline on SMBus. -/
def readData (s : State) (c : Cmd) (kind addr n : Nat) (host : HostRead) : Got × State :=
  match kind with
  | 0 => fromHost s c addr n host
  | 1 =>
    if isLocal s (nodeOf addr) then
      match readLocalAt s (issueStep s c) (spaceOf addr) (offsetOf addr) n with
      | .bytes b =>
        if (stripesHeld s (spaceOf addr) (offsetOf addr) n).isEmpty then (.bytes b, viewRead (chargeAt s addr n) c) else (.wait, s)
      | .fail _ => (.fail 7, viewRead s c)
      | .wait => (.wait, waitAsCommand s c addr n)
    else match cmdArrival s c addr n with
      | some b => (.bytes b, s)
      | none =>
        if outstanding s (.data c) then (.wait, s)
        else
          let (st, s) := askData s c addr n
          if st = 0 then (.wait, s) else (.fail 7, s)
  | 2 => (if c.path = .smbus then (match host with | some b => .bytes (padTo n b) | none => .fail 2) else .fail 2, s)
  | _ => (.fail 2, s)

/-- A command goes on with the data it names, ends with a status where they cannot be had, or waits (R383). -/
def withData (s : State) (c : Cmd) (kind addr n : Nat) (host : HostRead) (k : State → List Byte → State) : State :=
  match readData s c kind addr n host with
  | (.bytes b, s) => k (dropArrivals s (cmdKey c)) b
  | (.fail st, s) => done (dropArrivals s (cmdKey c)) c st
  | (.wait, s) => s

/-- The completion that a command gives once its data are written (R383). -/
def awaits (s : State) (c : Cmd) (result v1 v2 : Nat) : State :=
  { s with mbox := { s.mbox with awaiting := s.mbox.awaiting ++ [{ cmd := c, result := result, v1 := v1, v2 := v2 }] } }

/-- A command writes its data and completes (R383): host memory and this module's once they are visible (R324), another
module's when it has acknowledged them, and inline data on SMBus after the completion (log 28). `told` is what it posts once they are written, or
on their way. -/
def finishData (s : State) (c : Cmd) (kind addr : Nat) (data : List Byte) (result v1 v2 : Nat) (told : State → State := id) :
    State :=
  match kind with
  | 0 =>
    let (st, s) := toHost s c addr data
    if st = 0 then complete (told s) c 0 result v1 v2 else done s c st
  | 1 =>
    if isLocal s (nodeOf addr) then
      let (st, s') := writeLocal s (spaceOf addr) (offsetOf addr) data
      if st ≠ 0 then done s c 7
      else if (stripesHeld s' (spaceOf addr) (offsetOf addr) data.length).isEmpty then complete (told s') c 0 result v1 v2
      else endWhenVisible (awaits (told s') c result v1 v2) (spaceOf addr) (offsetOf addr) data.length (.command c)
    else
      let (st, s) := (remoteWrites (requestMax s (nodeOf addr)) addr data).foldl (fun r x =>
        if r.1 ≠ 0 then r
        else request r.2 x.1 (BitVec.ofNat 64 x.2.1) x.2.2.length x.2.2 (.data c)) ((0, s) : Nat × State)
      if st ≠ 0 then done s c 7 else dataWritten (awaits (told s) c result v1 v2) c
  | 2 => if c.path = .smbus then emit (complete (told s) c 0 result v1 v2) (.smbus data) else done s c 2
  | _ => done s c 2

/-! ### Paths (R398) -/

def pathBit : Path → Nat
  | .pcie => 0 | .proxy => 1 | .smbus => 2

/-- The time of the path's last command is kept; commands by more than one path within 1 s post an event (R398). -/
def notePath (s : State) (p : Path) : State :=
  let s := { s with mbox := { s.mbox with lastPath := setAt s.mbox.lastPath (pathBit p) (some s.timebase) } }
  let seen := (List.range 3).map fun i => match getAt s.mbox.lastPath i none with
    | some t => decide (s.timebase ≤ t + 10 ^ 9)
    | none => false
  let n := (seen.filter id).length
  if 1 < n then
    post s 0x0E06 (packed [(1, ((List.range 3).map fun i => if seen.getD i false then 2 ^ i else 0).sum)])
  else s

/-! ### Fetching (R372 to R375, R380) -/

/-- The opcodes of R384. -/
def knownOpcode (op : Nat) : Bool :=
  [0x0101, 0x0102, 0x0103, 0x0104, 0x0105, 0x0106, 0x0107, 0x0108, 0x0109, 0x010A, 0x0201, 0x0202, 0x0203, 0x0204, 0x0205,
   0x0301, 0x0302, 0x0303, 0x0304, 0x0305, 0x0306, 0x0401, 0x0501, 0x0502, 0x0503, 0x0504, 0x0505, 0x0506, 0x0601,
   0x0602].contains op

/-- The one ring on which R384 allows an opcode. -/
def ringOf (op : Nat) : Nat :=
  match op with
  | 0x0108 | 0x0109 | 0x0602 => 0
  | 0x0504 | 0x0601 => 2
  | 0x0401 => 3
  | _ => 1

/-- A 64-byte command (R373). -/
def parseCmd (path : Path) (ring : Nat) (b : List Byte) : Cmd :=
  { path := path, ring := ring, opcode := field b 0 2, tag := BitVec.ofNat 32 (field b 4 4), payload := sub b 16 48 }

/-- Reserved header fields are 0 (R373). -/
def headerOk (b : List Byte) : Bool := zeros b 2 2 && zeros b 10 6

/-- A command is numbered as it arrives (R374). -/
def numbered (s : State) (c : Cmd) : Cmd × State :=
  ({ c with nth := s.mbox.fetched }, { s with mbox := { s.mbox with fetched := s.mbox.fetched + 1 } })

/-- A command that has been fetched starts; an unknown opcode or a malformed header completes at once (R384). -/
def startCmd (s : State) (c : Cmd) (reservedOk : Bool) : State :=
  if !knownOpcode c.opcode then done s c 0x01
  else if !reservedOk then done s c 0x02
  else { s with mbox := { s.mbox with executing := s.mbox.executing ++ [{ cmd := c, discard := false }] } }

/-- Whether ring `i` has an entry that can be fetched (R372, R374). -/
def fetchable (s : State) (i : Nat) : Bool :=
  getAt s.mbox.ringOn i false && getAt s.mbox.ringHead i 0 != getAt s.mbox.sqTail i 0 &&
    (let n := (s.mbox.executing.filter fun e => e.cmd.ring == i && e.cmd.path == .pcie).length
     i == 0 || (i == 2 && decide (n < 8)) || n == 0)

/-- The ring fetched next: urgent first, then round robin over control, bulk and diagnostic (R374). -/
def nextRing (s : State) : Option Nat :=
  if fetchable s 0 then some 0
  else ((List.range 3).map fun k => 1 + (s.mbox.rrNext.val + k) % 3).find? (fetchable s)

/-- Host data that a member's command names (R383, R384): whether they go to the host, where they are and how many bytes,
where the command says it. -/
def hostData (c : Cmd) : Option (Bool × Nat × Option Nat) :=
  let named (kind lo : Nat) (out : Bool) (n : Option Nat) := if arg c kind 1 = 0 then some (out, arg c lo 8, n) else none
  match c.opcode with
  | 0x0101 => named 24 16 false (some (arg c 32 8))
  | 0x0106 => named 24 16 true (some (arg c 32 8))
  | 0x0107 => named 24 16 false none
  | 0x0302 | 0x0503 => named 17 24 false (some 64)
  | 0x0303 => named 20 24 false (some (arg c 18 2))
  | 0x0306 => named 17 24 false (some (2 * arg c 16 1))
  | 0x0401 => named 17 24 true (some (arg c 32 4))
  | 0x0504 => named 24 16 false (some (arg c 28 4))
  | 0x0601 => some (arg c 40 1 == 1, arg c 16 8, some (arg c 32 8))
  | _ => none

/-- Global address of a member's buffer for a command's host data (R394). -/
def proxyAddr (node : Word16) (c : Cmd) : Nat := node.toNat * 2 ^ 48 + 2 ^ 44 + proxyOffset c % 2 ^ 44

/-- A command to a squad member (R394, R396): one that is not listed is refused first; the host data it reads go to the
member's space 0x1, and it follows them in a proxy frame, whatever its opcode. The frame carries no ring, so the captain
answers for the ring (R374; DEDUCED, log 29). `data` is what the read of host memory returned. -/
def proxyCmd (s : State) (c : Cmd) (node : Nat) (raw : List Byte) (data : HostRead) : State :=
  let n : Word16 := BitVec.ofNat 16 node
  let listed (s : State) : State := { s with mbox := { s.mbox with
    proxied := s.mbox.proxied ++ [{ node := n, cmd := c, stage := .moving raw }] } }
  if !s.mbox.squad.contains n then done s c 0x08
  else if knownOpcode c.opcode ∧ c.ring ≠ ringOf c.opcode then done s c 0x03
  else if s.mbox.unreachable.contains n then done s c 0x09
  else if (egress s node).isNone then done (memberUnreachable s n) c 0x09
  else match hostData c with
    | some (false, addr, len) =>
      let s := emit s (.hostRead (BitVec.ofNat 64 addr) (len.getD ((data.map (·.length)).getD 0)))
      match data with
      | none => done (hostFailed s) c 0x06
      | some b =>
        let bs := (len.map fun k => padTo k b).getD b
        if bs.isEmpty then proxyMoved (listed s) c
        else startBulkOut (listed s) node addr (proxyAddr n c) bs (.proxy c)
    | _ => proxyMoved (listed s) c

/-- The MCP fetches the next command from RING_BASE + 64 × index: `entry` is what the read of host memory returned, `data` that
of the data which a squad member's command names (R372, R374, R375, R389, R394). -/
def execCommandFetch (entry : HostRead) (s : State) (data : HostRead := some []) : Host.Outcome State Fault Refusal :=
  if !s.mbox.mcpUp || !s.mbox.heldCompletions.isEmpty || (s.mbox.module == .activation && !s.fw.trial) then .next s
  else match nextRing s with
    | none => .next s
    | some i =>
      let idx := (getAt s.mbox.ringHead i 0).toNat
      let s := emit s (.hostRead (getAt s.mbox.ringBase i 0 + BitVec.ofNat 64 (64 * idx)) 64)
      match entry with
      | none => .next (if h : i < 5 then ringError (hostFailed s) ⟨i, h⟩ 2 else s)
      | some raw =>
        let size := (getAt s.mbox.ringSize i 0).toNat
        let m := { s.mbox with
          ringHead := setAt s.mbox.ringHead i (BitVec.ofNat 12 ((idx + 1) % max size 1))
          rrNext := if i = 0 then s.mbox.rrNext else ⟨i % 3, Nat.mod_lt _ (by decide)⟩ }
        let s : State := { s with mbox := m }
        if i == 2 && s.mbox.killed.contains idx then
          .next { s with mbox := { s.mbox with killed := s.mbox.killed.filter (· != idx) } }
        else
          let (c, s) := numbered (notePath s .pcie) (parseCmd .pcie i raw)
          let node := field raw 8 2
          if node = 0xFFFF then .next (startCmd s c (headerOk raw))
          else .next (proxyCmd s c node raw data)

/-! ### Proxies (R392, R394 to R396) -/

/-- Direction byte of a proxy frame (R283). -/
def proxyDirection (f : Kft) : Nat := bitsOf f.arg.toNat 0 8

/-- A proxy frame that is not from this member's captain is discarded and counted (R392). The frame carries no ring
number; the captain has checked the ring, so it is the one R384 allows for the opcode (DEDUCED, log 29). -/
def execProxyCommandReceive (x : Rx) (s : State) : Host.Outcome State Fault Refusal :=
  if proxyDirection x.f ≠ 0 then .next s
  else .next (arrive s x 0x10 fun s f =>
    if !isMember s || f.src != s.fabric.rcd.captain then discard s x.port.val 8 1
    else if !s.mbox.mcpUp then s
    else
      let s := notePath s .proxy
      let (c, s) := numbered s (parseCmd .proxy (ringOf (field f.payload 0 2)) f.payload)
      startCmd s c (headerOk f.payload))

/-- A member's completion: the data its command left for the host go to host memory first (R394). -/
def memberCompletes (s : State) (p : Proxied) (e : Event) : State :=
  let v1 := field e.payload 8 8
  let n := match hostData p.cmd with
    | some (true, _, some k) => if field e.payload 4 1 ≠ 0 then 0 else if p.cmd.opcode = 0x0601 then k else min k v1
    | _ => 0
  let addr := ((hostData p.cmd).map (·.2.1)).getD 0
  if n = 0 ∨ p.discard then returnCompletion s p e
  else
    let s := { s with mbox := { s.mbox with
      proxied := s.mbox.proxied.map fun x => if x == p then { x with stage := .returning e } else x } }
    startBulkIn s p.node.toNat (proxyAddr p.node p.cmd) addr n (.proxy p.cmd)

/-- One event entry that a member sent (R377, R394, R395). The completion of a command that it ran through an outage is
discarded, and not taken for that of a later command of its tag (R396). -/
def memberEntry (s : State) (node : Word16) (b : List Byte) : State :=
  let code := field b 0 2
  let e : Event := { code := code, ring := field b 3 1, source := node, seq := BitVec.ofNat 16 (field b 6 2),
                     lost := bitAt (field b 2 1) 1, payload := sub b 8 24 }
  if code = 0x0001 then
    let mine (c : Cmd) : Bool := c.tag == BitVec.ofNat 32 (field b 8 4) && c.opcode == field b 14 2
    match s.mbox.orphans.find? fun o => o.1 == node && mine o.2 with
    | some o => { s with mbox := { s.mbox with orphans := s.mbox.orphans.erase o } }
    | none => match s.mbox.proxied.find? fun p => p.node == node && p.stage == .forwarded && mine p.cmd with
      | some p => memberCompletes s p { e with ring := p.cmd.ring }
      | none => s
  else deliverEvent s e

/-- The captain takes completions and events of a member into its event ring, under the member's node id (R394 to R396). -/
def execProxyCompletionReceive (x : Rx) (s : State) : Host.Outcome State Fault Refusal :=
  if proxyDirection x.f ≠ 1 then .next s
  else .next (arrive s x 0x10 fun s f =>
    if !s.mbox.squad.contains f.src then discard s x.port.val 8 1
    else if !s.mbox.mcpUp then s
    else
      let s := { s with mbox := { s.mbox with unreachable := s.mbox.unreachable.filter (· != f.src) } }
      (chunks 32 (f.payload.length / 32) f.payload).foldl (fun s b => memberEntry s f.src b) s)

/-- SQUAD_SET (R393); a member whose route is down is out of reach from the start (R396). -/
def execSquadSet (c : Cmd) (host : HostRead) (s : State) : Host.Outcome State Fault Refusal :=
  command s c 0x0306 fun s =>
    let n := arg c 16 1
    gated s c 1 false (arg c 17 1 == 1) anyState (decide (n ≤ 63) && restZero c [(16, 2), (24, 8)]) fun s =>
      if s.fabric.rcd.node = 0xFFFF#16 then done s c 0x05
      else withData s c (arg c 17 1) (arg c 24 8) (2 * n) host fun s data =>
        let ids := (chunks 2 n data).map fun b => BitVec.ofNat 16 (leNat b)
        if ids.contains s.fabric.rcd.node || !decide ids.Nodup then done s c 0x02
        else
          let s := { s with mbox := { s.mbox with squad := ids, unreachable := [] } }
          done (ids.foldl (fun s n => if (egress s n.toNat).isNone then memberUnreachable s n else s) s) c 0

/-! ### Records and routes (R291 to R293) -/

/-- A fabric record from its 16 bytes, when its fields are in range (R291). -/
def parseFabricRec (b : List Byte) : Option FabricRec :=
  let portOk (p : Nat) : Bool := decide (p ≤ 0x0B) || decide (0xFE ≤ p)
  if portOk (field b 4 1) && portOk (field b 5 1) && bitsOf (field b 6 2) 12 4 == 0 && zeros b 8 8 then
    some { node := BitVec.ofNat 16 (field b 0 2), captain := BitVec.ofNat 16 (field b 2 2),
           timeParent := BitVec.ofNat 8 (field b 4 1), whistleParent := BitVec.ofNat 8 (field b 5 1),
           whistleChildren := BitVec.ofNat 16 (field b 6 2) }
  else none

/-- A rising route list with node `n` sent to `e`; 0xF is not listed (R293). -/
def setRoute (n e : Nat) : List (Nat × Nat) → List (Nat × Nat)
  | [] => if e = 0xF then [] else [(n, e)]
  | (k, v) :: rest =>
    if k < n then (k, v) :: setRoute n e rest
    else if k = n then (if e = 0xF then rest else (n, e) :: rest)
    else if e = 0xF then (k, v) :: rest else (n, e) :: (k, v) :: rest

/-- FABRIC_RECORD (R291, R293): refused while Running; the assigned node's own route entry becomes 0xE. -/
def execFabricRecord (c : Cmd) (s : State) : Host.Outcome State Fault Refusal :=
  command s c 0x0301 fun s =>
    let r := parseFabricRec (sub c.payload 0 16)
    gated s c 1 false false anyState (r.isSome && restZero c [(16, 16)]) fun s =>
      match r with
      | none => s
      | some r =>
        if s.pstate = .running then done s c 0x05
        else
          let routes := if r.node = 0xFFFF#16 then s.fabric.routes else setRoute r.node.toNat 0xE s.fabric.routes
          done { s with fabric := { s.fabric with rcd := r, routes := routes } } c 0

/-- A port record from its 64 bytes, when its fields are in range (R292). -/
def parsePortRec (b : List Byte) : Option PortRec :=
  let fl := field b 2 1
  let v4 := bitAt fl 1
  if fl < 16 && decide (field b 3 1 ≤ 2) && bitsOf (field b 4 2) 12 4 == 0 && decide (1024 ≤ field b 6 2) &&
      (!v4 || (zeros b 24 12 && zeros b 40 12)) && (List.range 6).all (fun c => decide (field b (52 + c) 1 < 64)) &&
      decide (16 ≤ field b 58 2) && decide (field b 58 2 ≤ 4096) && decide (10 ≤ field b 60 2) && zeros b 62 2 then
    some { partner := BitVec.ofNat 16 (field b 0 2), flags := BitVec.ofNat 8 fl, maxPayload := BitVec.ofNat 8 (field b 3 1),
           vlan := BitVec.ofNat 16 (field b 4 2), udp := BitVec.ofNat 16 (field b 6 2),
           ownMac := BitVec.ofNat 48 (field b 8 6), hopMac := BitVec.ofNat 48 (field b 14 6),
           ownIp := BitVec.ofNat 128 (field b 20 16), partnerIp := BitVec.ofNat 128 (field b 36 16),
           dscp := Vector.ofFn fun i => BitVec.ofNat 8 (field b (52 + i.val) 1), ceKib := field b 58 2,
           timeoutUs := field b 60 2 }
  else none

/-- The 64 bytes of a port record (R292). -/
def portRecBytes (r : PortRec) : List Byte :=
  leBytes 2 r.partner.toNat ++ [r.flags, r.maxPayload] ++ leBytes 2 r.vlan.toNat ++ leBytes 2 r.udp.toNat ++
    leBytes 6 r.ownMac.toNat ++ leBytes 6 r.hopMac.toNat ++ leBytes 16 r.ownIp.toNat ++ leBytes 16 r.partnerIp.toNat ++
    r.dscp.toList ++ leBytes 2 r.ceKib ++ leBytes 2 r.timeoutUs ++ List.replicate 2 0

/-- The 16 bytes of the fabric record (R291). -/
def fabricRecBytes (r : FabricRec) : List Byte :=
  leBytes 2 r.node.toNat ++ leBytes 2 r.captain.toNat ++ [r.timeParent, r.whistleParent] ++
    leBytes 2 r.whistleChildren.toNat ++ List.replicate 8 0

/-- A port whose enable flag is cleared carries nothing more: its requests end with status 0x3 and the members behind it are
out of reach; one that is enabled trains and is gated (R292, R396, R430). -/
def applyEnable (s : State) (p : Fin 12) (was : Bool) : State :=
  let q := s.fabric.ports[p]
  if was = q.rcd.flags.getLsbD 0 then s
  else if was then
    setPort (portDrops s p) p { Port.reset p.val with rcd := q.rcd, present := q.present, lanes := q.lanes }
  else setPort s p { q with link := .training, gated := false }

/-- PORT_RECORD (R292): takes effect at once. -/
def execPortRecord (c : Cmd) (host : HostRead) (s : State) : Host.Outcome State Fault Refusal :=
  command s c 0x0302 fun s =>
    let p := arg c 16 1
    gated s c 1 false (arg c 17 1 == 1) anyState (decide (p < 12) && restZero c [(16, 2), (24, 8)]) fun s =>
      withData s c (arg c 17 1) (arg c 24 8) 64 host fun s data => match parsePortRec data with
        | none => done s c 0x02
        | some r =>
          if h : p < 12 then
            let was := s.fabric.ports[p].rcd.flags.getLsbD 0
            let s := applyEnable (updPort s ⟨p, h⟩ fun q => { q with rcd := r }) ⟨p, h⟩ was
            checkReady (done s c 0)
          else s

/-- ROUTE_WRITE (R293): count bytes from the first node id. Squad members whose routes change come into reach or go out of it
(R396). -/
def execRouteWrite (c : Cmd) (host : HostRead) (s : State) : Host.Outcome State Fault Refusal :=
  command s c 0x0303 fun s =>
    let first := arg c 16 2
    let n := arg c 18 2
    gated s c 1 false (arg c 20 1 == 1) anyState
      (decide (1 ≤ n) && decide (first + n ≤ 0xFFFF) && restZero c [(16, 5), (24, 8)]) fun s =>
      withData s c (arg c 20 1) (arg c 24 8) n host fun s data =>
      if !(data.all fun b => decide (b.toNat ≤ 0xB) || b == 0xE || b == 0xF) then done s c 0x02
      else
        let routes := data.zipIdx.foldl (fun r x => setRoute (first + x.2) x.1.toNat r) s.fabric.routes
        let s := { s with fabric := { s.fabric with routes := routes } }
        let named (m : Word16) : Bool := decide (first ≤ m.toNat) && decide (m.toNat < first + n)
        let s := { s with mbox := { s.mbox with
          unreachable := s.mbox.unreachable.filter fun m => !named m || (egress s m.toNat).isNone } }
        done (s.mbox.squad.foldl (fun s m =>
          if named m && (egress s m.toNat).isNone then memberUnreachable s m else s) s) c 0

/-! ### Lanes (R274, R277, R431) -/

/-- PORT_RETRAIN (R431): the gate runs again on the named port, on the surviving lanes where degradation applies. -/
def execPortRetrain (c : Cmd) (ratio codewords : Byte) (s : State) (measured : List LaneTest := []) :
    Host.Outcome State Fault Refusal :=
  command s c 0x0305 fun s =>
    let p := arg c 16 1
    gated s c 1 false false anyState (decide (p < 12) && restZero c [(16, 1)]) fun s =>
      if h : p < 12 then
        let q := s.fabric.ports[p]
        if !enabled q then done s c 0
        else
          let all := usableLanes s.units p (portLanes s ⟨p, h⟩)
          let keep := q.rcd.flags.getLsbD 3 && q.fkm
          match (if keep then survivors all q.lost.toNat else some all).filter (· != 0) with
          | none => done s c 0
          | some lanes =>
            let lost : Byte := if keep then q.lost else 0
            let s := updPort s ⟨p, h⟩ fun q => { q with link := .gating, lost := lost, lanes := BitVec.ofNat 8 lanes }
            let s := emit s (.cableReset (p % 6))
            let s := gateVerdict s ⟨p, h⟩ lanes (ratioLanes ratio.toNat measured) (codewordLanes codewords.toNat measured)
            let now := if s.fabric.ports[p].link = .up then lanes else 0
            checkReady (complete s c 0 0 now 0)
      else s

/-! ### Power and profiles (R422, R423, R461) -/

/-- POWER_CAP: 600 to 2,400 W. -/
def execPowerCap (c : Cmd) (s : State) : Host.Outcome State Fault Refusal :=
  command s c 0x0501 fun s =>
    let w := arg c 16 2
    gated s c 1 false false anyState (decide (600 ≤ w) && decide (w ≤ 2400) && restZero c [(16, 2)]) fun s =>
      done { s with power := { s.power with capW := w } } c 0

/-- PROFILE_SELECT: the profile that the next compute reset brings into force. -/
def execProfileSelect (c : Cmd) (s : State) : Host.Outcome State Fault Refusal :=
  command s c 0x0502 fun s =>
    let p := arg c 16 1
    gated s c 1 false false anyState (decide (p ≤ 3) && restZero c [(16, 1)]) fun s =>
      if h : p < 4 then
        done { s with fw := { s.fw with chosenProfile := ⟨p, h⟩, profileSource := 2 } } c 0
      else s

/-- A profile from its 64 bytes, when its fields are in range (R422). -/
def parseProfile (b : List Byte) : Option Profile :=
  let cap := field b 16 2
  let ceil := field b 18 2
  if 600 ≤ cap ∧ cap ≤ 2400 ∧ 500 ≤ ceil ∧ ceil ≤ 1500 ∧ ceil % 25 = 0 ∧ field b 20 1 < 64 ∧ 25 ≤ field b 21 1 ∧
      field b 21 1 ≤ 45 ∧ zeros b 22 42 then
    some { name := sub b 0 16, capW := cap, ceilMhz := ceil, ports := BitVec.ofNat 8 (field b 20 1), coolantC := field b 21 1 }
  else none

def profileBytes (p : Profile) : List Byte :=
  padTo 16 p.name ++ leBytes 2 p.capW ++ leBytes 2 p.ceilMhz ++ [p.ports, BitVec.ofNat 8 p.coolantC] ++ List.replicate 42 0

/-- PROFILE_WRITE (R421, R422): to the settings partition, or held in memory while the image's format differs. -/
def execProfileWrite (c : Cmd) (host : HostRead) (s : State) : Host.Outcome State Fault Refusal :=
  command s c 0x0503 fun s =>
    let p := arg c 16 1
    gated s c 1 false (arg c 17 1 == 1) anyState (decide (p ≤ 3) && restZero c [(16, 2), (24, 8)]) fun s =>
      withData s c (arg c 17 1) (arg c 24 8) 64 host fun s data => match parseProfile data with
        | none => done s c 0x02
        | some r =>
          let ps := setAt (profiles s) p r
          if s.fw.image.settingsFormat ≠ s.flash.boot.settingsFormat then
            done { s with fw := { s.fw with memProfiles := some ps } } c 0
          else done { s with flash := { s.flash with profiles := ps }, fw := { s.fw with memProfiles := none } } c 0

/-! ### ABORT (R385) -/

/-- Entries of a ring from `head` up to the tail, by index. -/
def pendingIdx (s : State) (r : Nat) : List Nat :=
  let size := max 1 (getAt s.mbox.ringSize r 0).toNat
  let h := (getAt s.mbox.ringHead r 0).toNat
  let t := (getAt s.mbox.sqTail r 0).toNat
  (List.range ((t + size - h) % size)).map fun k => (h + k) % size

/-- ABORT: every bulk command with the named tag, executing or pending, completes with status 0x0A. `ring` holds the
pending entries of ring 2 as read from host memory; a read that fails is a FETCH_ERROR of that ring (R361). -/
def execAbort (c : Cmd) (ring : HostRead) (s : State) : Host.Outcome State Fault Refusal :=
  command s c 0x0602 fun s =>
    gated s c 0 false false anyState (arg c 20 1 == 2 && restZero c [(16, 5)]) fun s =>
      let s := (pendingIdx s 2).foldl (fun s i =>
        emit s (.hostRead (getAt s.mbox.ringBase 2 0 + BitVec.ofNat 64 (64 * i)) 64)) s
      match ring with
      | none => done (ringError (hostFailed s) 2 2) c 0x06
      | some raw =>
        let tag := BitVec.ofNat 32 (arg c 16 4)
        let run := (s.mbox.executing.filter fun e => e.cmd.ring == 2 && e.cmd.tag == tag).map (·.cmd)
        let idx := pendingIdx s 2
        let wait := ((idx.zip (chunks 64 idx.length raw)).filter fun x =>
          BitVec.ofNat 32 (field x.2 4 4) == tag && !s.mbox.killed.contains x.1)
        let s := dropTransfers { s with mbox := { s.mbox with killed := s.mbox.killed ++ wait.map (·.1) } } run
        let s := run.foldl (fun s r => done s r 0x0A) s
        let s := wait.foldl (fun s x => done s (parseCmd .pcie 2 x.2) 0x0A) s
        complete s c 0 0 (run.length + wait.length) 0

end Sys2Proof.Machine
end

