-- ==== Sys2Proof/Machine/Dram.lean ====
section
/-! DEFINITION. LPDDR5X devices (R321 to R331), patrol scrubs (R332) and the bench state (R333, R334, R459). -/

namespace Sys2Proof.Machine

open Sys2Proof

/-! ### Device loss (R327, R328) -/

/-- What waited for a stripe of a lost group ends with an address error (R328): a response, a bulk read served, a host read. -/
def failHeld (s : State) (a : HeldAck) : State :=
  match a.what with
  | .frame f =>
    if f.typ = 8 then
      let here (b : Bulk) : Bool := b.served && b.tid == f.tid && b.node == f.dst
      if s.fabric.bulks.any here then
        sendFrame { s with fabric := { s.fabric with bulks := s.fabric.bulks.filter fun b => !here b } }
          (mkFrame s 0x0A f.dst.toNat 1 0 f.tid.toNat f.arg [])
      else match s.fabric.bulks.find? fun b => !b.served && !b.inward && b.tid == f.tid && b.node == f.dst with
        | some b => failBulk s b 1
        | none => s
    else sendFrame s { f with status := 1, payload := [], len := 0 }
  | .output win addr (.readData b) => badRead s win 1 addr b.length
  | .output .. | .dma .. => s

/-- An instance whose writes cannot become visible fails on them (R300, R328). -/
def failFlights (s : State) (g : Nat) : State :=
  let cut := s.seqs.flatMap fun q => q.flight.filterMap fun f =>
    (f.stripes.find? fun t => t % 4 == g).map fun t =>
      (({ unit := q.unit, stream := f.stream, index := f.index, inst := f.inst } : Who), t)
  let s := { s with seqs := s.seqs.map fun q =>
    { q with flight := q.flight.map fun f => { f with stripes := f.stripes.filter fun t => t % 4 != g } } }
  cut.foldl (fun s x => accessFailed s x.1 1 (0xFFFF * 2 ^ 48 + 2 ^ 44 + 1024 * x.2)) s

/-- So does a DMA command or a bulk transfer into the module whose bytes cannot become visible. -/
def failEnding (s : State) (e : Ending) : State :=
  match e with
  | .command c _ => dataFailed s c
  | .bulk node tid _ =>
    match s.fabric.bulks.find? fun b => b.tid == tid && b.inward && b.node == node && !b.served with
    | some b => failBulk s b 1
    | none => s

/-- A second device of a group is lost: the group leaves the populated extent and the program halts (R328). -/
def loseGroup (s : State) (g : Nat) : State :=
  match lostInGroup s g with
  | a :: b :: _ =>
    if getAt s.mem.groupGone g false then s
    else
      let gone (ts : List Nat) : Bool := ts.any fun t => t % 4 == g
      let hit := s.mem.acks.filter fun a => gone a.stripes
      let cut := s.mem.ends.filter fun e => gone e.stripes
      let s := { s with mem := { s.mem with
        groupGone := setAt s.mem.groupGone g true
        stripes := s.mem.stripes.filter fun st => st.number % 4 != g
        acks := s.mem.acks.filter fun a => !gone a.stripes
        ends := s.mem.ends.filter fun e => !gone e.stripes } }
      let s := failFlights (cut.foldl failEnding (hit.foldl failHeld s)) g
      raiseFault (post s 0x0C03 (packed [(1, g), (4, a), (4, b)])) 0x0C03 4
  | _ => s

/-- A device is declared lost (R327). -/
def declareLost (s : State) (d : Fin 20) (cause : Nat) : State :=
  if s.mem.devLost[d] then s
  else
    let s := { s with mem := { s.mem with devLost := s.mem.devLost.set d true } }
    let s := setCond s { kind := 9, die := 0x0B + d.val / 5, index := d.val % 5 } .failed 6
    loseGroup (post s 0x0C02 (packed [(4, d.val), (1, cause)])) (d.val / 5)

/-- Whether the devices are powered and out of self-refresh. -/
def dramLive (s : State) : Bool := isPowered s && !s.mem.retention

def execReconstructionRateLimit (device : Fin 20) (s : State) : Host.Outcome State Fault Refusal :=
  let n := (s.mem.reconTimes[device].filter fun t => s.timebase < t + 10 ^ 9).length
  if dramLive s ∧ 64 < n then .next (declareLost s device 1) else .next s

def execDeviceCommandTimeout (device : Fin 20) (s : State) : Host.Outcome State Fault Refusal :=
  if dramLive s then .next (declareLost s device 3) else .next s

/-- DQS oscillator tracking: three retrainings that fail in succession lose the device (R321, R327). -/
def execDqsTracking (device : Fin 20) (retrainFailures : Nat) (s : State) : Host.Outcome State Fault Refusal :=
  if dramLive s ∧ 3 ≤ retrainFailures then .next (declareLost s device 2) else .next s

/-- Per-bank refresh of an MPD (R331), and refresh management for the devices of it that request it (R321); in self-refresh
the devices refresh themselves. -/
def execRefresh (mpd : Fin 4) (s : State) (managed : List (Fin 5) := []) : Host.Outcome State Fault Refusal :=
  if dramLive s then
    let s := emit { s with mem := { s.mem with refreshed := s.mem.refreshed.set mpd s.timebase } } (.refreshCmd mpd.val)
    .next ((managed.filter fun d => !deviceLost s (5 * mpd.val + d.val)).foldl (fun s d =>
      emit s (.refreshManage mpd.val (5 * mpd.val + d.val))) s)
  else .next s

/-- Units that the read-modify-write of a stripe reads on a device: the old data units it touches and the old parity unit. -/
def rmwUnits (st : Stripe) (d : Nat) : Nat :=
  ((List.range 4).filter fun u => bitsOf st.covered (256 * u) 256 != 0 && (dramMap (1024 * st.number + 256 * u)).1 == d).length +
    (if parityDevice st.number = d then 1 else 0)

/-- 2 µs after it entered, a stripe leaves the write buffer (R323); `reads` is what the reads of a read-modify-write met
(R326). For a stripe that left early, what its reads met is taken now (log 102). -/
def execStripeFlushTimeout (stripe : Nat) (s : State) (reads : List DevRead := []) : Host.Outcome State Fault Refusal :=
  let mine := reads.filter fun r => r.device.val / 5 == stripe % 4
  match s.mem.leftEarly.find? (·.number == stripe) with
  | some st => .next (deviceReads { s with mem := { s.mem with leftEarly := s.mem.leftEarly.erase st } } (rmwUnits st) mine)
  | none => .next (settleEnds (flushStripe (match s.mem.stripes.find? (·.number == stripe) with
    | some st => if st.covered = 2 ^ 1024 - 1 then s else deviceReads s (rmwUnits st) mine
    | none => s) stripe))

/-! ### Patrol scrubs (R332) -/

/-- Stripe rows of a group. -/
def scrubRows : Nat := 2 ^ 27

/-- The instance that a reader is. -/
def readerWho : ReadBy → Option Who
  | .instance_ u t i k => some { unit := u, stream := t, index := i, inst := k }
  | _ => none

/-- Whether the reads of a stripe row needed a reconstruction. -/
def rebuilds (rs : List DevRead) : Bool := rs.any fun r => r.flagged != 0

/-- A stripe row of a group is read: what the devices met is handled, and on the patrol, which reads the row in full, a
silent mismatch is reported and the stripe left as it is (R326, R332). A demand read's errors come by this command too, with
its reader (log 102); an instance that waits for a reconstruction holds with cause 0x5 (R327). -/
def execLpddr5xScrub (row : Nat) (group : Fin 4) (reads : List DevRead) (xorOk : Bool) (s : State) (reader : ReadBy := .patrol) :
    Host.Outcome State Fault Refusal :=
  if !dramLive s || s.mem.groupGone[group] || decide (scrubRows ≤ row) then .next s
  else
    let mine := reads.filter fun r => r.device.val / 5 == group.val && !deviceLost s r.device.val
    let degraded := (List.range 5).any fun k => deviceLost s (5 * group.val + k)
    let s := deviceReads s (fun _ => 1) mine
    match reader with
    | .patrol =>
      let s := if !rebuilds mine && !xorOk && !degraded then post s 0x0C04 (packed [(8, 1024 * (4 * row + group.val))]) else s
      let last := row + 1 = scrubRows
      let s := { s with mem := { s.mem with scrubRow := s.mem.scrubRow.set group (if last then 0 else row + 1) } }
      .next (if last then bump s 0x0C08 group.val noTensor 1 else s)
    | _ => .next (match readerWho reader with
      | some w => if rebuilds mine && !degraded then markRebuilt s w else s
      | none => s)

/-- TD and whether a space 0x0 offset is tile SRAM (R311). -/
def sramPlace (off : Nat) : Nat × Bool :=
  if off < 0x003_0000_0000 then ((osdMap off).1 / 2, false) else ((off - 0x010_0000_0000) / 0x1000_0000, true)

/-- Last line of a TD's scrub pass: the end of its highest filled tile window. -/
def lastLine (s : State) (td : Nat) : Nat :=
  let codes := (List.range 256).filter fun c => tileCode s.flash.grade c && tileFilled s (td * 256 + c)
  match codes.getLast? with
  | some c => 0x010_0000_0000 + td * 0x1000_0000 + (c + 1) * 0x20_0000 - 64
  | none => (td + 1) * 0x6000_0000 - 64

/-- A line of space 0x0 is read: corrected and written back (R314, R318), passed on its second read, or handled under R319.
`uncorrectable` says that a read could not correct it, and `correctable` beside it that the second read passed. The patrol
reads it, or a demand read whose errors come by this command (log 102). -/
def execSramScrub (offset : Nat) (correctable uncorrectable : Bool) (s : State) (reader : ReadBy := .patrol) :
    Host.Outcome State Fault Refusal :=
  let line := offset / 64 * 64
  if !isPowered s || s.mem.retention || inReset s || !sramPopulated s line 64 then .next s
  else
    let (td, tile) := sramPlace line
    let s := match correctable, uncorrectable with
      | true, false => bump s (if tile then 0x0C01 else 0x0C02) td noTensor 1
      | true, true => bump s 0x0C03 td noTensor 1
      | false, true => sramLost s line (readerWho reader)
      | false, false => s
    match reader with
    | .patrol =>
      let s := { s with mem := { s.mem with scrubLine := line + 64 } }
      .next (if line = lastLine s td then bump s 0x0C09 td noTensor 1 else s)
    | _ => .next s

/-! ### The bench state (R333, R334, R459) -/

/-- BENCH with enter: queued writes complete, the memories go to self-refresh and retention, and what R333 does not keep is
gone. -/
def execBenchEnter (c : Cmd) (s : State) : Host.Outcome State Fault Refusal :=
  if arg c 16 1 = 0 then .next s
  else command s c 0x010A fun s =>
    gated s c 1 true false [.empty, .loaded, .paused, .halted] (arg c 16 1 == 1 && restZero c [(16, 1)]) fun s =>
      let s := dropWithheld (dropFetches (settleEnds (s.mem.stripes.foldl flushEarly s)))
      let s := { s with
        mem := { s.mem with retention := true, benchMr4 := s.mem.mr4, buffers := [] }
        power := { s.power with mode := .bench, computeStopped := true }
        mbox := { s.mbox with module := .bench }
        side := [], gates := [], ingest := {}
        reduce := { s.reduce with tags := [] }
        fabric := { s.fabric with
          arrivals := hostArrivals s
          ports := s.fabric.ports.map fun q => { q with queues := Vector.replicate 6 [] }
          heldCredits := [] } }
      done (post s 0x1108 (packed [(1, 1)])) c 0

/-- Devices whose temperature moved by more than 20 °C on the bench (R334). -/
def benchRetrain (s : State) : List (Fin 20) :=
  (List.finRange 20).filter fun d =>
    let a := s.mem.mr4[d]
    let b := s.mem.benchMr4[d]
    decide (b + 20 < a) || decide (a + 20 < b)

/-- BENCH with leave: MR4 is read, devices are retrained where R334 asks it (those of `untrained` fail and are lost), and
the module returns to Active, unless a reading is a thermal fault (R331) or one stands (R467). -/
def execBenchLeave (c : Cmd) (celsius : List Nat) (untrained : List (Fin 20)) (s : State) :
    Host.Outcome State Fault Refusal :=
  if arg c 16 1 ≠ 0 then .next s
  else command s c 0x010A fun s =>
    if c.ring ≠ 1 then done s c 0x03
    else if s.power.mode ≠ .bench then done s c 0x0B
    else if !restZero c [(16, 1)] then done s c 0x02
    else
      let s := { s with
        mem := { s.mem with retention := false }
        power := { s.power with mode := .active, computeStopped := s.power.thermalFault }
        mbox := { s.mbox with module := if s.power.thermalFault then .computeReset else .ready } }
      let s := celsius.zipIdx.foldl (fun s x => takeMr4 s x.2 x.1) s
      let again := benchRetrain s
      let s := (again.filter untrained.contains).foldl (fun s d => declareLost s d 2) s
      done (post s 0x1108 (packed [(1, 2)])) c 0

end Sys2Proof.Machine
end

