-- ==== Sys2Proof/Machine/Tables.lean ====
section
/-! DEFINITION. The tables of READ_TABLE (R386, R436, R450). -/

namespace Sys2Proof.Machine

open Sys2Proof

/-- The identity record, 256 B (R386). -/
def identityRecord (s : State) : List Byte :=
  let v := s.fw.image
  let groups := ((List.range 4).map fun g => if getAt s.mem.groupGone g false then 0 else 2 ^ g).sum
  leBytes 16 Config.serial.toNat ++ leBytes 2 Config.vendorId.toNat ++ leBytes 2 0x3250 ++
    [match s.flash.grade with | .a => 0xA#8 | .b => 0xB#8, 0xB1, v.patch, v.minor, v.major, 0, 5, 2] ++
    leBytes 2 s.fabric.rcd.node.toNat ++ leBytes 2 s.fabric.rcd.captain.toNat ++
    leBytes 4 (providedTiles s .ft + 256 * providedTiles s .bt) ++
    [BitVec.ofNat 8 groups, BitVec.ofNat 8 s.fw.activeProfile.val, s.power.profileSel.setWidth 8, 0] ++
    leBytes 4 s.flash.boot.secVersion ++ leBytes 4 (substitutesInUse s) ++ leBytes 6 Config.baseMac.toNat ++
    List.replicate 2 0 ++ leBytes 8 s.timebase ++ padTo 32 v.digest ++ List.replicate 160 0

/-- One entry of the neighbour table, 128 B (R386). -/
def neighbourEntry (s : State) (q : Port) : List Byte :=
  let ms := if q.discovery.isEmpty then 0 else (s.timebase - q.discoveryAt) / 1000000
  padTo 64 q.discovery ++ padTo 16 q.lldpChassis ++ [q.lldpPort] ++ List.replicate 7 0 ++ leBytes 8 ms ++ List.replicate 32 0

/-- The counts: a 32-byte header and 24-byte records (R450). -/
def countsTable (s : State) : List Byte :=
  leBytes 8 (s.step.toNat - 1) ++ leBytes 4 s.counts.length ++ List.replicate 20 0 ++
    s.counts.flatMap fun c =>
      leBytes 2 c.id ++ leBytes 2 c.instance_ ++ leBytes 4 c.tensor ++ leBytes 8 c.last ++ leBytes 8 c.total

def condCode : Cond → Nat
  | .inService => 0 | .spare => 1 | .suspect => 2 | .failed => 3 | .disabled => 4

/-- One 16-byte entry of the unit table (R436). -/
def unitEntryBytes (u : UnitEntry) : List Byte :=
  [BitVec.ofNat 8 u.phys.kind, BitVec.ofNat 8 u.phys.die] ++ leBytes 2 u.phys.index ++
    leBytes 2 (match u.logical with
      | some n => n
      | none => 0xFFFF) ++
    [BitVec.ofNat 8 (condCode u.cond), BitVec.ofNat 8 u.cause] ++ leBytes 4 u.mismatches ++ leBytes 4 u.step

def unitTable (s : State) : List Byte :=
  leBytes 4 s.units.length ++ List.replicate 4 0 ++ leBytes 4 s.step.toNat ++ List.replicate 4 0 ++
    s.units.flatMap unitEntryBytes

/-- The route table, one byte for each node id (R293). -/
def routeBytes : Nat → Nat → List (Nat × Nat) → List Byte
  | 0, _, _ => []
  | n + 1, k, [] => 0x0F :: routeBytes n (k + 1) []
  | n + 1, k, (a, e) :: rest =>
    if a = k then BitVec.ofNat 8 e :: routeBytes n (k + 1) rest else 0x0F :: routeBytes n (k + 1) ((a, e) :: rest)

/-- The table that byte [16] of READ_TABLE names (R386). -/
def tableBytes (s : State) (t : Nat) : List Byte :=
  match t with
  | 0 => identityRecord s
  | 1 => s.fabric.ports.toList.flatMap (neighbourEntry s)
  | 2 => countsTable s
  | 3 => unitTable s
  | 4 => fabricRecBytes s.fabric.rcd ++ s.fabric.ports.toList.flatMap fun q => portRecBytes q.rcd
  | _ => routeBytes 65535 0 s.fabric.routes

/-- READ_TABLE (R386): the first capacity bytes; value 1 gives the full length when the capacity is smaller. -/
def execReadTable (c : Cmd) (s : State) : Host.Outcome State Fault Refusal :=
  command s c 0x0401 fun s =>
    let t := arg c 16 1
    gated s c 3 false (arg c 17 1 == 1) anyState (decide (t ≤ 5) && restZero c [(16, 2), (24, 12)]) fun s =>
      let bytes := tableBytes s t
      finishData s c (arg c 17 1) (arg c 24 8) (bytes.take (arg c 32 4)) 0 bytes.length 0

end Sys2Proof.Machine
end

