-- ==== Sys2Proof/Machine/Fabric.lean ====
section
/-! DEFINITION. Frames of remote access and bulk transfer (R295 to R301, R309), the link layer's timers and control frames
(R276 to R278, R284 to R289), discovery and other protocols (R281, R294) and IEEE 1588 (R303, R304). -/

namespace Sys2Proof.Machine

open Sys2Proof

/-! ### Serving remote access (R295 to R299, R391) -/

/-- The response to a request (R283, R298). -/
def responseTo (s : State) (f : Kft) (status : Nat) (payload : List Byte) : Kft :=
  mkFrame s (f.typ.toNat + 1) f.src.toNat status payload.length f.tid.toNat f.arg payload

/-- Space and offset of the range a request names, when it lies in one space of this module. -/
def requestPlace (s : State) (f : Kft) (n : Nat) : Option (Nat × Nat) :=
  let a := f.arg.toNat
  if isLocal s (nodeOf a) && decide (offsetOf a + n ≤ 2 ^ 44) then some (spaceOf a, offsetOf a) else none

/-- Length and alignment of a read or write request (R295). -/
def rangeOk (f : Kft) (n most : Nat) : Bool := n % 4 == 0 && decide (4 ≤ n) && decide (n ≤ most) && f.arg.toNat % 4 == 0

/-- Whether a request to space 0x8 comes from this module's captain (R299). -/
def fromCaptain (s : State) (f : Kft) : Bool :=
  s.fabric.rcd.captain != 0xFFFF#16 && f.src == s.fabric.rcd.captain

/-- A read of the control space (R390, R391, R299): a status and the data. -/
def controlRead (s : State) (f : Kft) (off n : Nat) : Nat × List Byte :=
  if !fromCaptain s f then (4, [])
  else if !(n == 4 || n == 8) || off % n != 0 then (5, [])
  else if 0x100_0000 ≤ off then (1, [])
  else if 0x10000 ≤ off ∧ off < 0x11008 then (0, List.replicate n 0)
  else (0, leBytes n (regRead s off n))

/-- A write of the control space: the doorbells, the ring registers and the MSI-X region are denied (R391). -/
def controlWrite (s : State) (f : Kft) (off : Nat) (data : List Byte) : Nat × State :=
  let n := data.length
  if !fromCaptain s f then (4, s)
  else if !(n == 4 || n == 8) || off % n != 0 then (5, s)
  else if 0x100_0000 ≤ off then (1, s)
  else if (0x1000 ≤ off ∧ off < 0x1014) ∨ (0x2000 ≤ off ∧ off < 0x20A0) ∨ (0x10000 ≤ off ∧ off < 0x11008) then (4, s)
  else (0, regWrite s off n (BitVec.ofNat 64 (leNat data)))

/-- A read request of this module's memory is served, after the writes to its stripes that came before it (R324), or waits
for a view's sample of the step in which it was issued (R295, R298, R351). `reads` is what the devices' units met (R326). -/
def serveRead (s : State) (step : Word64) (x : Kft) (most : Nat) (reads : List DevRead) : State :=
  let n := x.len.toNat
  match requestPlace s x n with
  | none => sendFrame s (responseTo s x 1 [])
  | some (space, off) =>
    if space = 8 then
      let (st, b) := controlRead s x off n
      sendFrame s (responseTo s x st b)
    else if !rangeOk x n most then sendFrame s (responseTo s x 5 [])
    else match readLocalAt s step space off n with
      | .bytes b =>
        let s := if space = 1 then
            deviceReads (chargeRead s off n) (unitsOn off n) (reads.filter fun r => decide (0 < unitsOn off n r.device.val))
          else s
        ackWhenVisible s space off n (responseTo s x 0 b)
      | .fail st => sendFrame s (responseTo s x st [])
      | .wait => waitForView s off (.frame x)

def execReadRequest (x : Rx) (reads : List DevRead) (s : State) : Host.Outcome State Fault Refusal :=
  .next (arrive s x 0x01 fun s f => serveRead s s.step f (maxPayload s.fabric.ports[x.port]) reads)

/-- A write request is applied and acknowledged once visible (R295, R297). -/
def execWriteRequest (x : Rx) (s : State) : Host.Outcome State Fault Refusal :=
  .next (arrive s x 0x03 fun s f =>
    let n := f.payload.length
    match requestPlace s f n with
    | none => sendFrame s (responseTo s f 1 [])
    | some (space, off) =>
      if space = 8 then
        let (st, s) := controlWrite s f off f.payload
        let s := if st = 0 then logInbound s f.src.toNat 0 f.arg.toNat f.payload else s
        sendFrame s (responseTo s f st [])
      else if !rangeOk f n (maxPayload s.fabric.ports[x.port]) then sendFrame s (responseTo s f 5 [])
      else
        let (st, s) := writeLocal s space off f.payload
        if st = 0 then
          let s := logInbound s f.src.toNat 0 f.arg.toNat f.payload
          ackWhenVisible s space off n (responseTo s f 0 [])
        else sendFrame s (responseTo s f st []))

/-- The new value of an atomic operation on a `w`-byte word (R193, R296). -/
def atomicNew (op w old operand compare : Nat) : Nat :=
  let m := 2 ^ (8 * w)
  match op with
  | 0 => (old + operand) % m
  | 1 => old &&& operand % m
  | 2 => old ||| operand % m
  | 3 => old ^^^ operand % m
  | 4 => operand % m
  | _ => if old = compare % m then operand % m else old

/-- An atomic request executes at the controller in arrival order and returns the old value (R193, R296, R297, R309). -/
def execAtomicRequest (x : Rx) (s : State) : Host.Outcome State Fault Refusal :=
  .next (arrive s x 0x05 fun s f =>
    let p := f.payload
    let op := field p 0 1
    let w := field p 1 1
    match requestPlace s f w with
    | none => sendFrame s (responseTo s f 1 [])
    | some (space, off) =>
      if space = 2 ∧ inReset s then sendFrame s (responseTo s f 2 [])
      else if space = 2 ∨ space = 8 then sendFrame s (responseTo s f 4 [])
      else if p.length ≠ 24 ∨ 5 < op ∨ !(w == 4 || w == 8) ∨ !zeros p 2 6 ∨ f.arg.toNat % w ≠ 0 then
        sendFrame s (responseTo s f 5 [])
      else match readLocal s space off w with
        | .bytes b =>
          let old := leNat b
          let s := if space = 1 then chargeRead s off w else s
          let (st, s) := writeLocal s space off (leBytes w (atomicNew op w old (field p 8 8) (field p 16 8)))
          if st = 0 then
            let s := logInbound s f.src.toNat 1 f.arg.toNat (leBytes w (atomicNew op w old (field p 8 8) (field p 16 8)))
            ackWhenVisible s space off w (responseTo s f 0 (leBytes 8 old))
          else sendFrame s (responseTo s f st [])
        | .fail st => sendFrame s (responseTo s f st [])
        | .wait => sendFrame s (responseTo s f 1 []))

/-! ### Responses (R298, R300) -/

/-- A response completes the request of its transaction id; a late one is counted (R298). -/
def takeResponse (s : State) (p : Fin 12) (f : Kft) : State :=
  match s.fabric.txns.find? fun t => t.tid == f.tid && t.typ + 1 == f.typ.toNat with
  | some t => finishTxn s t f.status.toNat f.payload
  | none => bump s 0x0B0E p.val noTensor 1

def execWriteAck (x : Rx) (s : State) : Host.Outcome State Fault Refusal :=
  .next (arrive s x 0x04 fun s f => takeResponse s x.port f)

def execAtomicResponse (x : Rx) (s : State) : Host.Outcome State Fault Refusal :=
  .next (arrive s x 0x06 fun s f => takeResponse s x.port f)

/-- No response within the port record's response timeout: the request, or the bulk transfer, ends with status 0x6 (R298). -/
def execResponseTimeout (tid : Word32) (s : State) : Host.Outcome State Fault Refusal :=
  match s.fabric.txns.find? (·.tid == tid), s.fabric.bulks.find? (fun b => b.tid == tid && !b.served) with
  | some t, _ => .next (finishTxn s t 6 [])
  | none, some b => .next (failBulk s b 6)
  | none, none => .next s

/-! ### Bulk transfer (R301) -/

/-- A bulk ack naming the last destination address acknowledged. -/
def bulkAckFrame (s : State) (node tid status last : Nat) : Kft :=
  mkFrame s 0x0A node status 0 tid (BitVec.ofNat 64 last) []

/-- Bytes of a bulk data frame reach their destination: this module's memory or control space (R299), or host memory for a
captain's DMA. -/
def bulkStore (s : State) (f : Kft) : Nat × State :=
  match s.fabric.bulks.find? fun b => b.tid == f.tid && b.inward && b.node == f.src && !b.served with
  | some b =>
    match b.owner with
    | .dma _ | .proxy _ => (0, emit s (.hostWrite f.arg f.payload true))
    | .unit w =>
      let a := f.arg.toNat
      let (st, s) := writeLocal s (spaceOf a) (offsetOf a) f.payload
      let s := if spaceOf a = 0 ∧ st = 0 then
          { s with beat := { s.beat with writes := s.beat.writes ++
              [{ who := w, move := true, off := offsetOf a, len := f.payload.length,
                 src := b.src.toNat + (a - b.dst.toNat) }] } }
        else s
      (st, s)
    | .igd i e => (0, addArrival s (engineKey i e) f.arg.toNat f.payload)
    | .relay _ => (0, addArrival s (relayKey b) f.arg.toNat f.payload)
    | _ => (0, s)
  | none =>
    let a := f.arg.toNat
    if !isLocal s (nodeOf a) then (1, s)
    else if spaceOf a = 8 then controlWrite s f (offsetOf a) f.payload
    else writeLocal s (spaceOf a) (offsetOf a) f.payload

def bulkSeen (s : State) (f : Kft) : Nat :=
  ((s.fabric.bulkIn.find? fun b => b.1 == f.src && b.2.1 == f.tid).map (·.2.2)).getD 0

/-- Whether a transfer's bytes go into this module's memory; those of a DMA go to the host, a decode engine's to the engine, and
those of a move between two other modules on to the second. -/
def intoMemory (b : Option Bulk) : Bool :=
  match b with
  | none => true
  | some b => match b.owner with
    | .dma _ | .proxy _ | .igd _ _ | .relay _ => false
    | _ => true

/-- Data of a bulk read that has ended come late: discarded and counted (R298). -/
def lateData (s : State) (p : Fin 12) (f : Kft) : State :=
  let s := bump s 0x0B0E p.val noTensor 1
  if f.flags.getLsbD 2 then
    { s with fabric := { s.fabric with lateReads := s.fabric.lateReads.filter (· != (f.src, f.tid)) } } else s

/-- Bulk data are written; an ack follows every 64 KiB and the last frame, once the bytes are visible, and a transfer that this
module asked for is complete with its last (R297, R301). -/
def takeBulk (s : State) (f : Kft) : State :=
    let mine := s.fabric.bulks.find? fun b => b.tid == f.tid && b.inward && b.node == f.src && !b.served
    let (st, s) := bulkStore s f
    let s := if st = 0 ∧ intoMemory mine then logInbound s f.src.toNat 0 f.arg.toNat f.payload else s
    let n := bulkSeen s f + f.payload.length
    let last := f.flags.getLsbD 2
    let a := f.arg.toNat
    let endAddr := a + f.payload.length
    let ack := last || decide (65536 ≤ n) || st != 0
    let others := s.fabric.bulkIn.filter fun b => b.1 != f.src || b.2.1 != f.tid
    let s := { s with fabric := { s.fabric with
      bulkIn := if last || st != 0 then others else others ++ [(f.src, f.tid, if ack then 0 else n)] } }
    let s := if !ack then s
      else
        let fr := bulkAckFrame s f.src.toNat f.tid.toNat st (endAddr - 1)
        if st = 0 ∧ intoMemory mine then ackWhenVisible s (spaceOf a) (offsetOf endAddr - n) n fr else sendFrame s fr
    match mine with
    | none => s
    | some b =>
      if st ≠ 0 then failBulk s b st
      else if !last then s
      else if intoMemory mine then
        endWhenVisible s (spaceOf b.dst.toNat) (offsetOf b.dst.toNat) b.len fun ts => .bulk b.node b.tid ts
      else finishBulk s b

def execBulkData (x : Rx) (s : State) : Host.Outcome State Fault Refusal :=
  .next (arrive s x 0x08 fun s f =>
    if s.fabric.lateReads.contains (f.src, f.tid) then lateData s x.port f else settleEnds (takeBulk s f))

/-- A bulk-read request is answered with the bulk data of its source, whose acks this module then awaits, or waits for a
view's sample (R301, R351); the control space is the captain's to read (R299, R391). -/
def serveBulkRead (s : State) (step : Word64) (f : Kft) : State :=
  let n := f.len.toNat
  let dst := leNat (f.payload.take 8)
  let bad (st : Nat) : State := sendFrame s (bulkAckFrame s f.src.toNat f.tid.toNat st dst)
  let serve (s : State) (b : List Byte) (from_ : Option Nat) : State :=
    let x : Bulk := { tid := f.tid, node := f.src, inward := false, src := f.arg, dst := BitVec.ofNat 64 dst, len := n,
                      acked := 0, rest := 0, served := true, owner := .nobody }
    let s := dropBulk s x
    sendBulk { s with fabric := { s.fabric with bulks := s.fabric.bulks ++ [x] } } f.src.toNat f.tid.toNat dst b from_
  match requestPlace s f n with
  | none => bad 1
  | some (space, off) =>
    if space = 8 then
      let (st, b) := controlRead s f off n
      if st = 0 then serve s b none else bad st
    else match readLocalAt s step space off n with
      | .bytes b => if space = 1 then serve (chargeRead s off n) b (some off) else serve s b none
      | .fail st => bad st
      | .wait => waitForView s off (.frame f)

def execBulkReadRequest (x : Rx) (s : State) : Host.Outcome State Fault Refusal :=
  .next (arrive s x 0x09 fun s f => serveBulkRead s s.step f)

/-- Whether a bulk ack belongs to a transfer: a write of this module's, the status of a read of this module's, or a read
that this module serves. The ack that a module on the way sends for a frame it cannot deliver has that module as its source
(R293, R298). -/
def acksBulk (f : Kft) (b : Bulk) : Bool :=
  b.tid == f.tid && (b.node == f.src || f.status == 3) && (!b.inward || f.status != 0)

/-- A bulk ack advances a transfer, which is complete with its last ack; a status ends it (R300, R301). Between a write and
a served read of one id, the destination tells them apart. -/
def execBulkAck (x : Rx) (s : State) : Host.Outcome State Fault Refusal :=
  .next (arrive s x 0x0A fun s f =>
    let here (b : Bulk) : Bool := decide (b.dst.toNat ≤ f.arg.toNat) && decide (f.arg.toNat < b.dst.toNat + b.len)
    let bs := s.fabric.bulks.filter (acksBulk f)
    match (match bs.find? here with
      | some b => some b
      | none => bs.head?) with
    | none => bump s 0x0B0E x.port.val noTensor 1
    | some b =>
      if f.status ≠ 0 then failBulk s b f.status.toNat
      else
        let n := f.arg.toNat + 1 - b.dst.toNat
        if b.len ≤ n then finishBulk s b
        else { s with fabric := { s.fabric with
          bulks := s.fabric.bulks.map fun y => if sameBulk b y then { y with acked := n } else y } })

/-! ### DMA (R387, R388) -/

/-- The ranges of at most 1 KiB, aligned, that a DMA touches: none crosses a window. -/
def dmaPieces (off n : Nat) : List (Nat × Nat) :=
  (rangeFrom (off / 1024) ((off + n - 1) / 1024 - off / 1024 + 1)).map fun t =>
    (max off (1024 * t), min (off + n) (1024 * (t + 1)) - max off (1024 * t))

/-- Whether a range of this module's memory can be written; a view cannot (R351). -/
def storable (s : State) (space off n : Nat) : Bool :=
  match space with
  | 0 => sramPopulated s off n
  | 1 => dramPopulated s off n
  | 2 => bufferPopulated off n
  | _ => false

/-- DMA from this module's memory: the data go to the host once earlier writes to their stripes are done (R324), and the
command is then complete; a view that is not ready is waited for (R351). -/
def dmaOut (s : State) (c : Cmd) (haddr space off n : Nat) : State :=
  let got := (dmaPieces off n).map fun p => readLocalAt s (issueStep s c) space p.1 p.2
  if got.any fun g => match g with | .fail _ => true | _ => false then done (viewRead s c) c 0x07
  else match (dmaPieces off n).find? fun p => readLocalAt s (issueStep s c) space p.1 p.2 == .wait with
  | some p => waitAsCommand s c (0xFFFF * 2 ^ 48 + space * 2 ^ 44 + p.1) p.2
  | none =>
    let s := viewRead s c
    let data := got.flatMap fun g => match g with | .bytes b => b | _ => []
    let s := if space = 1 then chargeRead s off n else s
    if c.path = .proxy then
      let (st, s) := toHost s c haddr data
      done s c st
    else
      let s := toHostWhenVisible s c space off n haddr data
      settleEnds (endWhenVisible s space off n (.command c))

/-- DMA into this module's memory: complete when its bytes are visible (R297, R388). -/
def dmaIn (s : State) (c : Cmd) (haddr space off n : Nat) (host : HostRead) : State :=
  let ps := dmaPieces off n
  if !(ps.all fun p => storable s space p.1 p.2) then done s c 0x07
  else match fromHost s c haddr n host with
    | (.bytes data, s) =>
      let s := ps.foldl (fun s p => (writeLocal s space p.1 (sub data (p.1 - off) p.2)).2) s
      settleEnds (endWhenVisible s space off n (.command c))
    | (.fail st, s) => done s c st
    | (.wait, s) => s

/-- DMA between host memory and the global address space: this module's directly, a member's by bulk transfer
(R387). A length or alignment outside its bounds is a malformed field, a range outside them an address error (log 84). -/
def execDma (c : Cmd) (host : HostRead) (s : State) : Host.Outcome State Fault Refusal :=
  command s c 0x0601 fun s =>
    let haddr := arg c 16 8
    let gaddr := arg c 24 8
    let n := arg c 32 8
    let out := arg c 40 1
    let node := nodeOf gaddr
    let space := spaceOf gaddr
    let off := offsetOf gaddr
    let here := isLocal s node
    let fields := n % 4 == 0 && decide (4 ≤ n) && decide (n ≤ 2 ^ 40) && haddr % 4 == 0 && gaddr % 4 == 0 &&
      decide (out ≤ 1) && restZero c [(16, 25)]
    gated s c 2 (here && space != 1) here anyState fields fun s =>
      if 2 < space ∨ 2 ^ 44 < off + n ∨ (!here && !s.mbox.squad.contains (BitVec.ofNat 16 node)) then done s c 0x07
      else if here then (if out = 1 then dmaOut s c haddr space off n else dmaIn s c haddr space off n host)
      else if out = 1 then startBulkIn s node gaddr haddr n (.dma c)
      else match fromHost s c haddr n host with
        | (.bytes data, s) => startBulkOut s node haddr gaddr data (.dma c)
        | (.fail st, s) => done s c st
        | (.wait, s) => s

/-! ### Forwarding and sending (R286, R287, R293) -/

/-- A frame for another module, or one of a reserved type, which no other command takes (R283, R293). -/
def execFrameTransit (x : Rx) (s : State) : Host.Outcome State Fault Refusal :=
  if (x.f.dst = s.fabric.rcd.node ∧ (classOf x.f.typ.toNat).isSome) ∨ x.f.typ = 0x0E ∨ x.f.typ = 0x0F then .next s
  else .next (arrive s x x.f.typ.toNat fun s _ => s)

def execFrameSend (p : Fin 12) (s : State) : Host.Outcome State Fault Refusal := .next (sendNext s p)

/-! ### Link control and retry (R284, R285, R287) -/

def lcSubtype (f : Kft) : Nat := field f.payload 0 1
def lcSequence (f : Kft) : BitVec 24 := BitVec.ofNat 24 (field f.payload 1 3)

def execLinkControlAck (x : Rx) (s : State) : Host.Outcome State Fault Refusal :=
  if lcSubtype x.f ≠ 0 then .next s
  else .next (arrive s x 0x0F fun s f => takeAck s x.port (lcSequence f))

/-- Frames from a sequence on leave again, in order, each counted, with its own retransmissions (R285). Without a node id only link-control frames do (R291). -/
def resendFrom (s : State) (p : Fin 12) (a : BitVec 24) : State :=
  let q := s.fabric.ports[p]
  let again := q.retry.filter fun g => decide (seqDist g.f.seq a < 2 ^ 23) &&
    (s.fabric.rcd.node != 0xFFFF#16 || g.f.typ == 0x0F)
  again.foldl (fun s x => resend s p x) s

def execLinkControlNak (x : Rx) (s : State) : Host.Outcome State Fault Refusal :=
  if lcSubtype x.f ≠ 1 then .next s
  else .next (arrive s x 0x0F fun s f =>
    let a := lcSequence f
    resendFrom (takeAck s x.port (a - 1)) x.port a)

/-- A credit grant: the header's credit fields return the credits (R282, R287). -/
def execCreditGrant (x : Rx) (s : State) : Host.Outcome State Fault Refusal :=
  if lcSubtype x.f ≠ 2 then .next s else .next (arrive s x 0x0F fun s _ => s)

/-- 2 µs pass with frames unacked (R284). -/
def execAckInterval (p : Fin 12) (s : State) : Host.Outcome State Fault Refusal :=
  if 0 < s.fabric.ports[p].unacked then
    .next (updPort (ackFrame s p) p fun q => { q with unacked := 0 })
  else .next s

/-- No ack has advanced for 50 µs: the sender retransmits from the oldest unacked frame (R285). -/
def execRetransmitTimeout (p : Fin 12) (s : State) : Host.Outcome State Fault Refusal :=
  let q := s.fabric.ports[p]
  match q.retry with
  | [] => .next s
  | x :: _ => if q.link = .up ∧ q.retries < 16 then .next (resendFrom s p x.f.seq) else .next s

/-- 16 consecutive retransmissions of one frame without an ack that covers it (R285, R278). -/
def execRetryExhausted (p : Fin 12) (s : State) : Host.Outcome State Fault Refusal :=
  let q := s.fabric.ports[p]
  if q.link = .up ∧ 16 ≤ q.retries then .next (portDown s p 3) else .next s

/-! ### Congestion (R288, R289) -/

/-- No frame of the class is due within 10 µs of a CE mark: a link-control ack carries the echo. -/
def execEcnEchoTimeout (p : Fin 12) (cls : Fin 6) (s : State) : Host.Outcome State Fault Refusal :=
  if s.fabric.ports[p].echoDue[cls] then
    let s := updPort s p fun q => { q with echoDue := q.echoDue.set cls false }
    .next (linkControl s p 0 (s.fabric.ports[p].expect - 1).toNat 1)
  else .next s

/-- Every 50 µs: α ← α × 15/16, plus 1/16 after an echo; the next decrease may come. -/
def execRateAlphaInterval (p : Fin 12) (cls : Fin 6) (s : State) : Host.Outcome State Fault Refusal :=
  if cls.val < 2 then .next s
  else
    let l := s.fabric.ports[p].limiters[cls]
    let l' := { l with alpha := l.alpha * (15 / 16) + (if l.echoIn then 1 / 16 else 0), echoIn := false, decreased := false }
    .next (updPort s p fun q => { q with limiters := q.limiters.set cls l' })

/-- 55 µs without an echo: rate ← rate + 1/64 of the line rate, up to it. -/
def execRateRecoveryInterval (p : Fin 12) (cls : Fin 6) (s : State) : Host.Outcome State Fault Refusal :=
  if cls.val < 2 ∨ s.fabric.ports[p].limiters[cls].echoIn then .next s
  else
    let l := s.fabric.ports[p].limiters[cls]
    .next (updPort s p fun q => { q with limiters := q.limiters.set cls { l with rate := min 1 (l.rate + 1 / 64) } })

/-! ### Lane loss (R276 to R278) -/

/-- A lane is lost: the port degrades with an FKM-3250 partner, and otherwise goes down; with a switch as partner
auto-negotiation starts again on the narrower PHY. The lane's unit has failed with cause 6 (R436). The request leaves before the retrain (R277); `bits` and `codewords`
are the lane's errors in the window (R310). -/
def execLaneLost (p : Fin 12) (lane : Fin 8) (s : State) (bits : Nat := 0) (codewords : Nat := 0) : Host.Outcome State Fault Refusal :=
  let s := countLanes s p [(lane, bits, codewords)]
  let q := s.fabric.ports[p]
  if (q.link ≠ .up ∧ q.link ≠ .retraining) ∨ !q.lanes.getLsbD lane.val then .next s
  else
    let s := bump s 0x0B09 p.val noTensor 1
    let lost : Byte := q.lost ||| (1#8 <<< lane.val)
    let s := setCond (updPort s p fun q => { q with lost := lost }) (lanePhys p lane.val) .failed 6
    let left := survivors (portLanes s p) lost.toNat
    if q.rcd.flags.getLsbD 3 && q.fkm then
      match left with
      | some _ =>
        let s := transmitNow s p (linkFrame s p 3 0 0)
        .next (updPort s p fun q => { q with link := .retraining })
      | none => .next (portDown s p 1)
    else
      let s := portDown s p 4
      match q.fkm, left with
      | false, some l => .next (updPort s p fun q => { q with link := .training, lanes := BitVec.ofNat 8 l })
      | _, _ => .next s

/-- A partner's lane-change request: this end retrains too and confirms (R277). -/
def execLaneChangeRequest (x : Rx) (s : State) : Host.Outcome State Fault Refusal :=
  if lcSubtype x.f ≠ 3 then .next s
  else .next (arrive s x 0x0F fun s _ =>
    let s := transmitNow s x.port (linkFrame s x.port 4 0 0)
    updPort s x.port fun q => { q with link := .retraining })

/-- A partner's confirmation of this end's lane change: nothing but the link layer's effects. -/
def execLaneChangeConfirm (x : Rx) (s : State) : Host.Outcome State Fault Refusal :=
  if lcSubtype x.f ≠ 4 then .next s else .next (arrive s x 0x0F fun s _ => s)

/-- The retrain completes: both ends post a lane-degraded event (R277). `lanes` are those the PHY trained; at the end that
lost a lane they are the survivors of R274. The end that lost none names an open lane (log 3). -/
def execLaneRetrainComplete (p : Fin 12) (lanes : Byte) (s : State) : Host.Outcome State Fault Refusal :=
  let q := s.fabric.ports[p]
  if q.link ≠ .retraining then .next s
  else
    let mine := q.lost &&& q.lanes
    let l := if mine = 0 then lanes.toNat else (survivors (portLanes s p) q.lost.toNat).getD lanes.toNat
    let (v, s) := if mine = 0 then drawFree s
      else (((List.range 8).find? fun i => mine.getLsbD i).getD 0, s)
    let s := updPort s p fun q => { q with link := .up, lanes := BitVec.ofNat 8 l }
    .next (post s 0x0B01 (packed [(1, p.val), (1, v), (1, l)]))

/-- The retrain has not completed within 200 µs (R278). -/
def execLaneRetrainTimeout (p : Fin 12) (s : State) : Host.Outcome State Fault Refusal :=
  if s.fabric.ports[p].link = .retraining then .next (portDown s p 2) else .next s

/-! ### Other protocols (R275, R281, R294) -/

/-- Bytes of an IPv4 address as the port record holds them (R292). -/
def ownIp4 (q : Port) : Word32 := q.rcd.ownIp.setWidth 32

/-- A frame of another protocol comes in, or leaves: both are counted (R310). -/
def otherIn (s : State) (p : Fin 12) : State := if s.fabric.ports[p].link = .up then bump s 0x0B02 p.val noTensor 1 else s
def otherOut (s : State) (p : Fin 12) (o : Output) : State := emit (bump s 0x0B01 p.val noTensor 1) o

/-- Whether a port answers ARP, neighbour solicitations and echo requests of an IP version: not without a node id (R291), nor
on the bench (R459). -/
def answers (s : State) (p : Fin 12) (v4 : Bool) : Bool :=
  let q := s.fabric.ports[p]
  q.link == .up && q.rcd.flags.getLsbD 1 == v4 && s.fabric.rcd.node != 0xFFFF#16 && s.power.mode != .bench

/-- A non-KFT frame that is not answered is discarded and counted, on a port that receives (R281, R459). -/
def notKft (s : State) (p : Fin 12) : State :=
  if s.fabric.ports[p].link = .up then discard s p.val (if s.power.mode = .bench then 10 else 3) 1 else s

def execArpRequest (p : Fin 12) (target : Word32) (sender : List Byte) (s : State) : Host.Outcome State Fault Refusal :=
  let q := s.fabric.ports[p]
  let s := otherIn s p
  if answers s p true ∧ ownIp4 q = target then .next (otherOut s p (.arpReply p q.rcd.ownMac (ownIp4 q) sender))
  else .next (notKft s p)

def execNeighbourSolicitation (p : Fin 12) (target sender : List Byte) (s : State) : Host.Outcome State Fault Refusal :=
  let q := s.fabric.ports[p]
  let s := otherIn s p
  if answers s p false ∧ leBytes 16 q.rcd.ownIp.toNat = target then
    .next (otherOut s p (.neighbourAdvert p q.rcd.ownMac q.rcd.ownIp sender))
  else .next (notKft s p)

def execIcmpEchoRequest (p : Fin 12) (target : Word32) (sender data : List Byte) (s : State) :
    Host.Outcome State Fault Refusal :=
  let q := s.fabric.ports[p]
  let s := otherIn s p
  if answers s p true ∧ ownIp4 q = target then .next (otherOut s p (.echoReply p false sender data))
  else .next (notKft s p)

def execIcmpv6EchoRequest (p : Fin 12) (target sender data : List Byte) (s : State) : Host.Outcome State Fault Refusal :=
  let q := s.fabric.ports[p]
  let s := otherIn s p
  if answers s p false ∧ leBytes 16 q.rcd.ownIp.toNat = target then .next (otherOut s p (.echoReply p true sender data))
  else .next (notKft s p)

def execPauseFrame (p : Fin 12) (s : State) : Host.Outcome State Fault Refusal :=
  if s.fabric.ports[p].link = .up then .next (discard (otherIn s p) p.val 7 1) else .next s

def execNonKftFrame (p : Fin 12) (s : State) : Host.Outcome State Fault Refusal :=
  .next (notKft (otherIn s p) p)

/-- A received LLDP frame is recorded (R294). -/
def execLldpFrame (p : Fin 12) (chassis : List Byte) (portId : Byte) (s : State) : Host.Outcome State Fault Refusal :=
  if s.fabric.ports[p].link = .up then
    .next (updPort (otherIn s p) p fun q => { q with lldpChassis := chassis, lldpPort := portId })
  else .next s

/-- Serial, node id and port of a discovery payload. -/
def discoveryId (b : List Byte) : List Byte := sub b 0 19

/-- A discovery frame is recorded; a changed serial, node id or port posts an event (R294). It is outside the link's
numbering (log 32). -/
def execDiscoveryFrame (x : Rx) (s : State) : Host.Outcome State Fault Refusal :=
  let p := x.port
  if s.fabric.ports[p].link ≠ .up ∨ x.f.typ ≠ 0x0E then .next s
  else
    let s := countFrame s x
    if !x.fcsOk then .next (discard (bump s 0x0B05 p.val noTensor 1) p.val 1 1)
    else if !x.udpOk then .next (discard s p.val 1 1)
    else if !x.crcOk then .next (discard (bump s 0x0B06 p.val noTensor 1) p.val 1 1)
    else if !knownFrame x.f then .next (discard s p.val 2 1)
    else
      let old := s.fabric.ports[p].discovery
      let new := padTo 64 x.f.payload
      let s := updPort s p fun q => { q with discovery := new, discoveryAt := s.timebase }
      if padTo 19 (discoveryId old) = discoveryId new then .next s
      else .next (post s 0x0B04
        (packed [(1, p.val), (8, field old 8 8), (8, field new 8 8), (2, field new 16 2), (2, field new 18 1)]))

/-- Every 100 ms each enabled port sends its discovery frame (R294). -/
def execDiscoveryInterval (p : Fin 12) (s : State) : Host.Outcome State Fault Refusal :=
  let q := s.fabric.ports[p]
  if enabled q ∧ q.link = .up then .next (sendDiscovery s p) else .next s

/-- Every 30 s the module sends LLDP frames (R294). -/
def execLldpInterval (s : State) : Host.Outcome State Fault Refusal :=
  .next ((List.finRange 12).foldl (fun s p =>
    let q := s.fabric.ports[p]
    if enabled q ∧ q.link = .up then otherOut s p (.lldp p (leBytes 16 Config.serial.toNat) (BitVec.ofNat 8 p.val)) else s) s)

/-! ### IEEE 1588 (R303, R304) -/

/-- The time parent port, when the fabric record names one. -/
def isTimeParent (s : State) (p : Fin 12) : Bool := s.fabric.rcd.timeParent.toNat == p.val

def updPtp (s : State) (f : Ptp → Ptp) : State := { s with fabric := { s.fabric with ptp := f s.fabric.ptp } }

/-- The offset from the time parent: an estimate beyond 100 ns posts a time-error event, and the timebase is corrected
(R303, R304; the correction by one step is a DESIGN CHOICE, log 31). Times are in units of 0.5 ns. -/
def settleTime (s : State) : State :=
  let t := s.fabric.ptp
  let off : Int := (t.t2 : Int) - t.t1 - t.delay
  let s := updPtp s fun t => { t with offset := off, t2 := (t.t2 - off).toNat }
  let s := if 200 < off.natAbs then
      post s 0x0B07 (packed [(4, (BitVec.ofInt 32 (off / 2)).toNat), (1, s.fabric.rcd.timeParent.toNat)])
    else s
  { s with timebase := ((s.timebase : Int) - off / 2).toNat }

/-- A Sync on the time-receiver port is timestamped (R303). -/
def execPtpSync (p : Fin 12) (sequence : Word16) (rxTime : Nat) (s : State) : Host.Outcome State Fault Refusal :=
  let s := otherIn s p
  if isTimeParent s p ∧ s.fabric.ports[p].link = .up then .next (updPtp s fun t => { t with sequence := sequence, t2 := rxTime })
  else .next s

/-- The Follow_Up of that Sync supplies the origin timestamp. -/
def execPtpFollowUp (p : Fin 12) (sequence : Word16) (origin : Nat) (s : State) : Host.Outcome State Fault Refusal :=
  let s := otherIn s p
  if isTimeParent s p ∧ s.fabric.ports[p].link = .up ∧ s.fabric.ptp.sequence = sequence then
    .next (settleTime (updPtp s fun t => { t with t1 := origin }))
  else .next s

/-- A Delay_Req on a port that serves time is answered. -/
def execPtpDelayReq (p : Fin 12) (sequence : Word16) (rxTime : Nat) (s : State) : Host.Outcome State Fault Refusal :=
  let s := otherIn s p
  if !isTimeParent s p ∧ enabled s.fabric.ports[p] ∧ s.fabric.ports[p].link = .up ∧ s.fabric.rcd.node ≠ 0xFFFF#16 then
    .next (otherOut s p (.ptpDelayResp p (s.fabric.ports[p].rcd.flags.getLsbD 1) sequence rxTime))
  else .next s

/-- A Delay_Resp completes the path-delay estimate. -/
def execPtpDelayResp (p : Fin 12) (sequence : Word16) (rxTime : Nat) (s : State) : Host.Outcome State Fault Refusal :=
  let s := otherIn s p
  if isTimeParent s p ∧ s.fabric.ports[p].link = .up ∧ s.fabric.ptp.reqSeq = sequence then
    .next (updPtp s fun t =>
      { t with delay := (((t.t2 : Int) - t.t1) + ((rxTime : Int) - t.t3)) / 2 })
  else .next s

/-- Every 2^−7 s: on each port that serves time a Sync and its Follow_Up, on the time parent port a Delay_Req (R303). Without
a node id the module sends none (R291). -/
def execPtpSyncInterval (s : State) : Host.Outcome State Fault Refusal :=
  if s.fabric.rcd.node = 0xFFFF#16 then .next s
  else
    let seq := s.fabric.ptp.reqSeq + 1
    let s := updPtp s fun t => { t with reqSeq := seq, t3 := 2 * s.timebase }
    .next ((List.finRange 12).foldl (fun s p =>
      let q := s.fabric.ports[p]
      let v4 := q.rcd.flags.getLsbD 1
      if enabled q ∧ q.link = .up then
        (if isTimeParent s p then otherOut s p (.ptpDelayReq p v4 seq)
          else otherOut (otherOut s p (.ptpSync p v4 seq)) p (.ptpFollowUp p v4 seq (2 * s.timebase)))
      else s) s)

end Sys2Proof.Machine
end

