-- ==== Sys2Proof/Machine/Accum.lean ====
section
/-! DEFINITION. Block sums (R116 to R119, R126), the wide accumulator and its carry word (R121, R122, R124), and the output
stage's arithmetic (R128, R129). -/

namespace Sys2Proof.Machine

open Sys2Proof

/-! ### The wide accumulator (R121, R122) -/

def Acc.zero : Acc := .fin false 0 0

/-- The value an accumulator holds; its exponent is the weight of its lowest significand bit. -/
def accVal : Acc → Val
  | .fin n s e => if s = 0 then .fin false 0 0 else .fin n s ((e : Int) - 2085)
  | .inf n => .inf n
  | .nan => .nan

/-- One rounding to 39 significand bits, nearest-even; an exact zero is +0 (R121). -/
def round39 : Val → Acc
  | .nan => .nan
  | .inf n => .inf n
  | .fin n m e =>
    if m = 0 then Acc.zero
    else
      let l := m.log2
      let x := (e + l + 2047).toNat
      if l ≤ 38 then .fin n (m * 2 ^ (38 - l)) x
      else
        let d := l - 38
        let q := m / 2 ^ d
        let rem := m % 2 ^ d
        let q := if 2 ^ (d - 1) < rem ∨ (rem = 2 ^ (d - 1) ∧ q % 2 = 1) then q + 1 else q
        if q = 2 ^ 39 then .fin n (2 ^ 38) (x + 1) else .fin n q x

/-- One step of the recurrence of R122. -/
def accAdd (a : Acc) (b : Val) : Acc := round39 ((accVal a).add b)

/-- The recurrence of R122 from a carry-in. -/
def accSum (a : Acc) (bs : List Val) : Acc := bs.foldl accAdd a

/-- The exact sum of values; +0 for none. -/
def exactSum (vs : List Val) : Val := vs.foldl Val.add (.fin false 0 0)

/-- A list in chunks of 32. -/
def chunks32 {α : Type} : Nat → List α → List (List α)
  | 0, _ => []
  | n + 1, xs => if xs.isEmpty then [] else xs.take 32 :: chunks32 n (xs.drop 32)

/-- Exact sums of 32-element chunks, added in ascending order under R122 from +0 (R149, R165, R265). -/
def chunkedSum (vs : List Val) : Acc := accSum Acc.zero ((chunks32 vs.length vs).map exactSum)

/-- rowsum of R165. -/
def rowSum (vs : List Val) : Val := round32 (accVal (chunkedSum vs))

/-! ### Carry words (R124) -/

def carryWord : Acc → Nat
  | .fin n s e => if s = 0 then 0 else s + e * 2 ^ 39 + (if n then 2 ^ 51 else 0)
  | .inf n => (if n then 2 ^ 51 else 0) + 2 ^ 52
  | .nan => 2 ^ 53

/-- A carry word read back; none for the words R124 faults. -/
def carryParse (w : Nat) : Option Acc :=
  let sig := bitsOf w 0 39
  let e := bitsOf w 39 12
  let n := bitAt w 51
  match bitsOf w 52 2 with
  | 0 =>
    if sig = 0 then (if e = 0 ∧ !n then some Acc.zero else none)
    else if bitAt sig 38 then some (.fin n sig e) else none
  | 1 => if sig = 0 ∧ e = 0 then some (.inf n) else none
  | 2 => if sig = 0 ∧ e = 0 ∧ !n then some .nan else none
  | _ => none

/-! ### Tile products (R35, R43, R116 to R119, R126) -/

/-- An 8-bit integer significand from 128 to 255 and its exponent (R118). -/
def sig8 (m : Nat) (e : Int) : Nat × Int := (m * 2 ^ 7 / 2 ^ m.log2, e + m.log2 - 7)

/-- A finite non-zero product of P2: its sign, P and exponent sum. -/
def p2Product (a b : Val) : Option (Bool × Nat × Int) :=
  match a, b with
  | .fin n1 (m1 + 1) e1, .fin n2 (m2 + 1) e2 =>
    let (s1, q1) := sig8 (m1 + 1) e1
    let (s2, q2) := sig8 (m2 + 1) e2
    some (n1 != n2, s1 * s2, q1 + q2)
  | _, _ => none

/-- The block sum of P2 over its finite products: three guard bits below the largest product, the rest dropped (R118). -/
def p2Sum (ps : List (Bool × Nat × Int)) : Val :=
  match ps with
  | [] => .fin false 0 0
  | p :: rest =>
    let qmax := rest.foldl (fun m x => max m x.2.2) p.2.2
    let term (x : Bool × Nat × Int) : Int :=
      let d := (qmax - x.2.2).toNat
      let mag := if d ≤ 3 then x.2.1 * 2 ^ (3 - d) else x.2.1 / 2 ^ (d - 3)
      if x.1 then -(mag : Int) else mag
    ofInt false ((ps.map term).sum) (qmax - 3)

/-- A zero sum is +0 (R117). -/
def plusZero : Val → Val
  | .fin n m e => .fin (n && m != 0) m e
  | v => v

/-- The block sum of one DPU over the operand values of one block (R116, R118, R126). -/
def blockSum (p2 : Bool) (xs : List (Val × Val)) : Val :=
  let products := xs.map fun x => x.1.mul x.2
  let special := exactSum (products.filter fun v => !v.isFinite)
  if products.any fun v => !v.isFinite then special
  else if p2 then p2Sum (xs.filterMap fun x => p2Product x.1 x.2)
  else plusZero (exactSum products)

/-- A K16 operand element of a plain tensor: a subnormal is a zero of the same sign (R35). -/
def flushK16 (code : Nat) : Val :=
  if bitsOf code 7 8 = 0 then .fin (bitAt code 15) 0 0 else decode .k16 code

/-! ### The output stage (R128, R129) -/

/-- `v = a × s + b` clipped, and the weight of its source's lowest bit for stochastic rounding. -/
def outValue (a : Acc) (scale bias : Option Nat) (lo hi : Nat) : Val × Int :=
  let av := accVal a
  let sv : Val := (scale.map (decode .k16)).getD Val.one
  let bv : Val := (bias.map (decode .k16)).getD (.fin false 0 0)
  let p := av.mul sv
  let v := p.add bv
  let w := if p.isZero then bv.weight else if bv.isZero then p.weight else min p.weight bv.weight
  let lov := decode .k16 lo
  let hiv := decode .k16 hi
  if v.lt lov then (lov, lov.weight) else if hiv.lt v then (hiv, hiv.weight) else (v, w)

end Sys2Proof.Machine
end

