-- ==== Sys2Proof/Machine/Sequencer.lean ====
section
/-! DEFINITION. Play sequencers: which instance issues next (R197 to R199), signals delivered in body order (R191, R197,
R482), operands resolved at issue (R230, R231), and the instructions that only wait or signal (R204). -/

namespace Sys2Proof.Machine

open Sys2Proof

/-- The same place, whatever of this module's two node ids an address uses (R11). -/
def homeAddr (s : State) (a : Nat) : Nat := if isLocal s (nodeOf a) then a % 2 ^ 48 + 0xFFFF * 2 ^ 48 else a

/-! ### Stage programs (R196, R199) -/

def stageOf (p : Program) (unit : Nat) : Option Stage := p.stages.find? (·.unit == unit)

def Stage.body (g : Stage) : Stream → List PInstr
  | .F => g.f
  | .B => g.b
  | .U => g.u

def SeqUnit.pos (q : SeqUnit) : Stream → Nat × Nat
  | .F => q.posF
  | .B => q.posB
  | .U => q.posU

def SeqUnit.setPos (q : SeqUnit) (t : Stream) (p : Nat × Nat) : SeqUnit :=
  match t with
  | .F => { q with posF := p }
  | .B => { q with posB := p }
  | .U => { q with posU := p }

/-- The instruction of an instance. -/
def instrOf (s : State) (w : Who) : Option PInstr :=
  (s.program.bind fun p => stageOf p w.unit).bind fun g => (g.body w.stream)[w.index]?

/-- The stream's next instance. -/
def nextInst (g : Stage) (q : SeqUnit) (t : Stream) : Option (Who × PInstr) :=
  let (i, k) := q.pos t
  ((g.body t)[i]?).map fun p => ({ unit := q.unit, stream := t, index := i, inst := k }, p)

/-- The position after an instance (R199). -/
def advance (p : PInstr) (i k : Nat) : Nat × Nat := if k + 1 < p.count then (i, k + 1) else (i + 1, 0)

/-! ### Which instance issues (R197, R198) -/

/-- Local code and die of a unit. -/
def unitCode (unit : Nat) : Nat := unit % 256
def unitDie (unit : Nat) : Nat := unit / 256

def isTile (unit : Nat) : Bool := decide (unitDie unit < 8) && decide (unitCode unit < 0x80)
def isFT (unit : Nat) : Bool := decide (unitDie unit < 8) && decide (unitCode unit < 0x20)
def isVE (unit : Nat) : Bool := decide (unitDie unit < 8) && decide (0x80 ≤ unitCode unit) && decide (unitCode unit < 0x8C)
def isMover (unit : Nat) : Bool := decide (unitDie unit < 8) && unitCode unit == 0xA2

/-- How many unfinished instances a unit holds at most (R197); none for tiles and the FD reduction unit. -/
def holds (unit : Nat) : Option Nat :=
  if isTile unit || unit == 0x800 then none else if isMover unit then some 4 else some 1

def gateDescOf (s : State) (slot : Nat) : GateDesc := parseGate ((s.program.map fun p => descOf p slot).getD [])

/-- Whether the unit can accept an instance (R197). A unit that no physical unit runs accepts none, nor does one that is
stopped as suspect (R439, R441, R442). -/
def accepts (s : State) (q : SeqUnit) : Bool :=
  let room := match holds q.unit with
    | none => true
    | some n => decide ((q.flight.filter fun f => !f.finished).length < n)
  room && (decide (8 ≤ unitDie q.unit) || ((runner s q.unit).isSome && !unitStopped s q.unit))

/-- Whether instances of beat `k` may issue: the program runs, its period has begun and beat `k` has (R197, R210, R234,
R307). -/
def beatBegun (s : State) (k : Nat) : Bool :=
  live s && s.beat.started && !s.beat.missed && decide (k ≤ s.beat.number)

/-- Whether a stream runs: the U-stream of a step starts only in a module that has committed the step (R25). -/
def streamRuns (s : State) (t : Stream) : Bool := t != .U || s.beat.committed

/-- Whether a block fault has stopped a unit's stream (R83). -/
def streamStopped (s : State) (unit : Nat) (t : Stream) : Bool := s.beat.stopped.any fun f => f.unit == unit && f.stream == t

/-- Whether an instance comes after another in the body of one stream. -/
def afterIn (f w : Who) : Bool :=
  f.unit == w.unit && f.stream == w.stream &&
    (decide (f.index < w.index) || (f.index == w.index && decide (f.inst < w.inst)))

/-- Whether an instance lies past the place where a block fault stopped its stream (R83). -/
def pastFault (s : State) (w : Who) : Bool := s.beat.stopped.any fun f => afterIn f w

/-- Whether a stream's reader waits for a refetch: what follows in the stream waits with it (R82, R83). -/
def refetching (s : State) (unit : Nat) (t : Stream) : Bool := s.beat.refetch.any fun r => r.who.unit == unit && r.who.stream == t

/-- The output-stage descriptor of an instance of a PASS. -/
def outOf (s : State) (w : Who) : Option OutDesc := s.program.bind fun p => (instrOf s w).bind fun i =>
  if i.cls = 2 then some (parseOut (descOf p (parseProduct (descOf p i.desc)).out)) else none

/-- Whether an instance reads the carry words that another writes (R124). -/
def readsCarry (s : State) (w x : Who) : Bool :=
  (outOf s w).any fun o => o.carryBase != 0 && (outOf s x).any fun q => q.fmt == 6 && q.dest == o.carryBase

/-- Whether an instance reads carry words that a pass writes which runs again, and has not yet (R125). -/
def carryPending (s : State) (w : Who) : Bool := s.beat.reexec.any fun x => x != w && readsCarry s w x

/-- Whether the stream's next instance can issue (R197); behind a pass that runs again, once it has (R125). -/
def ready (s : State) (q : SeqUnit) (w : Who) (p : PInstr) : Bool :=
  !carryPending s w && streamRuns s w.stream && !streamStopped s w.unit w.stream && !refetching s w.unit w.stream && beatBegun s (p.beatOf w.inst) &&
    waitSatisfied s.step.toNat q p w.inst && accepts s q

/-- The instance that issues next on a unit: the lowest beat, then the U-, B- and F-stream (R198). -/
def pick (s : State) (unit : Nat) : Option (Who × PInstr) :=
  match seqOf s unit, s.program.bind fun p => stageOf p unit with
  | some q, some g =>
    let can := ([Stream.U, .B, .F].filterMap (nextInst g q)).filter fun x => ready s q x.1 x.2
    can.foldl (fun best x => match best with
      | none => some x
      | some b => if x.2.beatOf x.1.inst < b.2.beatOf b.1.inst then some x else some b) none
  | _, _ => none

/-- The instance issues: its stream moves on, and it is in flight until its signal is delivered. -/
def issued (s : State) (w : Who) (p : PInstr) : State :=
  updSeq s w.unit fun q =>
    { q.setPos w.stream (advance p w.index w.inst) with
      flight := q.flight ++ [{ stream := w.stream, index := w.index, inst := w.inst, finished := false, waiting := 0 }] }

/-- The next instance of a unit issues when it is of the wanted kind, and does its work. -/
def issue (s : State) (unit : Nat) (want : State → PInstr → Bool) (work : State → Who → PInstr → State) :
    Host.Outcome State Fault Refusal :=
  match pick s unit with
  | none => .next s
  | some (w, p) => if want s p then .next (work (issued s w p) w p) else .next s

/-! ### Instances in flight -/

def sameInst (w : Who) (f : InFlight) : Bool := f.stream == w.stream && f.index == w.index && f.inst == w.inst

def updFlight (s : State) (w : Who) (f : InFlight → InFlight) : State :=
  updSeq s w.unit fun q => { q with flight := q.flight.map fun x => if sameInst w x then f x else x }

def markFinished (s : State) (w : Who) : State := updFlight s w fun f => { f with finished := true }

/-- An instance whose work a persistent fault stopped: it never completes (R83). -/
def stop (s : State) (w : Who) : State :=
  if s.beat.stuck.any (·.1 == w) then s
  else { s with beat := { s.beat with stuck := s.beat.stuck ++ [(w, 5)] } }

/-- The stream of an instance stops there: no later instance of it issues, and what later ones in flight still had to write
is not written (R83). -/
def stopStream (s : State) (w : Who) : State :=
  { s with beat := { s.beat with
    stopped := s.beat.stopped ++ [w], heldBlocks := s.beat.heldBlocks.filter fun h => !(h.who == w || afterIn w h.who) } }

/-- A persistent fault at a block: the consuming stream stops there (R83). -/
def faultAt (s : State) (w : Who) (tensor : Nat) (e : Skew) : State :=
  stopStream (stop (blockFault s w.unit tensor e.b e.cause e.expected e.received) w) w

/-! ### Signals (R191, R197, R202, R482) -/

/-- Payload of a signal frame (R283). -/
def signalPayload (unit op tok n step : Nat) : List Byte :=
  leBytes 2 (unit % 4096 + op * 4096) ++ [BitVec.ofNat 8 tok, BitVec.ofNat 8 n] ++ leBytes 4 step

/-- The named token of a SIGNAL instruction is signalled, here or on a peer (R482, R302). -/
def signalNamed (s : State) (p : PInstr) : State :=
  let n := if p.signalMode = 1 then p.sigCount else 1
  let peer := (s.program.map fun g => g.peers.getD p.desc 0xFFFF).getD 0xFFFF
  if p.desc = 0xFFFF ∨ isLocal s peer then applySignal s p.sigUnit p.sigToken p.signalMode n (s.step.toNat % 2)
  else
    let f := mkFrame s 0x07 peer 0 8 0 0
      (signalPayload p.sigUnit (p.signalMode - 1) p.sigToken n (s.step.toNat % 2 ^ 32))
    let s := { s with journal := { s.journal with signals := s.journal.signals + 1 } }
    if replaying s then s else sendFrame s f

/-- The signal of a complete instance. -/
def sendSignal (s : State) (unit : Nat) (p : PInstr) : State :=
  if p.signalMode = 0 then s
  else if p.cls = 1 then signalNamed s p
  else applySignal s unit p.signalToken p.signalMode 1 (s.step.toNat % 2)

/-- The signals of the leading complete instances of a stream, in body order (R197); `n` bounds them. -/
def deliverFrom : Nat → State → Nat → Stream → State
  | 0, s, _, _ => s
  | n + 1, s, unit, t =>
    match seqOf s unit with
    | none => s
    | some q => match q.flight.find? (·.stream == t) with
      | none => s
      | some f =>
        if f.finished ∧ f.waiting = 0 then
          let w : Who := { unit := unit, stream := t, index := f.index, inst := f.inst }
          let s := updSeq s unit fun q => { q with flight := q.flight.filter fun x => !sameInst w x }
          let s := match instrOf s w with
            | some p => sendSignal s unit p
            | none => s
          deliverFrom n s unit t
        else s

def deliver (s : State) (unit : Nat) (t : Stream) : State :=
  deliverFrom ((seqOf s unit).map (·.flight.length) |>.getD 0) s unit t

/-- An instance whose work is done as it issues: it is complete, and its signal goes when its turn comes. -/
def finishNow (s : State) (w : Who) : State := deliver (markFinished s w) w.unit w.stream

/-! ### Completion (R191, R197, R210) -/

/-- Whether an instance still has a refetch or an access outstanding, runs on a stopped unit (R438, R441), lies past a fault
of its stream (R83), or can never complete. -/
def heldUp (s : State) (w : Who) : Bool :=
  s.beat.refetch.any (·.who == w) || s.beat.stuck.any (·.1 == w) || s.beat.deferred.any (·.who == w) || unitStopped s w.unit ||
    pastFault s w

/-! ### Resolving operands (R230, R231) -/

def versionOf (s : State) (slot : Nat) : Option VState := s.versions.find? (·.record == slot)

def VState.slot (v : VState) (i : Nat) : VSlot := if i % 2 = 0 then v.s0 else v.s1

def VState.setSlot (v : VState) (i : Nat) (x : VSlot) : VState := if i % 2 = 0 then { v with s0 := x } else { v with s1 := x }

def condNumber : SlotCond → Nat
  | .empty => 0 | .writing => 1 | .held => 2 | .home => 3

/-- The block tensor descriptor of a version slot, with the slot's block format (R230). -/
def slotBlock (p : Program) (v : VState) (i : Nat) : BlockDesc :=
  let r := parseVersion (descOf p v.record)
  { parseBlock (descOf p (r.slotDesc i)) with fmt := (v.slot i).fmt }

/-- An operand as it is resolved at issue, or the version fault it meets: tensor, epoch, slot tag and condition. -/
inductive Resolved where
  | ok (o : Operand)
  | fault (tensor epoch tag cond : Nat)
  deriving DecidableEq, Repr

/-- The tensor a descriptor slot names, for an instruction that names epoch `epoch` (R231). -/
def resolve (s : State) (p : Program) (slot lay epoch : Nat) : Resolved :=
  let l := layoutOf p lay
  match kindOf p slot with
  | .plain => .ok (.plain (parsePlain (descOf p slot)) l)
  | .version =>
    let r := parseVersion (descOf p slot)
    match versionOf s slot with
    | none => .fault r.tensor (epoch % 65536) 0 0
    | some v =>
      let x := v.slot epoch
      if (x.cond = .held ∨ x.cond = .home) ∧ x.tag.toNat = epoch % 65536 then .ok (.block (slotBlock p v epoch) l)
      else .fault r.tensor (epoch % 65536) x.tag.toNat (condNumber x.cond)
  | _ => .ok (.block (parseBlock (descOf p slot)) l)

/-- The epoch an instruction names: the step number plus its wait's offset (R231). -/
def epochOf (s : State) (p : PInstr) : Nat := if p.waitMode = 2 then (s.step.toNat + p.offset) % 65536 else s.step.toNat % 65536

/-- A version fault, handled as a token fault (R231, R201). -/
def versionFault (s : State) (w : Who) (tensor epoch tag cond : Nat) : State :=
  stop (raiseFault (post s 0x0902 (packed [(2, w.unit), (4, tensor), (2, epoch), (2, tag), (1, cond)])) 0x0902 1) w

/-! ### Random bits of a destination (R132) -/

/-- The generator key of a rounding site in a step. -/
def keyOf (s : State) (stream tensor : Nat) : Key :=
  { seed := (s.program.map (·.hdr.seed)).getD 0, step := s.step, stream := stream, tensor := tensor }

/-- Random cells of an element where the rounding is stochastic; none are drawn otherwise. -/
def cells (k : Key) (rnd : Rnd) (index : Nat) : Nat := if rnd = .stochastic then drawBits k index else 0

end Sys2Proof.Machine
end

