-- ==== Sys2Proof/Machine/Sources.lean ====
section
/-! DEFINITION. What an instance reads before it does its work (R191): its own module's memory, where an address error
stops it (R300) and a view may make it wait (R351), and other modules' memory, which it asks for (R295, R300). -/

namespace Sys2Proof.Machine

open Sys2Proof

/-- The first line of the ranges that fails, with its status. -/
def firstFailure (s : State) (unit : Nat) (rs : List (Nat × Nat)) : Option (Nat × Nat) :=
  (rs.flatMap fun r => linesOf r.1 r.2).findSome? fun l => match readGlobal s unit l.1 l.2 with
    | .fail st => some (st, l.1)
    | _ => none

/-- The ranges of which some line is not here yet. -/
def notYet (s : State) (unit : Nat) (rs : List (Nat × Nat)) : List (Nat × Nat) :=
  rs.filter fun r => (linesOf r.1 r.2).any fun l => match readGlobal s unit l.1 l.2 with
    | .wait => true
    | _ => false

def isRemote (s : State) (addr : Nat) : Bool := !isLocal s (nodeOf addr)

/-- Read requests for a remote range, in pieces of the smallest maximum payload (R292, R295). -/
def askFor (s : State) (w : Who) (r : Nat × Nat) : State :=
  let lo := r.1 / 4 * 4
  let hi := roundUp 4 (r.1 + r.2)
  (List.range (ceilDiv (hi - lo) 1024)).foldl (fun s i =>
    let a := lo + 1024 * i
    let n := min 1024 (hi - a)
    let (st, s) := request s 0x01 (BitVec.ofNat 64 a) n [] (.unit w)
    if st = 0 then s else accessFailed s w st a) s

/-- Whether an instance still needs what its remote reads brought: its reader refetches, rows of its unit wait in the fill
gate, or own segments of its tag wait for an accumulator (R261). -/
def keepsArrivals (s : State) (w : Who) : Bool :=
  s.beat.refetch.any (·.who == w) || (s.gates.any fun g => g.unit == w.unit && !g.rows.isEmpty) ||
    (w.unit == 0x800 && s.reduce.tags.any fun t => !t.own.isEmpty)

/-- Whether an instance still awaits an answer to one of its read requests. -/
def reading (s : State) (w : Who) : Bool := s.fabric.txns.any fun t => t.owner == .unit w && t.typ == 1

/-- What an instance's reads of this module's LPDDR5X cost: units on lost devices are reconstructed, and the instance waits
for them (R326, R327). -/
def chargeReads (s : State) (w : Who) (rs : List (Nat × Nat)) : State :=
  let mine := rs.filter fun r => decide (0 < r.2) && isLocal s (nodeOf r.1) && spaceOf r.1 == 1
  let lost := mine.any fun r => (List.range 20).any fun d => deviceLost s d && decide (0 < unitsOn (offsetOf r.1) r.2 d)
  if lost then markRebuilt (mine.foldl (fun s r => chargeRead s (offsetOf r.1) r.2) s) w else s

/-- Read requests for the ranges at other modules that are missing; in a replay none leaves (R244). -/
def askRemote (s : State) (w : Who) (missing : List (Nat × Nat)) : State :=
  if replaying s || s.beat.stuck.any (·.1 == w) then s
  else (missing.filter fun r => isRemote s r.1).foldl (fun s r => askFor s w r) s

/-- The instance's work runs once all its sources are here; until then it is deferred, with what goes with it. What it finds
to be missing only when other sources have come is asked for then. -/
def withSources (s : State) (w : Who) (rs : List (Nat × Nat)) (k : State → State) (input : WorkIn := {}) : State :=
  match firstFailure s w.unit rs with
  | some (st, a) => accessFailed s w st a
  | none =>
    let missing := notYet s w.unit rs
    if missing.isEmpty then
      let s := k (chargeReads { s with beat := { s.beat with deferred := s.beat.deferred.filter (·.who != w) } } w rs)
      if keepsArrivals s w then s else dropArrivals s w.unit
    else if s.beat.deferred.any (·.who == w) then (if reading s w then s else askRemote s w missing)
    else
      let views := missing.filter fun r => !isRemote s r.1
      let s := { s with beat := { s.beat with
        deferred := s.beat.deferred ++ [{ who := w, view := !views.isEmpty, input := input }] } }
      let s := views.foldl (fun s r => bump s 0x0D07 (igdOfView s (offsetOf r.1)) noTensor 1) s
      askRemote s w missing

/-! ### Block reads that are checked (R81 to R83) -/

/-- What memory delivers, with the bytes that prefetch buffers deliver in their place (R81). -/
def overlay (stale : List (Nat × Byte)) (rd : Reader) : Reader := fun a n =>
  (rd a n).zipIdx.map fun x => ((stale.find? (·.1 == a + x.2)).map (·.2)).getD x.1

/-- Work on blocks that a reader checks. A block that fails is refetched from memory, once, past every prefetch buffer; when
it fails again the failure is persistent. A refetched block that passes is counted (R82, R83). `tried` are the blocks
refetched before, the last one first; `bad` is the first failure of what a reader delivers, and `drop` takes out of the
prefetched bytes what goes with a failed block. -/
def checked (s : State) (w : Who) (stale : List (Nat × Byte)) (tried : List (Nat × Nat))
    (bad : Reader → Option (BlockDesc × Skew)) (work : Reader → State → State)
    (drop : Reader → BlockDesc → Nat → List (Nat × Byte) → List (Nat × Byte) := dropStale) (input : WorkIn := {}) : State :=
  let rd := overlay stale (peek s w.unit)
  let passed (s : State) : State := if tried.isEmpty then s else bump s 0x1001 (unitDie w.unit) noTensor 1
  match bad rd with
  | none => work rd (passed s)
  | some (d, e) =>
    if tried.contains (d.data, e.b) then faultAt s w d.tensor e
    else
      let s := passed s
      { s with beat := { s.beat with refetch := s.beat.refetch ++
          [{ who := w, stale := drop (peek s w.unit) d e.b stale, blocks := (d.data, e.b) :: tried, input := input }] } }

end Sys2Proof.Machine
end

