-- ==== Sys2Proof/Machine/Checkpoint.lean ====
section
/-! DEFINITION. Moves (R206, R301, R319) and the checkpoint codec (R180 to R184, R188). -/

namespace Sys2Proof.Machine

open Sys2Proof

/-! ### Moves (R206, R301) -/

/-- A local write by 64-byte lines that stops at the first line that fails, with its status and address. -/
def writeLines (s : State) (addr : Nat) (data : List Byte) : State × Option (Nat × Nat) :=
  (linesOf addr data.length).foldl (fun (s, bad) l =>
    match bad with
    | some b => (s, some b)
    | none =>
      let (st, s) := writeLocal s (spaceOf l.1) (offsetOf l.1) (sub data (l.1 - addr) l.2)
      (s, if st = 0 then none else some (st, l.1))) (s, none)

/-- Bytes copied inside the module, recorded as a move with its source (R319). -/
def moveHere (s : State) (w : Who) (d : MoveDesc) : State :=
  let (s, bad) := writeLines s d.dst (peek s w.unit d.src d.len)
  match bad with
  | some (st, a) => accessFailed s w st a
  | none =>
    if spaceOf d.dst = 0 then
      { s with beat := { s.beat with writes := s.beat.writes ++
          [{ who := w, move := true, off := offsetOf d.dst, len := d.len, src := d.src }] } }
    else s

/-- A move of an instance: inside the module, or by bulk transfer to or from another (R301). -/
def moveWork (w : Who) (d : MoveDesc) (s : State) : State :=
  let out := isRemote s d.dst
  if replaying s && (isRemote s d.src || out) then s
  else if isRemote s d.src then
    startBulkIn (addWaiting s w 1) (nodeOf d.src) d.src d.dst d.len (if out then .relay w else .unit w)
  else withSources s w [(d.src, d.len)] fun s =>
    if out then
      startBulkOut (addWaiting s w 1) (nodeOf d.dst) d.src d.dst (peek s w.unit d.src d.len) (.unit w)
        (from_ := if spaceOf d.src = 1 then some (offsetOf d.src) else none)
    else moveHere s w d

def moveDescOf (s : State) (p : PInstr) : MoveDesc := parseMove ((s.program.map fun g => descOf g p.desc).getD [])

def execMove (unit : Nat) (s : State) : Host.Outcome State Fault Refusal :=
  issue s unit (fun _ p => p.cls == 5) fun s w p => moveWork w (moveDescOf s p) s

/-! ### Lossless segments (R181, R182) -/

/-- A bitstream, first bit first. -/
abbrev Bits := List Bool

/-- `n` bits of `v`, least significant first. -/
def bitsLsb : Nat → Nat → Bits
  | 0, _ => []
  | n + 1, v => decide (v % 2 = 1) :: bitsLsb n (v / 2)

def bitsNat : Bits → Nat
  | [] => 0
  | b :: bs => (if b then 1 else 0) + 2 * bitsNat bs

/-- Widths of a source code: whole, exponent, fraction. -/
def ckptExpBits (k16 : Bool) : Nat := if k16 then 8 else 4
def ckptFracBits (k16 : Bool) : Nat := if k16 then 7 else 3
def ckptCodeBits (k16 : Bool) : Nat := if k16 then 16 else 8
def ckptBytes (k16 : Bool) : Nat := if k16 then 2 else 1

def ckptExp (k16 : Bool) (c : Nat) : Nat := bitsOf c (ckptFracBits k16) (ckptExpBits k16)
def ckptSign (k16 : Bool) (c : Nat) : Nat := bitsOf c (ckptCodeBits k16 - 1) 1

/-- Prefix code of an exponent distance. -/
def distBits (k16 : Bool) (d : Nat) : Bits :=
  if d = 0 then [false] else if d = 1 then [true, false] else if d = 2 then [true, true, false]
  else [true, true, true] ++ bitsLsb (ckptExpBits k16) d

def elemBits (k16 : Bool) (emax c : Nat) : Bits :=
  distBits k16 (emax - ckptExp k16 c) ++ bitsLsb 1 (ckptSign k16 c) ++ bitsLsb (ckptFracBits k16) c

/-- The masked or dense body: e_max, then the coded codes. -/
def codedBits (k16 : Bool) (cs : List Nat) : Bits :=
  let emax := (cs.map (ckptExp k16)).foldl max 0
  bitsLsb (ckptExpBits k16) emax ++ cs.flatMap (elemBits k16 emax)

/-- A group that is not all zero: the shortest form, dense before masked before raw on equal length. -/
def groupBits (k16 : Bool) (g : List Nat) : Bits :=
  let mask := (g.zipIdx.map fun x => if x.1 = 0 then 0 else 2 ^ x.2).sum
  let masked := bitsLsb 2 1 ++ bitsLsb 32 mask ++ codedBits k16 (g.filter (· != 0))
  let dense := bitsLsb 2 2 ++ codedBits k16 g
  let raw := bitsLsb 2 3 ++ g.flatMap (bitsLsb (ckptCodeBits k16))
  let best := if masked.length ≤ raw.length then masked else raw
  if g.all (· != 0) && decide (dense.length ≤ best.length) then dense else best

/-- Leading all-zero groups. -/
def zeroGroups (gs : List (List Nat)) : Nat := (gs.takeWhile fun g => g.all (· == 0)).length

/-- The groups of a segment coded in order; `n` bounds the codes written. -/
def segmentBits (k16 : Bool) : Nat → List (List Nat) → Bits
  | 0, _ => []
  | _ + 1, [] => []
  | n + 1, g :: gs =>
    let z := min 256 (zeroGroups (g :: gs))
    if z = 0 then groupBits k16 g ++ segmentBits k16 n gs
    else bitsLsb 2 0 ++ bitsLsb 8 (z - 1) ++ segmentBits k16 n ((g :: gs).drop z)

/-- A field of `n` bits at the head of a bitstream; none when it is cut short. -/
def takeBits (n : Nat) (b : Bits) : Option (Nat × Bits) :=
  if b.length < n then none else some (bitsNat (b.take n), b.drop n)

/-- An exponent distance. -/
def takeDist (k16 : Bool) (b : Bits) : Option (Nat × Bits) :=
  match b with
  | false :: r => some (0, r)
  | true :: false :: r => some (1, r)
  | true :: true :: false :: r => some (2, r)
  | true :: true :: true :: r => takeBits (ckptExpBits k16) r
  | _ => none

/-- An element code under e_max. -/
def takeElem (k16 : Bool) (emax : Nat) (b : Bits) : Option (Nat × Bits) :=
  (takeDist k16 b).bind fun (d, b) => (takeBits 1 b).bind fun (sg, b) => (takeBits (ckptFracBits k16) b).map fun (fr, b) =>
    ((sg * 2 ^ (ckptCodeBits k16 - 1) + (emax - d) * 2 ^ ckptFracBits k16 + fr) % 2 ^ ckptCodeBits k16, b)

/-- One code for each flag: an element code where it is set, 0 elsewhere. -/
def takeElems (k16 : Bool) (emax : Nat) : List Bool → Bits → Option (List Nat × Bits)
  | [], b => some ([], b)
  | false :: fs, b => (takeElems k16 emax fs b).map fun (cs, b) => (0 :: cs, b)
  | true :: fs, b => (takeElem k16 emax b).bind fun (c, b) => (takeElems k16 emax fs b).map fun (cs, b) => (c :: cs, b)

def takeRaw (k16 : Bool) : Nat → Bits → Option (List Nat × Bits)
  | 0, b => some ([], b)
  | n + 1, b => (takeBits (ckptCodeBits k16) b).bind fun (c, b) => (takeRaw k16 n b).map fun (cs, b) => (c :: cs, b)

/-- One group code: the codes it covers. -/
def takeGroup (k16 : Bool) (b : Bits) : Option (List Nat × Bits) :=
  (takeBits 2 b).bind fun (t, b) =>
    match t with
    | 0 => (takeBits 8 b).map fun (n, b) => (List.replicate (32 * (n + 1)) 0, b)
    | 1 => (takeBits 32 b).bind fun (m, b) => (takeBits (ckptExpBits k16) b).bind fun (e, b) =>
        takeElems k16 e ((List.range 32).map (bitAt m)) b
    | 2 => (takeBits (ckptExpBits k16) b).bind fun (e, b) => takeElems k16 e (List.replicate 32 true) b
    | _ => takeRaw k16 32 b

/-- Codes of a segment until `want` of them are yielded, with the bits left; `n` bounds the groups. -/
def takeSegment (k16 : Bool) : Nat → Nat → Bits → List Nat × Bits
  | 0, _, b => ([], b)
  | n + 1, want, b =>
    if want = 0 then ([], b)
    else match takeGroup k16 b with
      | none => ([], b)
      | some (cs, b) =>
        let (rest, b) := takeSegment k16 n (want - cs.length) b
        (cs ++ rest, b)

def bytesToBits (bs : List Byte) : Bits := bs.flatMap fun b => bitsLsb 8 b.toNat

def bitsToBytes (b : Bits) : List Byte := leBytes (ceilDiv b.length 8) (bitsNat b)

/-! ### Regions of a checkpoint (R180) -/

def CkptDesc.k16 (d : CkptDesc) : Bool := d.fmt == 1
def CkptDesc.slotAddr (d : CkptDesc) (i : Nat) : Nat :=
  d.base + roundUp 64 (4 * d.segments) + i * (if d.k16 then 16448 else 8256)
/-- Codes of segment `i`: 256 groups of 32, fewer in the last. -/
def CkptDesc.segCodes (d : CkptDesc) (i : Nat) : Nat := min 8192 (d.count - 8192 * i)

def ckptCodes (rd : Reader) (d : CkptDesc) (lo n : Nat) : List Nat :=
  (List.range n).map fun i => leNat (rd (d.src + (lo + i) * ckptBytes d.k16) (ckptBytes d.k16))

/-! ### Store (R181 to R184, R188) -/

/-- The codes that a store keeps as they are count as written of the checkpoint's tensor (R153). -/
def noteStored (s : State) (d : CkptDesc) (cs : List Nat) : State :=
  let f : Fmt := if d.k16 then .k16 else .k8f
  noteWatch s d.tensor (addWatch cs.length (cs.filter (codeZero f)).length 0 (cs.filter (codeNonFinite f)).length 0)

def storeSegment (rd : Reader) (w : Who) (d : CkptDesc) (s : State) (i : Nat) : State :=
  let cs := ckptCodes rd d (8192 * i) (d.segCodes i)
  let s := noteStored s d cs
  let gs := (List.range (cs.length / 32)).map fun g => (cs.drop (32 * g)).take 32
  let b := segmentBits d.k16 256 gs
  let s := writeGlobal s w (d.base + 4 * i) (leBytes 4 b.length)
  let s := writeGlobal s w (d.slotAddr i) (bitsToBytes b)
  bump s 0x0707 w.unit noTensor (4 + ceilDiv b.length 8)

/-- The counts and events of a narrowed block (R184, R188). -/
def noteNarrowed (w : Who) (d : CkptDesc) (xs : List Src) (s : State) (x : Nat × Encoded) : State :=
  let e := x.2
  let s := bump s 0x0708 noInst d.tensor e.escapes.length
  let s := bump s 0x0707 w.unit noTensor (2 + (if e.s = 0 then 0 else 16) + 4 * e.escapes.length)
  if xs.any fun x => x.v.isNan then
    let s := bump s 0x0709 noInst d.tensor 1
    post s 0x0702 (packed [(4, d.tensor), (4, s.step.toNat), (8, x.1), (4, e.excessFinite + e.excessNonFinite)])
  else s

def storeNarrowed (rd : Reader) (w : Who) (d : CkptDesc) (s : State) : State :=
  let src (b : Nat) : List Src := (ckptCodes rd d (32 * b) 32).map fun c =>
    { v := decode .k8f c, w := codeWeight .k8f c, r := 0 }
  let bs := (List.range (d.count / 32)).map fun b => (b, src b)
  let (es, s) := writeBlocksFull w d.narrowed .nearestEven bs none [] s
  let s := (bs.zip es).foldl (fun s x => noteNarrowed w d x.1.2 s (x.1.1, x.2)) s
  bump s 0x0707 w.unit noTensor (8 * d.segments)

def storeRun (w : Who) (d : CkptDesc) (s : State) : State :=
  let rd := peek s w.unit
  let n := d.count * ckptBytes d.k16
  let s := bump s 0x0706 w.unit noTensor n
  match d.mode with
  | 0 => bump (writeGlobal (noteStored s d (ckptCodes rd d 0 d.count)) w d.base (rd d.src n)) 0x0707 w.unit noTensor n
  | 1 => (List.range d.segments).foldl (storeSegment rd w d) s
  | _ => storeNarrowed rd w d s

/-! ### Load (R182, R183) -/

/-- Segment `i` decoded: its codes, or the bits its table entry names and those the codes used. -/
def loadSegment (rd : Reader) (d : CkptDesc) (i : Nat) : Except (Nat × Nat) (List Nat) :=
  let want := d.segCodes i
  let len := leNat (rd (d.base + 4 * i) 4)
  let slot := if d.k16 then 16448 else 8256
  let b := (bytesToBits (rd (d.slotAddr i) (min slot (ceilDiv len 8)))).take len
  let (cs, left) := takeSegment d.k16 256 want b
  if cs.length = want ∧ left.isEmpty ∧ b.length = len then .ok cs else .error (len, b.length - left.length)

/-- The segments of a lossless checkpoint as a reader that checks them sees them: a failure names the segment (R182). -/
def CkptDesc.whole (d : CkptDesc) : BlockDesc := { d.narrowed with data := d.slotAddr 0 }

/-- The first segment that fails its checks. -/
def segmentFault (d : CkptDesc) (rd : Reader) : Option (BlockDesc × Skew) :=
  (List.range d.segments).findSome? fun i => match loadSegment rd d i with
    | .error (want, got) => some (d.whole, { b := i, cause := 0xB, expected := want, received := got })
    | .ok _ => none

/-- Prefetched bytes that stay when segment `i` fails: its slot and table entry and all after them go (R82). -/
def dropSegments (d : CkptDesc) (i : Nat) (stale : List (Nat × Byte)) : List (Nat × Byte) :=
  let gone (a lo hi : Nat) : Bool := decide (lo ≤ a) && decide (a < hi)
  stale.filter fun x => !(gone x.1 (d.slotAddr i) (d.slotAddr d.segments) || gone x.1 (d.base + 4 * i) (d.slotAddr 0))

def loadSegments (w : Who) (d : CkptDesc) (rd : Reader) (s : State) : State :=
  let k := ckptBytes d.k16
  (List.range d.segments).foldl (fun s i => match loadSegment rd d i with
    | .ok cs => writeGlobal s w (d.src + 8192 * i * k) (cs.flatMap fun c => leBytes k c)
    | .error _ => s) s

/-- Bytes of a narrowed checkpoint's regions (R180). -/
def CkptDesc.narrowedBytes (d : CkptDesc) : Nat := d.narrowed.side + 7168 * d.segments - d.base

/-- A failed check of a narrowed checkpoint's blocks. -/
def narrowedFault (s : State) (unit : Nat) (d : CkptDesc) (rd : Reader) : Option (BlockDesc × Skew) :=
  (checkBlocks rd d.narrowed (readBefore s unit d.narrowed) (List.range d.narrowed.n)).map fun e => (d.narrowed, e)

/-- A checkpoint comes back to its source base: the codes, or the block tensor of a narrowed one, its regions in their order,
which the recompute's readers expand exactly (R178, R183; log 37). -/
def loadRun (w : Who) (d : CkptDesc) (stale : List (Nat × Byte)) (tried : List (Nat × Nat)) (s : State) : State :=
  match d.mode with
  | 0 => writeGlobal s w d.src (peek s w.unit d.base (d.count * ckptBytes d.k16))
  | 1 => checked s w stale tried (segmentFault d) (loadSegments w d) (fun _ _ i stale => dropSegments d i stale)
      { stale := stale }
  | _ => checked s w stale tried (narrowedFault s w.unit d) (fun rd s => writeGlobal s w d.src (rd d.base d.narrowedBytes))
      (input := { stale := stale })

/-! ### The instructions -/

def ckptSources (rd : Reader) (load : Bool) (d : CkptDesc) : List (Nat × Nat) :=
  if !load then [(d.src, d.count * ckptBytes d.k16)]
  else match d.mode with
    | 0 => [(d.base, d.count * ckptBytes d.k16)]
    | 1 => (d.base, 4 * d.segments) :: (List.range d.segments).map fun i =>
        (d.slotAddr i, min (if d.k16 then 16448 else 8256) (ceilDiv (leNat (rd (d.base + 4 * i) 4)) 8))
    | _ => blockParts rd d.narrowed (List.range d.narrowed.n)

/-- The work of a CKPT instance; `stale` and `tried` are its reader's, on a load (R82, R182). -/
def ckptWork (w : Who) (load : Bool) (d : CkptDesc) (stale : List (Nat × Byte)) (tried : List (Nat × Nat)) (s : State) :
    State :=
  let rs := ckptSources (peek s w.unit) load d
  withSources s w rs (fun s => if load then loadRun w d stale tried s else storeRun w d s) { stale := stale }

def ckptDescOf (s : State) (p : PInstr) : CkptDesc := parseCkpt ((s.program.map fun g => descOf g p.desc).getD [])

def execCkptStore (unit : Nat) (s : State) : Host.Outcome State Fault Refusal :=
  issue s unit (fun _ p => p.cls == 6 && !bitAt p.operand 0) fun s w p => ckptWork w false (ckptDescOf s p) [] [] s

def execCkptLoad (unit : Nat) (s : State) (stale : List (Nat × Byte) := []) : Host.Outcome State Fault Refusal :=
  issue s unit (fun _ p => p.cls == 6 && bitAt p.operand 0) fun s w p => ckptWork w true (ckptDescOf s p) stale [] s

end Sys2Proof.Machine
end

