-- ==== Sys2Proof/Machine/Ingest.lean ====
section
/-! DEFINITION. Video ingest (R336 to R355): the shuffle, the catalogue, fetches, the patch former, sample records and
failures, and the queues of the decode engines. What the decoding process of a standard outputs is open (log 10). -/

namespace Sys2Proof.Machine

open Sys2Proof

/-! ### Shuffle (R342, R343) -/

/-- The six Feistel rounds on 2h bits. -/
def feistel (h : Nat) (key : Word64) (e : Nat) : Nat → Nat × Nat → Nat × Nat
  | 0, lr => lr
  | n + 1, (l, r) =>
    let k := 5 - n
    let f := (mix (mix key (BitVec.ofNat 64 (e * 256 + k))) (BitVec.ofNat 64 r)).toNat % 2 ^ h
    feistel h key e n (r, l ^^^ f)

def permuteOnce (h : Nat) (key : Word64) (e x : Nat) : Nat :=
  let (l, r) := feistel h key e 6 (x / 2 ^ h, x % 2 ^ h)
  l * 2 ^ h + r

/-- Cycle walking: `n` bounds the repeats. -/
def walk (h : Nat) (key : Word64) (e cat : Nat) : Nat → Nat → Nat
  | 0, x => x
  | n + 1, x =>
    let y := permuteOnce h key e x
    if y < cat then y else walk h key e cat n y

/-- permute of R343: a cycle of the permutation of 2h bits has at most 2^(2h) members. -/
def permute (i cat : Nat) (key : Word64) (e : Nat) : Nat :=
  let h := max 1 ((bitLen (cat - 1) + 1) / 2)
  walk h key e cat (2 ^ (2 * h)) i

/-- Members D and the member index m of an ingest replica set. -/
def replicaOf (p : Program) (set : Nat) : Nat × Nat :=
  ((replicaSet p set).map fun r => (r.members, r.index)).getD (1, 0)

/-- Global position q, epoch e and catalogue index c of sample b in a step (R342). -/
def sampleIndex (p : Program) (d : IngestDesc) (step b : Nat) : Nat × Nat × Nat :=
  let (members, m) := replicaOf p d.replica
  let q := ((step * members + m) * d.b + b) % 2 ^ 64
  let e := q / d.entries % 2 ^ 32
  (q, e, permute (q % d.entries) d.entries d.key e)

/-! ### Catalogue entries (R339, R348) -/

structure CatEntry where
  addr : Nat
  len : Nat
  codec : Nat
  skip : Nat
  stride : Nat
  cropX : Nat
  cropY : Nat
  reservedZero : Bool
  deriving DecidableEq, Repr

def parseCat (b : List Byte) : CatEntry :=
  { addr := field b 0 8, len := field b 8 4, codec := field b 12 1, skip := field b 13 1, stride := field b 14 1,
    cropX := field b 16 2, cropY := field b 18 2, reservedZero := zeros b 15 1 && zeros b 20 12 }

/-- Cause 0x1: the entry itself. -/
def entryBad (e : CatEntry) : Bool :=
  decide (1 < e.codec) || !e.reservedZero || !(spaceOf e.addr == 1 || spaceOf e.addr == 2) ||
    decide (2 ^ 44 < offsetOf e.addr + e.len)

/-- Whether a header names nothing outside the limits of R336. -/
def headerSupported (codec : Nat) (h : Config.StreamHeader) : Bool :=
  (h.profile == .main || (codec == 1 && (h.profile == .main10 || h.profile == .mainStill))) &&
    decide (h.level ≤ 51) && (codec == 0 || !h.highTier) && (h.depth == 8 || h.depth == 10) &&
    (h.chroma == .c420 || (h.chroma == .mono && (codec == 0 || h.monoAllowed))) &&
    decide (h.width ≤ 4096) && decide (h.height ≤ 4096) && decide (h.width * h.height ≤ 8_912_896)

/-- No header outside the limits; a stream without one fails by a later cause (R336, R348). -/
def streamSupported (codec : Nat) (bits : List Byte) : Bool := (Config.streamHeaders codec bits).all (headerSupported codec)

/-- Luma size, bit depth and whether the picture is monochrome, as the stream's first header names them. -/
def pictureFormat (codec : Nat) (bits : List Byte) : Nat × Nat × Nat × Bool :=
  let h := (Config.streamHeaders codec bits).headD default
  (h.width, h.height, h.depth, h.chroma == .mono)

/-! ### Random-access points (R337): the codings are the standards' (PRESUMED, log 112) -/

/-- A leb128 number: its value and the bytes after it. -/
def leb128 : Nat → List Byte → Nat × List Byte
  | 0, bs => (0, bs)
  | _, [] => (0, [])
  | n + 1, b :: bs =>
    let v := b.toNat % 128
    if b.toNat < 128 then (v, bs)
    else
      let (w, bs) := leb128 n bs
      (v + 128 * w, bs)

/-- The OBUs of a low-overhead stream: type and payload; the first number bounds them. -/
def obus : Nat → List Byte → List (Nat × List Byte)
  | 0, _ => []
  | _, [] => []
  | n + 1, b :: bs =>
    let typ := bitsOf b.toNat 3 4
    let bs := if bitAt b.toNat 2 then bs.drop 1 else bs
    if bitAt b.toNat 1 then
      let (len, bs) := leb128 8 bs
      (typ, bs.take len) :: obus n (bs.drop len)
    else [(typ, bs)]

/-- AV1: the first temporal unit holds a sequence header and a shown key frame. -/
def av1Start (bits : List Byte) : Bool :=
  match obus bits.length bits with
  | (2, _) :: rest =>
    let unit := rest.takeWhile (·.1 != 2)
    let reduced := unit.any fun o => o.1 == 1 && bitAt (field o.2 0 1) 3
    unit.any (·.1 == 1) && unit.any fun o => (o.1 == 3 || o.1 == 6) && (reduced || bitsOf (field o.2 0 1) 4 4 == 1)
  | _ => false

/-- Types of the NAL units of an Annex B byte stream. -/
def nalTypes : List Byte → List Nat
  | [] => []
  | a :: rest =>
    if a == 0 && rest.take 2 == [0, 1] && decide (2 < rest.length) then bitsOf (field rest 2 1) 1 6 :: nalTypes rest
    else nalTypes rest

/-- HEVC: the first coded slice is one of an IRAP picture. -/
def hevcStart (bits : List Byte) : Bool :=
  match (nalTypes bits).find? fun t => decide (t < 32) with
  | some t => decide (16 ≤ t) && decide (t ≤ 23)
  | none => false

/-- Whether a bitstream begins at a random-access point. -/
def randomAccessStart (codec : Nat) (bits : List Byte) : Bool := if codec = 0 then av1Start bits else hevcStart bits

/-- The failure cause of a sample, 0 when it is valid, the checks in the order of R348. -/
def sampleCause (d : IngestDesc) (e : CatEntry) (bits : List Byte) : Nat :=
  let (w, h, _, _) := pictureFormat e.codec bits
  if entryBad e then 1
  else if !streamSupported e.codec bits then 2
  else if !randomAccessStart e.codec bits then 3
  else if w < e.cropX + d.fx * d.wo ∨ h < e.cropY + d.fy * d.ho then 4
  else if Config.decodedFrames e.codec bits < e.skip + e.stride * (d.frames - 1) + 1 then 5
  else if !Config.streamLegal e.codec bits then 6
  else 0

/-! ### The patch former (R345 to R347) -/

/-- Coefficient m[c][k] and offset b[c] of a colour descriptor (R346). -/
def colourM (col : List Byte) (c k : Nat) : Val := decode .b32 (field col (4 * (3 * c + k)) 4)
def colourB (col : List Byte) (c : Nat) : Val := decode .b32 (field col (36 + 4 * c) 4)

/-- Exact mean of a plane over the box of an output pixel: 0 luma, 1 and 2 chroma. Samples are integers of the bit depth. -/
def boxMean (d : IngestDesc) (e : CatEntry) (bits : List Byte) (plane frame ox oy : Nat) : Val :=
  let (_, _, depth, mono) := pictureFormat e.codec bits
  let sample (x y : Nat) : Nat :=
    if plane = 0 then Config.decodedSample e.codec bits 0 frame x y % 2 ^ depth
    else if mono then 2 ^ (depth - 1)
    else Config.decodedSample e.codec bits plane frame (x / 2) (y / 2) % 2 ^ depth
  let total := ((List.range d.fy).flatMap fun j => (List.range d.fx).map fun i =>
    sample (e.cropX + d.fx * ox + i) (e.cropY + d.fy * oy + j)).sum
  .fin false total (-((bitsOf d.shape 0 2 + bitsOf d.shape 2 2 : Nat) : Int))

/-- Element (t, p, e) of a patch tensor. -/
def patchElem (d : IngestDesc) (col : List Byte) (e : CatEntry) (bits : List Byte) (t p el : Nat) : Conv :=
  let c := el % d.channels
  let px := el / d.channels % d.pw
  let py := el / d.channels / d.pw
  let cols := d.wo / d.pw
  let ox := p % cols * d.pw + px
  let oy := p / cols * d.ph + py
  let frame := e.skip + e.stride * t
  let mean (k : Nat) : Val := boxMean d e bits k frame ox oy
  convertFull d.fmt .nearestEven 0 0 ((((colourM col c 0).mul (mean 0)).add ((colourM col c 1).mul (mean 1))).add
    ((colourM col c 2).mul (mean 2)) |>.add (colourB col c))

def patches (d : IngestDesc) : Nat := d.wo / d.pw * (d.ho / d.ph)
def patchElems (d : IngestDesc) : Nat := d.ph * d.pw * d.channels

/-- Elements of a sample's tensor as (t, p, e), in order. -/
def sampleElems (d : IngestDesc) : List (Nat × Nat × Nat) :=
  (List.range d.frames).flatMap fun t => (List.range (patches d)).flatMap fun p =>
    (List.range (patchElems d)).map fun el => (t, p, el)

/-- Bytes of a sample's tensor; all +0 when it failed. -/
def sampleTensor (d : IngestDesc) (col : List Byte) (e : CatEntry) (bits : List Byte) (ok : Bool) : List Byte :=
  (sampleElems d).flatMap fun x =>
    leBytes (fmtBytes d.fmt) (if ok then (patchElem d col e bits x.1 x.2.1 x.2.2).code else 0)

/-- Conversions of a valid sample that saturate (R62). -/
def sampleSaturations (d : IngestDesc) (col : List Byte) (e : CatEntry) (bits : List Byte) : Nat :=
  ((sampleElems d).filter fun x => saturates d.fmt && (patchElem d col e bits x.1 x.2.1 x.2.2).saturated).length

/-- The 64-byte sample record. -/
def sampleRecord (cause codec epoch index q frames : Nat) : List Byte :=
  leBytes 1 cause ++ leBytes 1 codec ++ leBytes 2 0 ++ leBytes 4 epoch ++ leBytes 8 index ++ leBytes 8 q ++
    leBytes 4 frames ++ List.replicate 36 0

/-! ### Queues (R350, R352) -/

def ingestDescs (p : Program) : List (Nat × IngestDesc) := (slotsOf p .ingest).map fun x => (x.1, parseIngest x.2)

def runAheadOf (s : State) : Nat := (s.program.map (·.hdr.runAhead)).getD 1

/-- Whether a sample is queued, decoding or complete. -/
def sampleKnown (s : State) (x : Sample) : Bool :=
  s.ingest.queues.toList.any (·.contains x) || s.ingest.engines.toList.contains (some x) || s.ingest.complete.contains x

/-- A queue in ascending step and then ascending b. -/
def queueInsert (x : Sample) : List Sample → List Sample
  | [] => [x]
  | y :: ys => if x.step.toNat < y.step.toNat ∨ (x.step = y.step ∧ x.b < y.b) then x :: y :: ys else y :: queueInsert x ys

def queueSample (s : State) (igd : Nat) (x : Sample) : State :=
  if sampleKnown s x then s
  else { s with ingest := { s.ingest with queues := setAt s.ingest.queues igd (queueInsert x (getAt s.ingest.queues igd [])) } }

/-- The samples of one step of one descriptor. -/
def queueStep (s : State) (slot : Nat) (d : IngestDesc) (step : Word64) : State :=
  (rangeFrom d.b0 d.bs).foldl (fun s b => queueSample s d.igd { slot := slot, step := step, b := b }) s

/-- An accepted Start or Resume at step n queues the missing samples of steps n to n + R (R352). -/
def queueMissing (s : State) : State :=
  match s.program with
  | none => s
  | some p => (ingestDescs p).foldl (fun s x => (List.range (runAheadOf s + 1)).foldl (fun s i =>
      queueStep s x.1 x.2 (s.step + BitVec.ofNat 64 i)) s) s

/-- Step n + 1 begins: the slots of step n are released (R351). -/
def releaseSlots (s : State) : State :=
  { s with ingest := { s.ingest with complete := s.ingest.complete.filter fun x => decide (s.step.toNat ≤ x.step.toNat) } }

/-- An INGEST instruction queues the samples of step n + R and is complete (R350). -/
def ingestWork (s : State) (w : Who) (p : PInstr) : State :=
  let d := parseIngest ((s.program.map fun g => descOf g p.desc).getD [])
  finishNow (queueStep s p.desc d (s.step + BitVec.ofNat 64 (runAheadOf s))) w

/-! ### Fetching (R339, R340) -/

/-- Whether an engine has a fetch outstanding. -/
def fetchPending (s : State) (igd e : Nat) : Bool :=
  (s.fabric.txns.any fun t => t.owner == .igd igd e) || (s.fabric.bulks.any fun b => b.owner == .igd igd e)

/-- Address of a sample's catalogue entry. -/
def entryAddr (p : Program) (d : IngestDesc) (x : Sample) : Nat := d.catalogue + 32 * (sampleIndex p d x.step.toNat x.b).2.2

/-- The descriptor of a sample of the loaded program. -/
def sampleDesc (s : State) (x : Sample) : Option (Program × IngestDesc) :=
  s.program.map fun p => (p, parseIngest (descOf p x.slot))

/-- The bytes of a range, of this module or as fetched by an engine; none while they are not here. -/
def fetched (s : State) (igd e addr n : Nat) : Option (List Byte) :=
  match readGlobal s (engineKey igd e) addr n with
  | .bytes b => some b
  | _ => none

/-- The fetch of one range begins, unless its bytes are here or on their way. -/
def fetchRange (s : State) (igd e addr n : Nat) (bulk : Bool) : State :=
  match readGlobal s (engineKey igd e) addr n with
  | .bytes _ => s
  | .fail st => fetchFailed s igd e st addr
  | .wait =>
    if isLocal s (nodeOf addr) ∨ fetchPending s igd e then s
    else if bulk then startBulkIn s (nodeOf addr) addr addr n (.igd igd e)
    else
      let (st, s) := request s 0x01 (BitVec.ofNat 64 addr) n [] (.igd igd e)
      if st = 0 then s else fetchFailed s igd e st addr

/-- What an engine still lacks is fetched: the catalogue entry, then the bitstream. -/
def continueFetch (s : State) (igd e : Nat) : State :=
  match getAt s.ingest.engines (16 * igd + e) none with
  | none => s
  | some x => match sampleDesc s x with
    | none => s
    | some (p, d) =>
      if s.ingest.fetching.contains (16 * igd + e) then s
      else
        let a := entryAddr p d x
        match fetched s igd e a 32 with
        | none => fetchRange s igd e a 32 false
        | some b =>
          let c := parseCat b
          if entryBad c then s else fetchRange s igd e c.addr c.len true

/-- A read response; an engine that waited for its catalogue entry goes on to the bitstream (R298, R339). -/
def execReadResponse (x : Rx) (s : State) : Host.Outcome State Fault Refusal :=
  .next (arrive s x 0x02 fun s f =>
    let own : Option Owner := (s.fabric.txns.find? fun t => t.tid == f.tid && t.typ == 1).map (·.owner)
    let s := takeResponse s x.port f
    match own with
    | some (.igd i e) => continueFetch s i e
    | _ => s)

/-- Whether a decode engine is in service (R436). -/
def engineServes (s : State) (igd e : Nat) : Bool := (findUnit s { kind := 0xC, die := 9 + igd, index := e }).any (·.cond == .inService)

/-- The lowest-numbered free engine of an IGD takes the next queued sample (R350); no sample starts while the program does
not run (R352). -/
def execSampleDecodeStart (igd : Fin 2) (s : State) : Host.Outcome State Fault Refusal :=
  let free := (List.range 16).find? fun e =>
    engineServes s igd.val e && (getAt s.ingest.engines (16 * igd.val + e) none).isNone
  match free, s.ingest.queues[igd] with
  | some e, x :: rest =>
    if s.pstate ≠ .running then .next s
    else
      let s := { s with ingest := { s.ingest with
        queues := s.ingest.queues.set igd rest
        engines := setAt s.ingest.engines (16 * igd.val + e) (some x) } }
      .next (continueFetch s igd.val e)
  | _, _ => .next s

/-- 100 µs after a failed fetch the IGD repeats it (R340). -/
def execBitstreamFetchRetry (igd : Fin 2) (engine : Fin 16) (s : State) : Host.Outcome State Fault Refusal :=
  let k := 16 * igd.val + engine.val
  if s.ingest.fetching.contains k then
    let s := { s with ingest := { s.ingest with fetching := s.ingest.fetching.filter (· != k) } }
    .next (continueFetch (bump s 0x0D06 igd.val noTensor 1) igd.val engine.val)
  else .next s

/-! ### Completion (R347, R348, R351) -/

/-- Whether a read of a view, issued in its step, still waits; a command tries its own again. -/
def stillWaits (s : State) (r : ViewRead) : Bool :=
  match r.by_ with
  | .frame f => match requestPlace s f f.len.toNat with
    | some (space, off) => readLocalAt s r.step space off f.len.toNat == .wait
    | none => false
  | .window _ addr n => readLocalAt s r.step (spaceOf addr) (offsetOf addr) n == .wait
  | .command .. => true

/-- Reads of views that waited and can be answered now (R351). -/
def serveWaiting (s : State) : State :=
  let go := s.fabric.waiting.filter fun r => !stillWaits s r
  let s := { s with fabric := { s.fabric with waiting := s.fabric.waiting.filter (stillWaits s) } }
  go.foldl (fun s r => match r.by_ with
    | .frame f => if f.typ = 0x09 then serveBulkRead s r.step f else serveRead s r.step f 8192 []
    | .window win addr n => windowRead s r.step win addr n
    | .command .. => s) s

/-- A sample's tensor and record are written, its counts kept and its engine freed. Its tensor has no number, so saturated
conversions count under 0xFFFF_FFFF (DESIGN CHOICE, log 99). -/
def finishSample (s : State) (igd e : Nat) (p : Program) (d : IngestDesc) (x : Sample) (entry bits : List Byte) : State :=
  let c := parseCat entry
  let s := chargeAt (chargeAt s (entryAddr p d x) 32) c.addr bits.length
  let (q, epoch, index) := sampleIndex p d x.step.toNat x.b
  let cause := sampleCause d c bits
  let frames := Config.framesDecoded c.codec bits
  let raw := descOf p x.slot
  let base := sampleBase s raw x.step.toNat x.b
  let tensor := sampleTensor d (descOf p d.colour) c bits (cause == 0)
  let record := sampleRecord cause c.codec epoch index q frames
  let mem := writeBytes (writeBytes s.mem.buffers base tensor) (base + roundUp 64 tensor.length) record
  let s := { s with
    mem := { s.mem with buffers := mem }
    ingest := { s.ingest with
      engines := setAt s.ingest.engines (16 * igd + e) none
      complete := s.ingest.complete ++ [x] } }
  let s := dropArrivals s (engineKey igd e)
  let s := if cause = 0 then bump s 0x0201 noInst noTensor (sampleSaturations d (descOf p d.colour) c bits) else s
  let s := bump s 0x0D02 igd noTensor frames
  let s := bump s 0x0D04 igd noTensor bits.length
  let s := if cause = 0 then bump s 0x0D01 igd noTensor 1
    else post (bump s 0x0D03 (igd + 256 * cause) noTensor 1) 0x0D01
      (packed [(1, d.view), (4, x.step.toNat), (8, x.b), (8, index), (1, cause)])
  serveWaiting s

/-- A local fetch that failed is repeated later; one under way is waited for (R340). -/
def missedFetch (s : State) (igd e addr n : Nat) : State :=
  match readGlobal s (engineKey igd e) addr n with
  | .fail st => fetchFailed s igd e st addr
  | _ => s

/-- A decode finishes once its entry and bitstream have been fetched. `busy` is the cycles its engine took (R355). -/
def execSampleComplete (igd : Fin 2) (engine : Fin 16) (s : State) (busy : Nat := 0) : Host.Outcome State Fault Refusal :=
  let i := igd.val
  let e := engine.val
  match getAt s.ingest.engines (16 * i + e) none with
  | none => .next s
  | some x => match sampleDesc s x with
    | none => .next s
    | some (p, d) =>
      if s.ingest.fetching.contains (16 * i + e) then .next s
      else match fetched s i e (entryAddr p d x) 32 with
        | none => .next (missedFetch s i e (entryAddr p d x) 32)
        | some b =>
          let c := parseCat b
          if entryBad c then .next (finishSample (bump s 0x0D05 i noTensor busy) i e p d x b [])
          else match fetched s i e c.addr c.len with
            | none => .next (missedFetch s i e c.addr c.len)
            | some bits => .next (finishSample (bump s 0x0D05 i noTensor busy) i e p d x b bits)

/-! ### Catalogue digests (R344) -/

/-- The catalogue of a descriptor as START or RESUME reads it. -/
def catalogueBytes (s : State) (slot : Nat) (d : IngestDesc) (remote : List (Nat × List Byte)) : List Byte :=
  let n := 32 * d.entries
  if isLocal s (nodeOf d.catalogue) then
    match readLocal s (spaceOf d.catalogue) (offsetOf d.catalogue) n with
    | .bytes b => b
    | _ => []
  else padTo n (((remote.find? (·.1 == slot)).map (·.2)).getD [])

/-- The catalogues of this module are read (R326, R327). -/
def chargeCatalogues (s : State) : State :=
  match s.program with
  | none => s
  | some p => (ingestDescs p).foldl (fun s x => chargeAt s x.2.catalogue (32 * x.2.entries)) s

/-- The first descriptor whose catalogue digest does not match: its view, the expected and the computed first 64 bits. -/
def catalogueMismatch (s : State) (remote : List (Nat × List Byte)) : Option (Nat × Nat × Nat) :=
  match s.program with
  | none => none
  | some p => (ingestDescs p).findSome? fun x =>
      let got := leNat ((sm3 (catalogueBytes s x.1 x.2 remote)).take 8)
      if got = x.2.digest then none else some (x.2.view, x.2.digest, got)

end Sys2Proof.Machine
end

