-- ==== Sys2Proof/Machine/LoadParse.lean ====
section
/-! DEFINITION. The program object as bytes (R189, R207, R208, R479): its header, section table and sections, and checks 1
to 4 of R209. -/

namespace Sys2Proof.Machine

open Sys2Proof

/-! ### Parsing (R194, R200, R207, R208, R479) -/

structure SectionEntry where
  typ : Nat
  unit : Nat
  reserved : Bool                          -- the reserved fields are 0
  offset : Nat
  length : Nat
  deriving DecidableEq, Repr

def parseSection (b : List Byte) : SectionEntry :=
  { typ := field b 0 2, unit := field b 2 2, reserved := zeros b 4 4 && zeros b 24 8, offset := field b 8 8,
    length := field b 16 8 }

def parseHeader (b : List Byte) : Header :=
  { magic := field b 0 4, patch := field b 4 1, minor := field b 5 1, major := field b 6 1,
    seed := BitVec.ofNat 64 (field b 8 8), digest := sub b 16 32, period := field b 48 2, working := field b 50 2,
    stoppage := field b 52 1, holdLimit := field b 53 1, holdMargin := field b 54 2, huddleBeat := field b 56 2,
    runAhead := field b 58 1, ftTiles := field b 60 1, btTiles := field b 61 1, gradeReserved := field b 62 2,
    sectionOffset := field b 64 8, sectionCount := field b 72 2,
    reserved := field b 7 1 + field b 59 1 + leNat (sub b 74 54) }

def sectionsOf (obj : List Byte) (h : Header) : List SectionEntry :=
  (List.range h.sectionCount).map fun i => parseSection (sub obj (h.sectionOffset + 32 * i) 32)

def sectionBytes (obj : List Byte) (e : SectionEntry) : List Byte := sub obj e.offset e.length

def parseLayout (b : List Byte) : Layout :=
  { tensor := field b 0 4, rank := field b 4 1, axis := field b 5 1, flags := field b 6 1,
    reserved := field b 7 1 + leNat (sub b 38 26), sizes := (List.range 6).map fun i => field b (8 + 4 * i) 4,
    order := (List.range 6).map fun i => field b (32 + i) 1 }

def parseReplica (b : List Byte) : Replica :=
  { set := field b 0 1, members := field b 2 2, index := field b 4 2, reserved := field b 1 1 + field b 6 2,
    list := field b 8 8 }

def parseTok (b : List Byte) : TokDecl := { mode := field b 0 1, reserved := field b 1 1, init := field b 2 2 }

/-- Counts of the three streams of a stage program section. -/
def streamCounts (b : List Byte) : Nat × Nat × Nat := (field b 0 4, field b 4 4, field b 8 4)

def parseStage (unit : Nat) (b : List Byte) : Stage :=
  let (f, n, u) := streamCounts b
  let body (lo k : Nat) : List PInstr := (chunks 16 k (b.drop (1040 + 16 * lo))).map parseInstr
  { unit := unit, tokens := (chunks 4 256 (b.drop 16)).map parseTok, f := body 0 f, b := body f n, u := body (f + n) u }

def firstOf (es : List SectionEntry) (t : Nat) (obj : List Byte) : List Byte :=
  ((es.find? (·.typ == t)).map (sectionBytes obj)).getD []

/-- The program of an object that passes check 1; the kinds come from the instructions and the hints of the command
(log 11). -/
def parseProgram (obj : List Byte) (hints : LoadHints) : Program :=
  let h := parseHeader obj
  let es := sectionsOf obj h
  let descs := firstOf es 1 obj
  let lays := firstOf es 2 obj
  let peers := firstOf es 3 obj
  let reps := firstOf es 4 obj
  { hdr := h, descs := chunks 64 (descs.length / 64) descs, kinds := hints.kinds
    layouts := (chunks 64 (lays.length / 64) lays).map parseLayout
    peers := (chunks 2 (peers.length / 2) peers).map leNat
    replicas := (chunks 16 (reps.length / 16) reps).map parseReplica
    stages := (es.filter (·.typ == 5)).map fun e => parseStage e.unit (sectionBytes obj e)
    persistent := hints.persistent, ves := hints.ve, keep := hints.keep, recompute := hints.recompute }

/-! ### Check 1 (R479) -/

/-- Whether a section's length has the form of its type. -/
def sectionForm (obj : List Byte) (e : SectionEntry) : Bool :=
  let b := sectionBytes obj e
  match e.typ with
  | 1 => e.length % 64 == 0
  | 2 => e.length % 64 == 0
  | 3 => e.length % 2 == 0 && decide (e.length ≤ 8192)
  | 4 => e.length % 16 == 0 && decide (e.length ≤ 4096)
  | 5 =>
    let (f, n, u) := streamCounts b
    decide (1040 ≤ e.length) && zeros b 12 4 && e.length == 1040 + 16 * (f + n + u)
  | _ => false

/-- Ascending type, and ascending unit number among stage programs. -/
def sectionOrder : List SectionEntry → Bool
  | a :: b :: rest =>
    (if a.typ = b.typ then a.typ == 5 && decide (a.unit < b.unit) else decide (a.typ < b.typ)) && sectionOrder (b :: rest)
  | _ => true

def apart (a b : SectionEntry) : Bool :=
  a.length == 0 || b.length == 0 || decide (a.offset + a.length ≤ b.offset) || decide (b.offset + b.length ≤ a.offset)

/-- No two of a list, at different places, meet a relation. -/
def pairwiseAll {α : Type} (r : α → α → Bool) : List α → Bool
  | [] => true
  | x :: xs => xs.all (r x) && pairwiseAll r xs

def sectionsOk (obj : List Byte) : Bool :=
  let h := parseHeader obj
  let es := sectionsOf obj h
  h.magic == 0x4752_504B && decide (128 ≤ obj.length) && h.sectionOffset % 8 == 0 &&
    decide (h.sectionOffset + 32 * h.sectionCount ≤ obj.length) &&
    es.all (fun e => decide (1 ≤ e.typ) && decide (e.typ ≤ 5) && e.reserved && (e.typ == 5 || e.unit == 0) &&
      e.offset % 64 == 0 && decide (e.offset + e.length ≤ obj.length) && sectionForm obj e) &&
    pairwiseAll apart es && sectionOrder es && [1, 2, 3, 4].all (fun t => (es.filter (·.typ == t)).length == 1)

/-! ### Checks 2 to 4 (R207, R209, R437) -/

/-- Toolchain 2.5 or later. -/
def toolchainOk (h : Header) : Bool := decide (2 < h.major) || (h.major == 2 && decide (5 ≤ h.minor))

/-- Every header field in the range of R207, its reserved bytes 0; the hold margin is at most half the beat period. That the
header's reserved bytes are tested here, and not among the sections of check 1, is a DESIGN CHOICE (log 42). -/
def headerRange (h : Header) : Bool :=
  let ns := (h.period + 1) * 4000
  h.reserved == 0 && decide (h.period < 4096) && decide (1 ≤ h.working) && decide (h.working ≤ 65533) &&
    decide (2 ≤ h.stoppage) && decide (h.working + h.stoppage ≤ 65535) && decide (1 ≤ h.holdLimit) &&
    decide (500 ≤ h.holdMargin) && decide (2 * h.holdMargin ≤ ns) && decide (h.huddleBeat < h.working) &&
    decide (1 ≤ h.runAhead) && decide (h.runAhead ≤ 4) && h.gradeReserved == 0 && decide (1 ≤ h.sectionCount) &&
    decide (h.sectionCount ≤ 1024)

/-- The grade tiles do not exceed what the module provides. -/
def gradeOk (s : State) (h : Header) : Bool :=
  decide (h.ftTiles ≤ providedTiles s .ft) && decide (h.btTiles ≤ providedTiles s .bt)

end Sys2Proof.Machine
end

