-- ==== Sys2Proof/Machine/Elem.lean ====
section
/-! DEFINITION. exp32 and ln32 of R165: the binary32 value nearest-even to the exact result, found from an enclosure of
it by two fixed-point numbers. The enclosure is narrowed until both ends round alike; e^z and ln z of a binary32 argument
are irrational but at z = 0 and z = 1, which are exact, so a narrow enough enclosure decides. -/

namespace Sys2Proof.Machine

/-- Lower and upper sums of Σ x^i / i! for 0 ≤ x < 1 held in [lo, hi] × 2^−P, `n` further terms. -/
def expTerms (P : Nat) (lo hi : Nat) : Nat → Nat → Nat → Nat → Nat → Nat → Nat × Nat
  | 0, _, _, tu, sl, su => (sl, su + 2 * tu + 2)
  | n + 1, i, tl, tu, sl, su =>
    let tl' := tl * lo / 2 ^ P / i
    let tu' := ceilDiv (ceilDiv (tu * hi) (2 ^ P)) i
    expTerms P lo hi n (i + 1) tl' tu' (sl + tl') (su + tu')

/-- `k` squarings of an enclosure. -/
def squareEncl (P : Nat) : Nat → Nat × Nat → Nat × Nat
  | 0, e => e
  | k + 1, (lo, hi) => squareEncl P k (lo * lo / 2 ^ P, ceilDiv (hi * hi) (2 ^ P))

/-- Enclosure × 2^−P of e^x for x = m × 2^e, 0 ≤ x < 2^8. -/
def expEncl (P m : Nat) (e : Int) : Nat × Nat :=
  let sh := (P : Int) - 16 + e
  let lo := if 0 ≤ sh then m * 2 ^ sh.toNat else m / 2 ^ (-sh).toNat
  let hi := if 0 ≤ sh then lo else lo + 1
  squareEncl P 16 (expTerms P lo hi 64 1 (2 ^ P) (2 ^ P) (2 ^ P) (2 ^ P))

/-- Nearest-even binary32 of both ends of an enclosure; some code when they agree. -/
def agree (neg : Bool) (lo hi : Nat) (x : Int) : Option Nat :=
  let a := near .b32 (.fin neg lo x)
  let b := near .b32 (.fin neg hi x)
  if a = b then some a else none

/-- exp32 at working precision `P`. -/
def expAt (P : Nat) (neg : Bool) (m : Nat) (e : Int) : Option Nat × Nat :=
  let (lo, hi) := expEncl P m e
  if neg then
    let lo' := 2 ^ (2 * P) / hi
    let hi' := ceilDiv (2 ^ (2 * P)) lo
    (agree false lo' hi' (-(P : Int)), near .b32 (.fin false lo' (-(P : Int))))
  else (agree false lo hi (-(P : Int)), near .b32 (.fin false lo (-(P : Int))))

/-- e^z as binary32 nearest-even (R165). -/
def exp32 (v : Val) : Val :=
  match v with
  | .nan => .nan
  | .inf n => if n then .fin false 0 0 else .inf false
  | .fin n m e =>
    if m = 0 then decode .b32 0x3F80_0000
    else if magLe 128 0 m e then (if n then .fin false 0 0 else .inf false)
    else
      match expAt 448 n m e with
      | (some c, _) => decode .b32 c
      | (none, _) =>
        match expAt 1024 n m e with
        | (some c, _) => decode .b32 c
        | (none, c) => decode .b32 c

/-- Lower and upper sums of Σ t^(2i+1) / (2i+1) for t in [lo, hi] × 2^−P, t ≤ 1/3, `n` terms from 2i + 1 = k. -/
def atanhTerms (P : Nat) (lo2 hi2 : Nat) : Nat → Nat → Nat → Nat → Nat → Nat → Nat × Nat
  | 0, _, _, pu, sl, su => (sl, su + 2 * pu + 2)
  | n + 1, k, pl, pu, sl, su =>
    atanhTerms P lo2 hi2 n (k + 2) (pl * lo2 / 2 ^ P) (ceilDiv (pu * hi2) (2 ^ P)) (sl + pl / k) (su + ceilDiv pu k)

/-- Enclosure × 2^−P of 2 atanh(a / b), a / b ≤ 1/3. -/
def twoAtanh (P a b : Nat) : Nat × Nat :=
  let lo := a * 2 ^ P / b
  let hi := ceilDiv (a * 2 ^ P) b
  let (sl, su) := atanhTerms P (lo * lo / 2 ^ P) (ceilDiv (hi * hi) (2 ^ P)) (P / 3 + 2) 1 lo hi 0 0
  (2 * sl, 2 * su)

/-- Enclosure × 2^−P of ln(m × 2^e) as two integers. -/
def lnEncl (P m : Nat) (e : Int) : Int × Int :=
  let t := m.log2
  let k : Int := Int.ofNat t + e
  let (l2, u2) := twoAtanh P 1 3
  let (lf, uf) := twoAtanh P (m - 2 ^ t) (m + 2 ^ t)
  let kl : Int := if 0 ≤ k then k * l2 else k * u2
  let ku : Int := if 0 ≤ k then k * u2 else k * l2
  (kl + lf, ku + uf)

/-- The rounding of both ends of a signed enclosure. -/
def agreeInt (lo hi : Int) (x : Int) : Option Nat :=
  let a := near .b32 (ofInt false lo x)
  let b := near .b32 (ofInt false hi x)
  if a = b then some a else none

/-- ln z as binary32 nearest-even (R165); ln 0 is −∞, of a negative value NaN. -/
def ln32 (v : Val) : Val :=
  match v with
  | .nan => .nan
  | .inf n => if n then .nan else .inf false
  | .fin n m e =>
    if m = 0 then .inf true
    else if n then .nan
    else if magLe m e 1 0 && magLe 1 0 m e then Val.zero
    else
      let (lo, hi) := lnEncl 384 m e
      match agreeInt lo hi (-384) with
      | some c => decode .b32 c
      | none =>
        let (lo, hi) := lnEncl 1024 m e
        match agreeInt lo hi (-1024) with
        | some c => decode .b32 c
        | none => decode .b32 (near .b32 (ofInt false lo (-1024)))

end Sys2Proof.Machine
end

