-- ==== Sys2Proof/Machine/Tile.lean ====
section
/-! DEFINITION. Forward and Backward Tiles: operand pairs (R90, R91), passes (R95, R112, R122), the output stage's
destinations (R128 to R130, R249, R250) and the fill gate (R107 to R110). -/

namespace Sys2Proof.Machine

open Sys2Proof

/-! ### Operand formats and configurations (R89 to R92) -/

/-- Element format of an operand. -/
inductive El where
  | k2 | k3 | k4 | k8f | k8b | k16 | b32
  deriving DecidableEq, Repr

def elOf : Operand → El
  | .block d _ => match d.bfmt with
    | .k4 => .k4 | .k3 => .k3 | .k2 => .k2 | .bk8f => .k8f | .bk8b => .k8b
  | .plain d _ => match fmtOf d.fmt with
    | .k8f => .k8f | .k8b => .k8b | .b32 => .b32 | _ => .k16

/-- Half cycles of one block of a pair (R90, R91); none for a pair the tile kind does not take. -/
def pairHalfCycles (ft : Bool) (a b : El) : Option Nat :=
  if ft then
    match a, b with
    | .k4, .k2 => some 1
    | .k4, .k3 | .k4, .k4 | .k8f, .k2 => some 2
    | .k4, .k8f | .k8f, .k3 | .k8f, .k4 => some 4
    | .k8f, .k8f => some 8
    | _, _ => none
  else
    match a, b with
    | .k8f, .k4 | .k8b, .k4 => some 4
    | .k16, .k4 => some 8
    | .k8f, .k8f | .k8f, .k8b | .k8b, .k8f | .k8b, .k8b => some 8
    | .k16, .k8f | .k16, .k8b | .k8f, .k16 | .k8b, .k16 | .k16, .k16 => some 32
    | _, _ => none

/-- Whether a pair runs in the P2 configuration, where alignment truncates (R91, R118). -/
def isP2 (a b : El) : Bool :=
  match a, b with
  | .k16, .k8f | .k16, .k8b | .k16, .k16 | .k8f, .k16 | .k8b, .k16 => true
  | _, _ => false

/-! ### Reading operands (R35, R43, R86, R103, R104) -/

/-- Value of an operand element as it enters a tile. -/
def readElem (rd : Reader) (o : Operand) (e : List Nat) : Val :=
  match o with
  | .block d l => let (b, i) := blockPlace l e; blockElem rd d b i
  | .plain d l =>
    let f := fmtOf d.fmt
    let code := leNat (rd (d.base + plainPlace l e * fmtBytes f) (fmtBytes f))
    if f = .k16 then flushK16 code else decode f code

/-- Whether an operand element is escaped (R94). -/
def escapedAt (rd : Reader) (o : Operand) (e : List Nat) : Bool :=
  match o with
  | .block d l =>
    let (b, i) := blockPlace l e
    (match readBlock rd d b with
      | .ok k => k.escapes.any (·.1 == i)
      | .error _ => false)
  | .plain .. => false

/-- Blocks an operand's rows (or columns) `is` take over K-blocks `ks`, in the order they are read. -/
def operandBlocks (o : Operand) (column : Bool) (mb : Nat) (is ks : List Nat) : List Nat :=
  match o with
  | .plain .. => []
  | .block _ l =>
    if column then
      (ks.flatMap fun kb => (rangeFrom (32 * kb) (min 32 (o.kSize column - 32 * kb))).flatMap fun k =>
        ((is.map (· / 32)).eraseDups).map fun g => (blockPlace l (o.at column mb (32 * g) k)).1)
    else ks.flatMap fun kb => is.map fun i => (blockPlace l (o.at column mb i (32 * kb))).1

/-- The operands of a product with its reader, as a pass uses them. -/
structure PassEnv where
  p : ProductDesc
  out : OutDesc
  a : Operand
  b : Operand
  lay : Layout                             -- layout of the output
  mb : Nat

def PassEnv.p2 (v : PassEnv) : Bool := isP2 (elOf v.a) (elOf v.b)

/-- Operand values of DPU (i, j) over K-block `kb` (R95, R478). -/
def dpuValues (rd : Reader) (v : PassEnv) (i j kb : Nat) : List (Val × Val) :=
  (rangeFrom (32 * kb) (min 32 (v.a.kSize v.p.aColumn - 32 * kb))).map fun k =>
    (readElem rd v.a (v.a.at v.p.aColumn v.mb i k), readElem rd v.b (v.b.at v.p.bColumn v.mb j k))

def kRange (v : PassEnv) : List Nat := rangeFrom v.p.firstK v.p.kBlocks

/-- The accumulator of output element (i, j): blocks in ascending K from the carry-in (R122). -/
def dpuAcc (rd : Reader) (v : PassEnv) (carry : Acc) (i j : Nat) : Acc :=
  accSum carry ((kRange v).map fun kb => blockSum v.p2 (dpuValues rd v i j kb))

def outCoords (v : PassEnv) (i j : Nat) : List Nat := matCoords v.lay v.mb i j

/-- Address of an output element's carry word under a base (R124, R130). -/
def carryAddr (v : PassEnv) (base i j : Nat) : Nat := base + 8 * plainPlace v.lay (outCoords v i j)

/-- The carry-in of an output element; none for a word that R124 faults. -/
def carryIn (rd : Reader) (v : PassEnv) (i j : Nat) : Option Acc :=
  if v.out.carryBase = 0 then some Acc.zero else carryParse (leNat (rd (carryAddr v v.out.carryBase i j) 8))

/-! ### Sticky flags of a VE's block conversions (R48) -/

def raiseFlags (s : State) (unit : Nat) (f : BitVec 5) : State := updSeq s unit fun q => { q with flags := q.flags ||| f }

/-- Flags of the conversion of a value into an element of a block of exponent field `s` (R48). -/
def elementFlags (f : BFmt) (s : Nat) (rnd : Rnd) (code : Nat) (v : Val) : BitVec 5 :=
  match v with
  | .fin n m e =>
    let got := if s = 0 then Val.zero else blockDecode f s code
    let inexact := !(got.eq v)
    let tinyAt := m ≠ 0 && tiny (blockPrec f) (blockQuantum f) rnd n m (e - ((s : Int) - 127))
    flagIf (s ≠ 0 && blockSaturates f s v) flagOverflow ||| flagIf (inexact && tinyAt) flagUnderflow |||
      flagIf inexact flagInexact
  | _ => 0

/-- Flags of a whole block's conversions: an escape's into K16, another element's into its code (R48; log 98). -/
def blockFlags (f : BFmt) (rnd : Rnd) (xs : List Src) (k : Encoded) : BitVec 5 :=
  (xs.zipIdx.map fun x =>
    if k.escapes.any (·.1 == x.2) then convFlags (convertFull .k16 rnd x.1.w x.1.r x.1.v)
    else elementFlags f k.s rnd (k.codes.getD x.2 0) x.1.v).foldl (· ||| ·) 0

/-! ### Destinations (R128 to R130, R249) -/

/-- The value of an output element before conversion, its source weight and its random cells. -/
def outSrc (s : State) (rd : Reader) (v : PassEnv) (rnd : Rnd) (a : Acc) (i j : Nat) : Src :=
  let ch := if v.out.rowChannel then i else j
  let vec (base : Nat) : Option Nat := if base = 0 then none else some (leNat (rd (base + 2 * ch) 2))
  let (x, w) := outValue a (vec v.out.scaleBase) (vec v.out.biasBase) v.out.clipLow v.out.clipHigh
  { v := x, w := w, r := cells (keyOf s v.out.stream v.out.tensor) rnd (elemIndex v.lay (outCoords v i j)) }

def accNonFinite : Acc → Bool
  | .fin .. => false
  | _ => true

/-- One element of a scalar destination written and counted (R62, R153). -/
def writeScalar (s : State) (w : Who) (tensor : Nat) (f : Fmt) (rnd : Rnd) (addr : Nat) (x : Src) : State :=
  let c := convertFull f rnd x.w x.r x.v
  let sat := if saturates f && c.saturated then 1 else 0
  let s := writeGlobal s w addr (leBytes (fmtBytes f) c.code)
  let s := bump s 0x0201 noInst tensor sat
  noteWatch s tensor (addWatch 1 (if codeZero f c.code then 1 else 0) sat (if codeNonFinite f c.code then 1 else 0) 0)

/-- The bucket of a tensor whose range covers an element (R249). -/
def bucketFor (p : Program) (tensor index : Nat) : Option BucketDesc :=
  ((slotsOf p .bucket).map fun x => parseBucket x.2).find? fun b =>
    b.tensor == tensor && decide (b.first ≤ index) && decide (index < b.first + b.count)

/-- Address of the half of a segment record that governs a step (R251). -/
def segHalf (b : BucketDesc) (seg step : Nat) : Nat := b.segTable + 32 * seg + 16 * (step % 2)

/-- What the conversion of a gradient element reads: its segment's exponent and staging word (R249, R250). -/
def g16Reads (p : Program) (step tensor index : Nat) : List (Nat × Nat) :=
  match bucketFor p tensor index with
  | none => []
  | some b =>
    let seg := (index - b.first) / 256
    [(segHalf b seg step + 8, 1), (b.staging + 512 * b.segments + 8 * seg, 8)]

/-- The bump-table bytes that the encoding of blocks of a tracked tensor reads (R70, R144). -/
def bumpReads (p : Program) (d : BlockDesc) (bs : List Nat) : List (Nat × Nat) :=
  if !d.tracked then []
  else match ((slotsOf p .tracker).map fun x => parseTrack x.2).find? (·.tensor == d.tensor) with
    | none => []
    | some t => (bs.map fun b => (t.bump + b % max t.positions 1, 1)).eraseDups

/-- One gradient element converted into G16 and written to its staging region; the segment's staging word takes its
magnitude and its flag (R44, R60, R249, R250). Its format has no code for an infinity or a NaN (R153). -/
def writeG16 (s : State) (w : Who) (tensor index : Nat) (x : Src) : State :=
  match s.program.bind fun p => bucketFor p tensor index with
  | none => s
  | some b =>
    let i := index - b.first
    let seg := i / 256
    let e := leNat (peek s w.unit (segHalf b seg s.step.toNat + 8) 1)
    let (q, flag) := g16Encode e x.w x.r x.v
    let s := writeGlobal s w (b.staging + 2 * i) (leBytes 2 q)
    let word := b.staging + 512 * b.segments + 8 * seg
    let old := peek s w.unit word 8
    let amax := if x.v.isFinite then max (field old 0 2) (amaxK16 x.v) else field old 0 2
    let fl := if flag then 1 else field old 2 1
    let s := writeGlobal s w word (leBytes 2 amax ++ leBytes 1 fl ++ List.replicate 5 0)
    let sat := if flag then 1 else 0
    let s := bump s 0x0201 noInst tensor sat
    noteWatch s tensor (addWatch 1 (if q = 0 then 1 else 0) sat 0 0)

/-- A rectangle of output elements: its rows and its columns. -/
abbrev Rect := List Nat × List Nat

/-- The blocks of a rectangle with the elements they hold, padded with zeros (R64, R131). Their numbers follow the output
layout, its square flag among the rest; R131 speaks of square layout for blocks along the column, and a layout whose flag is
clear is taken as it is (DESIGN CHOICE, log 113). -/
def rectBlocks (v : PassEnv) (src : Nat → Nat → Src) (r : Rect) : List (Nat × List Src) :=
  if v.out.columnBlocks then
    r.2.map fun j => ((blockPlace v.lay (outCoords v (r.1.headD 0) j)).1, r.1.map fun i => src i j)
  else
    r.1.map fun i => ((blockPlace v.lay (outCoords v i (r.2.headD 0))).1, r.2.map fun j => src i j)

/-! ### Spans in ascending order (R79) -/

/-- Rows 32g to 32g + 31 of a product. -/
def rowGroup (p : ProductDesc) (g : Nat) : List Nat := rangeFrom (32 * g) (min 32 (p.rows - 32 * g))
def columnGroup (p : ProductDesc) (g : Nat) : List Nat := rangeFrom (32 * g) (min 32 (p.columns - 32 * g))

/-- Passes that an instruction names, as row group and column group (R205). -/
def namedPasses (p : ProductDesc) (i : PInstr) : List (Nat × Nat) :=
  ((rangeFrom i.firstPass i.passCount).filter fun k => decide (k < p.passes)).map fun k => (k / p.groups, k % p.groups)

def passRect (p : ProductDesc) (x : Nat × Nat) : Rect := (rowGroup p x.1, columnGroup p x.2)

/-- Blocks that instance `inst` of a PASS encodes, with the slot of their block tensor descriptor (R130, R205). -/
def passBlocks (p : Program) (i : PInstr) (inst : Nat) : Option (Nat × List Nat) :=
  if i.cls ≠ 2 then none
  else
    let d := parseProduct (descOf p i.desc)
    let o := parseOut (descOf p d.out)
    let l := layoutOf p d.layoutOut
    let at_ (r c : Nat) : Nat := (blockPlace l (matCoords l (d.instBase + inst) r c)).1
    if o.fmt ≠ 4 then none
    else some (o.dest % 65536, (namedPasses d i).flatMap fun x =>
      let r := passRect d x
      if o.columnBlocks then r.2.map (at_ (r.1.headD 0)) else r.1.map fun k => at_ k (r.2.headD 0))

/-- The blocks that a VE conversion reads or writes: `count` of them from `first` on (log 12). -/
def veBlocks (op : VeOp) : List Nat := rangeFrom op.first op.count

/-- Blocks that instance `inst` of a PASS or of a VE conversion encodes, with the slot of their block tensor descriptor. -/
def instBlocks (p : Program) (i : PInstr) (inst : Nat) : Option (Nat × List Nat) :=
  if i.cls ≠ 3 then passBlocks p i inst
  else (veOpOf p i).bind fun op => if op.fn = .toBlock then some (op.slot, veBlocks op) else none

/-- An instance that encodes a block of a span in a step: its beat, and how many instances encode the block before it. -/
structure SpanTurn where
  who : Who
  b : Nat
  beat : Nat
  round : Nat
  deriving DecidableEq, Repr

/-- Those of a span, by beat. -/
def spanWriters (p : Program) (slot span : Nat) : List SpanTurn :=
  (p.stages.flatMap fun g => ([(Stream.F, g.f), (Stream.B, g.b), (Stream.U, g.u)]).flatMap fun t => t.2.zipIdx.flatMap fun i =>
    (List.range i.1.count).flatMap fun k => match instBlocks p i.1 k with
      | some (x, bs) => if x = slot then (bs.filter fun b => b / 256 == span).map fun b =>
          { who := { unit := g.unit, stream := t.1, index := i.2, inst := k }, b := b, beat := i.1.beatOf k, round := 0 } else []
      | none => []).mergeSort fun x y => decide (x.beat ≤ y.beat)

/-- A span that is written several times in a step is written once after the other: the turns of its writers (R79; log 34). -/
def spanTurns (p : Program) (slot span : Nat) : List SpanTurn :=
  let ws := spanWriters p slot span
  ws.zipIdx.map fun x => { x.1 with round := ((ws.take x.2).filter fun y => y.b == x.1.b).length }

/-- Whether a turn comes before another: ascending block number, in each round (R79). -/
def SpanTurn.before (x y : SpanTurn) : Bool := decide (x.round < y.round) || (x.round == y.round && decide (x.b < y.b))

/-- The turn of a held block. -/
def turnOf (s : State) (h : HeldBlock) : Option SpanTurn :=
  s.program.bind fun p => (spanTurns p h.slot (h.b / 256)).find? fun t => t.who == h.who && t.b == h.b

/-- Whether every block of the span whose turn comes before it in the step has been encoded. -/
def canEncode (s : State) (h : HeldBlock) : Bool :=
  match s.program, turnOf s h with
  | some p, some t => (spanTurns p h.slot (h.b / 256)).all fun x => !x.before t || s.beat.encoded.contains (x.who, x.b)
  | _, _ => true

def blockDescOf (s : State) (slot : Nat) : BlockDesc := parseBlock ((s.program.map fun p => descOf p slot).getD [])

/-- A block encoded and written; a VE raises the flags of its conversions. -/
def encodeNow (s : State) (h : HeldBlock) : State :=
  let d := blockDescOf s h.slot
  let (es, s) := writeBlocksFull h.who d d.rnd [(h.b, h.xs)] none [] s
  let s := if isVE h.who.unit then raiseFlags s h.who.unit ((es.map (blockFlags d.bfmt d.rnd h.xs)).foldl (· ||| ·) 0) else s
  { s with beat := { s.beat with encoded := s.beat.encoded.filter (· != (h.who, h.b)) ++ [(h.who, h.b)] } }

/-- Held blocks whose turn has come are encoded; `n` bounds them. -/
def drainHeld : Nat → State → State
  | 0, s => s
  | n + 1, s =>
    match s.beat.heldBlocks.find? (canEncode s) with
    | none => s
    | some h =>
      let s := { s with beat := { s.beat with heldBlocks := s.beat.heldBlocks.erase h } }
      drainHeld n (updFlight (encodeNow s h) h.who fun f => { f with waiting := f.waiting - 1 })

/-- A block of an instance is encoded once the blocks of its span before it are, whatever order the instances run in
(R79; log 34). -/
def putBlock (s : State) (h : HeldBlock) : State :=
  if canEncode s h then
    let s := encodeNow s h
    drainHeld s.beat.heldBlocks.length s
  else
    updFlight { s with beat := { s.beat with heldBlocks := s.beat.heldBlocks ++ [h] } } h.who fun f =>
      { f with waiting := f.waiting + 1 }

/-- At a beat's end no block waits any longer: those left are encoded in the order of their turns (DEDUCED, log 34). -/
def forceHeld (s : State) : State :=
  let round (h : HeldBlock) : Nat := ((turnOf s h).map (·.round)).getD 0
  let hs := s.beat.heldBlocks.mergeSort fun x y => decide (x.slot < y.slot) || (x.slot == y.slot &&
    (decide (round x < round y) || (round x == round y && decide (x.b ≤ y.b))))
  hs.foldl (fun s h => deliver (updFlight (encodeNow s h) h.who fun f => { f with waiting := f.waiting - 1 }) h.who.unit h.who.stream)
    { s with beat := { s.beat with heldBlocks := [] } }

/-! ### Outputs of rectangles -/

/-- Output elements of rectangles computed and written. -/
def writeRects (s : State) (w : Who) (rd : Reader) (v : PassEnv) (rs : List Rect) : State :=
  let acc (i j : Nat) : Acc := dpuAcc rd v ((carryIn rd v i j).getD Acc.zero) i j
  let all := rs.flatMap fun r => r.1.flatMap fun i => r.2.map fun j => (i, j)
  let bad := if v.out.fmt = 6 then 0 else (all.filter fun x => accNonFinite (acc x.1 x.2)).length
  let s := noteWatch (bump s 0x0501 noInst v.out.tensor bad) v.out.tensor (addWatch 0 0 0 0 bad)
  match v.out.fmt with
  | 6 => all.foldl (fun s x => writeGlobal s w (carryAddr v v.out.dest x.1 x.2) (leBytes 8 (carryWord (acc x.1 x.2)))) s
  | 4 =>
    let slot := v.out.dest % 65536
    let src (i j : Nat) : Src := outSrc s rd v (blockDescOf s slot).rnd (acc i j) i j
    let blocks := (rs.flatMap (rectBlocks v src)).mergeSort fun x y => decide (x.1 ≤ y.1)
    blocks.foldl (fun s x => putBlock s { who := w, slot := slot, b := x.1, xs := x.2 }) s
  | 5 =>
    all.foldl (fun s x =>
      writeG16 s w v.out.tensor (elemIndex v.lay (outCoords v x.1 x.2))
        (outSrc s rd v .stochastic (acc x.1 x.2) x.1 x.2)) s
  | c =>
    let f := fmtOf c
    all.foldl (fun s x =>
      writeScalar s w v.out.tensor f v.out.rnd
        (v.out.dest + fmtBytes f * plainPlace v.lay (outCoords v x.1 x.2))
        (outSrc s rd v v.out.rnd (acc x.1 x.2) x.1 x.2)) s

/-! ### Cycles that depend on data alone (R94, R115) -/

/-- Escape positions of a DPU over a K-block: the union of both operands' (R94). -/
def escapeCount (rd : Reader) (v : PassEnv) (i j kb : Nat) : Nat :=
  ((rangeFrom (32 * kb) (min 32 (v.a.kSize v.p.aColumn - 32 * kb))).filter fun k =>
    escapedAt rd v.a (v.a.at v.p.aColumn v.mb i k) || escapedAt rd v.b (v.b.at v.p.bColumn v.mb j k)).length

/-- Largest escape count of a group of K-blocks over the DPUs of a pass. -/
def escapeMax (rd : Reader) (v : PassEnv) (r : Rect) (kbs : List Nat) : Nat :=
  (r.1.flatMap fun i => r.2.map fun j => ((kbs.map fun kb => escapeCount rd v i j kb).sum)).foldl max 0

/-- K-blocks in pairs, the last alone when their number is odd. -/
def pairs : List Nat → List (List Nat)
  | a :: b :: rest => [a, b] :: pairs rest
  | [a] => [[a]]
  | [] => []

/-- Busy cycles and escape cycles of a pass whose rows belong to the given environments (R94, R106, R115). -/
def passCycles (ft : Bool) (rd : Reader) (vs : List (PassEnv × Rect)) : Nat × Nat :=
  match vs with
  | [] => (0, 0)
  | (v, _) :: _ =>
    let half := (pairHalfCycles ft (elOf v.a) (elOf v.b)).getD 2
    let groups := if half = 1 then pairs (kRange v) else (kRange v).map fun k => [k]
    let base := max 1 (half / 2)
    let cs := groups.map fun g => max base (ceilDiv ((vs.map fun x => escapeMax rd x.1 x.2 g).foldl max 0) 4)
    (cs.sum, cs.sum - base * groups.length)

/-- The pass that follows in a tile's array, of a configuration, busy cycles, stall cycles and cycles waited beyond the
earliest that R106 allows: what the next pass needs to know, and the cycles by which the change of configuration delayed
this one. -/
def pipeNext (p : TilePipe) (config busy stall idle : Nat) : TilePipe × Nat :=
  let base := max p.compute p.drain
  let delay := if p.config = 0 ∨ p.config = config then 0 else max (p.compute + 4) p.drain - base
  ({ config := config, compute := busy + stall, drain := if p.config = 0 then 0 else p.compute + 39 - (base + delay + idle) },
    delay)

/-- Configuration of a pass, as the half cycles of one of its blocks (R90 to R92). -/
def passConfig (ft : Bool) (vs : List (PassEnv × Rect)) : Nat :=
  match vs with
  | [] => 2
  | (v, _) :: _ => (pairHalfCycles ft (elOf v.a) (elOf v.b)).getD 2

/-- One pass issued and counted (R106, R115). -/
def countPass (s : State) (unit : Nat) (rd : Reader) (vs : List (PassEnv × Rect)) (stall idle : Nat) : State :=
  let (busy, esc) := passCycles (isFT unit) rd vs
  let (pipe, delay) := pipeNext ((seqOf s unit).map (·.pipe) |>.getD {}) (passConfig (isFT unit) vs) busy stall idle
  let s := updSeq s unit fun q => { q with pipe := pipe }
  let s := bump s 0x0401 unit noTensor busy
  let s := bump s 0x0402 unit noTensor stall
  let s := bump s 0x0403 unit noTensor esc
  let s := bump s 0x0404 unit noTensor delay
  bump s 0x0405 unit noTensor 1

/-! ### Passes of an instance (R95, R205) -/

/-- The environment of an instance, or the version fault its operands meet (R230, R231). -/
def passEnv (s : State) (w : Who) (i : PInstr) : Except (Nat × Nat × Nat × Nat) PassEnv :=
  match s.program with
  | none => .error (0, 0, 0, 0)
  | some g =>
    let p := parseProduct (descOf g i.desc)
    let epoch := epochOf s i
    match resolve s g p.a p.layoutA epoch, resolve s g p.b p.layoutB epoch with
    | .fault t e tag c, _ => .error (t, e, tag, c)
    | _, .fault t e tag c => .error (t, e, tag, c)
    | .ok a, .ok b =>
      .ok { p := p, out := parseOut (descOf g p.out), a := a, b := b, lay := layoutOf g p.layoutOut,
            mb := p.instBase + w.inst }

/-- The block operands that rectangles read, with their blocks in the order read. -/
def rectBlockReads (v : PassEnv) (rs : List Rect) : List (BlockDesc × List Nat) :=
  let one (o : Operand) (column : Bool) (is : List Nat) : List (BlockDesc × List Nat) :=
    match o with
    | .plain .. => []
    | .block d _ => [(d, operandBlocks o column v.mb is.eraseDups (kRange v))]
  one v.a v.p.aColumn (rs.flatMap (·.1)) ++ one v.b v.p.bColumn (rs.flatMap (·.2))

/-- The first failed check among the blocks that rectangles read, with the tensor it belongs to (R81). -/
def rectFault (s : State) (unit : Nat) (v : PassEnv) (rs : List Rect) (rd : Reader) : Option (BlockDesc × Skew) :=
  (rectBlockReads v rs).findSome? fun x => (checkBlocks rd x.1 (readBefore s unit x.1) x.2).map fun e => (x.1, e)

/-- What the feeder queues of a tile read for rectangles (R98): the parts of block operands' blocks, elements of plain ones. -/
def feederRanges (rd : Reader) (v : PassEnv) (rs : List Rect) : List (Nat × Nat) :=
  let plain (o : Operand) (column : Bool) (is : List Nat) : List (Nat × Nat) :=
    match o with
    | .block .. => []
    | .plain d l =>
      let n := fmtBytes (fmtOf d.fmt)
      is.flatMap fun i =>
        (rangeFrom (32 * v.p.firstK) (min (32 * v.p.kBlocks) (o.kSize column - 32 * v.p.firstK))).map fun k =>
          (d.base + n * plainPlace l (o.at column v.mb i k), n)
  ((rectBlockReads v rs).flatMap fun x => blockParts rd x.1 x.2) ++
    plain v.a v.p.aColumn ((rs.flatMap (·.1)).eraseDups) ++ plain v.b v.p.bColumn ((rs.flatMap (·.2)).eraseDups)

/-- What the encoder of a destination reads for rectangles: bump-table bytes, segment exponents and staging words (R70,
R249, R250). -/
def encoderRanges (p : Program) (step : Nat) (v : PassEnv) (rs : List Rect) : List (Nat × Nat) :=
  let all := rs.flatMap fun r => r.1.flatMap fun i => r.2.map fun j => outCoords v i j
  match v.out.fmt with
  | 4 => bumpReads p (parseBlock (descOf p (v.out.dest % 65536))) (all.map fun e => (blockPlace v.lay e).1).eraseDups
  | 5 => (all.flatMap fun e => g16Reads p step v.out.tensor (elemIndex v.lay e)).eraseDups
  | _ => []

/-- What the output stage reads for rectangles: scale and bias vectors and carry-in words (R128, R130). -/
def outputRanges (v : PassEnv) (rs : List Rect) : List (Nat × Nat) :=
  let ch := (rs.flatMap fun r => if v.out.rowChannel then r.1 else r.2).eraseDups
  let vec (base : Nat) : List (Nat × Nat) := if base = 0 then [] else ch.map fun c => (base + 2 * c, 2)
  vec v.out.scaleBase ++ vec v.out.biasBase ++
    (if v.out.carryBase = 0 then []
     else rs.flatMap fun r => r.1.flatMap fun i => r.2.map fun j => (carryAddr v v.out.carryBase i j, 8))

/-- Whether a range lies in a tile's own SRAM: in the window of its logical number (R98, R311). -/
def inOwnTile (s : State) (unit addr n : Nat) : Bool :=
  let base := 0x010_0000_0000 + unitDie unit * 0x1000_0000 + unitCode unit * 0x20_0000
  isLocal s (nodeOf addr) && spaceOf addr == 0 && decide (base ≤ offsetOf addr) &&
    decide (offsetOf addr + n ≤ base + 0x20_0000)

/-- All that passes read: operands, and what their output stage and its encoder read. -/
def rectReads (s : State) (unit : Nat) (v : PassEnv) (rs : List Rect) : List (Nat × Nat) :=
  feederRanges (peek s unit) v rs ++ outputRanges v rs ++ ((s.program.map fun p => encoderRanges p s.step.toNat v rs).getD [])

/-- The work of passes once their sources are here. A feeder queue that would read outside its tile's SRAM meets an address
error (R98, R300; DEDUCED, log 61). -/
def withOperands (s : State) (w : Who) (v : PassEnv) (rs : List Rect) (k : State → State) (input : WorkIn := {}) : State :=
  match (feederRanges (peek s w.unit) v rs).find? fun r => !inOwnTile s w.unit r.1 r.2 with
  | some r => accessFailed s w 1 r.1
  | none => withSources s w (rectReads s w.unit v rs) k input

/-- A carry-in word that R124 faults: the position of its element and the word. -/
def carryFault (rd : Reader) (v : PassEnv) (rs : List Rect) : Option (Nat × Nat) :=
  if v.out.carryBase = 0 then none
  else (rs.flatMap fun r => r.1.flatMap fun i => r.2.map fun j => (i, j)).findSome? fun x =>
    match carryIn rd v x.1 x.2 with
    | some _ => none
    | none => some (plainPlace v.lay (outCoords v x.1 x.2), leNat (rd (carryAddr v v.out.carryBase x.1 x.2) 8))

/-! ### The fill gate (R107 to R110) -/

def gateWho (unit : Nat) (r : GateRow) : Who := { unit := unit, stream := r.stream, index := r.index, inst := r.inst }

/-- The named column groups of a gated instance's last, partial row group. -/
def gatedColumns (p : ProductDesc) (i : PInstr) : List Nat :=
  ((namedPasses p i).filter fun x => x.1 == p.rows / 32).map (·.2)

/-- Rows of one instance leave the gate: their outputs are written, and the instance no longer waits for them. A
destination blocked along the output column is written once the row group's last row has left (log 34). Nothing is written
past a fault of the instance's stream (R83). -/
def releaseInst (s : State) (w : Who) (rows : List Nat) (left : Bool) : State :=
  match instrOf s w with
  | none => s
  | some i => match passEnv s w i with
    | .error (t, e, tag, c) => versionFault s w t e tag c
    | .ok v =>
      if pastFault s w then s
      else
      let rd : Reader := peek s w.unit
      let rows' := if v.out.fmt = 4 ∧ v.out.columnBlocks then (if left then [] else rowGroup v.p (v.p.rows / 32)) else rows
      let rs := (gatedColumns v.p i).map fun g => (rows', columnGroup v.p g)
      let s := if rows'.isEmpty then s
        else match firstFailure s w.unit (rectReads s w.unit v rs) with
          | some (st, a) => accessFailed s w st a
          | none => writeRects s w rd v rs
      updFlight s w fun f => { f with waiting := f.waiting - rows.length }

/-- The passes that waiting rows make, one for each column group that one of their requests names, with the rows each instance
has in them. R108 speaks of one pass; that requests which name several column groups, or not the same ones, make one for each,
with the rows of those that name it, is a DESIGN CHOICE (log 113). -/
def releasedGroups (s : State) (rows : List GateRow) (unit : Nat) (ws : List Who) : List (List (PassEnv × Rect)) :=
  let envs := ws.filterMap fun w => match instrOf s w with
    | none => none
    | some i => match passEnv s w i with
      | .ok v => some (v, i, (rows.filter fun r => gateWho unit r == w).map (·.row))
      | .error _ => none
  let groups := ((envs.flatMap fun x => gatedColumns x.1.p x.2.1).eraseDups).mergeSort fun a b => decide (a ≤ b)
  groups.map fun g => (envs.filter fun x => (gatedColumns x.1.p x.2.1).contains g).map fun x =>
    (x.1, x.2.2, columnGroup x.1.p g)

/-- A gated pass counted: its rows and the zero rows that fill it (R110, R115), its stall cycles and the cycles it waited
beyond the earliest that R106 allows. -/
def countGated (s : State) (unit : Nat) (vs : List (PassEnv × Rect)) (stall idle : Nat) : State :=
  let rows := (vs.map fun x => x.2.1.length).sum
  let s := countPass s unit (peek s unit) vs stall idle
  let s := bump s 0x0406 unit noTensor 1
  let s := bump s 0x0407 unit noTensor rows
  bump s 0x0408 unit noTensor (32 - rows)

/-- The timing of the passes that follow one. -/
def laterPasses (t : PassTime) : PassTime := { idle := 0, stalls := t.stalls.drop 1 }

/-- The open group of a tile with a group number. -/
def openGate (s : State) (unit group : Nat) : Option GateGroup :=
  s.gates.find? fun g => g.unit == unit && g.group == group && !g.waits && !g.rows.isEmpty

def gateRows (s : State) (unit group : Nat) : List GateRow := ((openGate s unit group).map (·.rows)).getD []

/-- The rows of an open group replaced; an empty group closes. -/
def setGate (s : State) (unit group : Nat) (rows : List GateRow) : State :=
  { s with gates := (s.gates.map fun g =>
      if g.unit == unit && g.group == group && !g.waits then { g with rows := rows } else g).filter fun g => !g.rows.isEmpty }

/-- A pass of waiting rows is released, in arrival order, its unused rows filled with zeros (R109, R110, R115); with the
timing of the passes after it. -/
def releaseRows (s : State) (unit group : Nat) (rows : List GateRow) (time : PassTime := { idle := 0, stalls := [] }) :
    State × PassTime :=
  if rows.isEmpty then (s, time)
  else
    let left := (gateRows s unit group).filter fun r => !rows.contains r
    let s := setGate s unit group left
    let ws := (rows.map (gateWho unit)).eraseDups
    let (s, time) := (releasedGroups s rows unit ws).foldl (fun (r : State × PassTime) vs =>
      (countGated r.1 unit vs (r.2.stalls.headD 0) r.2.idle, laterPasses r.2)) (s, time)
    (ws.foldl (fun s w =>
      releaseInst s w ((rows.filter fun r => gateWho unit r == w).map (·.row)) (left.any fun r => gateWho unit r == w)) s, time)

/-- Beat period in ns (R207). -/
def periodNs (s : State) : Nat := (s.program.map fun p => (p.hdr.period + 1) * 4000).getD 4000

/-- End of the current period (R305). -/
def periodEnd (s : State) : Nat := s.beat.epoch + (s.beat.period + 1) * periodNs s

/-- Flush point of a group: its flush margin before the beat's end (R108, R111). -/
def flushPoint (s : State) (g : GateGroup) : Nat := periodEnd s - (gateDescOf s g.slot).flushNs

/-- Rows that an open group releases by itself (R108, R111): 32 of them once it holds 32, all once 16 requests wait, the wait
limit is 0 or the flush point has been reached. A request is an instance (DESIGN CHOICE, log 113); the descriptor that the
group's first row named governs the group (DESIGN CHOICE, log 113). -/
def dueRows (s : State) (g : GateGroup) (all : Bool) : List GateRow :=
  if 32 ≤ g.rows.length then g.rows.take 32
  else if all || decide (16 ≤ ((g.rows.map (gateWho g.unit)).eraseDups).length) || (gateDescOf s g.slot).waitNs == 0 ||
      decide (flushPoint s g ≤ s.timebase) then g.rows
  else []

/-- Open groups of a tile. -/
def openGroups (s : State) (unit : Nat) : List GateGroup := s.gates.filter fun g => g.unit == unit && !g.waits && !g.rows.isEmpty

/-- Whether a request for a group can enter the gate: its group is open, or fewer than two are (R107). -/
def gateTakes (s : State) (unit group : Nat) : Bool :=
  (openGroups s unit).any (·.group == group) || decide ((openGroups s unit).length < 2)

/-- Rows join their open group, or open it; their wait begins now (R108; log 113). -/
def joinGate (s : State) (unit group slot : Nat) (rows : List GateRow) : State :=
  let rows := rows.map fun r => { r with arrived := s.timebase }
  match openGate s unit group with
  | some g => setGate s unit group (g.rows ++ rows)
  | none => { s with gates := s.gates ++ [{ unit := unit, group := group, slot := slot, rows := rows }] }

/-- The first request of a tile that waits for a group to empty and now can enter (R107). -/
def nextRequest (s : State) (unit : Nat) : Option GateGroup :=
  s.gates.find? fun g => g.unit == unit && g.waits && gateTakes s unit g.group

/-- Groups release what is due and waiting requests enter in arrival order, until nothing is left to do (R107, R108); `n`
bounds the rounds. -/
def settleGates : Nat → Nat → Bool → State × PassTime → State × PassTime
  | 0, _, _, r => r
  | n + 1, unit, all, (s, time) =>
    match (openGroups s unit).find? fun g => !(dueRows s g all).isEmpty with
    | some g => settleGates n unit all (releaseRows s unit g.group (dueRows s g all) time)
    | none => match nextRequest s unit with
      | some g => settleGates n unit all (joinGate { s with gates := s.gates.erase g } unit g.group g.slot g.rows, time)
      | none => (s, time)

/-- Rounds that always suffice for a tile: each request enters once, and each release takes a row at least. -/
def gateRounds (s : State) (unit : Nat) : Nat := (((s.gates.filter (·.unit == unit)).map fun g => g.rows.length + 1).sum) + 1

def hasRows (s : State) (unit : Nat) : Bool := s.gates.any fun g => g.unit == unit && !g.rows.isEmpty

/-- A tile's gate settled; what was read for rows goes with the last of them. -/
def settleGate (s : State) (unit : Nat) (all : Bool) (time : PassTime) : State :=
  let t := (settleGates (gateRounds s unit) unit all (s, time)).1
  if hasRows s unit && !hasRows t unit then dropArrivals t unit else t

/-- Rows of an instance come to the gate: they enter, or wait for a group to empty (R107, R108, R111). -/
def enterGate (s : State) (w : Who) (slot : Nat) (rows : List Nat) (time : PassTime := { idle := 0, stalls := [] }) : State :=
  let new := rows.map fun r => ({ stream := w.stream, index := w.index, inst := w.inst, row := r, arrived := s.timebase } : GateRow)
  let group := (gateDescOf s slot).group
  let s := updFlight s w fun f => { f with waiting := f.waiting + rows.length }
  let s := if gateTakes s w.unit group then joinGate s w.unit group slot new
    else { s with gates := s.gates ++ [{ unit := w.unit, group := group, slot := slot, rows := new, waits := true }] }
  settleGate s w.unit false time

/-- The timebase reaches a moment (log 16). -/
def reach (s : State) (t : Nat) : State := { s with timebase := max s.timebase t }

/-- All rows of an open group leave, and what then is due or waits follows. -/
def releaseGroup (s : State) (unit : Nat) (g : GateGroup) (time : PassTime) : State :=
  let (s, time) := releaseRows s unit g.group g.rows time
  settleGate s unit false time

/-- The oldest row of a group has waited the wait limit (R108): all its rows leave. -/
def execFillGateWaitLimit (unit group : Nat) (s : State) (time : PassTime := { idle := 0, stalls := [] }) :
    Host.Outcome State Fault Refusal :=
  match openGate s unit group with
  | none => .next s
  | some g =>
    let oldest := (g.rows.map (·.arrived)).foldl min ((g.rows.map (·.arrived)).headD 0)
    .next (releaseGroup (reach s (oldest + (gateDescOf s g.slot).waitNs)) unit g time)

/-- The beat reaches a group's flush point (R108): all its rows leave, and a row that enters later issues at once. -/
def execFillGateFlushPoint (unit : Nat) (s : State) (group : Nat := 0) (time : PassTime := { idle := 0, stalls := [] }) :
    Host.Outcome State Fault Refusal :=
  match openGate s unit group with
  | none => .next s
  | some g => .next (releaseGroup (reach s (flushPoint s g)) unit g time)

/-- No row waits across a beat boundary (R108). -/
def flushAllGates (s : State) : State :=
  ((s.gates.map (·.unit)).eraseDups).foldl (fun s unit => settleGate s unit true { idle := 0, stalls := [] }) s

/-! ### PASS (R82, R205) -/

/-- Blocks that rectangles read are noted for the check of their spans (R81). -/
def noteReads (s : State) (unit : Nat) (v : PassEnv) (rs : List Rect) : State :=
  (rectBlockReads v rs).foldl (fun s x => noteRead s unit x.1 x.2) s

/-- The passes of an instance: full row groups at once, the rest through the fill gate (R107, R205). -/
def runPasses (w : Who) (v : PassEnv) (i : PInstr) (time : PassTime) (rd : Reader) (s : State) : State :=
  let named := namedPasses v.p i
  let rs := named.map (passRect v.p)
  let s := noteReads s w.unit v rs
  match carryFault rd v rs with
  | some (b, word) => stopStream (stop (blockFault s w.unit v.out.tensor b 0xA word word) w) w
  | none =>
    let gated := v.p.gate ≠ 0xFFFF ∧ v.p.rows % 32 ≠ 0
    let now := if gated then (named.filter fun x => decide (x.1 < v.p.rows / 32)).map (passRect v.p) else rs
    let s := now.zipIdx.foldl (fun s x =>
      countPass s w.unit rd [(v, x.1)] (time.stalls.getD x.2 0) (if x.2 = 0 then time.idle else 0)) s
    let s := writeRects s w rd v now
    if gated ∧ !(gatedColumns v.p i).isEmpty then
      enterGate s w v.p.gate (rowGroup v.p (v.p.rows / 32))
        { idle := if now.isEmpty then time.idle else 0, stalls := time.stalls.drop now.length }
    else s

/-- The work of a PASS instance, once its operands are here and their blocks pass their checks (R81 to R83). -/
def passWork (s : State) (w : Who) (i : PInstr) (input : WorkIn) (tried : List (Nat × Nat)) : State :=
  match passEnv s w i with
  | .error (t, e, tag, c) => versionFault s w t e tag c
  | .ok v =>
    let rs := (namedPasses v.p i).map (passRect v.p)
    withOperands s w v rs (fun s =>
      checked s w input.stale tried (rectFault s w.unit v rs) (runPasses w v i input.time) (input := input)) input

def execPass (unit : Nat) (stale : List (Nat × Byte)) (s : State) (time : PassTime := { idle := 0, stalls := [] }) : Host.Outcome State Fault Refusal :=
  issue s unit (fun _ p => p.cls == 2) fun s w p => passWork s w p { time := time, stale := stale } []

end Sys2Proof.Machine
end

