-- ==== Sys2Proof/Machine/RowEngine.lean ====
section
/-! DEFINITION. Row Engine operations (R165 to R174) and their counts (R188). -/

namespace Sys2Proof.Machine

open Sys2Proof

/-! ### Inputs (R165, R169) -/

/-- Codes of a row of `n` elements. -/
def rowCodes (rd : Reader) (base : Nat) (f : Fmt) (row n : Nat) : List Nat :=
  (List.range n).map fun j => leNat (rd (base + (row * n + j) * fmtBytes f) (fmtBytes f))

def rowVals (rd : Reader) (base : Nat) (f : Fmt) (row n : Nat) : List Val := (rowCodes rd base f row n).map (decode f)

/-- Whether an instance belongs to a recompute stage (R177). -/
def recomputes (p : Program) (w : Who) : Bool :=
  p.recompute.any fun r => r.unit == w.unit && r.stream == w.stream && decide (r.first ≤ w.index) &&
    decide (w.index < r.first + r.count)

/-- Where a recompute stage finds the elements of a K8f tensor that a narrowed checkpoint's load has brought back as blocks:
the block tensor, and the element that stands at the address (R178, R183; log 37). -/
def narrowedAt (s : State) (w : Who) (f : Fmt) (addr : Nat) : Option (BlockDesc × Nat) :=
  s.program.bind fun p => if recomputes p w && f == .k8f then
      (((slotsOf p .ckpt).map fun x => parseCkpt x.2).find? fun c =>
        c.mode == 2 && decide (c.src ≤ addr) && decide (addr < c.src + c.count)).map fun c => (c.loaded, addr - c.src)
    else none

/-- Element `i` from a place on in a block tensor. -/
def placeElem (rd : Reader) (x : BlockDesc × Nat) (i : Nat) : Val := blockElem rd x.1 ((x.2 + i) / 32) ((x.2 + i) % 32)

/-- The blocks that hold `n` elements from a place on. -/
def placeBlocksOf (first n : Nat) : List Nat :=
  (List.range (ceilDiv (first + n) 32)).filter fun b => decide (first / 32 ≤ b)

/-- The first failed check among the blocks that hold `n` elements from a place on (R81). -/
def placeFault (s : State) (unit : Nat) (rd : Reader) (n : Nat) (x : BlockDesc × Nat) : Option (BlockDesc × Skew) :=
  (checkBlocks rd x.1 (readBefore s unit x.1) (placeBlocksOf x.2 n)).map fun e => (x.1, e)

/-- Those blocks are noted for the check of their spans (R81). -/
def notePlace (s : State) (unit n : Nat) (x : BlockDesc × Nat) : State := noteRead s unit x.1 (placeBlocksOf x.2 n)

/-- Values of a source row: scalars, or what a recompute stage expands from a narrowed checkpoint (R165, R178, R183). -/
def sourceVals (rd : Reader) (s : State) (w : Who) (d : RowDesc) (row : Nat) : List Val :=
  match narrowedAt s w d.srcFmt d.src with
  | some x => (List.range d.n).map fun j => placeElem rd x (row * d.n + j)
  | none => rowVals rd d.src d.srcFmt row d.n

/-- The first failed check of such a source (R81). -/
def rowFault (s : State) (w : Who) (d : RowDesc) (rd : Reader) : Option (BlockDesc × Skew) :=
  (narrowedAt s w d.srcFmt d.src).bind (placeFault s w.unit rd (d.rows * d.n))

/-- Gains and biases: n K16 values each, 1.0 and +0 when no base is named (R168). -/
def rowGain (rd : Reader) (d : RowDesc) : List Val :=
  if d.affine = 0 then List.replicate d.n Val.one
  else (List.range d.n).map fun j => decode .k16 (leNat (rd (d.affine + 2 * j) 2))

def rowBias (rd : Reader) (d : RowDesc) : List Val :=
  if d.affine = 0 then List.replicate d.n Val.zero
  else (List.range d.n).map fun j => decode .k16 (leNat (rd (d.affine + 2 * (d.n + j)) 2))

/-- Whether element `j` of row `i` is masked (R169). -/
def maskedElem (mode param n i j : Nat) : Bool :=
  let q := i % n
  match mode with
  | 1 => decide ((q : Int) + int16 param < j)
  | 2 => decide (q / max param 1 < j / max param 1)
  | _ => false

/-! ### Statistics records (R171) -/

/-- Index of a record in the side memories: engine × 2^20 + record. -/
def sideKey (unit index : Nat) : Nat := (unitDie unit * 2 + unitCode unit % 2) * 1048576 + index

/-- A rising list with one record set. -/
def setSide (k : Nat) (v : Word64) : List (Nat × Word64) → List (Nat × Word64)
  | [] => [(k, v)]
  | (a, x) :: rest => if a < k then (a, x) :: setSide k v rest else if a = k then (k, v) :: rest else (k, v) :: (a, x) :: rest

def sideOf (s : State) (unit index : Nat) : Option Word64 := (s.side.find? (·.1 == sideKey unit index)).map (·.2)

/-- A pair of binary32 values as a record. -/
def recordOf (lo hi : Val) : Word64 := BitVec.ofNat 64 (near .b32 lo + near .b32 hi * 2 ^ 32)

/-! ### Forward statistics (R168, R170) -/

/-- Soft-maximum record of a row's unmasked elements: m and the sum (R168, R170). -/
def softRecord (xs : List Val) (masked : List Bool) : Val × Val :=
  let un := (xs.zip masked).filterMap fun x => if x.2 then none else some x.1
  if un.any fun v => v.isNan || v.eq (.inf false) then (.nan, .nan)
  else
    let m := un.foldl Val.max (.inf true)
    if m.eq (.inf true) then (.inf true, Val.zero)
    else (m, rowSum (un.map fun x => exp32 (round32 (x.sub m))))

/-- Normalisation record: μ and ρ, μ = +0 for RMS (R168, R170). -/
def normRecord (rms : Bool) (eps : Nat) (xs : List Val) : Val × Val :=
  if xs.any fun v => !v.isFinite then (.nan, .nan)
  else
    let n : Val := .fin false xs.length 0
    let mu := if rms then Val.zero else div32 (rowSum xs) n
    let ds := xs.map fun x => if rms then x else round32 (x.sub mu)
    let v := div32 (rowSum (ds.map fun d => d.mul d)) n
    (mu, recip32 (sqrt32 (round32 (v.add (decode .k16 eps)))))

/-- The record a backward operation uses: the kept one, or one rebuilt from the row when no base is named, none is held or
it has an uncorrectable error, as the rows `lost` have (R171; that a record which is not held is rebuilt and counted as rebuilt
is a DESIGN CHOICE, log 113). A record read is released at the end of the beat (R173). -/
def recordFor (s : State) (w : Who) (d : RowDesc) (lost : List Nat) (row : Nat) (rebuilt : Val × Val) :
    State × (Val × Val) :=
  if d.record = 0xFFFF_FFFF then (bump s 0x0702 w.unit noTensor 1, rebuilt)
  else
    let s := { s with beat := { s.beat with released := s.beat.released ++ [sideKey w.unit (d.record + row)] } }
    match (if lost.contains row then none else sideOf s w.unit (d.record + row)) with
    | some r => (s, (decode .b32 (r.toNat % 2 ^ 32), decode .b32 (r.toNat / 2 ^ 32)))
    | none => (bump s 0x0702 w.unit noTensor 1, rebuilt)

/-- The records read in a beat leave the side memories at its end (R173). -/
def releaseRecords (s : State) : State :=
  { s with side := s.side.filter (fun x => !s.beat.released.contains x.1), beat := { s.beat with released := [] } }

/-- A forward operation with the keep bit writes its record (R171, R173). -/
def keepRecord (s : State) (w : Who) (d : RowDesc) (row : Nat) (r : Val × Val) : State :=
  if d.keep ∧ d.record ≠ 0xFFFF_FFFF then { s with side := setSide (sideKey w.unit (d.record + row)) (recordOf r.1 r.2) s.side }
  else s

/-! ### Results (R165, R168) -/

/-- Addresses that descriptors give a plain tensor, in ascending order, whichever of the module's node ids they use (R11). -/
def tensorBases (s : State) (p : Program) (tensor : Nat) : List Nat :=
  ((((slotsOf p .plain).map fun x => parsePlain x.2).filterMap fun x => if x.tensor = tensor then some x.base else none) ++
    (((slotsOf p .rowOp).map fun x => parseRow x.2).filterMap fun x => if x.tensor = tensor then some x.dst else none) ++
    (((slotsOf p .outStage).map fun x => parseOut x.2).filterMap fun x =>
      if x.tensor = tensor ∧ x.fmt ≤ 3 then some x.dest else none)).map (homeAddr s) |>.mergeSort

/-- Base of the placement of a tensor of `size` bytes that holds an address: a placement begins at the lowest address that lies
in no placement before it (DEDUCED, log 97). -/
def placementBase (size addr : Nat) : List Nat → Nat
  | [] => addr
  | b :: bs => bs.foldl (fun base a => if base + size ≤ a ∧ a ≤ addr then a else base) (min b addr)

/-- Element index, in the logical shape of a row operation's destination tensor, of the `k`-th of the elements of `bytes`
bytes that the operation writes (R132, R165, R174; log 97). -/
def rowIndex (s : State) (d : RowDesc) (bytes k : Nat) : Nat :=
  match s.program with
  | none => k
  | some p =>
    let l := p.layouts.find? (·.tensor == d.tensor)
    let dst := homeAddr s d.dst
    let size := ((l.map fun l => bytes * l.elements).getD (2 ^ 64))
    let pos := (dst - placementBase size dst (tensorBases s p d.tensor)) / bytes + k
    match l with
    | some l => elemIndex l (plainCoords l pos)
    | none => pos

/-- One row's results converted and written: each element's value with the weight of its source (R165, log 35). -/
def writeRow (s : State) (w : Who) (d : RowDesc) (row : Nat) (vs : List Val) : State :=
  vs.zipIdx.foldl (fun s x =>
    let idx := row * d.n + x.2
    let src : Src := { v := x.1, w := x.1.weight,
                       r := cells (keyOf s d.stream d.tensor) d.rnd (rowIndex s d (fmtBytes d.dstFmt) idx) }
    writeScalar s w d.tensor d.dstFmt d.rnd (d.dst + idx * fmtBytes d.dstFmt) src) s

/-- A row of one value in every element. -/
def fillRow (s : State) (w : Who) (d : RowDesc) (row : Nat) (v : Val) : State := writeRow s w d row (List.replicate d.n v)

def rowMasks (d : RowDesc) (row : Nat) : List Bool := (List.range d.n).map (maskedElem d.maskMode d.mask d.n row)

/-- Soft-maximum forward of one row. -/
def softForward (rd : Reader) (w : Who) (d : RowDesc) (s : State) (row : Nat) : State :=
  let xs := sourceVals rd s w d row
  let ms := rowMasks d row
  let (m, sum) := softRecord xs ms
  let s := keepRecord (bump s 0x0701 w.unit noTensor 1) w d row (m, sum)
  if m.isNan then fillRow (bump s 0x0704 w.unit noTensor 1) w d row .nan
  else if m.eq (.inf true) then fillRow (bump s 0x0703 w.unit noTensor 1) w d row Val.zero
  else
    let r := recip32 sum
    writeRow s w d row ((xs.zip ms).map fun x => if x.2 then Val.zero else (exp32 (round32 (x.1.sub m))).mul r)

/-- A backward row with a non-finite gradient, gain or bias is counted as a non-finite row (R170). -/
def noteBackward (s : State) (w : Who) (nan : Bool) (vs : List Val) : State :=
  if nan || vs.any fun v => !v.isFinite then bump s 0x0704 w.unit noTensor 1 else s

/-- Soft-maximum backward of one row. A masked element's term of the dot is +0, whatever its gradient (DESIGN CHOICE, log
113). -/
def softBackward (lost : List Nat) (rd : Reader) (w : Who) (d : RowDesc) (s : State) (row : Nat) : State :=
  let xs := sourceVals rd s w d row
  let dy := rowVals rd d.grad d.srcFmt row d.n
  let ms := rowMasks d row
  let (s, m, sum) := recordFor (bump s 0x0701 w.unit noTensor 1) w d lost row (softRecord xs ms)
  let s := noteBackward s w m.isNan dy
  if m.isNan then fillRow s w d row .nan
  else if m.eq (.inf true) then fillRow (bump s 0x0703 w.unit noTensor 1) w d row Val.zero
  else
    let r := recip32 sum
    let yh := (xs.zip ms).map fun x => if x.2 then Val.zero else round32 ((exp32 (round32 (x.1.sub m))).mul r)
    let dot := rowSum (((yh.zip dy).zip ms).map fun x => if x.2 then Val.zero else x.1.1.mul x.1.2)
    writeRow s w d row (((yh.zip dy).zip ms).map fun x =>
      if x.2 then Val.zero else x.1.1.mul (round32 (x.1.2.sub dot)))

/-- Layer or RMS normalisation forward of one row. -/
def normForward (rms : Bool) (rd : Reader) (w : Who) (d : RowDesc) (s : State) (row : Nat) : State :=
  let xs := sourceVals rd s w d row
  let (mu, rho) := normRecord rms d.eps xs
  let s := keepRecord (bump s 0x0701 w.unit noTensor 1) w d row (mu, rho)
  if rho.isNan then fillRow (bump s 0x0704 w.unit noTensor 1) w d row .nan
  else
    let gb := (rowGain rd d).zip (rowBias rd d)
    writeRow s w d row ((xs.zip gb).map fun x =>
      let dj := if rms then x.1 else round32 (x.1.sub mu)
      (((round32 (dj.mul rho)).mul x.2.1).addTerm x.2.2))

/-- Parameter-gradient carry words: n gain words, then n bias words (R124, R168). -/
def paramAcc (rd : Reader) (d : RowDesc) : List Acc :=
  (List.range (2 * d.n)).map fun j =>
    if d.chain then (carryParse (leNat (rd (d.paramGrad + 8 * j) 8))).getD .nan else Acc.zero

/-- Layer or RMS normalisation backward of one row: its dx written, and the row's terms added into the parameter gradients. -/
def normBackward (rms : Bool) (lost : List Nat) (rd : Reader) (w : Who) (d : RowDesc) (st : State × List Acc) (row : Nat) : State × List Acc :=
  let (s, accs) := st
  let xs := sourceVals rd s w d row
  let dy := rowVals rd d.grad d.srcFmt row d.n
  let gain := rowGain rd d
  let (s, mu, rho) := recordFor (bump s 0x0701 w.unit noTensor 1) w d lost row (normRecord rms d.eps xs)
  let bad := rho.isNan
  let s := noteBackward s w bad (dy ++ gain ++ rowBias rd d)
  let xh := xs.map fun x => if bad then .nan else round32 ((if rms then x else round32 (x.sub mu)).mul rho)
  let n : Val := .fin false d.n 0
  let h := (gain.zip dy).map fun x => round32 (x.1.mul x.2)
  let a := if rms then Val.zero else div32 (rowSum h) n
  let c := div32 (rowSum ((h.zip xh).map fun x => x.1.mul x.2)) n
  let dx := (h.zip xh).map fun x =>
    if bad then Val.nan else rho.mul (round32 ((round32 (x.1.sub a)).sub (round32 (x.2.mul c))))
  let s := writeRow s w d row dx
  let gs := ((accs.take d.n).zip (dy.zip xh)).map fun x => accAdd x.1 (x.2.1.mul x.2.2)
  let bs := ((accs.drop d.n).zip dy).map fun x => accAdd x.1 x.2
  (s, gs ++ bs)

/-! ### Categorical draws (R174) -/

/-- The Gumbel value of 24 random bits. -/
def gumbel (r : Nat) : Val :=
  let u : Val := .fin false (2 * r + 1) (-25)
  (ln32 (ln32 u).neg).neg

/-- The drawn index of the row at position `w` of the destination tensor; none when the row has no candidate. -/
def drawRow (k : Key) (tau : Nat) (w : Nat) (zs : List Val) : Option Nat :=
  let t := decode .k16 tau
  let vs := zs.zipIdx.filterMap fun x =>
    if x.1.isNan || x.1.eq (.inf true) then none
    else
      let r := drawBits k (w * 262144 + x.2) % 2 ^ 24
      let zt := if t.eq Val.one then x.1 else div32 x.1 t
      some (x.2, round32 (zt.add (gumbel r)))
  let m := vs.foldl (fun m x => m.max x.2) (.inf true)
  (vs.find? fun x => x.2.eq m).map (·.1)

/-- A drawn index written and noted (R153, R174). -/
def putDraw (s : State) (w : Who) (d : RowDesc) (row i : Nat) : State :=
  noteWatch (writeGlobal s w (d.dst + 4 * row) (leBytes 4 i)) d.tensor (addWatch 1 (if i = 0 then 1 else 0) 0 0 0)

/-- The categorical draw of one row. The event of a row without candidates names the row within the instruction (DESIGN
CHOICE, log 113). -/
def drawOne (rd : Reader) (w : Who) (d : RowDesc) (s : State) (row : Nat) : State :=
  let zs := sourceVals rd s w d row
  let s := bump s 0x0701 w.unit noTensor 1
  match drawRow (keyOf s d.stream d.tensor) d.eps (rowIndex s d 4 row) zs with
  | some i => putDraw s w d row i
  | none =>
    let s := bump s 0x0705 w.unit noTensor 1
    putDraw (post s 0x0701 (packed [(4, d.tensor), (4, s.step.toNat), (4, row)])) w d row 0xFFFF_FFFF

/-! ### The instructions -/

/-- The row operation descriptor of an instruction. -/
def rowDescOf (s : State) (p : PInstr) : RowDesc := parseRow ((s.program.map fun g => descOf g p.desc).getD [])

/-- What a row operation reads (R165 to R175): its rows, the gradients of a backward, gains and biases, and the carry words
it chains from. -/
def rowSources (d : RowDesc) : List (Nat × Nat) :=
  let backward := d.op == 1 || d.op == 3 || d.op == 5
  let norm := decide (2 ≤ d.op) && decide (d.op ≤ 5)
  [(d.src, d.rows * d.n * fmtBytes d.srcFmt)] ++
    (if backward then [(d.grad, d.rows * d.n * fmtBytes d.srcFmt)] else []) ++
    (if norm && d.affine != 0 then [(d.affine, 4 * d.n)] else []) ++
    (if backward && norm && d.chain then [(d.paramGrad, 16 * d.n)] else [])

def eachRow (f : Reader → Who → RowDesc → State → Nat → State) (rd : Reader) (w : Who) (d : RowDesc) (s : State) : State :=
  (List.range d.rows).foldl (f rd w d) s

/-- A normalisation backward over its rows, and its parameter gradients as carry words; with no base named it writes none
(DESIGN CHOICE, log 113). -/
def normBackwardAll (rms : Bool) (lost : List Nat) (rd : Reader) (w : Who) (d : RowDesc) (s : State) : State :=
  let bad := if d.chain then (List.range (2 * d.n)).find? fun j =>
      (carryParse (leNat (rd (d.paramGrad + 8 * j) 8))).isNone else none
  match bad with
  | some j =>
    let word := leNat (rd (d.paramGrad + 8 * j) 8)
    stopStream (stop (blockFault s w.unit d.tensor j 0xA word word) w) w
  | none =>
    let (s, accs) := (List.range d.rows).foldl (normBackward rms lost rd w d) (s, paramAcc rd d)
    if d.paramGrad = 0 then s else writeGlobal s w d.paramGrad (accs.flatMap fun a => leBytes 8 (carryWord a))

/-- What a row instance reads: where its rows are a narrowed checkpoint's, the blocks that hold them (R178). -/
def rowReads (s : State) (w : Who) (d : RowDesc) : List (Nat × Nat) :=
  match narrowedAt s w d.srcFmt d.src with
  | none => rowSources d
  | some x => blockParts (peek s w.unit) x.1 (placeBlocksOf x.2 (d.rows * d.n)) ++ (rowSources d).drop 1

/-- The Row Engine operation of a code, over all rows in ascending order (R165 to R175); `lost` are the rows whose records have
an uncorrectable error (R171). -/
def rowRun (op : Nat) (lost : List Nat) (rd : Reader) (w : Who) (d : RowDesc) (s : State) : State :=
  match op with
  | 0 => eachRow softForward rd w d s
  | 1 => eachRow (softBackward lost) rd w d s
  | 2 => eachRow (normForward false) rd w d s
  | 3 => normBackwardAll false lost rd w d s
  | 4 => eachRow (normForward true) rd w d s
  | 5 => normBackwardAll true lost rd w d s
  | _ => eachRow drawOne rd w d s

/-- Blocks of such a source are noted for the check of their spans (R81). -/
def noteRowReads (s : State) (w : Who) (d : RowDesc) : State :=
  match narrowedAt s w d.srcFmt d.src with
  | some x => notePlace s w.unit (d.rows * d.n) x
  | none => s

/-- The work of a ROW instance, once its sources are here and the blocks among them pass their checks. -/
def rowWork (s : State) (w : Who) (d : RowDesc) (input : WorkIn) (tried : List (Nat × Nat)) : State :=
  withSources s w (rowReads s w d) (fun s =>
    checked s w input.stale tried (rowFault s w d) (fun rd s => rowRun d.op input.lost rd w d (noteRowReads s w d))
      (input := input)) input

/-- A ROW instruction of operation `op` issues and runs; a carry word that R124 faults is a block-format fault. -/
def rowIssue (op : Nat) (unit : Nat) (lost : List Nat) (s : State) : Host.Outcome State Fault Refusal :=
  issue s unit (fun s p => p.cls == 4 && (rowDescOf s p).op == op) fun s w p => rowWork s w (rowDescOf s p) { lost := lost } []

def execRowSoftmaxForward (unit : Nat) (s : State) : Host.Outcome State Fault Refusal :=
  rowIssue 0 unit [] s

def execRowSoftmaxBackward (unit : Nat) (s : State) (lost : List Nat := []) : Host.Outcome State Fault Refusal :=
  rowIssue 1 unit lost s

def execRowLayerNormForward (unit : Nat) (s : State) : Host.Outcome State Fault Refusal :=
  rowIssue 2 unit [] s

def execRowLayerNormBackward (unit : Nat) (s : State) (lost : List Nat := []) : Host.Outcome State Fault Refusal :=
  rowIssue 3 unit lost s

def execRowRmsNormForward (unit : Nat) (s : State) : Host.Outcome State Fault Refusal :=
  rowIssue 4 unit [] s

def execRowRmsNormBackward (unit : Nat) (s : State) (lost : List Nat := []) : Host.Outcome State Fault Refusal :=
  rowIssue 5 unit lost s

def execRowCategoricalDraw (unit : Nat) (s : State) : Host.Outcome State Fault Refusal :=
  rowIssue 6 unit [] s

end Sys2Proof.Machine
end

