-- ==== Sys2Proof/Machine/Scales.lean ====
section
/-! DEFINITION. Scale trackers (R142 to R148), update ratios and the stall alarm (R149 to R151), the watch list (R152,
R153) and the precision governor (R154 to R162). -/

namespace Sys2Proof.Machine

open Sys2Proof

/-- A write of this module's memory by what has no instance: whole, or by lines where it spans windows. -/
def pokeLocal (s : State) (addr : Nat) (data : List Byte) : State :=
  let r := writeLocal s (spaceOf addr) (offsetOf addr) data
  if r.1 = 0 then r.2
  else (linesOf addr data.length).foldl (fun s l =>
    (writeLocal s (spaceOf l.1) (offsetOf l.1) (sub data (l.1 - addr) l.2)).2) s

/-- A write by the monitors, the loader or a restore to a global address (R150, R153, R162, R219, R295). -/
def poke (s : State) (addr : Nat) (data : List Byte) : State :=
  if data.isEmpty then s
  else if isLocal s (nodeOf addr) then pokeLocal s addr data
  else if replaying s then s
  else (remoteWrites 1024 addr data).foldl (fun s x =>
    (request s x.1 (BitVec.ofNat 64 x.2.1) x.2.2.length x.2.2 .nobody).2) s

def trackDescs (p : Program) : List TrackDesc := (slotsOf p .tracker).map fun x => parseTrack x.2
def layerDescs (p : Program) : List LayerDesc := (slotsOf p .layer).map fun x => parseLayer x.2
def blockDescs (p : Program) : List BlockDesc := (slotsOf p .block).map fun x => parseBlock x.2

/-- Block format of a tensor's block tensor descriptor (R65). -/
def tensorFormat (p : Program) (tensor : Nat) : BFmt :=
  (((blockDescs p).find? (·.tensor == tensor)).map BlockDesc.bfmt).getD .k4

/-! ### Trackers at a huddle (R142 to R147) -/

/-- The largest entry of a history; entries are non-negative K16 codes, which order as numbers. -/
def largest (h : List Word16) : Nat := (h.map BitVec.toNat).foldl max 0

/-- Fit exponent of margin × A (R142). -/
def trackBase (d : TrackDesc) (f : BFmt) (h : List Word16) : Nat :=
  let a := largest h
  if a = 0 then 1 else fitExponent ((decode .k16 d.margin).mul (decode .k16 a)) (blockQ f)

/-- The tensor exponent from the base and the headroom adjustment (R142). -/
def tensorExp (base adj : Nat) : Nat := max 1 (min 255 (base - adj))

/-- A contribution's position list as it travels: beyond 4,095 positions they are dropped (R238). -/
def cutTrack (t : TrackStat) : TrackStat :=
  if t.overflowCut || decide (4095 < t.overflowed.length) then { t with overflowed := [], overflowCut := true } else t

/-- A tracker after the huddle of a step with the combined statistics; the bump table follows at the step's end (R139, R142,
R145, R146). -/
def trackHuddle (d : TrackDesc) (f : BFmt) (t : Tracker) (c : TrackStat) : Tracker :=
  if !c.written then { t with last := c }
  else
    let h := (c.amax :: t.history).take d.history
    let base := trackBase d f h
    let hit := if c.overflowCut then List.range d.positions else c.overflowed
    let adj := if hit.isEmpty then t.adj else 0
    let head := if !hit.isEmpty then 0 else if c.codeBits < d.headBits then min (t.headroom + 1) 255 else 0
    { t with history := h, base := base, adj := adj, headroom := head, st := tensorExp base adj, overflowed := hit, last := c }

/-- Whether the re-fit limit is exceeded (R147). -/
def refits (d : TrackDesc) (t : Tracker) : Bool := t.last.written && d.refit != 0 && decide (d.refit < t.overflowed.length)

/-- The headroom counter has reached the headroom steps: adj is lowered, with an event, or the counter returns to 0 alone
(R145). -/
def halveDue (d : TrackDesc) (t : Tracker) : Bool := t.last.written && decide (d.headSteps ≤ t.headroom)

def halveHeadroom (t : Tracker) : Tracker :=
  if t.adj < 15 then { t with adj := t.adj + 1, headroom := 0, st := tensorExp t.base (t.adj + 1) }
  else { t with headroom := 0 }

def updTracker (s : State) (tensor : Nat) (f : Tracker → Tracker) : State :=
  { s with scales := { s.scales with trackers := s.scales.trackers.map fun t => if t.tensor == tensor then f t else t } }

/-- HEADROOM_HALVING of a tensor, when it is due (R145). -/
def halve (s : State) (d : TrackDesc) : State :=
  match trackerOf s d.tensor with
  | none => s
  | some t =>
    if halveDue d t then
      let s := updTracker s d.tensor halveHeadroom
      if t.adj < 15 then
        post s 0x0602 (packed [(4, d.tensor), (4, s.step.toNat), (4, (BitVec.ofInt 32 (-((t.adj : Int) + 1))).toNat)])
      else s
    else s

def execHeadroomHalving (tensor : Nat) (s : State) : Host.Outcome State Fault Refusal :=
  match trackDescOf s tensor with
  | none => .next s
  | some d => .next (halve s d)

/-- One bump-table entry of the next step (R144). -/
def bumpNext (st : Nat) (hit : Bool) (old : Nat) : Nat := if hit then max st (min 255 (old + 1)) else max st (old - 1)

/-- A bump table written (R144). -/
def setBumps (s : State) (d : TrackDesc) (bs : List Byte) : State :=
  updTracker (poke s d.bump bs) d.tensor fun t => { t with remote := if isLocal s (nodeOf d.bump) then [] else bs }

/-- The state that governs the next step comes into force: the halving that is due, the bump table, a re-fit (R139, R144,
R147). A re-fit stays decided until a step writes the tensor (DEDUCED, log 99). -/
def trackStepEnd (s : State) (d : TrackDesc) : State :=
  let s := halve s d
  match trackerOf s d.tensor with
  | none => s
  | some t =>
    let again := refits d t
    let new := (bumpTable s d).zipIdx.map fun x =>
      if again then (0 : Byte) else BitVec.ofNat 8 (bumpNext t.st (t.overflowed.contains x.2) x.1.toNat)
    let s := if t.last.written then setBumps s d new else s
    updTracker s d.tensor fun t =>
      { t with
        refit := if t.last.written then again else t.refit
        fit := t.history.isEmpty || (if t.last.written then again else t.refit)
        adj := if again then 0 else t.adj
        headroom := if again then 0 else t.headroom
        overflowed := if t.last.written then [] else t.overflowed
        last := noStat d.tensor }

/-! ### Update ratios (R149, R150) -/

/-- The value of an accumulator rounded once to binary32. -/
def acc32 (a : Acc) : Val := round32 (accVal a)

/-- sqrt(num / den), each step rounded to binary32; 0 when both are 0 and +∞ when only the denominator is (R150). -/
def ratio32 (num den : Val) : Val :=
  if den.isZero then (if num.isZero then .fin false 0 0 else .inf false) else sqrt32 (div32 num den)

/-- A quotient of counts rounded to binary32; 0 when nothing was counted. -/
def share32 (n d : Nat) : Val := if d = 0 then .fin false 0 0 else div32 (.fin false n 0) (.fin false d 0)

def val32 (v : Val) : Word32 := BitVec.ofNat 32 (near .b32 v)

def noLayerStat (layer shard : Nat) : LayerStat :=
  { layer := layer, shard := shard, updated := false, w2 := Acc.zero, d2 := Acc.zero, skipped := false, blocks := 0,
    escapes := 0, shadowBlocks := 0, shadowEscapes := 0, saturations := 0, elements := 0, errNum := List.replicate 4 Acc.zero, errDen := Acc.zero, channels := [] }

/-- Sums of one more shard or step under the recurrence of R122 (R149, R157). -/
def addLayer (a b : LayerStat) : LayerStat :=
  let n := max a.channels.length b.channels.length
  { a with
    updated := a.updated || b.updated
    shadowBlocks := a.shadowBlocks + b.shadowBlocks, shadowEscapes := a.shadowEscapes + b.shadowEscapes
    w2 := accAdd a.w2 (accVal b.w2), d2 := accAdd a.d2 (accVal b.d2), skipped := a.skipped || b.skipped
    blocks := a.blocks + b.blocks, escapes := a.escapes + b.escapes, saturations := a.saturations + b.saturations
    elements := a.elements + b.elements
    errNum := (List.range 4).map fun i => accAdd (a.errNum.getD i Acc.zero) (accVal (b.errNum.getD i Acc.zero))
    errDen := accAdd a.errDen (accVal b.errDen)
    channels := (List.range n).map fun i =>
      let x := a.channels.getD i (Acc.zero, Acc.zero)
      let y := b.channels.getD i (Acc.zero, Acc.zero)
      (accAdd x.1 (accVal y.1), accAdd x.2 (accVal y.2)) }

/-- One block added to a shard's sums (R149, R157). -/
def addBlock (t : LayerStat) (x : BlockSum) : LayerStat :=
  let n := x.channels.foldl (fun m c => max m (c.1 + 1)) t.channels.length
  let ch := t.channels ++ List.replicate (n - t.channels.length) (Acc.zero, Acc.zero)
  { t with
    w2 := accAdd t.w2 x.w2, d2 := accAdd t.d2 x.d2
    channels := x.channels.foldl (fun ch c => ch.modify c.1 fun y => (accAdd y.1 c.2.1, accAdd y.2 c.2.2)) ch
    errNum := if x.errNum.isEmpty then t.errNum else (t.errNum.zip x.errNum).map fun y => accAdd y.1 y.2
    errDen := if x.errNum.isEmpty then t.errDen else accAdd t.errDen x.errDen }

/-- An update's sums: its blocks in ascending block number, whatever order they were written in (R149, R157). Where a layer
has several weight tensors, those of the lower descriptor slot come first (DESIGN CHOICE, log 113). -/
def withSums (t : LayerStat) (bs : List BlockSum) : LayerStat :=
  (bs.mergeSort fun a b => decide (a.desc < b.desc) || (a.desc == b.desc && decide (a.block ≤ b.block))).foldl addBlock t

/-- A layer's combined statistics: its shards in ascending shard index (R149, R238). -/
def layerTotal (layer : Nat) (ls : List LayerStat) : LayerStat :=
  ((ls.filter (·.layer == layer)).mergeSort fun a b => decide (a.shard ≤ b.shard)).foldl addLayer (noLayerStat layer 0)

/-! ### The stall alarm (R151) -/

def stallOn (d : LayerDesc) : Bool := bitAt d.flags 0 && !(decode .k16 d.stallFloor).isZero

/-- The stall counter after a huddle with layer ratio `u`. -/
def stallNext (d : LayerDesc) (count : Nat) (skipped : Bool) (u : Val) : Nat :=
  if !stallOn d || skipped then count
  else if u.lt (decode .k16 d.stallFloor) then min (count + 1) 65535 else 0

def stallDue (d : LayerDesc) (l : LayerState) : Bool :=
  stallOn d && !l.alarm && decide (d.stallSteps ≤ l.stall) && (decode .b32 l.ratio.toNat).lt (decode .k16 d.stallFloor)

def updLayer (s : State) (layer : Nat) (f : LayerState → LayerState) : State :=
  { s with scales := { s.scales with layers := s.scales.layers.map fun l => if l.layer == layer then f l else l } }

def layerOf (s : State) (layer : Nat) : Option LayerState := s.scales.layers.find? (·.layer == layer)

/-- The stall alarm is raised when it is due; stall action 1 asks for a pause in the next huddle (R151). -/
def raiseStall (s : State) (d : LayerDesc) : State :=
  match layerOf s d.layer with
  | none => s
  | some l =>
    if stallDue d l then
      let s := updLayer s d.layer fun l => { l with alarm := true, pauseAsked := l.pauseAsked || bitAt d.flags 1 }
      post s 0x0603 (packed [(2, d.layer), (4, s.step.toNat), (4, l.ratio.toNat)])
    else s

def execStallAlarm (layer : Nat) (s : State) : Host.Outcome State Fault Refusal :=
  match (s.program.map layerDescs).bind fun ds => ds.find? (·.layer == layer) with
  | none => .next s
  | some d => .next (raiseStall s d)

/-! ### The coach (R154 to R160) -/

/-- Block format of a coach format code: K2, K3, K4, blocked K8f (R154). -/
def coachFormat (c : Nat) : BFmt :=
  match c with
  | 0 => .k2 | 1 => .k3 | 2 => .k4 | _ => .bk8f

/-- Format of the transposed copy paired with a coach format (R154). -/
def pairedFormat (c : Nat) : BFmt := if c = 3 then .bk8f else .k4

/-- The coach's inputs: E, S, the four errors and U (R156). -/
structure CoachIn where
  e : Val
  s : Val
  err : List Val
  u : Val
  deriving DecidableEq, Repr

/-- Inputs from a window, oldest step first, for the current format: under K8f the escapes are those of the K4 shadows
(R156). -/
def coachInputs (cur : Nat) (window : List LayerStat) (u : Val) : CoachIn :=
  let t := window.reverse.foldl addLayer (noLayerStat 0 0)
  let den := acc32 t.errDen
  { e := if cur = 3 then share32 t.shadowEscapes t.shadowBlocks else share32 t.escapes t.blocks
    s := share32 t.saturations t.elements
    err := (List.range 4).map fun i =>
      if den.isZero then .fin false 0 0 else sqrt32 (div32 (acc32 (t.errNum.getD i Acc.zero)) den)
    u := u }

/-- The wished format: one width wider, one narrower, or the current one (R158). -/
def coachWant (d : LayerDesc) (i : CoachIn) (cur since : Nat) (alarm : Bool) : Nat :=
  let k (c : Nat) : Val := decode .k16 c
  let err (f : Nat) : Val := i.err.getD f (.fin false 0 0)
  let widen := (k d.eHi).lt i.e || (k d.sHi).lt i.s || (k d.errMax).lt (err cur)
  let narrow := decide (0 < cur) && i.e.le (k d.eLo) && i.s.le (k d.sLo) &&
    (err (cur - 1)).le ((k d.errMax).mul (.fin false 3 (-2))) && i.u.le (k d.uNar) && !alarm && decide (d.dwell ≤ since)
  if widen then cur + 1 else if narrow then cur - 1 else cur

/-- The bounds scheduled for a step's huddle come into force before the coach decides (R160). -/
def applyBounds (s : State) (d : LayerDesc) : State :=
  match layerOf s d.layer with
  | none => s
  | some l =>
    match l.bounds.find? (·.1 == s.step) with
    | none => s
    | some (_, fl, ce) =>
      let fmt := max fl (min ce l.format)
      let s := updLayer s d.layer fun l => { l with
        floor := fl, ceil := ce, format := fmt, since := 0, bounds := l.bounds.filter (·.1 != s.step) }
      post s 0x0607 (packed [(2, d.layer), (4, s.step.toNat), (1, fl), (1, ce), (1, fmt)])

/-- Floats of the channel ratios (R150). -/
def channelRatios (t : LayerStat) : List Word32 := t.channels.map fun c => val32 (ratio32 (acc32 c.2) (acc32 c.1))

/-- The 64 bytes of a layer record (R162). -/
def layerRecord (step layer fmt flags stall : Nat) (u smallest : Word32) (below : Nat) (i : CoachIn) (since : Nat) : List Byte :=
  leBytes 8 step ++ leBytes 4 layer ++ [BitVec.ofNat 8 fmt, BitVec.ofNat 8 flags] ++ leBytes 2 (min stall 65535) ++
    leBytes 4 u.toNat ++ leBytes 4 smallest.toNat ++ leBytes 4 below ++ leBytes 4 (val32 i.e).toNat ++
    leBytes 4 (val32 i.s).toNat ++ (i.err.flatMap fun v => leBytes 4 (val32 v).toNat) ++ leBytes 2 (min since 65535) ++
    List.replicate 10 0

/-- Whether a step's statistics hold an update (none before the first). -/
def hasUpdate (t : LayerStat) : Bool := t.updated

/-- Bounds that the host has scheduled for the huddle of this step (R160). -/
def boundsDue (s : State) (l : LayerState) : Option (Nat × Nat) := (l.bounds.find? (·.1 == s.step)).map (·.2)

/-- One layer's huddle (R150, R151, R156, R158, R159, R160, R162). While the window has no update the coach does not narrow
(DEDUCED, log 99). The record of a huddle with no update behind it holds the last U and channel ratio, 0 before the first
update (DESIGN CHOICE, log 113). -/
def layerHuddle (s : State) (d : LayerDesc) (t : LayerStat) : State :=
  let before := layerOf s d.layer
  let forced := before.any fun l => (boundsDue s l).isSome
  let s := applyBounds s d
  match layerOf s d.layer with
  | none => s
  | some l =>
    let step := s.step.toNat
    let u := if hasUpdate t then ratio32 (acc32 t.d2) (acc32 t.w2) else decode .b32 l.ratio.toNat
    let stall := if hasUpdate t then stallNext d l.stall t.skipped u else l.stall
    let clear := l.alarm && hasUpdate t && !(u.lt (decode .k16 d.stallFloor))
    let s := if clear then post s 0x0604 (packed [(2, d.layer), (4, step), (4, (val32 u).toNat)]) else s
    let alarm := (l.alarm && !clear) || stallDue d { l with alarm := false, stall := stall, ratio := val32 u }
    let window := (t :: l.window).take d.window
    let i := coachInputs l.format window u
    let since := if forced then 0 else min (l.since + 1) 65535
    let want := (fun w => if window.any hasUpdate then w else max l.format w) (coachWant d i l.format since alarm)
    let out := decide (l.ceil < want) || decide (want < l.floor)
    let new := max l.floor (min l.ceil want)
    let changed := new != l.format
    let s := if out && !l.advised then
        post s 0x0606 (packed [(2, d.layer), (4, step), (1, want), (1, l.floor), (1, l.ceil)])
      else s
    let s := if changed then
        post s 0x0605 (packed [(2, d.layer), (4, step), (1, l.format), (1, new), (4, (val32 i.e).toNat),
          (4, (val32 i.s).toNat), (4, (val32 (i.err.getD new (.fin false 0 0))).toNat)])
      else s
    let since := if changed then 0 else since
    let ch := if hasUpdate t then channelRatios t else l.channels
    let s := if d.channels = 0 then s else poke s d.channels (ch.flatMap fun w => leBytes 4 w.toNat)
    let smallest := ch.foldl (fun m w => if w.toNat < m then w.toNat else m) 0x7F80_0000
    let below := (ch.filter fun w => (decode .b32 w.toNat).lt (decode .k16 d.stallFloor)).length
    let moved := before.any fun l => l.format != new
    let flags := (if alarm then 1 else 0) + (if out then 2 else 0) + (if moved then 4 else 0)
    let s := if d.record = 0 then s
      else poke s (d.record + 64 * (step % max d.entries 1))
        (layerRecord step d.layer new flags stall (val32 u) (BitVec.ofNat 32 (if ch.isEmpty then 0 else smallest)) below i since)
    updLayer s d.layer fun l => { l with
      format := new, since := since, stall := stall, alarm := l.alarm && !clear, advised := out, ratio := val32 u
      window := window, channels := ch, stat := noLayerStat d.layer d.shard, sums := [] }

/-! ### The watch list (R152, R153) -/

def sat32 (n : Nat) : Nat := min n 0xFFFF_FFFF

/-- A watch record (R153). -/
def watchRecord (step : Nat) (c : WatchCount) : List Byte :=
  leBytes 8 step ++ leBytes 4 c.tensor ++ leBytes 4 (sat32 c.written) ++ leBytes 4 (sat32 c.zeros) ++
    leBytes 4 (sat32 c.saturations) ++ leBytes 4 (sat32 c.nonFinite) ++ leBytes 4 (sat32 c.accNonFinite)

/-- Limits a step's counts exceed: the limit (log 36 on its codes) and the count (R152). -/
def watchExceeded (w : Watch) (c : WatchCount) : List (Nat × Nat) :=
  (if w.zeroLimit ≠ 0 ∧ w.zeroLimit * c.written < c.zeros * 65536 then [(1, c.zeros)] else []) ++
  (if w.satLimit ≠ 0 ∧ w.satLimit * c.written < c.saturations * 65536 then [(2, c.saturations)] else []) ++
  (if w.nonFiniteLimit ≠ 0xFFFF_FFFF ∧ w.nonFiniteLimit < c.nonFinite then [(3, c.nonFinite)] else [])

/-- One watch entry at a huddle: its record and its events (R153). -/
def watchEntry (s : State) (w : Watch) : State :=
  let c := (s.scales.watchCounts.find? (·.tensor == w.tensor)).getD (noWatch w.tensor)
  let step := s.step.toNat
  let s := if w.recordBase = 0 then s
    else poke s (w.recordBase + 32 * (step % max w.recordEntries 1)) (watchRecord step c)
  (watchExceeded w c).foldl (fun s x =>
    post s 0x0608 (packed [(4, w.tensor), (4, step), (1, x.1), (4, sat32 x.2)])) s

/-- The watch list at a huddle: records, events, then the changes the host has asked for (R152, R153). What is written
after the huddle counts in the next step's record (DEDUCED, log 99). -/
def watchHuddle (s : State) : State :=
  let s := (s.scales.watch.toList.filterMap id).foldl watchEntry s
  let watch := s.scales.watchNext.foldl (fun v x => setAt v x.1 x.2) s.scales.watch
  { s with scales := { s.scales with watch := watch, watchNext := [], watchCounts := [] } }

/-! ### Statistics for the huddle (R140, R141, R156) -/

/-- The settings digest of a replica set (R141); the bounds are those in force at the huddle of this step (R160). -/
def settingsDigest (s : State) (set : Nat) : Word32 :=
  match s.program with
  | none => 0
  | some p =>
    let ts := ((slotsOf p .tracker).filter fun x => (parseTrack x.2).replica == set).mergeSort fun a b =>
      decide ((parseTrack a.2).tensor ≤ (parseTrack b.2).tensor)
    let ls := ((slotsOf p .layer).filter fun x => (parseLayer x.2).replica == set).mergeSort fun a b =>
      decide ((parseLayer a.2).layer ≤ (parseLayer b.2).layer)
    let bounds (x : List Byte) : List Byte :=
      match layerOf s (parseLayer x).layer with
      | some l =>
        let (fl, ce) := (boundsDue s l).getD (l.floor, l.ceil)
        x.take 12 ++ [BitVec.ofNat 8 fl, BitVec.ofNat 8 ce] ++ (x.drop 14).take 50
      | none => x.take 64
    BitVec.ofNat 32 (beNat ((sm3 ((ts.flatMap fun x => x.2.take 32) ++ ls.flatMap fun x => bounds x.2)).take 4))

/-- The counts of a step that is given up begin at 0 again (R156, R164). -/
def clearStepCounts (s : State) : State := { s with counts := s.counts.map fun c => { c with cur := 0 } }

def countCur (s : State) (id tensor : Nat) : Nat :=
  ((s.counts.filter fun c => c.id == id && c.tensor == tensor).map (·.cur)).sum

/-- Saturations and elements of a layer's output tensor in the step (R156). -/
def outputShare (s : State) (p : Program) (tensor : Nat) : Nat × Nat :=
  if tensor = 0xFFFF_FFFF then (0, 0)
  else
    let blocks := countCur s 0x0301 tensor
    let elems := if 0 < blocks then 32 * blocks
      else ((p.layouts.find? (·.tensor == tensor)).map Layout.elements).getD 0
    (countCur s 0x0201 tensor, elems)

/-- This module's layer statistics for the huddle: the update of the step before, and the output tensor of this step. -/
def ownLayers (s : State) (p : Program) : List LayerStat :=
  (layerDescs p).filterMap fun d => (layerOf s d.layer).map fun l =>
    let (sat, n) := outputShare s p d.output
    let t := withSums l.stat l.sums
    { t with saturations := t.saturations + sat + l.late.1, elements := t.elements + n + l.late.2 }

/-! ### At the huddle and at the end of the step (R139) -/

/-- Each layer with the share of its output tensor so far. -/
def withShares (s : State) (f : LayerState → Nat × Nat → LayerState) : State :=
  match s.program with
  | none => s
  | some p => (layerDescs p).foldl (fun s d => let x := outputShare s p d.output; updLayer s d.layer fun l => f l x) s

/-- The contribution is made: the trackers' statistics and the output shares of the step so far are in it, and those of later
writes begin (DEDUCED, log 99). -/
def statsTaken (s : State) : State :=
  withShares { s with scales := { s.scales with trackers := s.scales.trackers.map fun t => { t with stat := noStat t.tensor } } }
    fun l x => { l with taken := x, late := (0, 0) }

/-- What was written of the output tensors after the contribution goes into the next step's (R156; DEDUCED, log 99). -/
def lateShares (s : State) : State :=
  withShares s fun l x => { l with taken := (0, 0), late := (x.1 - l.taken.1, x.2 - l.taken.2) }

/-- The huddle of a step has completed: trackers, layers and the watch list take the combined statistics. Of a list dropped
beyond 4,095 positions (R238) event 0x0601 counts the tensor's positions (DESIGN CHOICE, log 113). -/
def scalesHuddle (s : State) (h : Huddle) : State :=
  match s.program with
  | none => s
  | some p =>
    let s := (trackDescs p).foldl (fun s d =>
      let c := (h.tracks.find? (·.tensor == d.tensor)).getD (noStat d.tensor)
      let s := updTracker s d.tensor fun t => trackHuddle d (tensorFormat p d.tensor) t c
      match trackerOf s d.tensor with
      | some t =>
        if refits d t then post s 0x0601 (packed [(4, d.tensor), (4, s.step.toNat), (4, t.overflowed.length)]) else s
      | none => s) s
    let s := (layerDescs p).foldl (fun s d => layerHuddle s d (layerTotal d.layer h.layers)) s
    watchHuddle s

/-- The step ends: what the huddle decided governs the next step. -/
def scalesStepEnd (s : State) : State :=
  match s.program with
  | none => s
  | some p =>
    let s := (layerDescs p).foldl raiseStall s
    (trackDescs p).foldl trackStepEnd s

end Sys2Proof.Machine
end

