-- ==== Sys2Proof/Machine/VectorEngine.lean ====
section
/-! DEFINITION. Vector Engine instructions: element-wise arithmetic and conversions (R48 to R50, R63), sums, the tie-sum
pass (R185), the reading of carry words (R168) and the flag read (R204). The spec gives the operations and not the layout
of the operand descriptor; log 12 says how the program carries it. -/

namespace Sys2Proof.Machine

open Sys2Proof

/-! ### One element (R31, R34, R48, R50) -/

/-- A result: its exact value and the flags its operation raises before rounding. -/
structure VeOut where
  v : Val
  flags : BitVec 5
  deriving DecidableEq, Repr

def veOut (operands : List Val) (v : Val) : VeOut := { v := v, flags := flagIf (invalidOf operands v) flagInvalid }

def isNegative : Val → Bool
  | .fin n _ _ => n
  | .inf n => n
  | .nan => false

/-- IEEE minimum order with −0 below +0. -/
def below (a b : Val) : Bool := a.lt b || (a.eq b && isNegative a && !isNegative b)

def minimum (a b : Val) : Val := if a.isNan || b.isNan then .nan else if below b a then b else a
def maximum (a b : Val) : Val := if a.isNan || b.isNan then .nan else if below a b then b else a
def minNum (a b : Val) : Val := if a.isNan then b else if b.isNan then a else minimum a b
def maxNum (a b : Val) : Val := if a.isNan then b else if b.isNan then a else maximum a b

def truth (b : Bool) : Val := if b then Val.one else Val.zero

/-- Invalid operation of an ordered comparison: a NaN operand, but not in a K16 operation (R34, R48; that the ordered
comparisons signal on a quiet NaN and the equality does not is DEDUCED from IEEE 754-2019, log 98). -/
def orderedFlag (k16 : Bool) (a b : Val) : BitVec 5 := flagIf (!k16 && (a.isNan || b.isNan)) flagInvalid

/-- The exact result of an element-wise operation; `k16` when it is a K16 operation (R50). -/
def veExact (fn : VeFn) (k16 : Bool) (a b c : Val) : VeOut :=
  match fn with
  | .add => veOut [a, b] (a.addTerm b)
  | .sub => veOut [a, b] (a.addTerm b.neg)
  | .mul => veOut [a, b] (a.mul b)
  | .fma => veOut [a, b, c] ((a.mul b).addTerm c)
  | .div =>
    let o := veOut [a, b] (a.div b)
    { o with flags := o.flags ||| flagIf (b.isZero && a.isFinite && !a.isZero) flagDivZero }
  | .sqrt => veOut [a] a.sqrt
  | .min => { v := minimum a b, flags := 0 }
  | .max => { v := maximum a b, flags := 0 }
  | .minNumber => { v := minNum a b, flags := 0 }
  | .maxNumber => { v := maxNum a b, flags := 0 }
  | .compareEq => { v := truth (a.eq b), flags := 0 }
  | .compareLt => { v := truth (a.lt b), flags := orderedFlag k16 a b }
  | .compareLe => { v := truth (a.le b), flags := orderedFlag k16 a b }
  | _ => { v := a, flags := 0 }

/-- An exact sum or difference of zeros and cancelling terms under IEEE 754-2019: −0 toward −∞ (R48, R477). -/
def ieeeZero (rnd : Rnd) (fn : VeFn) (a b c r : Val) : Val :=
  let terms := match fn with
    | .add => (a, b)
    | .sub => (a, b.neg)
    | .fma => (a.mul b, c)
    | _ => (r, r)
  match r with
  | .fin _ 0 e => if rnd = .towardNeg ∧ isNegative terms.1 ≠ isNegative terms.2 then .fin true 0 e else r
  | _ => r

/-- How many sources an operation reads. -/
def veArity : VeFn → Nat
  | .fma => 3
  | .sqrt | .toInt | .fromInt | .convert | .toG16 | .toBlock | .sum | .fromCarry => 1
  | .fromBlock | .tieSum | .flagRead => 0
  | _ => 2

/-- The format arithmetic rounds to: K16 when every source is K16, otherwise binary32 (R49, R50). -/
def veFormat (op : VeOp) : Fmt :=
  if op.a.fmt = .k16 ∧ (veArity op.fn < 2 ∨ op.b.fmt = .k16) ∧ (veArity op.fn < 3 ∨ op.c.fmt = .k16) then .k16 else .b32

def veCode (rd : Reader) (g : VeArg) (i : Nat) : Nat := leNat (rd (g.base.toNat + i * fmtBytes g.fmt) (fmtBytes g.fmt))

/-- A VE operand's places in the blocks of a narrowed checkpoint, by its base address; an operation outside a recompute stage
has none (R178). -/
abbrev Narrowed := Fmt → Nat → Option (BlockDesc × Nat)

/-- Code of an operand's element `i`: its own, or the binary32 code of the value that a narrowed checkpoint expands to, which
binary32 holds exactly (R50, R178). -/
def veSrc (rd : Reader) (nar : Narrowed) (g : VeArg) (i : Nat) : Fmt × Nat :=
  match nar g.fmt g.base.toNat with
  | some x => (.b32, near .b32 (placeElem rd x i))
  | none => (g.fmt, veCode rd g i)

/-- Rounding of a first conversion into `f` whose result is converted again: the instruction's mode where `f` has it, but
never stochastic, so that an element draws its bits once (R51, R54; log 12). -/
def firstRnd (f : Fmt) (rnd : Rnd) : Rnd := if rnd ≠ .stochastic ∧ roundsTo f rnd then rnd else .nearestEven

def isCompare : VeFn → Bool
  | .compareEq | .compareLt | .compareLe => true
  | _ => false

/-- One element with its random cells `r`: the destination code and the flags raised. The source weight of an arithmetic
result is that of the lowest bit of its exact value, and of the bits formed of a quotient or root (R54; log 35). A
binary32 signalling NaN raises invalid and makes the result a NaN (R48). -/
def veElement (rd : Reader) (op : VeOp) (r i : Nat) (nar : Narrowed := fun _ _ => none) : Conv × BitVec 5 :=
  let codes := [op.a, op.b, op.c].take (veArity op.fn) |>.map fun g => veSrc rd nar g i
  let val (n : Nat) : Val := (codes[n]?.map fun x => decode x.1 x.2).getD Val.zero
  let sig := codes.any fun x => signalling x.1 x.2
  let o := veExact op.fn (veFormat op == .k16) (val 0) (val 1) (val 2)
  let flags := o.flags ||| flagIf sig flagInvalid
  let f := if op.fn = .convert then op.dst.fmt else veFormat op
  let rnd := if f = op.dst.fmt then op.rnd else firstRnd f op.rnd
  let v := if sig && !isCompare op.fn then .nan else ieeeZero rnd op.fn (val 0) (val 1) (val 2) o.v
  let c := convertFull f rnd v.weight r v
  if f = op.dst.fmt then (c, flags ||| convFlags c)
  else
    let v' := decode f c.code
    let c' := convertFull op.dst.fmt op.rnd v'.weight r v'
    (c', flags ||| convFlags c ||| convFlags c')

/-! ### Integers (R48) -/

/-- A finite value rounded to an integer, and whether it was inexact. -/
def roundInt (rnd : Rnd) (v : Val) : Int × Bool :=
  match v with
  | .fin n m e =>
    if 0 ≤ e then (signedMag n (m * 2 ^ e.toNat), false)
    else
      let d := (-e).toNat
      let lo := m / 2 ^ d
      let rem := m % 2 ^ d
      let up := match rnd with
        | .nearestEven => decide (2 ^ (d - 1) < rem) || (rem == 2 ^ (d - 1) && lo % 2 == 1)
        | .towardPos => !n && rem != 0
        | .towardNeg => n && rem != 0
        | _ => false
      (signedMag n (if up then lo + 1 else lo), rem != 0)
  | _ => (0, false)

/-- Conversion of a code to a 32-bit integer, signed two's complement (DEDUCED, log 98): out of range or not a number it
leaves an open value (log 3) and raises invalid, but for a K16 NaN (R34). -/
def toInt32 (f : Fmt) (code : Nat) (rnd : Rnd) : Nat × BitVec 5 :=
  let v := decode f code
  let (i, inexact) := roundInt rnd v
  if v.isFinite ∧ -(2 ^ 31 : Int) ≤ i ∧ i < 2 ^ 31 then ((BitVec.ofInt 32 i).toNat, flagIf inexact flagInexact)
  else ((Config.outOfRangeInt f code rnd).toNat, flagIf (!(f == .k16 && v.isNan)) flagInvalid)

/-! ### The identity of an element (R132) -/

def layoutIn (s : State) (i : Nat) : Layout := (s.program.map fun p => layoutOf p i).getD noLayout

/-- Element index of the `i`-th element that an instruction writes in its destination tensor's storage order. -/
def veIndex (s : State) (op : VeOp) (i : Nat) : Nat :=
  let l := layoutIn s op.lay
  elemIndex l (plainCoords l (op.first + i))

/-- Random cells of an element that an instruction converts (R132). -/
def veCells (s : State) (op : VeOp) (index : Nat) : Nat := cells (keyOf s op.stream op.tensor) op.rnd index

/-! ### Whole instructions -/

/-- One element of a scalar destination written and counted, and its flags raised (R48, R62, R153). -/
def putElement (s : State) (w : Who) (op : VeOp) (addr : Nat) (c : Conv) (fl : BitVec 5) : State :=
  let f := op.dst.fmt
  let sat := if saturates f && c.saturated then 1 else 0
  let s := writeGlobal s w addr (leBytes (fmtBytes f) c.code)
  let s := bump s 0x0201 noInst op.tensor sat
  let s := noteWatch s op.tensor (addWatch 1 (if codeZero f c.code then 1 else 0) sat
    (if codeNonFinite f c.code then 1 else 0) 0)
  raiseFlags s w.unit fl

/-- Address of the `i`-th element of an instruction's destination. -/
def dstAddr (op : VeOp) (i : Nat) : Nat := op.dst.base.toNat + i * fmtBytes op.dst.fmt

/-- Element-wise operations and conversions between scalar formats. -/
def veElementwise (rd : Reader) (w : Who) (op : VeOp) (s : State) : State :=
  (List.range op.count).foldl (fun s i =>
    let (c, fl) := veElement rd op (veCells s op (veIndex s op i)) i (fun f a => narrowedAt s w f a)
    putElement s w op (dstAddr op i) c fl) s

def veToInt (rd : Reader) (w : Who) (op : VeOp) (s : State) : State :=
  (List.range op.count).foldl (fun s i =>
    let (f, code) := veSrc rd (fun f a => narrowedAt s w f a) op.a i
    let (x, fl) := toInt32 f code op.rnd
    let s := writeGlobal s w (op.dst.base.toNat + 4 * i) (leBytes 4 x)
    let s := noteWatch s op.tensor (addWatch 1 (if x = 0 then 1 else 0) 0 0 0)
    raiseFlags s w.unit (fl ||| flagIf (signalling f code) flagInvalid)) s

def veFromInt (rd : Reader) (w : Who) (op : VeOp) (s : State) : State :=
  (List.range op.count).foldl (fun s i =>
    let v := ofInt false (int32 (leNat (rd (op.a.base.toNat + 4 * i) 4))) 0
    let c := convertFull op.dst.fmt op.rnd v.weight (veCells s op (veIndex s op i)) v
    putElement s w op (dstAddr op i) c (convFlags c)) s

/-- Conversion into G16: the named bucket fixes the tensor, and the elements run from its first element on (R249; log 12). Of
the sticky flags it raises invalid for a signalling operand and no other (DESIGN CHOICE, log 98). -/
def veToG16 (rd : Reader) (w : Who) (op : VeOp) (s : State) : State :=
  let b := parseBucket ((s.program.map fun p => descOf p op.slot).getD [])
  (List.range op.count).foldl (fun s i =>
    let (f, code) := veSrc rd (fun f a => narrowedAt s w f a) op.a i
    let v := decode f code
    let idx := b.first + op.first + i
    let s := writeG16 s w b.tensor idx
      { v := v, w := v.weight, r := cells (keyOf s op.stream b.tensor) .stochastic idx }
    raiseFlags s w.unit (flagIf (signalling f code) flagInvalid)) s

/-- The block tensor that a conversion from or to blocks names. -/
def veBlock (s : State) (op : VeOp) : BlockDesc := parseBlock ((s.program.map fun p => descOf p op.slot).getD [])

/-- The operands of an operation that reads scalars. -/
def veArgs (op : VeOp) : List VeArg :=
  if op.fn = .fromInt ∨ op.fn = .fromCarry then [] else [op.a, op.b, op.c].take (veArity op.fn)

/-- How many elements an operand holds for an operation: a conversion to blocks reads by coordinates, up to the last one. -/
def veSpan (s : State) (op : VeOp) : Nat :=
  if op.fn = .toBlock then
    let ld := layoutIn s op.lay
    ((veBlocks op).flatMap fun b => (List.range 32).filterMap fun i =>
      let e := blockCoords ld b i
      if inside ld e then some (plainPlace (layoutIn s op.layA) e + 1) else none).foldl max 0
  else op.count

/-- The places of an operation's operands in the blocks of narrowed checkpoints (R178). -/
def vePlaces (s : State) (w : Who) (op : VeOp) : List (BlockDesc × Nat) :=
  (veArgs op).filterMap fun g => narrowedAt s w g.fmt g.base.toNat

/-- The first failed check among the blocks that a conversion or a recomputed operation reads (R81). -/
def veFault (s : State) (w : Who) (op : VeOp) (rd : Reader) : Option (BlockDesc × Skew) :=
  if op.fn ≠ .fromBlock then (vePlaces s w op).findSome? (placeFault s w.unit rd (veSpan s op))
  else
    let d := veBlock s op
    (checkBlocks rd d (readBefore s w.unit d) (veBlocks op)).map fun e => (d, e)

/-- Block elements expanded to their places in a plain tensor (R63, R86). -/
def veFromBlock (rd : Reader) (w : Who) (op : VeOp) (s : State) : State :=
  let d := veBlock s op
  let la := layoutIn s op.layA
  let ld := layoutIn s op.lay
  let all := (veBlocks op).flatMap fun b => (List.range 32).map fun i => (b, i)
  (all.filter fun x => inside la (blockCoords la x.1 x.2)).foldl (fun s x =>
    let e := blockCoords la x.1 x.2
    let v := blockElem rd d x.1 x.2
    let c := convertFull op.dst.fmt op.rnd v.weight (veCells s op (elemIndex ld e)) v
    putElement s w op (dstAddr op (plainPlace ld e)) c (convFlags c)) (noteRead s w.unit d (veBlocks op))

/-- Scalars of a plain tensor encoded into the blocks of a block tensor, each span in ascending block number; a block's
conversions raise their flags as it is encoded (R48, R63, R69 to R79). -/
def veToBlock (rd : Reader) (w : Who) (op : VeOp) (s : State) : State :=
  let d := veBlock s op
  let la := layoutIn s op.layA
  let ld := layoutIn s op.lay
  let code (e : List Nat) : Fmt × Nat := veSrc rd (fun f a => narrowedAt s w f a) op.a (plainPlace la e)
  let src (b i : Nat) : Src :=
    let e := blockCoords ld b i
    if inside ld e then
      let v := decode (code e).1 (code e).2
      { v := v, w := v.weight, r := cells (keyOf s op.stream d.tensor) d.rnd (elemIndex ld e) }
    else Src.zero
  let blocks := (veBlocks op).map fun b => (b, (List.range 32).map (src b))
  let sig := (veBlocks op).any fun b => (List.range 32).any fun i =>
    let e := blockCoords ld b i
    inside ld e && signalling (code e).1 (code e).2
  blocks.foldl (fun s x => putBlock s { who := w, slot := op.slot, b := x.1, xs := x.2 })
    (raiseFlags s w.unit (flagIf sig flagInvalid))

/-- One binary32 result written and noted (R153). -/
def putB32 (s : State) (w : Who) (tensor addr code : Nat) : State :=
  noteWatch (writeGlobal s w addr (leBytes 4 code)) tensor
    (addWatch 1 (if codeZero .b32 code then 1 else 0) 0 (if codeNonFinite .b32 code then 1 else 0) 0)

/-- Flags of a sum of codes that is rounded once: those of the rounding, and invalid for a signalling operand or for opposite
infinities, which make a NaN of operands that are none (R48). -/
def sumFlags (codes : List (Fmt × Nat)) (c : Conv) (sum : Val) : BitVec 5 :=
  let made := sum.isNan && !codes.any fun x => (decode x.1 x.2).isNan
  convFlags c ||| flagIf (made || codes.any fun x => signalling x.1 x.2) flagInvalid

/-- A row or segment sum: chunk sums under the recurrence of R122, rounded once to binary32 (log 12). -/
def veSum (rd : Reader) (w : Who) (op : VeOp) (s : State) : State :=
  let codes := (List.range op.count).map fun i => veSrc rd (fun f a => narrowedAt s w f a) op.a i
  let v := accVal (chunkedSum (codes.map fun x => decode x.1 x.2))
  let c := convertFull .b32 op.rnd 0 0 v
  raiseFlags (putB32 s w op.tensor op.dst.base.toNat c.code) w.unit (sumFlags codes c v)

/-- Carry words converted to binary32 nearest-even (R124, R168); the first word that R124 faults. -/
def carryBad (rd : Reader) (op : VeOp) : Option (Nat × Nat) :=
  ((List.range op.count).map fun i => (i, leNat (rd (op.a.base.toNat + 8 * i) 8))).find? fun x => (carryParse x.2).isNone

def veFromCarry (rd : Reader) (w : Who) (op : VeOp) (s : State) : State :=
  match carryBad rd op with
  | some (i, word) => stopStream (stop (blockFault s w.unit op.tensor i 0xA word word) w) w
  | none => (List.range op.count).foldl (fun s i =>
      let a := (carryParse (leNat (rd (op.a.base.toNat + 8 * i) 8))).getD .nan
      let c := convertFull .b32 .nearestEven 0 0 (accVal a)
      raiseFlags (putB32 s w op.tensor (op.dst.base.toNat + 4 * i) c.code) w.unit (convFlags c)) s

/-! ### The tie-sum pass (R185) -/

/-- Base of a tensor's binary32 gradient, as its buckets name it (R246). -/
def gradBaseOf (p : Program) (tensor : Nat) : Nat :=
  (((slotsOf p .bucket).find? fun x => (parseBucket x.2).tensor == tensor).map fun x => (parseBucket x.2).grad).getD 0

/-- The update descriptor of a master weight. -/
def updateOfMaster (p : Program) (tensor : Nat) : Option UpdateDesc :=
  ((slotsOf p .update).map fun x => parseUpdate x.2).find? fun u => (parsePlain (descOf p u.master)).tensor == tensor

/-- Element index in use `u` of forward-order element `i` (R185). -/
def useIndex (t : TieDesc) (rows cols u i : Nat) : Nat := if bitAt t.orient u then i % cols * rows + i / cols else i

/-- Gradient codes of element `i` in every use. -/
def tieCodes (rd : Reader) (p : Program) (t : TieDesc) (rows cols i : Nat) : List (Fmt × Nat) :=
  (List.range t.uses).map fun u => (.b32, leNat (rd (gradBaseOf p (t.tensors.getD u 0) + 4 * useIndex t rows cols u i) 4))

/-- The sum of gradient codes, its conversion to binary32 and its flags. -/
def tieSum (codes : List (Fmt × Nat)) : Conv × BitVec 5 :=
  let v := accVal (accSum Acc.zero (codes.map fun x => decode x.1 x.2))
  let c := convertFull .b32 .nearestEven 0 0 v
  (c, sumFlags codes c v)

/-- The sums written in element order, and their sum of squares after them, with the flags of both (R48, R185, R265). -/
def veTieSum (rd : Reader) (w : Who) (op : VeOp) (s : State) : State :=
  match s.program with
  | none => s
  | some p =>
    let t := parseTie (descOf p op.slot)
    match updateOfMaster p t.weight with
    | none => s
    | some u =>
      let xs := (List.range u.count).map fun i => tieSum (tieCodes rd p t u.rows u.columns i)
      let s := xs.zipIdx.foldl (fun s x =>
        raiseFlags (putB32 s w op.tensor (op.dst.base.toNat + 4 * x.2) x.1.1.code) w.unit x.1.2) s
      let sq := convertFull .b32 .nearestEven 0 0 (accVal (chunkedSum (xs.map fun x =>
        let v := decode .b32 x.1.code; v.mul v)))
      raiseFlags (writeGlobal s w (roundUp 64 (op.dst.base.toNat + 4 * u.count)) (leBytes 4 sq.code)) w.unit (convFlags sq)

/-! ### The instructions -/

/-- The five sticky flags go to the operand address, and are cleared (R204; log 12 on the word written). -/
def veReadFlags (w : Who) (op : VeOp) (s : State) : State :=
  let fl := ((seqOf s w.unit).map (·.flags)).getD 0
  updSeq (writeGlobal s w op.dst.base.toNat (leBytes 4 fl.toNat)) w.unit fun q => { q with flags := 0 }

/-- The blocks of narrowed checkpoints that an operation reads are noted for the check of their spans (R81). -/
def notePlaces (w : Who) (op : VeOp) (s : State) : State := (vePlaces s w op).foldl (fun t x => notePlace t w.unit (veSpan s op) x) s

def veRun (w : Who) (op : VeOp) (rd : Reader) (s : State) : State :=
  let s := notePlaces w op s
  match op.fn with
  | .toInt => veToInt rd w op s
  | .fromInt => veFromInt rd w op s
  | .toG16 => veToG16 rd w op s
  | .fromBlock => veFromBlock rd w op s
  | .toBlock => veToBlock rd w op s
  | .sum => veSum rd w op s
  | .tieSum => veTieSum rd w op s
  | .fromCarry => veFromCarry rd w op s
  | .flagRead => veReadFlags w op s
  | _ => veElementwise rd w op s

/-- What a VE operation of a program reads, its operands at the places of narrowed checkpoints apart. -/
def veReads (rd : Reader) (p : Program) (op : VeOp) (nar : Narrowed := fun _ _ => none) : List (Nat × Nat) :=
  match op.fn with
  | .fromBlock => blockParts rd (parseBlock (descOf p op.slot)) (veBlocks op)
  | .toBlock =>
    let la := layoutOf p op.layA
    let ld := layoutOf p op.lay
    let n := fmtBytes op.a.fmt
    if (nar op.a.fmt op.a.base.toNat).isSome then [] else (veBlocks op).flatMap fun b => ((List.range 32).filterMap fun i =>
      let e := blockCoords ld b i
      if inside ld e then some (op.a.base.toNat + n * plainPlace la e, n) else none)
  | .tieSum =>
    let t := parseTie (descOf p op.slot)
    match updateOfMaster p t.weight with
    | none => []
    | some u => (List.range t.uses).map fun i => (gradBaseOf p (t.tensors.getD i 0), 4 * u.count)
  | .fromInt => [(op.a.base.toNat, 4 * op.count)]
  | .fromCarry => [(op.a.base.toNat, 8 * op.count)]
  | _ => (([op.a, op.b, op.c].take (veArity op.fn)).filter fun g => (nar g.fmt g.base.toNat).isNone).map fun g =>
      (g.base.toNat, op.count * fmtBytes g.fmt)

/-- What the encoder of a VE conversion reads (R70, R144, R249, R250). -/
def veEncoderReads (p : Program) (step : Nat) (op : VeOp) : List (Nat × Nat) :=
  match op.fn with
  | .toBlock => bumpReads p (parseBlock (descOf p op.slot)) (veBlocks op)
  | .toG16 =>
    let b := parseBucket (descOf p op.slot)
    ((List.range op.count).flatMap fun i => g16Reads p step b.tensor (b.first + op.first + i)).eraseDups
  | _ => []

def veSources (s : State) (w : Who) (op : VeOp) : List (Nat × Nat) :=
  (s.program.map fun p => veReads (peek s w.unit) p op (fun f a => narrowedAt s w f a) ++
    ((vePlaces s w op).flatMap fun x => blockParts (peek s w.unit) x.1 (placeBlocksOf x.2 (veSpan s op))) ++
    veEncoderReads p s.step.toNat op).getD []

/-- The work of a VE operation, once its sources are here and the blocks it reads pass their checks. -/
def veWork (w : Who) (op : VeOp) (stale : List (Nat × Byte)) (tried : List (Nat × Nat)) (s : State) : State :=
  withSources s w (veSources s w op)
    (fun s => checked s w stale tried (veFault s w op) (veRun w op) (input := { stale := stale })) { stale := stale }

/-- The operation that an instruction of this module's program names. -/
def veOpIn (s : State) (i : PInstr) : Option VeOp := s.program.bind fun p => veOpOf p i

/-- A VE instruction's work; an instruction whose operation no descriptor gives has none (LOAD refuses it, log 12). -/
def veInstr (s : State) (w : Who) (i : PInstr) (stale : List (Nat × Byte)) (tried : List (Nat × Nat)) : State :=
  match veOpIn s i with
  | some op => veWork w op stale tried s
  | none => s

def isFlagRead (s : State) (i : PInstr) : Bool := (veOpIn s i).any fun op => op.fn == .flagRead

def execVeOperation (unit : Nat) (stale : List (Nat × Byte)) (s : State) : Host.Outcome State Fault Refusal :=
  issue s unit (fun s p => p.cls == 3 && !isFlagRead s p) fun s w p => veInstr s w p stale []

def execVeFlagRead (td : Fin 8) (ve : Fin 12) (s : State) : Host.Outcome State Fault Refusal :=
  issue s (veUnit td ve) (fun s p => p.cls == 3 && isFlagRead s p) fun s w p => veInstr s w p [] []

end Sys2Proof.Machine
end

