-- ==== Sys2Proof/Machine/LoadFormat.lean ====
section
/-! DEFINITION. Checks 5 and 6 of R209: descriptors, layouts and token declarations, then instruction fields and classes,
operand pairs and product layouts. A check answers true when the item passes. -/

namespace Sys2Proof.Machine

open Sys2Proof

/-! ### Kinds of descriptor slots (R189, R203; log 11) -/

def allInstrs (p : Program) : List (Nat × PInstr) := p.stages.flatMap fun g => (g.f ++ g.b ++ g.u).map fun i => (g.unit, i)

/-- The descriptor slot that a VE instruction's operand descriptor names, with its kind: a block tensor, a bucket (R249) or a
tie group. -/
def veKinds (p : Program) (i : PInstr) : List (Nat × DescKind) :=
  match veOpOf p i with
  | none => []
  | some op => match op.fn with
    | .toBlock | .fromBlock => [(op.slot, .block)]
    | .toG16 => [(op.slot, .bucket)]
    | .tieSum => [(op.slot, .tie)]
    | _ => []

/-- The slots an instruction names, with the kind its class gives them. -/
def instrKinds (p : Program) (i : PInstr) : List (Nat × DescKind) :=
  match i.cls with
  | 2 => [(i.desc, .product)]
  | 3 => (i.desc, .ve) :: veKinds p i
  | 4 => [(i.desc, .rowOp)]
  | 5 => [(i.desc, .move)]
  | 6 => [(i.desc, .ckpt)]
  | 7 => [(i.desc, .update)]
  | 8 => if i.bucketKind = 2 then (rangeFrom i.desc i.bucketCount).map fun s => (s, .bucket) else [(i.desc, .bucket)]
  | 9 => [(i.desc, .ingest)]
  | _ => []

/-- The slots a descriptor names, with their kinds; an operand of a product may be a block tensor, a plain tensor or a
version record. -/
def namedKinds (k : DescKind) (d : List Byte) : List (Nat × DescKind) :=
  let opt (s : Nat) (k : DescKind) : List (Nat × DescKind) := if s = 0xFFFF then [] else [(s, k)]
  match k with
  | .product => let x := parseProduct d; (x.out, .outStage) :: opt x.gate .fillGate
  | .outStage =>
    let x := parseOut d
    if x.fmt = 4 then [(x.dest % 65536, .block)] else if x.fmt = 5 then [(x.dest % 65536, .bucket)] else []
  | .update =>
    let x := parseUpdate d
    [(x.master, .plain), (x.grad, .plain)] ++ opt x.m1 .block ++ opt x.m2 .block ++ opt x.fwd .version ++ opt x.trans .version
  | .version => let x := parseVersion d; [(x.slot0, .block), (x.slot1, .block)]
  | .ingest => [((parseIngest d).colour, .colour)]
  | _ => []

/-- The kinds that instructions and the descriptors they reach give to slots; `n` rounds of naming. -/
def reachKinds (p : Program) : Nat → List (Nat × DescKind) → List (Nat × DescKind)
  | 0, ks => ks
  | n + 1, ks => reachKinds p n ((ks ++ ks.flatMap fun x => namedKinds x.2 (descOf p x.1)).eraseDups)

def givenKinds (p : Program) : List (Nat × DescKind) := reachKinds p 4 ((allInstrs p).flatMap fun x => instrKinds p x.2).eraseDups

/-- The kinds of the table: those given, otherwise the command's hints. -/
def settleKinds (p : Program) : Program :=
  let given := givenKinds p
  { p with kinds := (List.range p.descs.length).map fun i =>
      ((given.find? (·.1 == i)).map (·.2)).getD (p.kinds.getD i .unused) }

/-! ### Small tests -/

def k16At (c : Nat) : Val := decode .k16 c
def b32Code (c : Nat) : Val := decode .b32 c

/-- A finite value in [lo, hi]. -/
def within (v lo hi : Val) : Bool := v.isFinite && lo.le v && v.le hi
def natVal (n : Nat) : Val := .fin false n 0
def positive (v : Val) : Bool := v.isFinite && Val.zero.lt v

def aligned (a : Nat) : Bool := a % 64 == 0

/-- Whether R55 permits a rounding field for a format code of R80 and R130. -/
def rndOk (fmt rnd : Nat) : Bool := decide (rnd < 3) && !(fmt == 3 && rnd == 2)

/-- The record's writer, as its update descriptor. -/
def writerDesc (p : Program) (record : Nat) : Option UpdateDesc :=
  ((slotsOf p .update).map fun x => parseUpdate x.2).find? fun u => u.fwd == record || u.trans == record

/-- The layer descriptor with a number. -/
def layerNamed (p : Program) (n : Nat) : Option LayerDesc := (layerDescs p).find? (·.layer == n)

/-- Format codes allowed for a version record (R230, R154). -/
def allowedFormats (p : Program) (record : Nat) : List Nat :=
  let r := parseVersion (descOf p record)
  if r.fixed ≠ 0xFF then [r.fixed]
  else match (writerDesc p record).bind fun u => layerNamed p u.layer with
    | none => [0, 1, 2, 3]
    | some l =>
      let cs := rangeFrom l.floor (l.ceil + 1 - l.floor)
      (cs.map fun c => bfmtCode (if r.role = 0 then coachFormat c else pairedFormat c)).eraseDups

/-- Whether a block descriptor's every field is checked, whatever its format (R80). -/
def fullyChecked (p : Program) (slot : Nat) (d : BlockDesc) : Bool :=
  decide (d.fmt ≤ 2) || (slotsOf p .version).any fun x =>
    let r := parseVersion x.2
    (r.slot0 == slot || r.slot1 == slot) && (allowedFormats p x.1).any fun f => decide (f ≤ 2)

/-! ### Descriptors (check 5) -/

def blockOk (p : Program) (slot : Nat) (b : List Byte) : Bool :=
  let d := parseBlock b
  let trackers := (trackDescs p).filter fun t => t.tensor == d.tensor
  aligned d.data && aligned d.scale && decide (1 ≤ d.n) && decide (d.fmt ≤ 4) && decide (bitsOf d.rule 1 2 < 3) &&
    bitsOf d.rule 3 5 == 0 && zeros b 47 17 && (!d.tracked || trackers.length == 1) &&
    (!fullyChecked p slot d ||
      (aligned d.side && aligned d.dir && decide (2 ≤ d.rank) && decide (d.rank ≤ 32) && (k16At d.threshold).isFinite &&
        Val.one.le (k16At d.threshold) && decide (d.capacity ≤ 1792) && d.capacity % 16 == 0))

def plainOk (b : List Byte) : Bool := decide (field b 12 1 ≤ 3) && zeros b 13 51

/-- An output-stage descriptor (R130, R249). -/
def outOk (p : Program) (b : List Byte) : Bool :=
  let d := parseOut b
  let rnd := bitsOf d.control 1 2
  let lo := k16At d.clipLow
  let hi := k16At d.clipHigh
  decide (d.fmt ≤ 6) && bitsOf d.control 4 4 == 0 && decide (rnd < 3) && zeros b 44 20 && !lo.isNan && !hi.isNan &&
    lo.le hi && match d.fmt with
      | 4 => decide (d.dest < 65536) && rnd == 0 && d.tensor == (parseBlock (descOf p d.dest)).tensor
      | 5 => decide (d.dest < 65536) && rnd == 2
      | 6 => true
      | f => rndOk f rnd

def gateOk (h : Header) (b : List Byte) : Bool :=
  let d := parseGate b
  let ns := (h.period + 1) * 4000
  decide (d.waitNs ≤ ns) && decide (d.flushNs ≤ ns) && decide (d.group ≤ 15) && zeros b 9 55

/-- Magnitude-field width of a block format (R148). -/
def headWidth (f : BFmt) : Nat := match f with
  | .k4 => 3 | .k3 => 2 | .k2 => 1 | .bk8f => 7 | .bk8b => 7

def trackOk (p : Program) (b : List Byte) : Bool :=
  let d := parseTrack b
  match (blockDescs p).find? fun x => x.tensor == d.tensor && x.tracked with
  | none => false
  | some t =>
    decide (1 ≤ d.history) && decide (d.history ≤ 16) && decide (1 ≤ d.headBits) && decide (d.headBits ≤ headWidth t.bfmt) &&
      decide (1 ≤ d.headSteps) && within (k16At d.margin) Val.one (natVal 65536) && decide (d.refit ≤ 4095) &&
      decide (1 ≤ d.positions) && decide (d.positions ≤ t.n) && t.n % d.positions == 0 && aligned d.bump && zeros b 24 40 &&
      ((trackDescs p).filter fun x => x.tensor == d.tensor).length == 1

def layerOk (p : Program) (b : List Byte) : Bool :=
  let d := parseLayer b
  let nonNeg (c : Nat) : Bool := (k16At c).isFinite && !((k16At c).lt Val.zero)
  decide (d.layer ≤ 4095) && (blockDescs p).any (·.tensor == d.weight) && decide (d.floor ≤ 3) && decide (d.ceil ≤ 3) &&
    decide (d.floor ≤ d.initial) && decide (d.initial ≤ d.ceil) && bitsOf d.flags 2 6 == 0 &&
    [d.eHi, d.eLo, d.sHi, d.sLo, d.errMax, d.uNar, d.stallFloor].all nonNeg && (k16At d.eLo).le (k16At d.eHi) &&
    (k16At d.sLo).le (k16At d.sHi) && decide (1 ≤ d.stallSteps) && decide (1 ≤ d.window) && decide (d.window ≤ 64) &&
    decide (d.window ≤ d.dwell) && decide (d.shard ≤ 4095) && zeros b 39 1 && aligned d.record && decide (1 ≤ d.entries) &&
    zeros b 58 6

/-- A row operation descriptor (R166, R169, R175). -/
def rowOk (b : List Byte) : Bool :=
  let d := parseRow b
  let draw := d.op == 6
  let norm := decide (2 ≤ d.op) && decide (d.op ≤ 5)
  let back := d.op == 1 || d.op == 3 || d.op == 5
  let soft := decide (d.op ≤ 1)
  decide (d.op ≤ 6) && d.opReserved == 0 && [d.src, d.grad, d.affine, d.dst, d.paramGrad].all aligned &&
    (back || d.grad == 0) && ((back && norm) || d.paramGrad == 0) && decide (1 ≤ d.rows) &&
    decide (d.rows ≤ (if draw then 2 ^ 30 else 1048576)) && decide (1 ≤ d.n) &&
    decide (d.n ≤ (if draw then 262144 else 65536)) && (decide (d.record ≤ 1048575) || d.record == 0xFFFF_FFFF) &&
    (!(norm || draw) || positive (k16At d.eps)) && (!soft || (decide (d.maskMode ≤ 2) && (d.maskMode != 2 || d.mask != 0))) &&
    rndOk (bitsOf d.formats 2 2) (bitsOf d.formats 4 2)

def ckptOk (b : List Byte) : Bool :=
  let d := parseCkpt b
  d.count % 32 == 0 && decide (32 ≤ d.count) && decide (d.count ≤ 2 ^ 36 - 32) && aligned d.base && spaceOf d.base == 1 &&
    decide (d.fmt ≤ 1) && decide (d.mode ≤ 2) && (d.mode != 2 || d.fmt == 0) &&
    within (k16At d.threshold) Val.one (natVal 64) && zeros b 32 32

def productOk (b : List Byte) : Bool :=
  let d := parseProduct b
  bitsOf d.orders 2 6 == 0 && decide (1 ≤ d.kBlocks) && decide (1 ≤ d.rows) && decide (1 ≤ d.columns) && zeros b 32 32

def moveOk (s : State) (b : List Byte) : Bool :=
  let d := parseMove b
  let src := homeAddr s d.src
  let dst := homeAddr s d.dst
  d.len % 64 == 0 && decide (64 ≤ d.len) && decide (d.len ≤ 2 ^ 40) && zeros b 24 40 && aligned d.src && aligned d.dst &&
    (decide (src + d.len ≤ dst) || decide (dst + d.len ≤ src))

/-- An update descriptor (R222, R226, R228). -/
def updateOk (p : Program) (b : List Byte) : Bool :=
  let d := parseUpdate b
  let plain (slot fmt : Nat) : Bool := kindOf p slot == .plain && (parsePlain (descOf p slot)).fmt == fmt
  let moment (slot fmt : Nat) : Bool :=
    let m := parseBlock (descOf p slot)
    kindOf p slot == .block && m.fmt == fmt && !m.tracked
  let copy (slot role : Nat) : Bool :=
    slot == 0xFFFF || (kindOf p slot == .version && (parseVersion (descOf p slot)).role == role)
  let moments : Bool := match d.kind with
    | 0 => moment d.m1 3 && moment d.m2 4
    | 1 => moment d.m1 3 && d.m2 == 0xFFFF
    | _ => d.m1 == 0xFFFF && d.m2 == 0xFFFF
  plain d.master 0 && plain d.grad 3 && moments && copy d.fwd 0 && copy d.trans 1 &&
    (d.layer == 0xFFFF || (layerNamed p d.layer).isSome) && decide (d.kind < 3) && bitsOf d.mode 5 3 == 0 &&
    decide (1 ≤ d.rows) && d.count % 32 == 0 && decide (32 ≤ d.count) && d.count % d.rows == 0 &&
    within (b32Code d.beta1) Val.zero Val.one && within (b32Code d.beta2) Val.zero Val.one && positive (b32Code d.eps) &&
    positive (b32Code d.tau) && (b32Code d.gs).isFinite && aligned d.sched && decide (1 ≤ d.schedLen) && zeros b 56 8 &&
    (d.clipMode != 3 || ((slotsOf p .update).map fun x => parseUpdate x.2).all fun u =>
      u.clipMode != 3 || u.clipGroup != d.clipGroup || u.tau == d.tau)

/-- The layouts of a copy's two slots: rows × columns forward, columns × rows transposed (R230). -/
def copySizesOk (p : Program) (r : VersionDesc) (u : UpdateDesc) : Bool :=
  let want := if r.role = 0 then [u.rows, u.columns] else [u.columns, u.rows]
  [r.slot0, r.slot1].all fun slot =>
    match p.layouts.find? (·.tensor == (parseBlock (descOf p slot)).tensor) with
    | none => false
    | some l => l.rank == 2 && l.sizes.take 2 == want

/-- Units that run an UPDATE instruction of a version record. -/
def recordUnits (p : Program) (record : Nat) : List Nat :=
  ((allInstrs p).filter fun x => x.2.cls == 7 && (let u := parseUpdate (descOf p x.2.desc)
    if x.2.passKind = 0 then u.fwd == record else u.trans == record)).map (·.1) |>.eraseDups

def tokMode (p : Program) (unit tok : Nat) : Nat :=
  (((p.stages.find? (·.unit == unit)).bind fun g => g.tokens[tok]?).map (·.mode)).getD 0

/-- A region with the descriptor slot it belongs to. -/
structure Region where
  slot : Nat
  addr : Nat
  len : Nat
  deriving DecidableEq, Repr

/-- Regions of a block tensor whose widest format is in a list (R80, R230). -/
def blockRegions (slot : Nat) (d : BlockDesc) (fs : List Nat) : List Region :=
  let size := (fs.map fun f => slotBytes ((bfmtOf f).getD .k4)).foldl max 0
  let spans := ceilDiv d.n 256
  [{ slot := slot, addr := d.data, len := d.n * size }, { slot := slot, addr := d.scale, len := 2 * d.n }] ++
    (if fs.any fun f => decide (f ≤ 2) then
      [{ slot := slot, addr := d.dir, len := 8 * spans }, { slot := slot, addr := d.side, len := 4 * d.capacity * spans }]
    else [])

/-- Whether two regions share a byte. -/
def overlap (s : State) (a b : Region) : Bool :=
  let x := homeAddr s a.addr
  let y := homeAddr s b.addr
  decide (x < y + b.len) && decide (y < x + a.len)

/-- The two slots of an uncoached record do not overlap (R230); R155 has those of a coached one. -/
def slotsApart (s : State) (p : Program) (r : VersionDesc) : Bool :=
  let regions (slot : Nat) : List Region := blockRegions slot (parseBlock (descOf p slot)) [r.fixed]
  r.fixed == 0xFF || (regions r.slot0).all fun a => (regions r.slot1).all fun b => !overlap s a b

/-- A version record (R230): its tokens are those of its update engine. -/
def versionOk (s : State) (p : Program) (slot : Nat) (b : List Byte) : Bool :=
  let r := parseVersion b
  let coached := ((writerDesc p slot).map fun u => u.layer != 0xFFFF).getD false
  kindOf p r.slot0 == .block && kindOf p r.slot1 == .block && decide (r.role ≤ 1) && zeros b 13 51 &&
    (if coached then r.fixed == 0xFF else decide (r.fixed ≤ 4)) &&
    (recordUnits p slot).all (fun u => tokMode p u r.epochToken == 2 && tokMode p u r.ref0 == 3 && tokMode p u r.ref1 == 3) &&
    ((writerDesc p slot).map fun u => copySizesOk p r u).getD true && slotsApart s p r

def bucketOk (p : Program) (slot : Nat) (b : List Byte) : Bool :=
  let d := parseBucket b
  let others := (slotsOf p .bucket).filter fun x => x.1 != slot
  decide (d.tag ≤ 0xFFF) && decide (d.plan ≤ 63) && decide (1 ≤ d.history) && decide (d.history ≤ 4) &&
    [d.staging, d.result, d.grad, d.segTable, d.flags].all aligned && d.first % 256 == 0 && d.count % 32 == 0 &&
    decide (32 ≤ d.count) && decide (d.count ≤ 16777216) && within (k16At d.margin) Val.one (natVal 65536) &&
    decide (1 ≤ d.initial) && decide (d.initial ≤ 0xED) && zeros b 59 5 && others.all fun x =>
      let o := parseBucket x.2
      o.tag != d.tag && (o.tensor != d.tensor || decide (o.first + o.count ≤ d.first) || decide (d.first + d.count ≤ o.first))

/-- An ingest descriptor; its replica set is one of the table (R208, R349). -/
def ingestOk (p : Program) (b : List Byte) : Bool :=
  let d := parseIngest b
  p.replicas.any (·.set == d.replica) &&
  spaceOf d.catalogue == 1 && aligned d.catalogue && aligned d.ring && decide (1 ≤ d.entries) && decide (d.view ≤ 7) &&
    decide (d.igd ≤ 1) && decide (1 ≤ d.frames) && decide (d.frames ≤ 64) && decide (d.b0 ≤ 254) && decide (1 ≤ d.bs) &&
    decide (d.b0 + d.bs ≤ 255) && decide (1 ≤ d.b) && decide (1 ≤ d.pw) && decide (d.pw ≤ 32) && decide (1 ≤ d.ph) &&
    decide (d.ph ≤ 32) && decide (16 ≤ d.wo) && decide (d.wo ≤ 4096) && d.wo % d.pw == 0 && decide (16 ≤ d.ho) &&
    decide (d.ho ≤ 4096) && d.ho % d.ph == 0 && decide (bitsOf d.shape 4 2 ≤ 2) && decide (bitsOf d.shape 6 2 ≤ 1) &&
    zeros b 56 8

def colourOk (b : List Byte) : Bool := ((List.range 12).all fun i => (b32Code (field b (4 * i) 4)).isFinite) && zeros b 48 16

/-- A tie group (R187). Orientation bits beyond its uses are 0, as a reserved field is (DESIGN CHOICE, log 113). -/
def tieOk (p : Program) (slot : Nat) (b : List Byte) : Bool :=
  let d := parseTie b
  let used (x : TieDesc) : List Nat := x.tensors.take x.uses
  let sizes (t : Nat) : Option (List Nat) := (p.layouts.find? (·.tensor == t)).map fun l => l.sizes.take l.rank
  let shape (u : Nat) : Bool :=
    match sizes d.weight, sizes (d.tensors.getD u 0) with
    | some w, some x => (if bitAt d.orient u then x.reverse else x) == w
    | _, _ => false
  decide (2 ≤ d.uses) && decide (d.uses ≤ 8) && (d.tensors.drop d.uses).all (· == 0xFFFF_FFFF) && zeros b 6 2 &&
    zeros b 40 24 && decide (d.orient < 2 ^ d.uses) && (List.range d.uses).all shape && decide (used d).Nodup &&
    ((slotsOf p .tie).filter fun x => x.1 != slot).all (fun x => (used (parseTie x.2)).all fun t => !(used d).contains t) &&
    decide ((slotsOf p .tie).length ≤ 256)

/-- A VE operand descriptor: the command gives one for the slot, and its layouts exist (log 12). -/
def veDescOk (p : Program) (slot : Nat) : Bool :=
  match p.ves.find? (·.1 == slot) with
  | none => false
  | some (_, d) => decide (d.layA < p.layouts.length) && decide (d.lay < p.layouts.length)

/-- One descriptor slot. -/
def descOk (s : State) (p : Program) (slot : Nat) : Bool :=
  let b := descOf p slot
  match kindOf p slot with
  | .block => blockOk p slot b
  | .plain => plainOk b
  | .outStage => outOk p b
  | .fillGate => gateOk p.hdr b
  | .tracker => trackOk p b
  | .layer => layerOk p b
  | .rowOp => rowOk b
  | .ckpt => ckptOk b
  | .product => productOk b
  | .move => moveOk s b
  | .update => updateOk p b
  | .version => versionOk s p slot b
  | .bucket => bucketOk p slot b
  | .ingest => ingestOk p b
  | .colour => colourOk b
  | .tie => tieOk p slot b
  | .ve => veDescOk p slot
  | .unused => true

/-- A layout entry (R194). -/
def layoutOk (l : Layout) : Bool :=
  let ord := l.order.take l.rank
  l.reserved == 0 && decide (1 ≤ l.rank) && decide (l.rank ≤ 6) && (l.axis == 0xFF || decide (l.axis < l.rank)) &&
    bitsOf l.flags 2 6 == 0 && (l.sizes.take l.rank).all (fun n => decide (1 ≤ n)) && (l.sizes.drop l.rank).all (· == 1) &&
    ord.all (fun d => decide (d < l.rank)) && decide ord.Nodup && (l.order.drop l.rank).all (· == 0xFF) &&
    (!l.square || (l.axis != 0xFF && decide (2 ≤ l.rank) && ord.getLast? == some l.axis))

/-- A token declaration (R200). -/
def tokOk (d : TokDecl) : Bool := decide (d.mode ≤ 3) && d.reserved == 0

/-- A replica-set entry (R208). -/
def replicaOk (r : Replica) : Bool := decide (1 ≤ r.members) && r.reserved == 0

/-- G16 named on an FT, which R130 refuses. -/
def g16OnFt (p : Program) : Bool :=
  (allInstrs p).any fun x => x.2.cls == 2 && isFT x.1 && (parseOut (descOf p (parseProduct (descOf p x.2.desc)).out)).fmt == 5

/-- Whether every reference gives a slot that exists one kind. -/
def kindsAgree (p : Program) : Bool :=
  (givenKinds p).all fun x => decide (x.1 < p.descs.length) && kindOf p x.1 == x.2

/-! ### Instructions (check 6) -/

/-- Units that execute a class (R204, R247); of the reserved kind of BUCKET the fields are refused, not the unit. -/
def classUnits (i : PInstr) (unit : Nat) : Bool :=
  let die := unit / 256
  let code := unit % 256
  let td := decide (die < 8)
  match i.cls with
  | 0 | 1 => true
  | 2 => isTile unit
  | 3 => isVE unit
  | 4 => td && (code == 0x90 || code == 0x91)
  | 5 => isMover unit || isVE unit
  | 6 => td && code == 0xA1
  | 7 => td && code == 0xA0
  | 8 => i.bucketKind == 3 || (if i.bucketKind = 0 then unit == 0x800 else isVE unit)
  | _ => unit == 0x900 || unit == 0xA00

/-- The common fields (R199, R203, R204, R482). -/
def commonOk (h : Header) (stream : Nat) (i : PInstr) : Bool :=
  decide (i.cls ≤ 9) && i.stream == stream && i.reserved == 0 &&
    (match i.waitMode with
      | 0 => i.waitToken == 0 && i.waitInc == 0 && i.waitTarget == 0
      | 1 => true
      | 2 => i.waitInc == 0 && bitsOf i.waitTarget 8 8 == 0
      | _ => i.waitInc == 0 && i.waitTarget == 0) &&
    ((i.signalMode != 0 && i.cls != 1) || i.signalToken == 0) && decide (i.beatOf (i.count - 1) < h.working)

/-- Element formats an operand slot can have: each format allowed to a version record (R154, R230). -/
def operandEls (p : Program) (slot : Nat) : List El :=
  match kindOf p slot with
  | .plain => [elOf (.plain (parsePlain (descOf p slot)) noLayout)]
  | .version => (allowedFormats p slot).map fun f => elOf (.block { parseBlock (descOf p slot) with fmt := f } noLayout)
  | _ => [elOf (.block (parseBlock (descOf p slot)) noLayout)]

/-- Whether a tile kind takes every pair a product can name (R90 to R92). -/
def pairsOk (p : Program) (unit : Nat) (d : ProductDesc) : Bool :=
  (operandEls p d.a).all fun a => (operandEls p d.b).all fun b => (pairHalfCycles (isFT unit) a b).isSome

/-- An operand of a product with its layout, a version record standing for its slot `i`. -/
def operandOf (p : Program) (slot lay i : Nat) : Operand :=
  match kindOf p slot with
  | .plain => .plain (parsePlain (descOf p slot)) (layoutOf p lay)
  | .version => .block (parseBlock (descOf p ((parseVersion (descOf p slot)).slotDesc i))) (layoutOf p lay)
  | _ => .block (parseBlock (descOf p slot)) (layoutOf p lay)

/-- A layout as a matrix (R478): dimensions outside the two innermost have size 1, but for the micro-batch; the axis of a
block-coded tensor is one of the two innermost. -/
def matrixOk (l : Layout) (block : Bool) : Bool :=
  decide (1 ≤ l.rank) && (!l.microBatch || decide (2 < l.rank)) &&
    (!block || (l.axis != 0xFF && decide (l.rank ≤ l.axis + 2))) &&
    (List.range (l.rank - 2)).all fun d => (d == 0 && l.microBatch) || l.size d == 1

/-- Block axis of an output against the control bit (R478). -/
def outAxisOk (l : Layout) (o : OutDesc) : Bool :=
  o.fmt != 4 || l.axis + (if o.columnBlocks then 2 else 1) == l.rank

/-- Whether a slot is one that a product can name as an operand. -/
def isOperand (p : Program) (slot : Nat) : Bool :=
  decide (slot < p.descs.length) && [DescKind.block, .plain, .version].contains (kindOf p slot)

/-- The cases of R205 that an instruction can fail: a pass beyond its product, and a K range beyond an operand's extent. -/
def productInside (p : Program) (i : PInstr) : Bool :=
  i.cls != 2 || (let d := parseProduct (descOf p i.desc)
    let inside (slot lay : Nat) (column : Bool) : Bool :=
      !isOperand p slot || decide (p.layouts.length ≤ lay) ||
        decide (d.firstK + d.kBlocks ≤ ceilDiv ((operandOf p slot lay 0).kSize column) 32)
    decide (i.firstPass + i.passCount ≤ d.passes) && inside d.a d.layoutA d.aColumn && inside d.b d.layoutB d.bColumn)

def checkFive (s : State) (p : Program) : Bool :=
  kindsAgree p && (List.range p.descs.length).all (descOk s p) && !g16OnFt p && p.layouts.all layoutOk &&
    p.replicas.all replicaOk && (p.stages.all fun g => g.tokens.all tokOk) && (allInstrs p).all fun x => productInside p x.2

/-- The product layouts of R478. -/
def productLayoutsOk (p : Program) (d : ProductDesc) : Bool :=
  let o := parseOut (descOf p d.out)
  let a := operandOf p d.a d.layoutA 0
  let b := operandOf p d.b d.layoutB 0
  let l := layoutOf p d.layoutOut
  let isBlock (x : Operand) : Bool := match x with
    | .block .. => true
    | .plain .. => false
  decide (d.layoutA < p.layouts.length) && decide (d.layoutB < p.layouts.length) &&
    decide (d.layoutOut < p.layouts.length) && matrixOk a.layout (isBlock a) && matrixOk b.layout (isBlock b) &&
    matrixOk l (o.fmt == 4) && outAxisOk l o && a.kSize d.aColumn == b.kSize d.bColumn &&
    decide (d.rows ≤ a.iSize d.aColumn) && decide (d.rows ≤ l.inner 2) &&
    decide (d.columns ≤ b.iSize d.bColumn) && decide (d.columns ≤ l.inner 1)

/-- The operand and descriptor fields of a class that must hold, with a format error otherwise (R205, R229, R247, R482). -/
def classOk (p : Program) (unit : Nat) (i : PInstr) : Bool :=
  match i.cls with
  | 0 => i.desc == 0 && i.operand == 0
  | 1 => i.signalMode != 0 && decide (1 ≤ i.sigCount) && (i.signalMode == 1 || i.sigCount == 1)
  | 2 =>
    let d := parseProduct (descOf p i.desc)
    isOperand p d.a && isOperand p d.b && pairsOk p unit d && productLayoutsOk p d
  | 3 => bitsOf i.operand 10 6 == 0 && (match veOpOf p i with
      | none => false
      | some op => veRndOk op.fn op.dst.fmt (bitsOf i.operand 8 2))
  | 4 => i.operand == 0
  | 5 => i.operand == 0
  | 6 => decide (i.operand ≤ 1)
  | 7 => decide (i.passKind ≤ 1)
  | 8 => i.bucketKind != 3 && bitsOf i.operand 2 14 == 0 &&
      (if i.bucketKind = 2 then decide (1 ≤ i.bucketCount) else i.bucketCount == 0)
  | _ => true

/-! ### Recompute stages (R177; log 49) -/

/-- The instructions of a body from a place on that compute something: waits, signals and checkpoint loads only place the
stage in the step, or bring it a checkpointed source. -/
def stageWork (p : Program) (unit : Nat) (t : Stream) (first count : Nat) : List PInstr :=
  (((((p.stages.find? (·.unit == unit)).map fun g => match t with
    | .F => g.f
    | .B => g.b
    | .U => g.u).getD []).drop first).take count).filter fun i => decide (2 ≤ i.cls) && i.cls != 6

/-- A tensor as an instruction names it: where it lies, what it is, and the layout it is read or written by. -/
structure Site where
  base : Nat
  form : List Byte
  lay : Option Layout := none
  deriving DecidableEq, Repr

/-- Bytes of a descriptor with some ranges left out. -/
def without (holes : List (Nat × Nat)) (b : List Byte) : List Byte :=
  (b.zipIdx.filter fun x => !holes.any fun h => decide (h.1 ≤ x.2) && decide (x.2 < h.1 + h.2)).map (·.1)

/-- The tensor of a descriptor slot. -/
def siteOf (p : Program) (slot : Nat) : Site :=
  let b := descOf p slot
  match kindOf p slot with
  | .block => { base := (parseBlock b).data, form := without [(0, 32)] b }
  | .plain => { base := (parsePlain b).base, form := without [(0, 8)] b }
  | _ => { base := 0, form := b }

def fmtSite (f : Fmt) (a : Nat) : Site := { base := a, form := leBytes 1 (fmtBytes f) ++ leBytes 1 (codeBits f) }

/-- What an instruction computes, apart from where: its class, operand and descriptors without bases and keep bits, its
sources, its destinations and their bytes. -/
structure Computed where
  key : List Nat × List (List Byte)
  ve : Option VeOp
  sources : List Site
  dests : List Site
  lens : List Nat := []
  deriving DecidableEq, Repr

/-- What an instruction computes. A PASS names its weights by the epoch offset of its wait (R199), which belongs to what it
computes; the base of a row operation's records says where they are kept, and does not (DESIGN CHOICE, log 49). -/
def computedBy (p : Program) (i : PInstr) : Computed :=
  let b := descOf p i.desc
  let key (ds : List (List Byte)) : List Nat × List (List Byte) := ([i.cls, i.operand, i.count], ds)
  match i.cls with
  | 2 =>
    let d := parseProduct b
    let o := parseOut (descOf p d.out)
    let laid (x : Site) (lay : Nat) : Site := { x with lay := some (layoutOf p lay) }
    let dest : Site := if o.fmt = 4 then siteOf p (o.dest % 65536) else { base := o.dest, form := [] }
    let carry : List Site := if o.carryBase = 0 then [] else [{ base := o.carryBase, form := [] }]
    { key := key [without [(0, 6), (8, 6)] b, without [(0, 8), (24, 8)] (descOf p d.out),
        leBytes 2 (if i.waitMode = 2 then i.offset else 0)]
      ve := none
      sources := [laid (siteOf p d.a) d.layoutA, laid (siteOf p d.b) d.layoutB] ++ carry, dests := [laid dest d.layoutOut]
      lens := [(layoutOf p d.layoutOut).elements * (if o.fmt = 6 then 8 else fmtBytes (fmtOf o.fmt))] }
  | 3 => match veOpOf p i with
    | none => { key := key [b], ve := none, sources := [], dests := [] }
    | some op =>
      let laid (lay : Nat) (x : Site) : Site := { x with lay := some (layoutOf p lay) }
      let arg (g : VeArg) : Site := fmtSite g.fmt g.base.toNat
      let bare (g : VeArg) : VeArg := { g with base := 0 }
      { key := key []
        ve := some { op with
          a := bare op.a, b := bare op.b, c := bare op.c, dst := bare op.dst, slot := 0, layA := 0, lay := 0 }
        sources := (if op.fn = .fromBlock then [siteOf p op.slot] else ([op.a, op.b, op.c].take (veArity op.fn)).map arg).map
          (laid op.layA)
        dests := [laid op.lay (if op.fn = .toBlock then siteOf p op.slot else arg op.dst)]
        lens := [op.count * fmtBytes op.dst.fmt] }
  | 4 =>
    let d := parseRow b
    { key := key [without [(0, 16), (24, 8), (52, 4), (63, 1)] b ++ leBytes 1 (d.formats % 64), leBytes 1 (if d.chain then 1 else 0)]
      ve := none
      sources := [fmtSite d.srcFmt d.src] ++ (if d.grad = 0 then [] else [fmtSite d.srcFmt d.grad])
      dests := [fmtSite d.dstFmt d.dst]
      lens := [d.rows * d.n * fmtBytes d.dstFmt] }
  | 5 =>
    let m := parseMove b
    { key := key [without [(0, 16)] b], ve := none, sources := [{ base := m.src, form := [] }], dests := [{ base := m.dst, form := [] }], lens := [m.len] }
  | _ => { key := ([i.cls, i.operand, i.count, i.desc], [b]), ve := none, sources := [], dests := [] }

/-- Whether an address lies in the bytes at one place and another at the same offset of another place. -/
def sameOffset (x : Nat × Nat × Nat) (f r : Nat) : Bool :=
  decide (x.1 ≤ f) && decide (f < x.1 + max x.2.2 1) && decide (x.2.1 ≤ r) && f - x.1 == r - x.2.1

/-- The checkpoints that are stored from one place and loaded to another: both places, their bytes and the mode. -/
def reloads (p : Program) : List ((Nat × Nat × Nat) × Nat) :=
  let ckpts (load : Bool) : List CkptDesc :=
    ((allInstrs p).filter fun x => x.2.cls == 6 && bitAt x.2.operand 0 == load).map fun x => parseCkpt (descOf p x.2.desc)
  (ckpts false).flatMap fun a => ((ckpts true).filter fun b => b.base == a.base).map fun b =>
    ((a.src, b.src, a.count * (if a.fmt = 0 then 1 else 2)), b.mode)

/-- What the instructions of a recompute stage and of its forward stage compute, in pairs. -/
def stagePairs (p : Program) (r : Recompute) : List Computed × List Computed :=
  ((stageWork p r.fwdUnit .F r.fwdFirst r.fwdCount).map (computedBy p), (stageWork p r.unit r.stream r.first r.count).map (computedBy p))

/-- Where the recompute stages make what their forward stages make: both places and their bytes. -/
def remade (p : Program) : List (Nat × Nat × Nat) :=
  p.recompute.flatMap fun r => ((stagePairs p r).1.zip (stagePairs p r).2).flatMap fun x =>
    ((x.1.dests.zip x.2.dests).zip x.1.lens).map fun d => (d.1.1.base, d.1.2.base, d.2)

/-- Whether a recompute stage repeats its forward stage: instruction by instruction the same but for destinations, keep bits
and checkpointed sources, which come in another form and layout only where the checkpoint narrows them (R178); what the
recompute stages make stands in for what their forward stages made. -/
def repeats (p : Program) (r : Recompute) : Bool :=
  let (fs, rs) := stagePairs p r
  let same (f r : Site) : Bool :=
    f == r || (f.form == r.form && f.lay == r.lay && ((remade p).any fun m => sameOffset m f.base r.base)) ||
      (reloads p).any fun c => sameOffset c.1 f.base r.base && (c.2 == 2 || (f.form == r.form && f.lay == r.lay))
  fs.length == rs.length && (fs.zip rs).all fun x =>
    x.1.key == x.2.key && x.1.ve == x.2.ve && x.1.sources.length == x.2.sources.length &&
      (x.1.sources.zip x.2.sources).all (fun y => same y.1 y.2) &&
      (x.1.dests.map fun d => (d.form, d.lay)) == (x.2.dests.map fun d => (d.form, d.lay))

/-- The recompute stages that begin at an instruction repeat their forward stages. -/
def recomputesOk (p : Program) (unit : Nat) (t : Stream) (index : Nat) : Bool :=
  (p.recompute.filter fun r => r.unit == unit && r.stream == t && r.first == index).all (repeats p)

/-- One instruction: 0 passed, 1 format error, 2 placement error. Within one instruction a format error comes first
(log 42). -/
def instrResult (p : Program) (unit : Nat) (t : Stream) (index : Nat) (i : PInstr) : Nat :=
  let stream := match t with
    | .F => 0
    | .B => 1
    | .U => 2
  if !commonOk p.hdr stream i then 1
  else if !classUnits i unit then 2
  else if !classOk p unit i then 1
  else if !recomputesOk p unit t index then 1
  else 0

/-- The first failing instruction's result, in ascending section and position. -/
def checkSix (p : Program) : Nat :=
  ((p.stages.flatMap fun g => ([(Stream.F, g.f), (.B, g.b), (.U, g.u)]).flatMap fun x =>
    x.2.zipIdx.map fun i => instrResult p g.unit x.1 i.2 i.1).find? (· != 0)).getD 0

end Sys2Proof.Machine
end

