-- ==== Sys2Proof/Machine/Update.lean ====
section
/-! DEFINITION. The update engine: master weights (R221), the update (R225 to R227), version slots and copies (R230 to
R234), and the sums and shadows it forms (R149, R157). -/

namespace Sys2Proof.Machine

open Sys2Proof

/-! ### Master weights (R221) -/

/-- Exponent of unit(m). -/
def unitExp (m : Nat) : Int :=
  let e := bitsOf m 7 8
  if e = 0 then -141 else (e : Int) - 142

/-- A signed byte. -/
def int8 (c : Nat) : Int := if c % 256 < 128 then (c % 256 : Nat) else (c % 256 : Nat) - 256

/-- The full value w = m + c × unit(m). -/
def masterVal (m c : Nat) : Val := (decode .k16 m).addTerm (ofInt false (int8 c) (unitExp m))

/-- The pair that holds w1: m1 nearest-even in K16, c1 the rest in units of m1, clamped. -/
def splitMaster (w1 : Val) : Nat × Nat :=
  let m1 := near .k16 w1
  let c := (roundInt .nearestEven ((w1.sub (decode .k16 m1)).scale (-(unitExp m1)))).1
  (m1, (BitVec.ofInt 8 (max (-128) (min 127 c))).toNat)

/-- Address of a compensation byte. -/
def compAddr (base count i : Nat) : Nat := roundUp 64 (base + 2 * count) + i

/-! ### The arithmetic of R225 and R226 -/

/-- The scalars of one update. -/
structure UpdScalars where
  kind : Nat
  gs : Val
  f : Val
  b1 : Val
  b2 : Val
  eps : Val
  sa : Val
  sb : Val
  sd : Val
  deriving DecidableEq, Repr

/-- −(sa × v1) / (q + eps) − sd × w, evaluated exactly and rounded once. -/
def adaptiveStep (u : UpdScalars) (v1 q w : Val) : Val :=
  let num := (u.sa.mul v1).neg
  let den := q.addTerm u.eps
  let dec := u.sd.mul w
  if num.isFinite && den.isFinite && dec.isFinite && !den.isZero then round32 ((num.addTerm (dec.mul den).neg).div den)
  else round32 ((num.div den).add dec.neg)

/-- New v1, v2 and w1 of an element. -/
def updateElement (u : UpdScalars) (gr v1 v2 w : Val) : Val × Val × Val :=
  let g := round32 ((gr.mul u.gs).mul u.f)
  match u.kind with
  | 0 =>
    let v1' := round32 ((u.b1.mul v1).addTerm ((Val.one.sub u.b1).mul g))
    let v2' := round32 ((u.b2.mul v2).addTerm (((Val.one.sub u.b2).mul g).mul g))
    let q := sqrt32 (v2'.mul u.sb)
    (v1', v2', round32 (w.addTerm (adaptiveStep u v1' q w)))
  | 1 =>
    let v1' := round32 ((u.b1.mul v1).addTerm g)
    let d := round32 (((u.sa.mul v1').neg).addTerm (u.sd.mul w).neg)
    (v1', v2, round32 (w.addTerm d))
  | _ =>
    let d := round32 (((u.sa.mul g).neg).addTerm (u.sd.mul w).neg)
    (v1, v2, round32 (w.addTerm d))

/-- Whether an update must leave the element as it is (R227). -/
def nonFiniteUpdate (v1 v2 w1 : Val) : Bool :=
  !v1.isFinite || !v2.isFinite || !w1.isFinite || !(decode .k16 (near .k16 w1)).isFinite

def b32At (rd : Reader) (a : Nat) : Val := decode .b32 (leNat (rd a 4))

/-- Address of a gradient tensor's sum of squares (R265). -/
def sumSqAddr (base count : Nat) : Nat := roundUp 64 (base + 4 * count)

/-- s2 of an update (R226): its own, or its clip group's. -/
def clipSquare (rd : Reader) (p : Program) (u : UpdateDesc) : Val :=
  let own (x : UpdateDesc) : Val := b32At rd (sumSqAddr (parsePlain (descOf p x.grad)).base x.count)
  if u.clipMode = 3 then
    let g := ((slotsOf p .update).map fun x => parseUpdate x.2).filter fun x => x.clipMode == 3 && x.clipGroup == u.clipGroup
    let g := g.mergeSort fun a b => decide ((parsePlain (descOf p a.grad)).tensor ≤ (parsePlain (descOf p b.grad)).tensor)
    round32 (accVal (accSum Acc.zero (g.map own)))
  else own u

/-- The clip factor f (R226). -/
def clipFactor (mode : Nat) (s2 tau : Val) : Val :=
  let n := sqrt32 s2
  match mode with
  | 0 => Val.one
  | 2 => if (Val.zero).lt n then div32 tau n else Val.one
  | _ => if tau.lt n then div32 tau n else Val.one

def updScalars (s : State) (rd : Reader) (p : Program) (u : UpdateDesc) : UpdScalars :=
  let e := u.sched + 16 * (s.step.toNat % max u.schedLen 1)
  { kind := u.kind, gs := decode .b32 u.gs
    f := clipFactor u.clipMode (if u.clipMode = 0 then Val.zero else clipSquare rd p u) (decode .b32 u.tau)
    b1 := decode .b32 u.beta1, b2 := decode .b32 u.beta2, eps := decode .b32 u.eps
    sa := b32At rd e, sb := b32At rd (e + 4), sd := b32At rd (e + 8) }

/-! ### Skipped segments (R186, R227) -/

/-- Whether a gradient element lies in a segment whose flag bit is set (R263). -/
def gradFlagged (rd : Reader) (p : Program) (tensor index : Nat) : Bool :=
  match bucketFor p tensor index with
  | none => false
  | some b => let j := index / 256; bitAt (leNat (rd (b.flags + j / 8) 1)) (j % 8)

/-- Gradient element of master element `i` (R230). -/
def gradIndex (u : UpdateDesc) (i : Nat) : Nat :=
  if u.gradTransposed then i % u.columns * u.rows + i / u.columns else i

/-- The tie group of a master weight. -/
def tieOf (p : Program) (tensor : Nat) : Option TieDesc :=
  ((slotsOf p .tie).map fun x => parseTie x.2).find? (·.weight == tensor)

/-- Whether master element `i` is skipped: its gradient's segment is flagged, or its weight segment holds an element a tied
use marks (R186, R227). -/
def elemSkipped (rd : Reader) (p : Program) (u : UpdateDesc) (i : Nat) : Bool :=
  match tieOf p (parsePlain (descOf p u.master)).tensor with
  | none => gradFlagged rd p (parsePlain (descOf p u.grad)).tensor (gradIndex u i)
  | some t => (rangeFrom (i / 256 * 256) (min 256 (u.count - i / 256 * 256))).any fun j =>
      (List.range t.uses).any fun k => gradFlagged rd p (t.tensors.getD k 0) (useIndex t u.rows u.columns k j)

/-! ### Version records (R230, R233, R234) -/

/-- The update descriptor that writes a version record, and whether as its forward copy. -/
def writerOf (p : Program) (record : Nat) : Option (UpdateDesc × Bool) :=
  ((slotsOf p .update).map fun x => parseUpdate x.2).findSome? fun u =>
    if u.fwd = record then some (u, true) else if u.trans = record then some (u, false) else none

/-- Format code in which a copy is written: the fixed one, or the coach's and its pair (R154, R234). -/
def copyFormat (s : State) (p : Program) (record : Nat) : Nat :=
  let r := parseVersion (descOf p record)
  if r.fixed ≠ 0xFF then r.fixed
  else match writerOf p record with
    | none => 0
    | some (u, fwd) =>
      let c := ((layerOf s u.layer).map (·.format)).getD 2
      bfmtCode (if fwd then coachFormat c else pairedFormat c)

/-- Layout of a version slot's block tensor (R230). -/
def copyLayout (p : Program) (record i : Nat) : Layout :=
  let t := (parseBlock (descOf p ((parseVersion (descOf p record)).slotDesc i))).tensor
  (p.layouts.find? (·.tensor == t)).getD noLayout

def updVersion (s : State) (record : Nat) (f : VState → VState) : State :=
  { s with versions := s.versions.map fun v => if v.record == record then f v else v }

/-- Value of one of an update engine's tokens. -/
def tokenValue (s : State) (unit tok : Nat) : Nat := ((seqOf s unit).map fun q => (tokenOf q tok).v0).getD 0

/-- Whether the copy of epoch n + 1 has been written and has become home. -/
def swapped (s : State) (v : VState) : Bool :=
  let x := v.slot (s.step.toNat + 1)
  x.cond == .home && x.tag == BitVec.ofNat 16 (s.step.toNat + 1)

/-- The away slot starts to be written once its reference token reads 0 (R233 step 1); its tag stays until step 4. -/
def startAway (s : State) (record : Nat) : State :=
  match s.program, versionOf s record with
  | some p, some v =>
    let i := s.step.toNat + 1
    let r := parseVersion (descOf p record)
    if (v.slot i).cond ≠ .writing ∧ !swapped s v ∧ tokenValue s v.unit (r.refToken i) = 0 then
      updVersion s record fun v =>
        { v.setSlot i { v.slot i with fmt := copyFormat s p record, cond := .writing } with spans := [] }
    else s
  | _, _ => s

/-- Whether the slot a pass writes is being written, or can start to be. -/
def canWrite (s : State) (record : Nat) : Bool :=
  record == 0xFFFF || (versionOf (startAway s record) record).any fun v => (v.slot (s.step.toNat + 1)).cond == .writing

/-- The huddle of the step has been committed: the U-stream's updates may run (R233, R239, R240). -/
def committed (s : State) : Bool := s.beat.committed

def execAwaySlotWriteStart (slot : Nat) (s : State) : Host.Outcome State Fault Refusal :=
  if live s ∧ committed s then .next (startAway s slot) else .next s

/-- Step 4 of R233: with every span written and the home slot's reference token at 0. -/
def swapSlots (s : State) (record : Nat) : State :=
  match s.program, versionOf s record with
  | some p, some v =>
    let i := s.step.toNat + 1
    let r := parseVersion (descOf p record)
    let spans := ceilDiv (parseBlock (descOf p (r.slotDesc i))).n 256
    if (v.slot i).cond = .writing ∧ (List.range spans).all v.spans.contains ∧ tokenValue s v.unit (r.refToken (i + 1)) = 0 then
      let s := updVersion s record fun v =>
        let v := v.setSlot i { v.slot i with cond := .home, tag := BitVec.ofNat 16 i }
        let v := v.setSlot (i + 1) { v.slot (i + 1) with cond := .held }
        { v with last := none }
      let s := applySignal s v.unit r.epochToken 1 1 0
      match v.last with
      | some w => deliver (updFlight s w fun f => { f with waiting := f.waiting - 1 }) w.unit w.stream
      | none => s
    else s
  | _, _ => s

/-- Spans of a copy have been written by an instance; the one that writes the last waits for the swap (R233). -/
def noteSpans (s : State) (w : Who) (record : Nat) (spans : List Nat) : State :=
  match s.program, versionOf s record with
  | some p, some v =>
    let i := s.step.toNat + 1
    let total := ceilDiv (parseBlock (descOf p ((parseVersion (descOf p record)).slotDesc i))).n 256
    let all := spans.foldl (fun l x => insertNat x l) v.spans
    let full := (List.range total).all all.contains
    let s := updVersion s record fun v => { v with spans := all, last := if full then some w else v.last }
    if full then updFlight s w fun f => { f with waiting := f.waiting + 1 } else s
  | _, _ => s

/-! ### The copy of master values (R233) -/

/-- Master element of a copy's coordinates, and its element index in the copy. -/
def copyElem (u : UpdateDesc) (fwd : Bool) (l : Layout) (e : List Nat) : Nat × Nat :=
  let r := if fwd then e.getD 0 0 else e.getD 1 0
  let c := if fwd then e.getD 1 0 else e.getD 0 0
  (r * u.columns + c, elemIndex l e)

/-- Elements of a copy's block: its positions and their coordinates, none for padding. -/
def copyBlock (l : Layout) (b : Nat) : List (Option (List Nat)) :=
  (List.range 32).map fun i => let e := blockCoords l b i; if inside l e then some e else none

/-- Sources of a copy's block from the master values, read through `m`. -/
def copySrcs (k : Key) (rnd : Rnd) (u : UpdateDesc) (fwd : Bool) (l : Layout) (m : Nat → Nat) (b : Nat) : List Src :=
  (copyBlock l b).map fun x => match x with
    | none => Src.zero
    | some e =>
      let (i, idx) := copyElem u fwd l e
      let v := round32 (decode .k16 (m i))
      { v := v, w := v.weight, r := cells k rnd idx }

/-- Blocks of spans of a tensor of `n` blocks. -/
def spanBlocks (n : Nat) (spans : List Nat) : List Nat :=
  spans.flatMap fun p => rangeFrom (256 * p) (min 256 (n - 256 * p))

/-- Blocks of a copy encoded into a slot, from the master values that memory holds. -/
def writeCopy (s : State) (w : Who) (p : Program) (record i fmt : Nat) (step : Word64) (spans : List Nat) :
    List Encoded × State :=
  match writerOf p record with
  | none => ([], s)
  | some (u, fwd) =>
    let r := parseVersion (descOf p record)
    let d := { parseBlock (descOf p (r.slotDesc i)) with fmt := fmt }
    let l := copyLayout p record i
    let base := (parsePlain (descOf p u.master)).base
    let rd := peek s w.unit
    let k := { keyOf s u.stream r.tensor with step := step }
    let bs := spanBlocks d.n spans
    writeBlocksFull w d d.rnd (bs.map fun b => (b, copySrcs k d.rnd u fwd l (fun x => leNat (rd (base + 2 * x) 2)) b)) none [] s

/-! ### Sums and shadows (R149, R156, R157) -/

/-- The expanded elements of an encoded block. -/
def encodedVals (f : BFmt) (e : Encoded) : List Val :=
  (List.range 32).map fun i => blkVal f { s := e.s, codes := e.codes, escapes := e.escapes } i

/-- A sampled block's shadow in one format (R157). -/
def shadow (d : BlockDesc) (f : BFmt) (xs : List Src) : Encoded :=
  encodeBlock f d.rank d.threshold .nearestEven none 7 (xs.map fun x => { x with r := 0 })

/-- Squared error of a shadow, exactly. -/
def shadowError (f : BFmt) (e : Encoded) (xs : List Src) : Val :=
  exactSum (((encodedVals f e).zip xs).map fun x => let d := x.1.sub x.2.v; d.mul d)

/-- Layer statistics advanced by one encoded copy block of `n` elements (R156). -/
def noteCopyBlock (t : LayerStat) (e : Encoded) (n : Nat) : LayerStat :=
  { t with
    updated := true, saturations := t.saturations + e.excessFinite, elements := t.elements + n
    blocks := t.blocks + 1, escapes := t.escapes + e.escapes.length }

/-- Squared errors of a sampled block's four shadows and the sum of its squares, exactly (R157). -/
def shadowSums (d : BlockDesc) (xs : List Src) : List Val × Val :=
  ((List.range 4).map fun c => shadowError (coachFormat c) (shadow d (coachFormat c) xs) xs,
    exactSum (xs.map fun x => x.v.mul x.v))

/-- Escapes of a sampled block's K4 shadow (R156). -/
def noteShadow (d : BlockDesc) (t : LayerStat) (xs : List Src) : LayerStat :=
  { t with shadowBlocks := t.shadowBlocks + 1, shadowEscapes := t.shadowEscapes + (shadow d .k4 xs).escapes.length }

/-- One block's w² and Δw², in the layer and per output channel, exactly (R149). -/
def squareSums (desc block : Nat) (es : List (Nat × Val × Val)) (shadow : List Val × Val) : BlockSum :=
  let sq (f : Nat × Val × Val → Val) (l : List (Nat × Val × Val)) : Val := exactSum (l.map fun x => (f x).mul (f x))
  { desc := desc, block := block, w2 := sq (·.2.1) es, d2 := sq (·.2.2) es
    channels := ((es.map (·.1)).eraseDups).map fun c =>
      let l := es.filter (·.1 == c)
      (c, sq (·.2.1) l, sq (·.2.2) l)
    errNum := shadow.1, errDen := shadow.2 }

/-! ### The main pass (R223, R225, R227, R229) -/

/-- What the main pass makes of one master element. -/
structure NewElem where
  index : Nat
  m : Nat
  c : Nat
  v1 : Val
  v2 : Val
  w : Val                                  -- the value before
  dw : Val
  skipped : Bool
  kept : Bool                              -- left unchanged as non-finite
  deriving DecidableEq, Repr

def newElement (rd : Reader) (p : Program) (u : UpdateDesc) (sc : UpdScalars) (i : Nat) : NewElem :=
  let base := (parsePlain (descOf p u.master)).base
  let m := leNat (rd (base + 2 * i) 2)
  let c := leNat (rd (compAddr base u.count i) 1)
  let mom (slot : Nat) : Val :=
    if slot = 0xFFFF then Val.zero else round32 (blockElem rd (parseBlock (descOf p slot)) (i / 32) (i % 32))
  let v1 := mom u.m1
  let v2 := mom u.m2
  let w := masterVal m c
  let old : NewElem := { index := i, m := m, c := c, v1 := v1, v2 := v2, w := w, dw := Val.zero, skipped := false, kept := false }
  if elemSkipped rd p u i then { old with skipped := true }
  else
    let gr := b32At rd ((parsePlain (descOf p u.grad)).base + 4 * gradIndex u i)
    let (v1', v2', w1) := updateElement sc gr v1 v2 w
    if nonFiniteUpdate v1' v2' w1 then { old with kept := true }
    else
      let (m1, c1) := splitMaster w1
      { old with m := m1, c := c1, v1 := v1', v2 := v2', dw := (masterVal m1 c1).sub w }

/-- A moment's blocks that hold updated elements are encoded again, from new and old values (R222, R225, R227). -/
def writeMoment (s : State) (w : Who) (rd : Reader) (p : Program) (u : UpdateDesc) (slot : Nat) (new : List NewElem)
    (pickV : NewElem → Val) : State :=
  if slot = 0xFFFF then s
  else
    let d := parseBlock (descOf p slot)
    let k := keyOf s u.stream d.tensor
    let bs := ((new.map fun e => e.index / 32).eraseDups).mergeSort fun a b => decide (a ≤ b)
    let src (i : Nat) : Src :=
      if i < u.count then
        let v := match new.find? (·.index == i) with
          | some e => pickV e
          | none => round32 (blockElem rd d (i / 32) (i % 32))
        { v := v, w := v.weight, r := cells k d.rnd i }
      else Src.zero
    writeBlocks w d d.rnd (bs.map fun b => (b, (rangeFrom (32 * b) 32).map src)) s

/-- Blocks that a main pass covers: the forward copy's, or the master's own when there is no copy. -/
def mainBlocks (s : State) (p : Program) (u : UpdateDesc) (spans : List Nat) : List (Nat × List (Option Nat)) :=
  if u.fwd = 0xFFFF then
    (spanBlocks (u.count / 32) spans).map fun b => (b, (rangeFrom (32 * b) 32).map some)
  else
    let i := s.step.toNat + 1
    let d := parseBlock (descOf p ((parseVersion (descOf p u.fwd)).slotDesc i))
    let l := copyLayout p u.fwd i
    (spanBlocks d.n spans).map fun b => (b, (copyBlock l b).map fun x => x.map fun e => (copyElem u true l e).1)

/-- Spans of an UPDATE instance (R229). -/
def instSpans (w : Who) (i : PInstr) : List Nat := rangeFrom (i.firstSpan + w.inst * i.spanCount) i.spanCount

/-- Block tensor descriptors of the moments that an update names (R222). -/
def momentDescs (p : Program) (u : UpdateDesc) : List BlockDesc :=
  ([u.m1, u.m2].filter (· != 0xFFFF)).map fun slot => parseBlock (descOf p slot)

/-- Moment blocks that hold the elements of an instance. -/
def momentBlocks (idx : List Nat) : List Nat := (idx.map (· / 32)).eraseDups

/-- A failed check among the moment blocks an instance reads (R81). -/
def momentFault (s : State) (unit : Nat) (p : Program) (u : UpdateDesc) (idx : List Nat) (rd : Reader) :
    Option (BlockDesc × Skew) :=
  (momentDescs p u).findSome? fun d =>
    (checkBlocks rd d (readBefore s unit d) (momentBlocks idx)).map fun e => (d, e)

/-- What the clip factor reads: the tensor's sum of squares, or its clip group's (R226, R265). -/
def clipRanges (p : Program) (u : UpdateDesc) : List (Nat × Nat) :=
  let own (x : UpdateDesc) : Nat × Nat := (sumSqAddr (parsePlain (descOf p x.grad)).base x.count, 4)
  if u.clipMode = 0 then []
  else if u.clipMode = 3 then
    ((((slotsOf p .update).map fun x => parseUpdate x.2).filter fun x => x.clipMode == 3 && x.clipGroup == u.clipGroup)).map own
  else [own u]

/-- Flag bytes that decide whether master element `i` is skipped (R227, R263). -/
def flagRanges (p : Program) (u : UpdateDesc) (i : Nat) : List (Nat × Nat) :=
  let one (tensor index : Nat) : List (Nat × Nat) :=
    match bucketFor p tensor index with
    | none => []
    | some b => [(b.flags + index / 256 / 8, 1)]
  match tieOf p (parsePlain (descOf p u.master)).tensor with
  | none => one (parsePlain (descOf p u.grad)).tensor (gradIndex u i)
  | some t => (rangeFrom (i / 256 * 256) (min 256 (u.count - i / 256 * 256))).flatMap fun j =>
      (List.range t.uses).flatMap fun k => one (t.tensors.getD k 0) (useIndex t u.rows u.columns k j)

/-- What a main pass reads for its elements: masters with their compensation bytes, gradients, moment blocks, the schedule
entry, the clip squares and the skip flags (R221 to R229). -/
def mainRanges (rd : Reader) (s : State) (p : Program) (u : UpdateDesc) (idx : List Nat) : List (Nat × Nat) :=
  let base := (parsePlain (descOf p u.master)).base
  let grad := (parsePlain (descOf p u.grad)).base
  (u.sched + 16 * (s.step.toNat % max u.schedLen 1), 16) :: clipRanges p u ++
    (idx.flatMap fun i =>
      [(base + 2 * i, 2), (compAddr base u.count i, 1), (grad + 4 * gradIndex u i, 4)] ++ flagRanges p u i).eraseDups ++
    (momentDescs p u).flatMap fun d => blockParts rd d (momentBlocks idx)

/-- Bump-table bytes that the encoding of a copy's spans reads (R70, R144). -/
def copyBumps (s : State) (p : Program) (record : Nat) (spans : List Nat) : List (Nat × Nat) :=
  if record = 0xFFFF then []
  else
    let d := parseBlock (descOf p ((parseVersion (descOf p record)).slotDesc (s.step.toNat + 1)))
    bumpReads p d (spanBlocks d.n spans)

/-- The layer's statistics of the update in progress (R149, R156, R157). -/
def noteMain (s : State) (p : Program) (u : UpdateDesc) (desc : Nat) (blocks : List (Nat × List (Option Nat)))
    (new : List NewElem) (enc : List Encoded) : State :=
  match layerOf s u.layer with
  | none => s
  | some l =>
    let find (i : Nat) : Option NewElem := new.find? (·.index == i)
    let d := parseBlock (descOf p ((parseVersion (descOf p u.fwd)).slotDesc (s.step.toNat + 1)))
    let sampled (b : Nat) : Bool := b % 64 == s.step.toNat % 64 && u.fwd != 0xFFFF
    let src (x : Option Nat) : Src := match x.bind find with
      | some e => let v := round32 (decode .k16 e.m); { v := v, w := v.weight, r := 0 }
      | none => Src.zero
    let l' := (blocks.zip (enc.map some ++ List.replicate blocks.length none)).foldl (fun (l : LayerState) x =>
      let es := (x.1.2.filterMap id).filterMap find
      let xs := x.1.2.map src
      let t := { l.stat with updated := true, skipped := l.stat.skipped || es.any (·.skipped) }
      let t := match x.2 with
        | some e => noteCopyBlock t e es.length
        | none => t
      { l with
        stat := if sampled x.1.1 then noteShadow d t xs else t
        sums := l.sums ++ [squareSums desc x.1.1 (es.map fun e => (e.index % u.columns, e.w, e.dw))
          (if sampled x.1.1 then shadowSums d xs else ([], Val.zero))] }) l
    updLayer s u.layer fun l => { l with stat := l'.stat, sums := l'.sums }

/-- New master pairs written, and counted where the host watches the tensor (R153, R225). -/
def writeMasters (s : State) (w : Who) (p : Program) (u : UpdateDesc) (new : List NewElem) : State :=
  let pd := parsePlain (descOf p u.master)
  (new.filter fun e => !e.skipped && !e.kept).foldl (fun s e =>
    let s := writeGlobal s w (pd.base + 2 * e.index) (leBytes 2 e.m)
    let s := writeGlobal s w (compAddr pd.base u.count e.index) (leBytes 1 e.c)
    noteWatch s pd.tensor (addWatch 1 (if codeZero .k16 e.m then 1 else 0) 0 0 0)) s

/-- The main pass over elements whose sources are here and whose moment blocks pass their checks. -/
def mainPass (w : Who) (i : PInstr) (p : Program) (u : UpdateDesc) (rd : Reader) (s : State) : State :=
  let spans := instSpans w i
  let blocks := mainBlocks s p u spans
  let idx := blocks.flatMap fun x => x.2.filterMap id
  let s := (momentDescs p u).foldl (fun s d => noteRead s w.unit d (momentBlocks idx)) s
  let new := idx.map (newElement rd p u (updScalars s rd p u))
  let s := writeMasters s w p u new
  let s := writeMoment s w rd p u u.m1 new (·.v1)
  let s := writeMoment s w rd p u u.m2 new (·.v2)
  let s := bump s 0x0901 noInst (parsePlain (descOf p u.master)).tensor (new.filter (·.kept)).length
  if u.fwd = 0xFFFF then noteMain s p u i.desc blocks new []
  else
    let (enc, s) := writeCopy s w p u.fwd (s.step.toNat + 1) (copyFormat s p u.fwd) s.step spans
    noteSpans (noteMain s p u i.desc blocks new enc) w u.fwd spans

/-- The main pass of an instance (R81 to R83, R225, R229, R300). -/
def mainWork (s : State) (w : Who) (i : PInstr) (stale : List (Nat × Byte)) (tried : List (Nat × Nat)) : State :=
  match s.program with
  | none => s
  | some p =>
    let u := parseUpdate (descOf p i.desc)
    let s := if u.fwd = 0xFFFF then s else startAway s u.fwd
    let idx := (mainBlocks s p u (instSpans w i)).flatMap fun x => x.2.filterMap id
    withSources s w (mainRanges (peek s w.unit) s p u idx ++ copyBumps s p u.fwd (instSpans w i)) (fun s =>
      checked s w stale tried (momentFault s w.unit p u idx) (mainPass w i p u) (input := { stale := stale })) { stale := stale }

/-- An UPDATE instance of a pass kind can run: the step is committed and its slot can be written (R233). -/
def updateReady (kind : Nat) (s : State) (i : PInstr) : Bool :=
  i.cls == 7 && i.passKind == kind && committed s && (s.program.map fun p =>
    let u := parseUpdate (descOf p i.desc)
    canWrite s (if kind = 0 then u.fwd else u.trans)).getD false

def execUpdateMainPass (unit : Nat) (s : State) (stale : List (Nat × Byte) := []) : Host.Outcome State Fault Refusal :=
  issue s unit (updateReady 0) fun s w i => mainWork s w i stale []

/-! ### The copy pass (R229, R233) -/

/-- Master values that a copy's spans read. -/
def copyRanges (p : Program) (record i : Nat) (spans : List Nat) : List (Nat × Nat) :=
  match writerOf p record with
  | none => []
  | some (u, fwd) =>
    let l := copyLayout p record i
    let base := (parsePlain (descOf p u.master)).base
    (spanBlocks (parseBlock (descOf p ((parseVersion (descOf p record)).slotDesc i))).n spans).flatMap fun b =>
      ((copyBlock l b).filterMap id).map fun e => (base + 2 * (copyElem u fwd l e).1, 2)

/-- Elements of a copy's block that are no padding. -/
def copyCount (p : Program) (record i b : Nat) : Nat := ((copyBlock (copyLayout p record i) b).filterMap id).length

/-- The copy pass over spans whose master values are here. -/
def copyPass (w : Who) (p : Program) (u : UpdateDesc) (k : Nat) (spans : List Nat) (s : State) : State :=
  let (enc, s) := writeCopy s w p u.trans k (copyFormat s p u.trans) s.step spans
  let bs := spanBlocks (parseBlock (descOf p ((parseVersion (descOf p u.trans)).slotDesc k))).n spans
  let s := updLayer s u.layer fun x =>
    { x with stat := (enc.zip bs).foldl (fun t e => noteCopyBlock t e.1 (copyCount p u.trans k e.2)) x.stat }
  noteSpans s w u.trans spans

def copyWork (s : State) (w : Who) (i : PInstr) : State :=
  match s.program with
  | none => s
  | some p =>
    let u := parseUpdate (descOf p i.desc)
    let k := s.step.toNat + 1
    if u.trans = 0xFFFF then s
    else withSources (startAway s u.trans) w (copyRanges p u.trans k (instSpans w i) ++ copyBumps s p u.trans (instSpans w i))
      (copyPass w p u k (instSpans w i))

def execUpdateCopyPass (unit : Nat) (s : State) : Host.Outcome State Fault Refusal :=
  issue s unit (updateReady 1) copyWork

/-! ### The start fill (R234) -/

/-- The instance that stands for a fill pass in the record of writes. -/
def fillWho (unit : Nat) : Who := { unit := unit, stream := .U, index := 0xFFFF, inst := 0 }

/-- What a fill pass meets that keeps it from its master values: the status and the address (R300). -/
def fillFailure (s : State) (record : Nat) : Option (Nat × Nat × Nat) :=
  match s.program, versionOf s record with
  | some p, some v =>
    let r := parseVersion (descOf p record)
    let epoch := tokenValue s v.unit r.epochToken
    let n := (parseBlock (descOf p (r.slotDesc epoch))).n
    (firstFailure s v.unit (copyRanges p record epoch (List.range (ceilDiv n 256)))).map fun x => (v.unit, x)
  | _, _ => none

/-- The fill pass of a version record: the whole copy from the master values, into the slot its epoch token names. -/
def fillOne (s : State) (record : Nat) : State :=
  match s.program, versionOf s record with
  | some p, some v =>
    let r := parseVersion (descOf p record)
    let epoch := tokenValue s v.unit r.epochToken
    let n := (parseBlock (descOf p (r.slotDesc epoch))).n
    let f := copyFormat s p record
    let s := (writeCopy s (fillWho v.unit) p record epoch f 0xFFFF_FFFF_FFFF_FFFF#64 (List.range (ceilDiv n 256))).2
    updVersion s record fun v => v.setSlot epoch { tag := BitVec.ofNat 16 epoch, fmt := f, cond := .home }
  | _, _ => s

/-- Version records whose home slot is empty when the program starts. -/
def emptyHomes (s : State) : List Nat :=
  (s.versions.filter fun v => v.s0.cond != .home && v.s1.cond != .home).map (·.record)

/-- A fill pass finishes: what it writes belongs to no step, so no statistics of one keep it (R142, R234; DEDUCED, log 99).
A fill that cannot read its masters reports the address error and never finishes (R300). -/
def finishFill (s : State) (record : Nat) : State :=
  match fillFailure s record with
  | some (unit, st, a) => accessFailed s (fillWho unit) st a
  | none =>
    let s' := fillOne s record
    { s' with scales := s.scales, beat := { s'.beat with fills := s'.beat.fills.filter (· != record) } }

/-- The fill passes finish (R234). -/
def execFillPassComplete (s : State) : Host.Outcome State Fault Refusal :=
  if s.pstate = .running then .next (s.beat.fills.foldl finishFill s) else .next s

end Sys2Proof.Machine
end

