-- ==== Sys2Proof/Machine/LoadOrder.lean ====
section
/-! DEFINITION. What the load checks know of order and of memory: which instances the program's tokens order within a step
(R191, R197 to R203; log 43), and the ranges an instance reads and writes. -/

namespace Sys2Proof.Machine

open Sys2Proof

/-! ### Instances -/

/-- An instance with its instruction. -/
structure Inst where
  who : Who
  ins : PInstr
  deriving DecidableEq, Repr

def bodyInsts (unit : Nat) (t : Stream) (is : List PInstr) : List Inst :=
  is.zipIdx.flatMap fun x => (List.range x.1.count).map fun k =>
    { who := { unit := unit, stream := t, index := x.2, inst := k }, ins := x.1 }

def instsOf (p : Program) : List Inst :=
  p.stages.flatMap fun g => bodyInsts g.unit .F g.f ++ bodyInsts g.unit .B g.b ++ bodyInsts g.unit .U g.u

/-- Same stream of the same unit. -/
def sameStream (x y : Who) : Bool := x.unit == y.unit && x.stream == y.stream

/-- At or before in body order. -/
def upTo (x y : Who) : Bool := decide (x.index < y.index) || (x.index == y.index && decide (x.inst ≤ y.inst))

/-- Two instances of one instruction. -/
def sameIns (x y : Who) : Bool := sameStream x y && x.index == y.index

/-! ### Signals and waits (R197, R200, R203, R482) -/

/-- What an instance adds to a token of this module by an add signal: unit, token, amount. -/
def adds (s : State) (p : Program) (i : PInstr) (unit : Nat) : Option (Nat × Nat × Nat) :=
  if i.signalMode ≠ 1 then none
  else if i.cls = 1 then
    (if i.desc = 0xFFFF ∨ isLocal s (p.peers.getD i.desc 0xFFFF) then some (i.sigUnit, i.sigToken, i.sigCount) else none)
  else some (unit, i.signalToken, 1)

/-- The reference token an instance acquires (mode 2) or releases (mode 3): unit and token. -/
def refs (s : State) (p : Program) (mode : Nat) (x : Inst) : Option (Nat × Nat) :=
  if x.ins.signalMode ≠ mode then none
  else if x.ins.cls = 1 then
    (if x.ins.desc = 0xFFFF ∨ isLocal s (p.peers.getD x.ins.desc 0xFFFF) then some (x.ins.sigUnit, x.ins.sigToken) else none)
  else some (x.who.unit, x.ins.signalToken)

/-- UPDATE instances that write a version record. -/
def writesRecord (p : Program) (record : Nat) (x : Inst) : Bool :=
  x.ins.cls == 7 && (let u := parseUpdate (descOf p x.ins.desc)
    if x.ins.passKind = 0 then u.fwd == record else u.trans == record)

/-- Version records whose epoch token is a token of a unit. -/
def recordsOfToken (p : Program) (unit tok : Nat) : List Nat :=
  ((slotsOf p .version).filter fun x => (parseVersion x.2).epochToken == tok && (recordUnits p x.1).contains unit).map (·.1)

/-- Whether an instance adds to a token, and how much. -/
def addsTo (s : State) (p : Program) (unit tok : Nat) (y : Inst) : Nat :=
  match adds s p y.ins y.who.unit with
  | some (u, t, n) => if u = unit ∧ t = tok then n else 0
  | none => 0

/-- What is added to a token in a step by `x` and those after it in its stream, and by all others. -/
def tokenShares (s : State) (p : Program) (all : List Inst) (x : Who) (unit tok : Nat) : Nat × Nat :=
  let late (y : Inst) : Bool := sameStream x y.who && upTo x y.who
  (((all.filter late).map (addsTo s p unit tok)).sum, ((all.filter fun y => !late y).map (addsTo s p unit tok)).sum)

def declared (p : Program) (unit tok : Nat) : TokDecl :=
  ((p.stages.find? (·.unit == unit)).bind fun g => g.tokens[tok]?).getD { mode := 0, reserved := 0, init := 0 }

/-- Whether the wait of `y`, on a counter or an epoch, cannot be satisfied before `x` is complete. -/
def countNeeds (s : State) (p : Program) (all : List Inst) (x : Inst) (y : Inst) : Bool :=
  let tok := y.ins.waitToken
  let unit := y.who.unit
  let (mine, others) := tokenShares s p all x.who unit tok
  match y.ins.waitMode with
  | 1 => decide (0 < mine) &&
      decide ((declared p unit tok).init + others < y.ins.waitTarget + y.who.inst * y.ins.waitInc)
  | 2 =>
    let o := bitsOf y.ins.waitTarget 0 8
    decide (1 ≤ o) && decide (o < 128) &&
      ((recordsOfToken p unit tok).any (fun r => writesRecord p r x) || (decide (0 < mine) && decide (others < o)))
  | _ => false

/-- `x` is complete before `y` issues, by one wait: of `y`, or of an instance before it in its stream. -/
def ordersDirectly (needs : Inst → Inst → Bool) (all : List Inst) (x y : Inst) : Bool :=
  all.any fun z => sameStream z.who y.who && upTo z.who y.who && needs x z

/-- Every instance that waits order after those of a list; `n` bounds the rounds. -/
def orderedAfter (needs : Inst → Inst → Bool) (all : List Inst) : Nat → List Inst → List Inst
  | 0, xs => xs
  | n + 1, xs =>
    let new := all.filter fun y => !xs.contains y && xs.any fun x => ordersDirectly needs all x y
    if new.isEmpty then xs else orderedAfter needs all n (xs ++ new)

def orderedThrough (needs : Inst → Inst → Bool) (all : List Inst) (x y : Inst) : Bool :=
  (orderedAfter needs all all.length (all.filter fun z => ordersDirectly needs all x z)).contains y

/-- Whether the wait of `y` cannot be satisfied before `x` is complete. A wait for a reference token at zero needs `x` when
the acquires that come before it outnumber the releases that can come without `x` (R200, R203). -/
def waitNeeds (s : State) (p : Program) (all : List Inst) (x : Inst) (y : Inst) : Bool :=
  if y.ins.waitMode ≠ 3 then countNeeds s p all x y
  else
    let here (mode : Nat) (z : Inst) : Bool := refs s p mode z == some (y.who.unit, y.ins.waitToken)
    let acquired := (all.filter fun z => here 2 z && orderedThrough (countNeeds s p all) all z y).length
    let free := (all.filter fun z => here 3 z && !(sameStream x.who z.who && upTo x.who z.who)).length
    decide (free < (declared p y.who.unit y.ins.waitToken).init + acquired) &&
      all.any fun z => here 3 z && sameStream x.who z.who && upTo x.who z.who

/-- Whether the tokens order `x` before `y` (R191). -/
def orderedBy (s : State) (p : Program) (all : List Inst) (x y : Inst) : Bool :=
  orderedThrough (waitNeeds s p all) all x y

/-! ### Ranges of an instance -/

/-- A range of memory, written or read: the tensor it belongs to, where an operand names one, and whether it is bookkeeping
that all writers of a tensor share. -/
structure Range where
  write : Bool
  tensor : Nat
  shared : Bool
  addr : Nat
  len : Nat
  deriving DecidableEq, Repr

def rdOf (t a n : Nat) : Range := { write := false, tensor := t, shared := false, addr := a, len := n }
def wrOf (t a n : Nat) : Range := { write := true, tensor := t, shared := false, addr := a, len := n }
def rd (a n : Nat) : Range := rdOf noTensor a n
def wr (a n : Nat) : Range := wrOf noTensor a n
def sharedWr (t a n : Nat) : Range := { wrOf t a n with shared := true }

/-- Side-list part and directory entry of the spans of blocks (R77, R78). -/
def spanRanges (write : Bool) (d : BlockDesc) (bs : List Nat) : List Range :=
  if isBlocked d.bfmt then []
  else ((bs.map (· / 256)).eraseDups).flatMap fun p =>
    ([(d.side + 4 * d.capacity * p, 4 * d.capacity), (d.dir + 8 * p, 8)]).map fun r =>
      { write := write, tensor := d.tensor, shared := write, addr := r.1, len := r.2 }

/-- Data slot and scale word of blocks, with what their spans add. -/
def blockRangesOf (write : Bool) (d : BlockDesc) (bs : List Nat) : List Range :=
  (bs.eraseDups.flatMap fun b =>
    ([(d.data + b * slotBytes d.bfmt, slotBytes d.bfmt), (d.scale + 2 * b, 2)]).map fun r =>
      { write := write, tensor := d.tensor, shared := false, addr := r.1, len := r.2 }) ++ spanRanges write d bs

/-- The environment of an instance as the load checks see it, in a step of parity `par`. -/
def loadEnv (p : Program) (par : Nat) (x : Inst) : PassEnv :=
  let d := parseProduct (descOf p x.ins.desc)
  let o := par + (if x.ins.waitMode = 2 then x.ins.offset else 0)
  { p := d, out := parseOut (descOf p d.out), a := operandOf p d.a d.layoutA o, b := operandOf p d.b d.layoutB o,
    lay := layoutOf p d.layoutOut, mb := d.instBase + x.who.inst }

/-- Elements or blocks an operand's rows or columns take over the K range. -/
def operandRanges (v : PassEnv) (o : Operand) (column : Bool) (is : List Nat) : List Range :=
  match o with
  | .block d _ => blockRangesOf false d (operandBlocks o column v.mb is (kRange v))
  | .plain d l =>
    let n := fmtBytes (fmtOf d.fmt)
    is.flatMap fun i => (rangeFrom (32 * v.p.firstK) (min (32 * v.p.kBlocks) (o.kSize column - 32 * v.p.firstK))).map fun k =>
      rdOf d.tensor (d.base + n * plainPlace l (o.at column v.mb i k)) n

/-- Staging element and staging word of a gradient element (R249, R250). -/
def stagingRanges (p : Program) (tensor e : Nat) : List Range :=
  match bucketFor p tensor e with
  | none => []
  | some b => [wrOf tensor (b.staging + 2 * (e - b.first)) 2,
      sharedWr tensor (b.staging + 512 * b.segments + 8 * ((e - b.first) / 256)) 8]

/-- What a pass writes: staging words, a side list and a directory are bookkeeping that its writers share. -/
def outRanges (p : Program) (v : PassEnv) (r : Rect) : List Range :=
  let all := r.1.flatMap fun i => r.2.map fun j => (i, j)
  match v.out.fmt with
  | 4 =>
    let d := parseBlock (descOf p (v.out.dest % 65536))
    blockRangesOf true d (all.map fun x => (blockPlace v.lay (outCoords v x.1 x.2)).1)
  | 5 => all.flatMap fun x => stagingRanges p v.out.tensor (elemIndex v.lay (outCoords v x.1 x.2))
  | 6 => all.map fun x => wr (carryAddr v v.out.dest x.1 x.2) 8
  | c =>
    let n := fmtBytes (fmtOf c)
    all.map fun x => wrOf v.out.tensor (v.out.dest + n * plainPlace v.lay (outCoords v x.1 x.2)) n

def passRanges (p : Program) (par : Nat) (x : Inst) : List Range :=
  let v := loadEnv p par x
  (namedPasses v.p x.ins).flatMap fun g =>
    let r := passRect v.p g
    let all := r.1.flatMap fun i => r.2.map fun j => (i, j)
    let ch (base : Nat) : List Range :=
      if base = 0 then [] else (if v.out.rowChannel then r.1 else r.2).map fun c => rd (base + 2 * c) 2
    let carry := if v.out.carryBase = 0 then [] else all.map fun y => rd (carryAddr v v.out.carryBase y.1 y.2) 8
    operandRanges v v.a v.p.aColumn r.1 ++ operandRanges v v.b v.p.bColumn r.2 ++ ch v.out.scaleBase ++ ch v.out.biasBase ++
      carry ++ outRanges p v r

def rowRanges (d : RowDesc) : List Range :=
  let opt (r : Range) : List Range := if r.addr = 0 then [] else [r]
  let n := d.rows * d.n
  let out := if d.op = 6 then 4 * d.rows else n * fmtBytes d.dstFmt
  [rd d.src (n * fmtBytes d.srcFmt), wrOf d.tensor d.dst out] ++ opt (rd d.grad (n * fmtBytes d.srcFmt)) ++ opt (rd d.affine (4 * d.n)) ++
    opt (wr d.paramGrad (16 * d.n))

/-- Bytes of a checkpoint's regions (R180). -/
def ckptBytesOf (d : CkptDesc) : Nat :=
  match d.mode with
  | 0 => d.count * ckptBytes d.k16
  | 1 => roundUp 64 (4 * d.segments) + d.segments * (if d.k16 then 16448 else 8256)
  | _ => d.narrowedBytes

def ckptRanges (d : CkptDesc) (load : Bool) : List Range :=
  let mine := d.count * ckptBytes d.k16
  if load then [rd d.base (ckptBytesOf d), wr d.src (if d.mode = 2 then d.narrowedBytes else mine)]
  else [rd d.src mine, wrOf d.tensor d.base (ckptBytesOf d)]

/-- Blocks of an update instance's spans and the master elements they hold, in a step of parity `par`. -/
def updateBlocks (p : Program) (par : Nat) (u : UpdateDesc) (record : Nat) (fwd : Bool) (spans : List Nat) :
    List (Nat × List Nat) :=
  if record = 0xFFFF then (spanBlocks (u.count / 32) spans).map fun b => (b, rangeFrom (32 * b) 32)
  else
    let d := parseBlock (descOf p ((parseVersion (descOf p record)).slotDesc (par + 1)))
    let l := copyLayout p record (par + 1)
    (spanBlocks d.n spans).map fun b => (b, ((copyBlock l b).filterMap id).map fun e => (copyElem u fwd l e).1)

/-- An update writes the away slot, which alternates with the step. -/
def updateRanges (p : Program) (par : Nat) (x : Inst) : List Range :=
  let u := parseUpdate (descOf p x.ins.desc)
  let fwd := x.ins.passKind == 0
  let record := if fwd then u.fwd else u.trans
  let blocks := updateBlocks p par u record fwd (instSpans x.who x.ins)
  let idx := blocks.flatMap (·.2)
  let pd := parsePlain (descOf p u.master)
  let gd := parsePlain (descOf p u.grad)
  let master := pd.base
  let copy := if record = 0xFFFF then []
    else blockRangesOf true (parseBlock (descOf p ((parseVersion (descOf p record)).slotDesc (par + 1)))) (blocks.map (·.1))
  if fwd then
    let moment (slot : Nat) : List Range :=
      if slot = 0xFFFF then [] else blockRangesOf true (parseBlock (descOf p slot)) (idx.map (· / 32))
    (idx.flatMap fun i => [wrOf pd.tensor (master + 2 * i) 2, wrOf pd.tensor (compAddr master u.count i) 1,
        rdOf gd.tensor (gd.base + 4 * gradIndex u i) 4]) ++
      moment u.m1 ++ moment u.m2 ++ copy ++ [rd u.sched (16 * u.schedLen)] ++
      ((clipRanges p u ++ (idx.flatMap (flagRanges p u)).eraseDups).map fun r => rd r.1 r.2)
  else (idx.map fun i => rdOf pd.tensor (master + 2 * i) 2) ++ copy

/-- What a VE instance reads and writes (log 12). -/
def veRanges (p : Program) (i : PInstr) : List Range :=
  match veOpOf p i with
  | none => []
  | some op =>
    let a := op.dst.base.toNat
    let ld := layoutOf p op.lay
    let n := fmtBytes op.dst.fmt
    let out : List Range := match op.fn with
      | .toBlock => blockRangesOf true (parseBlock (descOf p op.slot)) (veBlocks op)
      | .fromBlock =>
        let la := layoutOf p op.layA
        (veBlocks op).flatMap fun b => (((List.range 32).map (blockCoords la b)).filter (inside la)).map fun e =>
          wrOf op.tensor (a + n * plainPlace ld e) n
      | .toG16 =>
        let b := parseBucket (descOf p op.slot)
        (List.range op.count).flatMap fun k => stagingRanges p b.tensor (b.first + op.first + k)
      | .tieSum =>
        let c := ((updateOfMaster p (parseTie (descOf p op.slot)).weight).map UpdateDesc.count).getD 0
        [wrOf op.tensor a (4 * c), wr (roundUp 64 (a + 4 * c)) 4]
      | .sum | .flagRead => [wrOf op.tensor a 4]
      | .toInt | .fromCarry => [wrOf op.tensor a (4 * op.count)]
      | _ => [wrOf op.tensor a (n * op.count)]
    (if op.fn = .fromBlock then blockRangesOf false (parseBlock (descOf p op.slot)) (veBlocks op)
     else (veReads (fun _ _ => []) p op).map fun r => rd r.1 r.2) ++ out

/-- What an INGEST instance makes its IGD read and write: the catalogue and the descriptor's ring (R339, R349, R351). -/
def ingestRanges (p : Program) (i : PInstr) : List Range :=
  let b := descOf p i.desc
  let d := parseIngest b
  [rd d.catalogue (32 * d.entries),
   wr (0xFFFF_2000_0000_0000 + d.igd * 0x2000_0000 + d.ring) ((p.hdr.runAhead + 1) * d.bs * sampleStride b)]

/-- Flag bytes of a bucket's segments (R263). -/
def bucketFlags (b : BucketDesc) : Nat × Nat :=
  let lo := b.first / 256 / 8
  (b.flags + lo, (b.first / 256 + b.segments - 1) / 8 - lo + 1)

/-- What a BUCKET instance reads and writes. Flag bits of different buckets share bytes and never bits. -/
def bucketRanges (p : Program) (i : PInstr) : List Range :=
  let b := parseBucket (descOf p i.desc)
  let g := b.segments
  match i.bucketKind with
  | 0 => [rdOf b.tensor b.staging (512 * g), wrOf b.tensor (b.staging + 512 * g) (8 * g), wr b.result (1040 * g)] ++
      (List.range g).map fun n => rd (b.segTable + 32 * n) 16
  | 1 => [rd b.result (1040 * g), wrOf b.tensor (b.grad + 4 * b.first) (4 * b.count), wr b.segTable (32 * g + 8),
      sharedWr b.tensor (bucketFlags b).1 (bucketFlags b).2]
  | _ =>
    let bs := (rangeFrom i.desc i.bucketCount).map fun k => parseBucket (descOf p k)
    let count := (bs.map fun b => b.first + b.count).foldl max 0
    (bs.map fun b => rd (b.segTable + 32 * b.segments) 8) ++ [wr (sumSqAddr b.grad count) 4]

/-- The ranges of an instance in a step of parity `par`. -/
def instRanges (p : Program) (par : Nat) (x : Inst) : List Range :=
  let d := descOf p x.ins.desc
  match x.ins.cls with
  | 2 => passRanges p par x
  | 3 => veRanges p x.ins
  | 4 => rowRanges (parseRow d)
  | 5 => let m := parseMove d; [rd m.src m.len, wr m.dst m.len]
  | 6 => ckptRanges (parseCkpt d) (bitAt x.ins.operand 0)
  | 7 => updateRanges p par x
  | 8 => bucketRanges p x.ins
  | 9 => ingestRanges p x.ins
  | _ => []

/-- The ranges of an instance in steps of both parities. -/
def allRanges (p : Program) (x : Inst) : List Range := (instRanges p 0 x ++ instRanges p 1 x).eraseDups

/-- Two ranges of this module's memory that overlap, one of them written. Writers of shared bookkeeping do not conflict with
each other: R79 and R250 say how it comes out. -/
def conflicts (s : State) (a b : Range) : Bool :=
  let x := homeAddr s a.addr
  let y := homeAddr s b.addr
  (a.write || b.write) && !(a.shared && b.shared) && isLocal s (nodeOf a.addr) && isLocal s (nodeOf b.addr) && decide (x < y + b.len) &&
    decide (y < x + a.len)

end Sys2Proof.Machine
end

