-- ==== Sys2Proof/Machine/LoadPlace.lean ====
section
/-! DEFINITION. Checks 7 and 8 of R209: the placement rules and the addresses. A check answers true when it passes. -/

namespace Sys2Proof.Machine

open Sys2Proof

/-! ### Units and instruction memory (R190, R196) -/

/-- A unit number of R190: a logical tile among those the module provides (R5, R437), or another unit. -/
def unitExists (s : State) (u : Nat) : Bool :=
  let die := u / 256
  let c := u % 256
  let tile := decide (c < providedTiles s .ft) || (decide (0x20 ≤ c) && decide (c < 0x20 + providedTiles s .bt))
  if die < 8 then tile || (decide (0x80 ≤ c) && decide (c < 0x8C)) || c == 0x90 || c == 0x91 || c == 0xA0 || c == 0xA1 || c == 0xA2
  else u == 0x800 || u == 0x900 || u == 0xA00

def stageFits (s : State) (g : Stage) : Bool :=
  unitExists s g.unit && decide (g.f.length + g.b.length + g.u.length ≤ 3072)

/-! ### Spans of one encoder (R79) -/

/-- Blocks that an instance encodes, by block tensor: an output stage's, a VE's, or an update engine's copies and moments. -/
def encodedBlocks (p : Program) (x : Inst) : List (BlockDesc × List Nat) :=
  match x.ins.cls with
  | 2 | 3 => match instBlocks p x.ins x.who.inst with
    | some (slot, bs) => [(parseBlock (descOf p slot), bs)]
    | none => []
  | 7 =>
    let u := parseUpdate (descOf p x.ins.desc)
    let main := x.ins.passKind == 0
    let record := if main then u.fwd else u.trans
    let blocks := updateBlocks p 0 u record main (instSpans x.who x.ins)
    let copies := if record = 0xFFFF then []
      else [0, 1].map fun i => (parseBlock (descOf p ((parseVersion (descOf p record)).slotDesc i)), blocks.map (·.1))
    copies ++ (if main then (momentDescs p u).map fun d => (d, momentBlocks (blocks.flatMap (·.2))) else [])
  | _ => []

/-- Spans of the blocks that an instance encodes, by data base. -/
def encodedSpans (p : Program) (x : Inst) : List (Nat × Nat) :=
  ((encodedBlocks p x).flatMap fun e => e.2.map fun b => (e.1.data, b / 256)).eraseDups

/-- No span is encoded by two units. -/
def spansUndivided (p : Program) (all : List Inst) : Bool :=
  let es := all.flatMap fun x => (encodedSpans p x).map fun e => (x.who.unit, e)
  es.all fun a => es.all fun b => a.2 != b.2 || a.1 == b.1

/-- Every span is written in ascending block number: no block whose turn comes later belongs to an earlier beat than one before
it. What else keeps a span from being encoded in ascending order is refused as a divided span is (R79; DEDUCED, log 34). -/
def spansAscend (p : Program) : Bool :=
  let spans := ((instsOf p).flatMap fun x => match instBlocks p x.ins x.who.inst with
    | some (slot, bs) => bs.map fun b => (slot, b / 256)
    | none => []).eraseDups
  spans.all fun e =>
    let ts := spanTurns p e.1 e.2
    ts.all fun x => ts.all fun y => !x.before y || decide (x.beat ≤ y.beat)

/-! ### Column order, fill gates and chains (R104, R107, R123) -/

/-- Whether a block tensor descriptor is a weight copy: a slot of a version record, a layer's weight, or one of a copy's data
(R104, R161, R230). -/
def weightCopy (p : Program) (slot : Nat) : Bool :=
  let d := parseBlock (descOf p slot)
  let slots := (slotsOf p .version).flatMap fun x => let r := parseVersion x.2; [r.slot0, r.slot1]
  slots.contains slot || (layerDescs p).any (·.weight == d.tensor) ||
    slots.any fun i => let c := parseBlock (descOf p i); c.tensor == d.tensor || c.data == d.data

/-- A column-order operand is a plain tensor, or a block tensor in square layout that is no weight copy. -/
def columnOk (p : Program) (slot lay : Nat) (column : Bool) : Bool :=
  !column || (match kindOf p slot with
    | .plain => true
    | .version => false
    | _ => (layoutOf p lay).square && !weightCopy p slot)

def columnsOk (p : Program) (i : PInstr) : Bool :=
  i.cls != 2 || (let d := parseProduct (descOf p i.desc)
    columnOk p d.a d.layoutA d.aColumn && columnOk p d.b d.layoutB d.bColumn)

/-- What every request of a group names alike: operand B, the K extent, the pair and the output-stage settings, those of a
block destination among them. That two slots or two layouts with the same bytes do not name the same operand is a DESIGN
CHOICE (log 113). -/
def gateKey (p : Program) (d : ProductDesc) : List Nat × List El × List El :=
  let o := parseOut (descOf p d.out)
  let t := parseBlock (descOf p (o.dest % 65536))
  ([d.b, d.layoutB, (if d.bColumn then 1 else 0), d.firstK, d.kBlocks, o.scaleBase, o.biasBase, o.carryBase, o.tensor,
    o.clipLow, o.clipHigh, o.fmt, o.control, o.stream] ++
      (if o.fmt = 4 then [t.fmt, t.rule, t.rank, t.threshold, t.capacity] else []), operandEls p d.a, operandEls p d.b)

def gateOf (p : Program) (d : ProductDesc) : Option Nat :=
  if d.gate = 0xFFFF then none else some (parseGate (descOf p d.gate)).group

def gatesAgree (p : Program) : Bool :=
  let ps := ((allInstrs p).filter fun x => x.2.cls == 2).map fun x => parseProduct (descOf p x.2.desc)
  ps.all fun a => ps.all fun b =>
    match gateOf p a, gateOf p b with
    | some x, some y => x != y || gateKey p a == gateKey p b
    | _, _ => true

/-- The tensor that an operand slot names, with its kind: two tiles hold the parts of one operand in their own windows, under
descriptors of their own. -/
def operandTensor (p : Program) (slot : Nat) : DescKind × Nat :=
  let b := descOf p slot
  match kindOf p slot with
  | .plain => (.plain, (parsePlain b).tensor)
  | .version => (.version, (parseVersion b).tensor)
  | k => (k, (parseBlock b).tensor)

/-- What the links of one chain share: operands, layouts, rows, columns and their orders. -/
def chainKey (p : Program) (d : ProductDesc) : List (DescKind × Nat) × List Layout × List Nat :=
  ([operandTensor p d.a, operandTensor p d.b], [layoutOf p d.layoutA, layoutOf p d.layoutB, layoutOf p d.layoutOut],
    [d.orders, d.instBase, d.rows, d.columns])

/-- Whether a product is the preceding link of another: the same operands, layouts, rows, columns and passes, and the K
range that ends just before. -/
def precedes (p : Program) (x y : Inst) : Bool :=
  let a := parseProduct (descOf p x.ins.desc)
  let b := parseProduct (descOf p y.ins.desc)
  x.ins.cls == 2 && y.ins.cls == 2 && x.who.inst == y.who.inst && x.ins.operand == y.ins.operand &&
    a.firstK + a.kBlocks == b.firstK && chainKey p a == chainKey p b

def chainOk (s : State) (p : Program) (all : List Inst) (y : Inst) : Bool :=
  if y.ins.cls ≠ 2 then true
  else
    let o := parseOut (descOf p (parseProduct (descOf p y.ins.desc)).out)
    let linkOk := o.carryBase == 0 || all.any fun x =>
      let q := parseOut (descOf p (parseProduct (descOf p x.ins.desc)).out)
      precedes p x y && q.fmt == 6 && q.dest == o.carryBase && orderedBy s p all x y
    let readLater := o.fmt != 6 || all.any fun z =>
      z.ins.cls == 2 && (parseOut (descOf p (parseProduct (descOf p z.ins.desc)).out)).carryBase == o.dest && precedes p y z
    linkOk && readLater

/-- What a value holds of one element of a product: the operands with their layouts and orders, the element, and the K
blocks summed. -/
structure Part where
  key : List (DescKind × Nat) × List Layout × Nat
  elem : List Nat
  lo : Nat
  hi : Nat
  deriving DecidableEq, Repr

/-- Where a value lies: an address, and for an element of a block its index from 1 on. -/
abbrev Place := Nat × Nat

/-- The first K block that a link's chain sums; `n` bounds the links. -/
def chainStart (p : Program) (all : List Inst) : Nat → Inst → Nat
  | 0, y => (parseProduct (descOf p y.ins.desc)).firstK
  | n + 1, y =>
    let d := parseProduct (descOf p y.ins.desc)
    let o := parseOut (descOf p d.out)
    if o.carryBase = 0 then d.firstK
    else match all.find? fun x => precedes p x y && (parseOut (descOf p (parseProduct (descOf p x.ins.desc)).out)).dest == o.carryBase with
      | some x => chainStart p all n x
      | none => d.firstK

/-- A PASS instance's elements with the places it writes them to. -/
def passPlaces (p : Program) (x : Inst) : List (Place × Nat × Nat) :=
  let v := loadEnv p 0 x
  (namedPasses v.p x.ins).flatMap fun g =>
    let r := passRect v.p g
    (r.1.flatMap fun i => r.2.map fun j => (i, j)).filterMap fun y => match v.out.fmt with
      | 4 =>
        let d := parseBlock (descOf p (v.out.dest % 65536))
        let z := blockPlace v.lay (outCoords v y.1 y.2)
        some ((d.data + z.1 * slotBytes d.bfmt, z.2 + 1), y)
      | 5 => some ((0, 0), y)
      | 6 => some ((carryAddr v v.out.dest y.1 y.2, 0), y)
      | c => some ((v.out.dest + fmtBytes (fmtOf c) * plainPlace v.lay (outCoords v y.1 y.2), 0), y)

/-- What a PASS instance sums of its element. -/
def partOf (p : Program) (all : List Inst) (x : Inst) (y : Nat × Nat) : Part :=
  let v := loadEnv p 0 x
  let mb := if v.a.layout.microBatch || v.b.layout.microBatch then v.mb else 0
  { key := ([operandTensor p v.p.a, operandTensor p v.p.b], [v.a.layout, v.b.layout], v.p.orders), elem := [mb, y.1, y.2],
    lo := chainStart p all all.length x, hi := v.p.firstK + v.p.kBlocks }

/-- Places of the operands of each element of a VE instance, with the place of its result where that is one scalar. -/
def vePlaceGroups (p : Program) (x : Inst) : List (Place × List Place) :=
  match (if x.ins.cls = 3 then veOpOf p x.ins else none) with
  | none => []
  | some op =>
    let dst := op.dst.base.toNat
    let a := op.a.base.toNat
    let d := parseBlock (descOf p op.slot)
    let slot (b i : Nat) : Place := (d.data + b * slotBytes d.bfmt, i + 1)
    let la := layoutOf p op.layA
    let ld := layoutOf p op.lay
    let cellsOf (l : Layout) : List (Nat × Nat) :=
      ((veBlocks op).flatMap fun b => (List.range 32).map fun i => (b, i)).filter fun z => inside l (blockCoords l z.1 z.2)
    match op.fn with
    | .fromBlock => (cellsOf la).map fun z =>
        ((dst + fmtBytes op.dst.fmt * plainPlace ld (blockCoords la z.1 z.2), 0), [slot z.1 z.2])
    | .toBlock => (cellsOf ld).map fun z => (slot z.1 z.2, [(a + fmtBytes op.a.fmt * plainPlace la (blockCoords ld z.1 z.2), 0)])
    | .sum => [((dst, 0), (List.range op.count).map fun k => (a + k * fmtBytes op.a.fmt, 0))]
    | .tieSum =>
      let t := parseTie (descOf p op.slot)
      match updateOfMaster p t.weight with
      | none => []
      | some u => (List.range u.count).map fun k => ((dst + 4 * k, 0),
          (List.range t.uses).map fun n => (gradBaseOf p (t.tensors.getD n 0) + 4 * useIndex t u.rows u.columns n k, 0))
    | .fromCarry => (List.range op.count).map fun k => ((dst + 4 * k, 0), [(a + 8 * k, 0)])
    | .toInt => (List.range op.count).map fun k => ((dst + 4 * k, 0), [(a + k * fmtBytes op.a.fmt, 0)])
    | .toG16 | .fromInt | .flagRead => []
    | _ => (List.range op.count).map fun k => ((dst + k * fmtBytes op.dst.fmt, 0),
        ([op.a, op.b, op.c].take (veArity op.fn)).map fun g => (g.base.toNat + k * fmtBytes g.fmt, 0))

/-- Place of a PASS element's bias, where its output stage names biases. -/
def biasPlace (p : Program) (x : Inst) (y : Nat × Nat) : List Place :=
  let o := parseOut (descOf p (parseProduct (descOf p x.ins.desc)).out)
  if o.biasBase = 0 then [] else [(o.biasBase + 2 * (if o.rowChannel then y.1 else y.2), 0)]

def samePlace (s : State) (a b : Place) : Bool := homeAddr s a.1 == homeAddr s b.1 && a.2 == b.2

/-- A place inside a region, carried to the same offset of another. -/
def carriedFrom (s : State) (dst src n : Nat) (a : Place) : List Place :=
  let x := homeAddr s a.1
  let y := homeAddr s dst
  if y ≤ x ∧ x < y + n then [(src + (x - y), a.2)] else []

/-- The places whose values an instance puts at a place as they are, converted, or summed. A checkpoint's elements stand at
their offsets from its base, in whatever form it keeps them. -/
def putFrom (s : State) (p : Program) (x : Inst) (a : Place) : List Place :=
  let d := descOf p x.ins.desc
  match x.ins.cls with
  | 2 => ((passPlaces p x).filter fun y => samePlace s y.1 a).flatMap fun y => biasPlace p x y.2
  | 3 => ((vePlaceGroups p x).filter fun g => samePlace s g.1 a).flatMap (·.2)
  | 5 => let m := parseMove d; carriedFrom s m.dst m.src m.len a
  | 6 =>
    let c := parseCkpt d
    let n := c.count * ckptBytes c.k16
    if bitAt x.ins.operand 0 then carriedFrom s c.src c.base n a else carriedFrom s c.base c.src n a
  | _ => []

/-- Whether an instance is complete before another issues, by its beat or by the tokens. -/
def earlier (s : State) (p : Program) (all : List Inst) (x z : Inst) : Bool :=
  decide (x.ins.beatOf x.who.inst < z.ins.beatOf z.who.inst) ||
    (x.ins.beatOf x.who.inst == z.ins.beatOf z.who.inst && orderedBy s p all x z)

/-- The last instances before `z` that write an address. -/
def lastWriters (s : State) (p : Program) (all : List Inst) (z : Inst) (a : Nat) : List Inst :=
  let ws := all.filter fun x => x != z && ((allRanges p x).any fun r =>
    r.write && decide (homeAddr s r.addr ≤ homeAddr s a) && decide (homeAddr s a < homeAddr s r.addr + r.len)) && earlier s p all x z
  ws.filter fun x => !ws.any fun y => y != x && earlier s p all x y

/-- The parts of products that stand at a place when an instance reads it; `n` bounds how often they were carried on. -/
def partsAt (s : State) (p : Program) (all : List Inst) : Nat → Inst → Place → List Part
  | 0, _, _ => []
  | n + 1, z, a => (lastWriters s p all z a.1).flatMap fun x =>
      (if x.ins.cls = 2 then ((passPlaces p x).filter fun y => samePlace s y.1 a).map fun y => partOf p all x y.2 else []) ++
        (putFrom s p x a).flatMap (partsAt s p all n x)

/-- Whether a list holds sums of different K blocks of one element. -/
def splitsElement (ps : List Part) : Bool :=
  ps.any fun a => ps.any fun b => a.key == b.key && a.elem == b.elem && decide (a.hi ≤ b.lo)

/-- Whether a product leaves out a part of the K extent. -/
def partialProduct (p : Program) (x : Inst) : Bool :=
  let d := parseProduct (descOf p x.ins.desc)
  x.ins.cls == 2 && (d.firstK != 0 || decide (d.firstK + d.kBlocks < ceilDiv ((operandOf p d.a d.layoutA 0).kSize d.aColumn) 32))

/-- An instance combines what products sum of different parts of one element's K extent: the operands of a VE operation, or a
bias and the accumulator it is added to, however moved, converted or copied in between (R123; that every VE operation on two
such values combines them is a DESIGN CHOICE, log 42). -/
def sumsPartials (s : State) (p : Program) (all : List Inst) (z : Inst) : Bool :=
  all.any (partialProduct p) &&
    (let at_ := partsAt s p all all.length z
     ((vePlaceGroups p z).any fun g => decide (1 < g.2.length) && splitsElement (g.2.flatMap at_)) ||
       (z.ins.cls == 2 && (passPlaces p z).any fun y =>
         let b := biasPlace p z y.2
         !b.isEmpty && splitsElement (partOf p all z y.2 :: b.flatMap at_)))

/-- Whether a normalisation backward can be the preceding link of another's gain-gradient chain: the same operation, row
length and carry words (R123, R168). -/
def rowPrecedes (p : Program) (x y : Inst) : Bool :=
  let a := parseRow (descOf p x.ins.desc)
  let b := parseRow (descOf p y.ins.desc)
  x.ins.cls == 4 && a.op == b.op && a.n == b.n && a.paramGrad == b.paramGrad

/-- A link of a gain-gradient chain has a preceding link that the tokens order before it (R123, R168). -/
def rowChainOk (s : State) (p : Program) (all : List Inst) (y : Inst) : Bool :=
  if y.ins.cls ≠ 4 then true
  else
    let d := parseRow (descOf p y.ins.desc)
    !(d.op == 3 || d.op == 5) || !d.chain || d.paramGrad == 0 || all.any fun x => rowPrecedes p x y && orderedBy s p all x y

/-! ### Regions (R155, R230, R349) -/

/-- The record, if any, of which a block descriptor is a slot. -/
def recordOfSlot (p : Program) (slot : Nat) : Option Nat :=
  ((slotsOf p .version).find? fun x => let r := parseVersion x.2; r.slot0 == slot || r.slot1 == slot).map (·.1)

def slotFormats (p : Program) (slot : Nat) : List Nat :=
  match recordOfSlot p slot with
  | some r => allowedFormats p r
  | none => [(parseBlock (descOf p slot)).fmt]

/-- Elements of a plain tensor, by its layout; its own master or gradient count where an update names it. -/
def plainElements (p : Program) (slot : Nat) : Nat :=
  let d := parsePlain (descOf p slot)
  let named := ((slotsOf p .update).map fun x => parseUpdate x.2).find? fun u => u.master == slot || u.grad == slot
  match named with
  | some u => u.count
  | none => ((p.layouts.find? (·.tensor == d.tensor)).map Layout.elements).getD 1

/-- Bytes of a plain tensor: a master has its compensation bytes, a gradient its sum of squares (R221, R265). -/
def plainBytes (p : Program) (slot : Nat) : Nat :=
  let n := plainElements p slot
  let d := parsePlain (descOf p slot)
  let w := fmtBytes (fmtOf d.fmt)
  let us := (slotsOf p .update).map fun x => parseUpdate x.2
  if us.any (·.master == slot) then compAddr d.base n n - d.base
  else if us.any (·.grad == slot) then sumSqAddr d.base n + 4 - d.base
  else w * n

/-- Bytes of a bucket's flag bitmap: one bit per segment of its tensor, as far as its buckets reach. -/
def flagBytes (p : Program) (tensor : Nat) : Nat :=
  let last := (((slotsOf p .bucket).map fun x => parseBucket x.2).filter (·.tensor == tensor)).map fun b => b.first + b.count
  ceilDiv (ceilDiv (last.foldl max 0) 256) 8

/-- Bytes of an ingest descriptor's ring. -/
def ringBytes (p : Program) (b : List Byte) : Nat := (p.hdr.runAhead + 1) * field b 32 1 * sampleStride b

/-- Where an ingest descriptor's ring lies in its IGD's buffer (R349, R351). -/
def ringAddr (b : List Byte) : Nat := 0xFFFF_2000_0000_0000 + field b 29 1 * 0x2000_0000 + field b 8 8

/-- The regions a descriptor gives the program. -/
def regionsOf (p : Program) (slot : Nat) : List Region :=
  let b := descOf p slot
  let one (a n : Nat) : List Region := if a = 0 ∨ n = 0 then [] else [{ slot := slot, addr := a, len := n }]
  match kindOf p slot with
  | .block => blockRegions slot (parseBlock b) (slotFormats p slot)
  | .plain => one (parsePlain b).base (plainBytes p slot)
  | .tracker => let d := parseTrack b; one d.bump d.positions
  | .layer =>
    let d := parseLayer b
    let cols := (((slotsOf p .update).map fun x => parseUpdate x.2).find? (·.layer == d.layer)).map UpdateDesc.columns
    one d.record (64 * d.entries) ++ one d.channels (4 * cols.getD 1)
  | .bucket =>
    let d := parseBucket b
    let g := d.segments
    one d.staging (520 * g) ++ one d.result (1040 * g) ++ one d.segTable (32 * g + 8) ++
      one (d.grad + 4 * d.first) (4 * d.count) ++ one d.flags (flagBytes p d.tensor)
  | .ckpt => let d := parseCkpt b; one d.base (ckptBytesOf d) ++ one d.src (d.count * ckptBytes d.k16)
  | .update => let d := parseUpdate b; one d.sched (16 * d.schedLen)
  | .rowOp =>
    (rowRanges (parseRow b)).map fun r => { slot := slot, addr := r.addr, len := r.len }
  | .ingest => one (parseIngest b).catalogue (32 * (parseIngest b).entries) ++ one (ringAddr b) (ringBytes p b)
  | .outStage =>
    let d := parseOut b
    let ps := (((slotsOf p .product).map fun x => parseProduct x.2).filter (·.out == slot))
    ps.flatMap fun q =>
      let ch := if d.rowChannel then q.rows else q.columns
      let n := (layoutOf p q.layoutOut).elements
      one d.scaleBase (2 * ch) ++ one d.biasBase (2 * ch) ++ one d.carryBase (8 * n) ++
        (if d.fmt = 4 ∨ d.fmt = 5 then [] else one d.dest ((if d.fmt = 6 then 8 else fmtBytes (fmtOf d.fmt)) * n))
  | .move => let d := parseMove b; one d.src d.len ++ one d.dst d.len
  | _ => []

/-- The region of a range that an instruction of a slot reads or writes. -/
def Range.region (r : Range) (slot : Nat) : Region := { slot := slot, addr := r.addr, len := r.len }

/-- Ranges of VE instructions with the slot they belong to: the blocks that one writes or reads are those of its block tensor's
descriptor (log 12). -/
def veUses (p : Program) : List (Nat × Range) :=
  ((allInstrs p).filter fun x => x.2.cls == 3).flatMap fun x => match veOpOf p x.2 with
    | none => []
    | some op => (veRanges p x.2).map fun r =>
        ((if (op.fn == .toBlock && r.write) || (op.fn == .fromBlock && !r.write) then op.slot else x.2.desc), r)

/-- The frame stores of the ingest descriptors (R349). -/
def frameStores (p : Program) : List Region :=
  (slotsOf p .ingest).map fun x => { slot := x.1, addr := 0xFFFF_1000_0000_0000 + (parseIngest x.2).store * 2 ^ 26, len := 2 ^ 32 }

/-- Every region of the program but its frame stores: those of its descriptors, the operands of its VE instructions and its
member lists. -/
def ownRegions (p : Program) : List Region :=
  (List.range p.descs.length).flatMap (regionsOf p) ++ ((veUses p).map fun u => u.2.region u.1) ++
    p.replicas.map fun r => { slot := p.descs.length, addr := r.list, len := 2 * r.members }

/-- Every region of the program (R155, R209, R242, R349). -/
def programRegions (p : Program) : List Region := ownRegions p ++ frameStores p

/-- Regions that a descriptor only reads from: the source of a move, or of a checkpoint that nothing loads back, and the rows
of a row operation. -/
def readRegions (p : Program) (slot : Nat) : List Region :=
  let b := descOf p slot
  match kindOf p slot with
  | .move => let d := parseMove b; [{ slot := slot, addr := d.src, len := d.len }]
  | .ckpt =>
    let d := parseCkpt b
    if (allInstrs p).any fun x => x.2.cls == 6 && x.2.desc == slot && bitAt x.2.operand 0 then []
    else [{ slot := slot, addr := d.src, len := d.count * ckptBytes d.k16 }]
  | .rowOp => ((rowRanges (parseRow b)).filter fun r => !r.write).map fun r => { slot := slot, addr := r.addr, len := r.len }
  | _ => []

/-- The regions that moves, checkpoint loads, row operations and VE operations write. -/
def writtenRegions (p : Program) : List Region :=
  ((List.range p.descs.length).flatMap fun slot =>
    let b := descOf p slot
    match kindOf p slot with
    | .move => let d := parseMove b; [{ slot := slot, addr := d.dst, len := d.len }]
    | .ckpt => let d := parseCkpt b; [{ slot := slot, addr := d.base, len := ckptBytesOf d }]
    | .rowOp => ((rowRanges (parseRow b)).filter (·.write)).map fun r => { slot := slot, addr := r.addr, len := r.len }
    | _ => []) ++
    ((veUses p).filter fun u => u.2.write).map fun u => u.2.region u.1

/-- The program's regions that are only read from: none that the same instruction writes in place. -/
def visits (p : Program) : List Region :=
  ((List.range p.descs.length).flatMap (readRegions p) ++
    ((veUses p).filter fun u => !u.2.write).map fun u => u.2.region u.1).filter fun r => !(writtenRegions p).contains r

/-- Whether a region lies inside another. -/
def insideOf (s : State) (a b : Region) : Bool :=
  let x := homeAddr s a.addr
  let y := homeAddr s b.addr
  decide (y ≤ x) && decide (x + a.len ≤ y + b.len)

/-- Slots of coached copies, one for each time a record names it. -/
def coachedSlots (p : Program) : List Nat :=
  ((slotsOf p .version).filter fun x => (parseVersion x.2).fixed == 0xFF).flatMap fun x =>
    let r := parseVersion x.2; [r.slot0, r.slot1]

/-- The slots of every record, one for each time a record names it. -/
def recordSlots (p : Program) : List Nat :=
  (slotsOf p .version).flatMap fun x => let r := parseVersion x.2; [r.slot0, r.slot1]

/-- A coached copy: named once among all records, never tracked, and its regions apart from each other and from every other region; what is only
read may be a copy's own bytes (R155). -/
def copyApart (s : State) (p : Program) (i : Nat) : Bool :=
  let mine := regionsOf p i
  (recordSlots p).count i == 1 && !(parseBlock (descOf p i)).tracked && pairwiseAll (fun a b => !overlap s a b) mine &&
    mine.all fun a => (programRegions p).all fun b =>
      b.slot == i || !overlap s a b || ((visits p).contains b && mine.any (insideOf s b))

/-- A layer's weight copy does not use the tracked rule (R155). -/
def layerUntracked (p : Program) (l : LayerDesc) : Bool :=
  !(blockDescs p).any fun b => b.tensor == l.weight && b.tracked

/-! ### Row records (R172) -/

/-- Row operations with their units. -/
def rowOps (p : Program) : List (Nat × RowDesc) :=
  ((allInstrs p).filter fun x => x.2.cls == 4).map fun x => (x.1, parseRow (descOf p x.2.desc))

def rowBackward (d : RowDesc) : Bool := d.op == 1 || d.op == 3 || d.op == 5
def keepsRecords (d : RowDesc) : Bool := d.keep && d.record != 0xFFFF_FFFF && (d.op == 0 || d.op == 2 || d.op == 4)

/-- A backward operation that names records reads those of a keeping operation of its kind: on the same Row Engine, with the
same record base and row count. A record base that no keeping operation has is refused as a placement (DESIGN CHOICE, log 113). -/
def recordsOk (p : Program) : Bool :=
  let ops := rowOps p
  ops.all fun x =>
    let d := x.2
    (d.record == 0xFFFF_FFFF || decide (d.record + d.rows ≤ 1048576)) &&
      (!rowBackward d || d.record == 0xFFFF_FFFF ||
        ops.any fun y => keepsRecords y.2 && y.2.op + 1 == d.op && y.2.record == d.record && y.1 == x.1 && y.2.rows == d.rows)

/-- Row instances of a Row Engine whose operation meets a condition, by beat. -/
def rowInsts (p : Program) (all : List Inst) (unit : Nat) (want : RowDesc → Bool) : List Inst :=
  (all.filter fun y => y.ins.cls == 4 && y.who.unit == unit && want (parseRow (descOf p y.ins.desc))).mergeSort fun a b =>
    decide (a.ins.beatOf a.who.inst ≤ b.ins.beatOf b.who.inst)

/-- Last beat in which the records of a keeping instance are live: that of the backward operation that reads them. Where a
base has as many readers as keepers, each reader takes the records of the keeper of its place; otherwise the last reader
may take them (DEDUCED, log 113). -/
def recordsUntil (p : Program) (all : List Inst) (x : Inst) : Nat :=
  let a := parseRow (descOf p x.ins.desc)
  let keepers := rowInsts p all x.who.unit fun d => keepsRecords d && d.op == a.op && d.record == a.record
  let readers := rowInsts p all x.who.unit fun d => rowBackward d && a.op + 1 == d.op && d.record == a.record
  let mine := if keepers.length = readers.length then (readers.drop (keepers.findIdx (·.who == x.who))).take 1 else readers
  (mine.map fun y => y.ins.beatOf y.who.inst).foldl max (x.ins.beatOf x.who.inst)

/-- Keeping operations whose records are live in the same beat do not overlap in the side memory. -/
def keepsApart (p : Program) (all : List Inst) : Bool :=
  let ks := all.filter fun x => x.ins.cls == 4 && keepsRecords (parseRow (descOf p x.ins.desc))
  ks.all fun x => ks.all fun y =>
    let a := parseRow (descOf p x.ins.desc)
    let b := parseRow (descOf p y.ins.desc)
    x.who == y.who || x.who.unit != y.who.unit || decide (recordsUntil p all x < y.ins.beatOf y.who.inst) ||
      decide (recordsUntil p all y < x.ins.beatOf x.who.inst) ||
      decide (a.record + a.rows ≤ b.record) || decide (b.record + b.rows ≤ a.record)

/-- A forward stage that a recompute stage repeats keeps no records (R172; log 49). -/
def firstStagesKeepNone (p : Program) : Bool :=
  p.recompute.all fun r => (stageWork p r.fwdUnit .F r.fwdFirst r.fwdCount).all fun i =>
    i.cls != 4 || !keepsRecords (parseRow (descOf p i.desc))

/-! ### Keep classes (R176, R179; log 49) -/

/-- Instances of the recompute stages. -/
def recomputeInsts (p : Program) (all : List Inst) : List Inst :=
  all.filter fun x => p.recompute.any fun r => r.unit == x.who.unit && r.stream == x.who.stream &&
    decide (r.first ≤ x.who.index) && decide (x.who.index < r.first + r.count)

/-- Regions of a tensor: those of the descriptors that name it, and what instances write of it. -/
def regionsOfTensor (p : Program) (all : List Inst) (t : Nat) : List Region :=
  ((List.range p.descs.length).flatMap fun i => match kindOf p i with
    | .block => if (parseBlock (descOf p i)).tensor = t then regionsOf p i else []
    | .plain => if (parsePlain (descOf p i)).tensor = t then regionsOf p i else []
    | _ => []) ++
    ((all.flatMap (allRanges p)).filter fun r => r.write && !r.shared && r.tensor == t).map fun r => r.region 0

/-- Whether a range touches one of a list of regions. -/
def touches (s : State) (rs : List Region) (r : Range) : Bool := rs.any fun a => overlap s a (r.region 0)

def classOfTensor (p : Program) (t : Nat) : Option KeepClass := (p.keep.find? (·.1 == t)).map (·.2)

/-- A recompute stage starts only from tensors that are kept: it reads none of the recompute class that no recompute stage
has made, neither by its number nor, where an instruction names an address only, at bytes that such tensors alone have
(R176). -/
def startsKept (s : State) (p : Program) (all : List Inst) : Bool :=
  let rs := (recomputeInsts p all).flatMap (allRanges p)
  let made := rs.filter (·.write)
  let lost (t : Nat) : Bool := classOfTensor p t == some .recompute && !made.any (·.tensor == t)
  let holders (r : Range) : List Nat :=
    ((all.flatMap (allRanges p)).map (·.tensor)).eraseDups.filter fun t =>
      t != noTensor && touches s (regionsOfTensor p all t) r
  rs.all fun r => r.write || (if r.tensor ≠ noTensor then !lost r.tensor
    else touches s (made.map fun w => w.region 0) r || (holders r).isEmpty || !(holders r).all lost)

/-- An access of an instance to a resident tensor's bytes, and the beat it belongs to. -/
structure Touch where
  beat : Nat
  who : Who
  r : Range
  deriving DecidableEq, Repr

def touchesOf (s : State) (p : Program) (all : List Inst) (rs : List Region) : List Touch :=
  all.flatMap fun x => ((allRanges p x).filter (touches s rs)).map fun r => { beat := x.ins.beatOf x.who.inst, who := x.who, r := r }

/-- The writes that come before an access, to bytes of it, by other instances. -/
def writesBefore (s : State) (ts : List Touch) (z : Touch) : List Touch :=
  ts.filter fun w => w.r.write && w.who != z.who && decide (w.beat ≤ z.beat) && overlap s (w.r.region 0) (z.r.region 0)

/-- The tensors whose values a read finds: the one it names, otherwise those written last. -/
def namesOf (s : State) (ts : List Touch) (z : Touch) : List Nat :=
  if z.r.tensor ≠ noTensor then [z.r.tensor]
  else
    let ws := writesBefore s ts z
    let last := (ws.map (·.beat)).foldl max 0
    ((ws.filter fun w => w.beat == last).map (·.r.tensor)).eraseDups

/-- The beat of the last write of a tensor before a read of it; 0 when the step makes none. -/
def writtenAt (s : State) (ts : List Touch) (z : Touch) (u : Nat) : Nat :=
  (((writesBefore s ts z).filter fun w => w.r.tensor == u).map (·.beat)).foldl max 0

/-- A resident tensor has regions, which lie in populated SRAM, and nothing else that shares its bytes is live in a beat from
its producer to its last backward reader (R179): nothing else is written there in that time, and nothing that was written there
before is read. What no instruction names as a tensor is told apart by the last write; a tensor that only a move or a load
brings is produced by the last such write. -/
def residentOk (s : State) (p : Program) (all : List Inst) (t : Nat) : Bool :=
  let rs := regionsOfTensor p all t
  let ts := touchesOf s p all rs
  let made := (ts.filter fun w => w.r.write && w.r.tensor == t).map (·.beat)
  let bare := (ts.filter fun w => w.r.write && w.r.tensor == noTensor).map (·.beat)
  let brought (u : List Nat) : Bool := made.isEmpty && (u.isEmpty || u.contains noTensor)
  let own (z : Touch) : Bool := (namesOf s ts z).contains t || (z.r.tensor == noTensor && brought (namesOf s ts z))
  let lo := if made.isEmpty then bare.foldl max 0 else made.foldl min (made.headD 0)
  let hi := ((ts.filter fun z => !z.r.write && z.who.stream == .B && own z).map (·.beat)).foldl max lo
  !rs.isEmpty && rs.all (fun a => spaceOf a.addr == 0 && isLocal s (nodeOf a.addr) && (linesOf a.addr a.len).all fun l =>
    sramPopulated s (offsetOf l.1) l.2) &&
    ts.all fun z =>
      if z.r.write then z.r.tensor == t || decide (hi < z.beat) || decide (z.beat < lo) || (z.r.tensor == noTensor && z.beat == lo)
      else own z || decide (z.beat < lo) || (namesOf s ts z).all fun u => u == t || decide (hi < writtenAt s ts z u)

def residentsOk (s : State) (p : Program) (all : List Inst) : Bool :=
  p.keep.all fun k => k.2 != .resident || residentOk s p all k.1

/-! ### Unordered accesses (R192) -/

/-- Two instructions whose instances access overlapping regions in a step of either parity, one of them writing, without an
order. -/
def unordered (s : State) (p : Program) (all : List Inst) (x y : Inst) : Bool :=
  !sameIns x.who y.who &&
    ([0, 1].any fun par => (instRanges p par x).any fun a => (instRanges p par y).any fun b => conflicts s a b) &&
    !orderedBy s p all x y && !orderedBy s p all y x

/-! ### Tokens (R202, R204) -/

/-- Signals to a counter token in one step. -/
def signalTotal (s : State) (p : Program) (all : List Inst) (unit tok : Nat) : Nat := (all.map (addsTo s p unit tok)).sum

def countersFit (s : State) (p : Program) (all : List Inst) : Bool :=
  p.stages.all fun g => (List.range 256).all fun t =>
    tokMode p g.unit t != 1 || decide (signalTotal s p all g.unit t ≤ 65535)

/-- A wait or a signal of a mode the token's declaration allows; a SIGNAL names a peer, a unit and a token that exist. -/
def tokensOk (s : State) (p : Program) (unit : Nat) (i : PInstr) : Bool :=
  let wait := i.waitMode == 0 || tokMode p unit i.waitToken == i.waitMode
  let allowed (m : Nat) : Bool := match i.signalMode with
    | 1 => m == 1 || m == 2
    | 2 | 3 => m == 3
    | _ => true
  let signal :=
    if i.cls = 1 then
      let peer := i.desc == 0xFFFF || decide (i.desc < p.peers.length)
      let here := i.desc == 0xFFFF || isLocal s (p.peers.getD i.desc 0xFFFF)
      peer && unitExists s i.sigUnit &&
        (!here || ((p.stages.any (·.unit == i.sigUnit)) && tokMode p i.sigUnit i.sigToken != 0 &&
          allowed (tokMode p i.sigUnit i.sigToken)))
    else i.signalMode == 0 || allowed (tokMode p unit i.signalToken)
  wait && signal

/-! ### Updates and versions (R229, R231, R232) -/

/-- Spans of a pass that an update instance covers: descriptor, pass kind and span. -/
def updateSpans (all : List Inst) : List (Nat × Nat × Nat) :=
  (all.filter (·.ins.cls == 7)).flatMap fun x => (instSpans x.who x.ins).map fun n => (x.ins.desc, x.ins.passKind, n)

/-- Spans a pass has. -/
def spansOfPass (p : Program) (desc kind : Nat) : Nat :=
  let u := parseUpdate (descOf p desc)
  let record := if kind = 0 then u.fwd else u.trans
  if record = 0xFFFF then ceilDiv (u.count / 32) 256
  else ceilDiv (parseBlock (descOf p (parseVersion (descOf p record)).slot0)).n 256

def updatesOk (s : State) (p : Program) (all : List Inst) : Bool :=
  let ups := all.filter (·.ins.cls == 7)
  let spans := updateSpans all
  ups.all (fun x => decide (p.hdr.huddleBeat < x.ins.beatOf x.who.inst)) && decide spans.Nodup &&
    spans.all (fun e => decide (e.2.2 < spansOfPass p e.1 e.2.1)) &&
    (ups.filter (·.ins.passKind == 1)).all fun y =>
      (ups.filter fun x => x.ins.passKind == 0 && x.ins.desc == y.ins.desc).all fun x => orderedBy s p all x y

/-- Version records an instance reads. -/
def recordsRead (p : Program) (i : PInstr) : List Nat :=
  if i.cls ≠ 2 then []
  else let d := parseProduct (descOf p i.desc); [d.a, d.b].filter fun x => kindOf p x == .version

/-- Every reader waits in epoch mode on a mirror of the record's epoch token, kept in step by a SIGNAL of the update engine
(R231). -/
def mirrorOk (s : State) (p : Program) (all : List Inst) (x : Inst) (record : Nat) : Bool :=
  let r := parseVersion (descOf p record)
  match recordUnits p record with
  | [engine] =>
    x.ins.waitMode == 2 && (if x.who.unit = engine then x.ins.waitToken == r.epochToken
      else
        (declared p x.who.unit x.ins.waitToken).init == (declared p engine r.epochToken).init &&
          all.any fun z => z.ins.cls == 1 && z.ins.signalMode == 1 && z.who.unit == engine &&
            (adds s p z.ins engine) == some (x.who.unit, x.ins.waitToken, 1) &&
            (all.filter (writesRecord p record)).all fun u => orderedBy s p all u z || sameStream u.who z.who && upTo u.who z.who)
  | _ => false

/-- A reader comes after an acquire and before a release of both slots' reference tokens: the slot it reads alternates with
the step (R232; log 43). -/
def holdsRefs (s : State) (p : Program) (all : List Inst) (x : Inst) (record : Nat) : Bool :=
  let r := parseVersion (descOf p record)
  match recordUnits p record with
  | [engine] => [r.ref0, r.ref1].all fun t =>
      (all.any fun z => refs s p 2 z == some (engine, t) &&
        (orderedBy s p all z x || (sameStream z.who x.who && upTo z.who x.who))) &&
      (all.any fun z => refs s p 3 z == some (engine, t) &&
        (orderedBy s p all x z || (sameStream x.who z.who && upTo x.who z.who)))
  | _ => false

def versionsOk (s : State) (p : Program) (all : List Inst) : Bool :=
  (slotsOf p .version).all (fun x => decide ((recordUnits p x.1).length ≤ 1)) &&
    all.all fun x => (recordsRead p x.ins).all fun r => mirrorOk s p all x r && holdsRefs s p all x r

/-! ### Reduction (R248, R249) -/

def bucketAt (p : Program) (i : PInstr) : BucketDesc := parseBucket (descOf p i.desc)

def rising : List Nat → Bool
  | a :: b :: rest => decide (a < b) && rising (b :: rest)
  | _ => true

/-- Whether buckets, in ascending first element, cover a tensor of `n` elements from 0 without gaps. -/
def coverFrom (n : Nat) : Nat → List BucketDesc → Bool
  | at_, [] => at_ == n
  | at_, b :: bs => b.first == at_ && coverFrom n (at_ + b.count) bs

def tensorElements (p : Program) (tensor : Nat) : Nat := ((p.layouts.find? (·.tensor == tensor)).map Layout.elements).getD 0

def normOk (s : State) (p : Program) (all : List Inst) (x : Inst) : Bool :=
  let slots := rangeFrom x.ins.desc x.ins.bucketCount
  let bs := slots.map fun k => parseBucket (descOf p k)
  let t := (bs.headD (parseBucket [])).tensor
  let finishes := all.filter fun z => z.ins.cls == 8 && z.ins.bucketKind == 1
  bs.all (·.tensor == t) && coverFrom (tensorElements p t) 0 bs &&
    slots.all (fun k => finishes.any fun z => z.ins.desc == k) &&
    (finishes.filter fun z => slots.contains z.ins.desc).all fun z => orderedBy s p all z x

/-- Whether the program reduces a gradient: by a finish of one of its buckets, or by the tie-sum pass of its weight. -/
def gradientReduced (p : Program) (all : List Inst) (u : UpdateDesc) : Bool :=
  let t := (parsePlain (descOf p u.grad)).tensor
  all.any fun z => (z.ins.cls == 8 && z.ins.bucketKind == 1 && (bucketAt p z.ins).tensor == t) ||
    (z.ins.cls == 3 && (veOpOf p z.ins).any fun op =>
      op.fn == .tieSum && (parseTie (descOf p op.slot)).weight == (parsePlain (descOf p u.master)).tensor)

/-- The placement rules of reduction (R248). Each stream's body has its sends in ascending tag order, strictly and over all
instances, whatever the other streams send (DESIGN CHOICE, log 113). -/
def reductionsOk (s : State) (p : Program) (all : List Inst) : Bool :=
  let bk (k : Nat) : List Inst := all.filter fun x => x.ins.cls == 8 && x.ins.bucketKind == k
  let sends (t : Stream) : List Nat := ((bk 0).filter fun x => x.who.stream == t).map fun x => (bucketAt p x.ins).tag
  [Stream.F, .B, .U].all (fun t => rising (sends t)) &&
    (bk 1).all (fun y =>
      let mine := (bk 0).filter fun x => (bucketAt p x.ins).tag == (bucketAt p y.ins).tag
      !mine.isEmpty && mine.all fun x => orderedBy s p all x y) &&
    (bk 2).all (normOk s p all) && ((slotsOf p .update).map fun x => parseUpdate x.2).all (gradientReduced p all)

/-- An output stage with a G16 destination names the bucket's tensor (R249). -/
def g16Tensor (p : Program) (b : List Byte) : Bool :=
  let o := parseOut b
  o.fmt != 5 || o.tensor == (parseBucket (descOf p (o.dest % 65536))).tensor

/-- Every element that an output stage can write as G16 lies in a bucket of the tensor (R249). -/
def g16Covered (p : Program) (x : Inst) : Bool :=
  x.ins.cls != 2 || (let v := loadEnv p 0 x
    v.out.fmt != 5 || (namedPasses v.p x.ins).all fun g =>
      let r := passRect v.p g
      r.1.all fun i => r.2.all fun j => (bucketFor p v.out.tensor (elemIndex v.lay (outCoords v i j))).isSome)

/-! ### Ingest (R349, R350) -/

def distinct (l : List Nat) : Bool := decide l.Nodup

/-- Ingest descriptors together, as far as a slot: rings in their buffer and apart, views distinct, one frame store an IGD that
overlaps no region of the program, B alike and no micro-batch twice; the micro-batches 0 to B − 1 are covered once the last
is there. -/
def ingestsOk (s : State) (p : Program) (slot : Nat) : Bool :=
  let all := slotsOf p .ingest
  let ds := (all.filter fun x => decide (x.1 ≤ slot)).map (·.2)
  let xs := ds.map parseIngest
  let b := (xs.head?.map (·.b)).getD 0
  let cover := xs.flatMap fun d => rangeFrom d.b0 d.bs
  let stores : List (Nat × Nat) := (xs.map fun d => (d.igd, d.store)).eraseDups
  let regions := ownRegions p
  ds.all (fun d => decide (field d 8 8 + ringBytes p d ≤ 0x1800_0000)) &&
    pairwiseAll (fun (a b : List Byte) => field a 29 1 != field b 29 1 || decide (field a 8 8 + ringBytes p a ≤ field b 8 8) ||
      decide (field b 8 8 + ringBytes p b ≤ field a 8 8)) ds &&
    distinct (xs.map fun d => d.view) && distinct (stores.map fun st => st.1) &&
    stores.all (fun st => regions.all fun r =>
      !overlap s r { slot := 0, addr := 0xFFFF_1000_0000_0000 + st.2 * 2 ^ 26, len := 2 ^ 32 }) &&
    pairwiseAll (fun (a b : Nat × Nat) => decide (a.2 + 64 ≤ b.2) || decide (b.2 + 64 ≤ a.2)) stores &&
    xs.all (·.b == b) && decide cover.Nodup && (decide (ds.length < all.length) || (List.range b).all cover.contains)

/-- An INGEST instruction (R350). -/
def ingestInstrOk (p : Program) (unit : Nat) (i : PInstr) : Bool :=
  i.cls != 9 || (i.operand == 0 && i.stream == 0 && i.beat == 0 && i.count == 1 && i.signalMode == 0 &&
    unit == (9 + (parseIngest (descOf p i.desc)).igd) * 256)

/-! ### The huddle body (R238) -/

/-- Bytes of the huddle body, as far as this member's program shows (log 44): a digest and its complement for each replica set
of the table, the words of each tracked tensor with its position list, and for each layer the sums of its shards up to this
member's own, whose index its descriptor gives. -/
def bodyBytes (p : Program) : Nat :=
  let ts := trackDescs p
  let ls := layerDescs p
  let cols (l : LayerDesc) : Nat :=
    ((((slotsOf p .update).map fun x => parseUpdate x.2).find? (·.layer == l.layer)).map UpdateDesc.columns).getD 0
  8 * p.replicas.length + (8 + 16384) * ts.length + (ls.map fun l => (l.shard + 1) * (8 * (19 + 2 * cols l))).sum

/-! ### Checks 7 and 8 -/

/-- The placement item of a descriptor slot: 0 passed, 1 format error, 2 placement error (R155, R249, R349). -/
def placeResult (s : State) (p : Program) (slot : Nat) : Nat :=
  let b := descOf p slot
  match kindOf p slot with
  | .outStage => if g16Tensor p b then 0 else 1
  | .layer => if layerUntracked p (parseLayer b) then 0 else 2
  | .block => if !(coachedSlots p).contains slot || copyApart s p slot then 0 else 2
  | .ingest => if ingestsOk s p slot then 0 else 2
  | _ => 0

/-- Check 7: the items of the descriptor table in ascending slot, then those of the stage programs. -/
def checkSeven (s : State) (p : Program) : Nat :=
  let all := instsOf p
  let descs := ((List.range p.descs.length).map (placeResult s p)).find? (· != 0)
  if descs.isSome then descs.getD 0
  else if p.stages.all (stageFits s) && spansUndivided p all && spansAscend p && (allInstrs p).all (fun x => columnsOk p x.2) && gatesAgree p &&
      all.all (chainOk s p all) && !all.any (sumsPartials s p all) && all.all (rowChainOk s p all) && recordsOk p &&
      keepsApart p all && firstStagesKeepNone p && startsKept s p all && residentsOk s p all &&
      pairwiseAll (fun x y => !unordered s p all x y) all && countersFit s p all &&
      (allInstrs p).all (fun x => tokensOk s p x.1 x.2) && updatesOk s p all && versionsOk s p all && reductionsOk s p all &&
      all.all (g16Covered p) && decide (bodyBytes p ≤ 2 ^ 20) && (allInstrs p).all (fun x => ingestInstrOk p x.1 x.2) then 0
  else 2

/-- Whether a range of this module lies in populated memory (R13, R311, R328, R351); of another module, whether it lies in
a space's extent. -/
def populated (s : State) (p : Program) (addr n : Nat) : Bool :=
  let off := offsetOf addr
  let here := isLocal s (nodeOf addr)
  match spaceOf addr with
  | 0 =>
    if off + n ≤ 0x003_0000_0000 then true
    else if here then
      (rangeFrom (off / 0x20_0000) ((off + n - 1) / 0x20_0000 - off / 0x20_0000 + 1)).all fun t =>
        sramPopulated s (0x20_0000 * t) 0x20_0000
    else decide (0x010_0000_0000 ≤ off) && decide (off + n ≤ 0x010_8000_0000)
  | 1 => if here then dramPopulated s off n else decide (off + n ≤ 0x80_0000_0000)
  | 2 =>
    bufferPopulated off n || (decide (0x008_0000_0000 ≤ off) &&
      (let v := (off - 0x008_0000_0000) / 0x4000_0000
       let o := (off - 0x008_0000_0000) % 0x4000_0000
       if here then (slotsOf p .ingest).any fun x => field x.2 28 1 == v && decide (o + n ≤ field x.2 32 1 * sampleStride x.2)
       else decide (v < 8)))
  | _ => false

def checkEight (s : State) (p : Program) : Bool :=
  (programRegions p).all fun r => r.len == 0 || populated s p r.addr r.len

/-- The result of R209: the first failing check's code, 0 when every check passes, with the program. -/
def loadResult (s : State) (obj : List Byte) (hints : LoadHints) : Nat × Option Program :=
  if !sectionsOk obj then (1, none)
  else
    let p := settleKinds (parseProgram obj hints)
    if !toolchainOk p.hdr then (3, none)
    else if !headerRange p.hdr then (1, none)
    else if !gradeOk s p.hdr then (2, none)
    else if !checkFive s p then (1, none)
    else if checkSix p ≠ 0 then (checkSix p, none)
    else if checkSeven s p ≠ 0 then (checkSeven s p, none)
    else if !checkEight s p then (4, none)
    else (0, some p)

end Sys2Proof.Machine
end

