-- ==== Sys2Proof/Machine/Reduction.lean ====
section
/-! DEFINITION. Gradient reduction (R245 to R272): reduction plans, wire segments, the link adders, and the finish and norm
instructions. -/

namespace Sys2Proof.Machine

open Sys2Proof

/-! ### Plans (R254) -/

structure PlanEntry where
  parent : Nat
  children : Nat
  contributes : Bool
  count : Nat
  deriving DecidableEq, Repr

/-- The entry in force for a plan; the reset entry when none is written. -/
def planOf (s : State) (n : Nat) : PlanEntry :=
  match getAt s.reduce.plans n none with
  | none => { parent := 0xFF, children := 0, contributes := true, count := 1 }
  | some w =>
    let w := w.toNat
    { parent := bitsOf w 8 8, children := bitsOf w 16 8, contributes := bitAt w 24, count := bitsOf w 32 32 }

/-- Whether the eight bytes of a plan entry keep their ranges (R254). -/
def planEntryOk (plan e : Nat) : Bool :=
  let parent := bitsOf e 8 8
  bitsOf e 0 8 == plan && decide (plan < 64) && (decide (parent ≤ 5) || parent == 0xFF) && bitsOf e 22 2 == 0 &&
    bitsOf e 25 7 == 0 && decide (1 ≤ bitsOf e 32 32) && decide (bitsOf e 32 32 ≤ 65536)

def execPlanWrite (c : Cmd) (s : State) : Host.Outcome State Fault Refusal :=
  command s c 0x0304 fun s =>
    let plan := arg c 16 1
    let e := arg c 24 8
    gated s c 1 false false anyState (planEntryOk plan e && restZero c [(16, 1), (24, 8)]) fun s =>
      if s.pstate = .running then done s c 0x05
      else done { s with reduce := { s.reduce with plans := setAt s.reduce.plans plan (some (BitVec.ofNat 64 e)) } } c 0

def planChildren (e : PlanEntry) : List (Fin 12) := (List.finRange 12).filter fun p => p.val < 6 ∧ bitAt e.children p.val

/-! ### Wire segments (R255 to R257) -/

structure SegHdr where
  tag : Nat
  kind : Nat
  down : Bool
  number : Nat
  exponent : Nat
  flag : Bool
  amax : Nat
  contributors : Nat
  residues : List Nat
  deriving DecidableEq, Repr

def parseSegHdr (b : List Byte) : SegHdr :=
  let w := field b 0 2
  { tag := bitsOf w 0 12, kind := bitsOf w 12 2, down := bitAt w 14, number := field b 2 2, exponent := field b 4 1,
    flag := bitAt (field b 5 1) 0, amax := field b 6 2, contributors := field b 8 4,
    residues := (List.range 4).map fun j => field b (12 + j) 1 }

def segHdrBytes (h : SegHdr) : List Byte :=
  leBytes 2 (h.tag + h.kind * 4096 + (if h.down then 16384 else 0)) ++ leBytes 2 h.number ++ leBytes 1 h.exponent ++
    leBytes 1 (if h.flag then 1 else 0) ++ leBytes 2 h.amax ++ leBytes 4 h.contributors ++
    h.residues.flatMap fun r => leBytes 1 r

/-- Payload bytes of a kind. -/
def segBytes (kind : Nat) : Nat := match kind with | 0 => 512 | 1 => 1024 | _ => 0

/-- The 256 elements of a payload. -/
def segElems (kind : Nat) (b : List Byte) : List Int :=
  match kind with
  | 0 => (List.range 256).map fun i => int16 (field b (2 * i) 2)
  | 1 => (List.range 256).map fun i => int32 (field b (4 * i) 4)
  | _ => List.replicate 256 0

structure WireSeg where
  hdr : SegHdr
  elems : List Int
  raw : List Byte
  deriving DecidableEq, Repr

/-- The segments of a reduction frame; `n` bounds them. Nothing is read behind a header of kind 3, which gives no length. -/
def parseSegs : Nat → List Byte → List WireSeg
  | 0, _ => []
  | n + 1, b =>
    if b.length < 16 then []
    else
      let h := parseSegHdr b
      let k := 16 + segBytes h.kind
      let g : WireSeg := { hdr := h, elems := segElems h.kind (b.drop 16), raw := b.take k }
      if h.kind = 3 then [g] else g :: parseSegs n (b.drop k)

/-- Residue of flit `j`: the sum of its elements modulo 255 (R257). -/
def flitResidue (es : List Int) (j : Nat) : Nat := ((((es.drop (64 * j)).take 64).sum) % 255).toNat

def residuesOf (es : List Int) : List Nat := (List.range 4).map (flitResidue es)

/-- Whether a segment passes the receiver's residue check (R260); kind 3 has no payload to check, and is a fault (R262). -/
def residuesHold (g : WireSeg) : Bool := g.hdr.kind == 3 || residuesOf g.elems == g.hdr.residues

/-- A segment as it leaves: zero when every sum is 0, G16 when one contributor is sent upward, otherwise S32. -/
def wireSegment (tag number exponent : Nat) (flag : Bool) (amax contributors : Nat) (down : Bool) (es : List Int) : WireSeg :=
  let kind := if es.all (· == 0) then 2 else if !down && contributors == 1 then 0 else 1
  let h : SegHdr := { tag := tag, kind := kind, down := down, number := number, exponent := exponent, flag := flag,
                      amax := amax, contributors := contributors, residues := residuesOf es }
  let body := match kind with
    | 0 => es.flatMap fun x => leBytes 2 (BitVec.ofInt 16 x).toNat
    | 1 => es.flatMap fun x => leBytes 4 (BitVec.ofInt 32 x).toNat
    | _ => []
  { hdr := h, elems := es, raw := segHdrBytes h ++ body }

/-- A segment sent to a plan neighbour, one segment a frame (log 39), and its counts (R272). -/
def sendSegment (s : State) (p : Fin 12) (g : WireSeg) : State :=
  let s := if g.hdr.down then s else bump s 0x0A01 p.val noTensor 1
  let s := if g.hdr.kind = 2 then bump s 0x0A02 p.val noTensor 1 else s
  if replaying s then s
  else sendOn s p (mkFrame s 0x0B (s.fabric.ports[p].rcd.partner.toNat) 0 g.raw.length 0 0 g.raw)

/-! ### Tags and their segments (R258, R261) -/

def bucketDescs (p : Program) : List BucketDesc := (slotsOf p .bucket).map fun x => parseBucket x.2

def bucketOfTag (s : State) (tag : Nat) : Option BucketDesc :=
  s.program.bind fun p => (bucketDescs p).find? (·.tag == tag)

def tagOf (s : State) (tag : Nat) : TagState :=
  (s.reduce.tags.find? (·.tag == tag)).getD { tag := tag, sending := false, own := [], segments := [], finished := false }

def setTag (s : State) (t : TagState) : State :=
  let tags := if s.reduce.tags.any (·.tag == t.tag) then s.reduce.tags.map fun x => if x.tag == t.tag then t else x
    else s.reduce.tags ++ [t]
  { s with reduce := { s.reduce with tags := tags } }

def segmentOf (t : TagState) (n : Nat) : Segment :=
  (t.segments.find? (·.number == n)).getD
    { number := n, sums := List.replicate 256 0, amax := 0, flag := false, contributors := 0, exponent := none, seen := [],
      done := false, freed := false }

def setSegment (s : State) (tag : Nat) (g : Segment) : State :=
  let t := tagOf s tag
  let segs := if t.segments.any (·.number == g.number) then t.segments.map fun x => if x.number == g.number then g else x
    else t.segments ++ [g]
  setTag s { t with segments := segs }

/-- Lowest tag of the step not yet finished on this module (R261). -/
def lowestTag (s : State) : Option Nat :=
  let open_ := ((s.program.map bucketDescs).getD []).filter fun b => !(tagOf s b.tag).finished
  (open_.map (·.tag)).foldl (fun m t => match m with
    | none => some t
    | some x => some (min x t)) none

/-- Segments of a tag whose accumulators are in use: those not yet complete at this module. -/
def openOf (t : TagState) : Nat := (t.segments.filter fun g => !g.freed).length

/-- Partial-sum accumulators held, by tags that `f` takes (R261). -/
def openSegments (s : State) (f : Nat → Bool) : Nat := ((s.reduce.tags.filter fun t => f t.tag).map openOf).sum

/-- Whether a segment of a tag has its accumulators, or may take them: 32,768 in all, 64 of them kept for the lowest tag
(R261). -/
def accRoom (s : State) (t0 tag n : Nat) : Bool :=
  let low := openSegments s (· == t0)
  let others := openSegments s (· != t0)
  (tagOf s tag).segments.any (·.number == n) ||
    (if tag = t0 then decide (low + others < 32768) else decide (max 64 low + others < 32768))

/-- Whether a segment of a tag is admitted now (R261). -/
def admitted (s : State) (g : WireSeg) : Bool :=
  match lowestTag s with
  | none => true
  | some t0 => decide (g.hdr.tag < t0 + 256) && (g.hdr.down || accRoom s t0 g.hdr.tag g.hdr.number)

/-- Whether all the segments of a frame are admitted, each counting the accumulators that those before it take (R261, R283). -/
def frameAdmitted : State → List WireSeg → Bool
  | _, [] => true
  | s, g :: gs => admitted s g && frameAdmitted (if g.hdr.down then s
      else setSegment s g.hdr.tag (segmentOf (tagOf s g.hdr.tag) g.hdr.number)) gs

/-! ### Results (R259) -/

/-- The send instance of a tag, or the FD reduction unit itself. -/
def sendWho (s : State) (tag : Nat) : Option Who :=
  (seqOf s 0x800).bind fun q => q.flight.findSome? fun f =>
    let w : Who := { unit := 0x800, stream := f.stream, index := f.index, inst := f.inst }
    match instrOf s w, s.program with
    | some p, some g => if p.cls = 8 ∧ p.bucketKind = 0 ∧ (parseBucket (descOf g p.desc)).tag = tag then some w else none
    | _, _ => none

/-- A bucket is finished once every result segment is written and forwarded: its send instance has its writes. -/
def checkFinished (s : State) (b : BucketDesc) : State :=
  let t := tagOf s b.tag
  if t.finished ∨ !((List.range b.segments).all fun n => (segmentOf t n).done) then s
  else
    let s := setTag s { t with finished := true }
    match sendWho s b.tag with
    | some w => lessWaiting s w
    | none => s

def validExp (e : Nat) : Bool := decide (1 ≤ e) && decide (e ≤ 0xED)

/-- Whether a segment is taken as flagged: its flag, an exponent field outside the valid range, or a G16 element that is no
value (R45). -/
def segFlagged (h : SegHdr) (es : List Int) : Bool := h.flag || !validExp h.exponent || (h.kind == 0 && es.any (· == -32768))

/-- A result is written to the result region with its header and forwarded unchanged on every child port. -/
def takeResult (s : State) (b : BucketDesc) (g : WireSeg) : State :=
  let n := g.hdr.number
  let w := (sendWho s b.tag).getD { unit := 0x800, stream := .U, index := 0xFFFF, inst := 0 }
  let s := writeGlobal s w (b.result + 1024 * n) (g.elems.flatMap fun x => leBytes 4 (BitVec.ofInt 32 x).toNat)
  let s := writeGlobal s w (b.result + 1024 * b.segments + 16 * n) (segHdrBytes g.hdr)
  let s := if segFlagged g.hdr g.elems then bump s 0x0A03 noInst b.tensor 1 else s
  let s := (planChildren (planOf s b.plan)).foldl (fun s p => sendSegment s p g) s
  checkFinished (setSegment s b.tag { segmentOf (tagOf s b.tag) n with done := true, freed := true }) b

/-! ### The link adders (R258 to R260) -/

/-- One contribution to a segment. -/
structure Contribution where
  source : Nat                             -- 0xFF own, else the child port
  g16 : Bool
  elems : List Int
  exponent : Nat
  flag : Bool
  amax : Nat
  contributors : Nat
  deriving DecidableEq, Repr

/-- A sum as a 32-bit accumulator holds it (R258; log 93). -/
def wrap32 (x : Int) : Int := (BitVec.ofInt 32 x).toInt

/-- A segment with a contribution added, or the held and the received exponent when they differ. -/
def addTo (g : Segment) (c : Contribution) : Except (Nat × Nat) Segment :=
  let ok := validExp c.exponent
  let bad := match g.exponent with
    | some e => if ok ∧ e ≠ c.exponent then some e else none
    | none => none
  match bad with
  | some e => .error (e, c.exponent)
  | none =>
    let marked := c.g16 && c.elems.any (· == -32768)
    let es := if !ok then List.replicate 256 0 else c.elems.map fun x => if c.g16 ∧ x = -32768 then 0 else x
    .ok { g with
      sums := (g.sums.zip es).map fun x => wrap32 (x.1 + x.2)
      amax := BitVec.ofNat 16 (max g.amax.toNat c.amax)
      flag := g.flag || c.flag || marked || !ok
      contributors := g.contributors + c.contributors
      exponent := match g.exponent with
        | some e => some e
        | none => if ok then some c.exponent else none
      seen := g.seen ++ [c.source] }

/-- Whether every contribution of a segment has been added. -/
def segComplete (e : PlanEntry) (g : Segment) : Bool :=
  (!e.contributes || g.seen.contains 0xFF) && (planChildren e).all fun p => g.seen.contains p.val

/-- A complete segment is checked, and sent upward or made a result (R259). A root's results that children contributed to
are logged, as no replay can form them again (R243, R244). -/
def finishSegment (s : State) (b : BucketDesc) (g : Segment) (port : Nat) : State :=
  let e := planOf s b.plan
  if !segComplete e g then s
  else if g.contributors ≠ e.count then reductionFault s 0xD b.tag g.number port e.count g.contributors
  else
    let out (down : Bool) : WireSeg :=
      wireSegment b.tag g.number (g.exponent.getD 1) g.flag g.amax.toNat g.contributors down g.sums
    let s := setSegment s b.tag { g with freed := true }
    if h : e.parent < 12 then sendSegment s ⟨e.parent, h⟩ (out false)
    else
      let r := out true
      takeResult (if (planChildren e).isEmpty then s
        else logInbound s s.fabric.rcd.node.toNat 3 (b.result + 1024 * g.number) r.raw) b r

def contribute (s : State) (b : BucketDesc) (n : Nat) (c : Contribution) : State :=
  match addTo (segmentOf (tagOf s b.tag) n) c with
  | .error (held, got) => reductionFault s 0xC b.tag n c.source held got
  | .ok g => finishSegment (setSegment s b.tag g) b g c.source

/-- Link interface whose adder adds this module's own contribution: its parent's, at the root its lowest child's, alone the
first (DESIGN CHOICE, log 103). -/
def ownPort (e : PlanEntry) : Fin 12 :=
  if h : e.parent < 12 then ⟨e.parent, h⟩ else (planChildren e).headD 0

/-- The unit table entry of a pipe of a link interface. -/
def pipePhys (iface : Nat) (pipe : Nat) : PhysUnit := { kind := 0xA, die := 8, index := 2 * iface + pipe }

/-- A prediction missed in the pipe in service: the repeat in the spare pipe either matches, and the pipes change places, or
is a fault (R260, R262). True when the addition stands. -/
def adderSlip (s : State) (p : Fin 12) (b : BucketDesc) (n predicted repeated : Nat) : State × Bool :=
  let iface := p.val % 6
  let old := (getAt s.reduce.pipes iface 0).val
  if predicted = repeated then
    let new : Fin 2 := if old = 0 then 1 else 0
    let s := bump s 0x0A04 iface noTensor 1
    let s := suspect (noteMismatch s (pipePhys iface old)) (pipePhys iface old) 2
    let s := setCond s (pipePhys iface new.val) .inService 0
    let s := { s with reduce := { s.reduce with pipes := setAt s.reduce.pipes iface new } }
    (post s 0x0A02 (packed [(1, p.val), (4, s.step.toNat), (2, b.tag), (2, n)]), true)
  else (reductionFault (noteMismatch s (pipePhys iface old)) 0xE b.tag n p.val predicted repeated, false)

/-! ### Arrival (R258 to R262, R309) -/

/-- The flits of an addition whose sums missed their prediction, one after the other; false when one is a fault (R260). -/
def slipsHold (s : State) (p : Fin 12) (b : BucketDesc) (n : Nat) (residues : List Nat) (slips : List AdderSlip) :
    State × Bool :=
  let held := segmentOf (tagOf s b.tag) n
  slips.foldl (fun (s, ok) (x : AdderSlip) =>
    if ok then adderSlip s p b n ((flitResidue held.sums x.flit + residues.getD x.flit 0) % 255) x.repeated
    else (s, ok)) (s, true)

/-- An upward segment from a child port. -/
def takeUp (s : State) (p : Fin 12) (b : BucketDesc) (g : WireSeg) (slips : List AdderSlip) : State :=
  let held := segmentOf (tagOf s b.tag) g.hdr.number
  if held.done ∨ held.seen.contains p.val then bump s 0x0A06 p.val noTensor 1
  else
    let (s, ok) := slipsHold s p b g.hdr.number g.hdr.residues slips
    if !ok then s
    else contribute s b g.hdr.number
      { source := p.val, g16 := g.hdr.kind == 0, elems := g.elems, exponent := g.hdr.exponent, flag := g.hdr.flag,
        amax := g.hdr.amax, contributors := g.hdr.contributors }

/-- One segment of an arriving frame: the header's checks (R262; log 40 on the values posted), then the adder or the result
region. -/
def takeSeg (s : State) (p : Fin 12) (src : Nat) (g : WireSeg) (slips : List AdderSlip) : State :=
  let h := g.hdr
  match bucketOfTag s h.tag with
  | none => reductionFault s 0xC h.tag h.number p.val 0 h.tag
  | some b =>
    let e := planOf s b.plan
    if b.segments ≤ h.number then reductionFault s 0xC h.tag h.number p.val (b.segments - 1) h.number
    else if h.kind = 3 then reductionFault s 0xC h.tag h.number p.val 1 3
    else if h.down then
      if e.parent ≠ p.val then reductionFault s 0xC h.tag h.number p.val 0 1
      else if (segmentOf (tagOf s b.tag) h.number).done then s
      else takeResult (logInbound s src 3 (b.result + 1024 * h.number) g.raw) b g
    else if !(planChildren e).contains p then reductionFault s 0xC h.tag h.number p.val 1 0
    else takeUp s p b g slips

def takeSegs (s : State) (p : Fin 12) (f : Kft) (slips : List AdderSlip) : State :=
  ((parseSegs 16 f.payload).zipIdx).foldl (fun s x =>
    takeSeg s p f.src.toNat x.1 (slips.filter fun y => y.position == x.2)) s

/-- This module's own contribution to segment `n`: its staging region and the governing exponent. Elements beyond the bucket
are padding and count as 0 (R245). -/
def ownContribution (s : State) (b : BucketDesc) (n : Nat) : Contribution :=
  let rd := peek s 0x800
  let word := rd (b.staging + 512 * b.segments + 8 * n) 8
  { source := 0xFF, g16 := true
    elems := (List.range 256).map fun i =>
      if 256 * n + i < b.count then int16 (leNat (rd (b.staging + 512 * n + 2 * i) 2)) else 0
    exponent := leNat (rd (segHalf b n s.step.toNat + 8) 1)
    flag := bitAt (field word 2 1) 0, amax := field word 0 2, contributors := 1 }

/-- The own contribution to segment `n` is added, and its staging word returns to 0 (R250, R258). -/
def sendOwn (w : Who) (b : BucketDesc) (slips : List AdderSlip) (s : State) (n : Nat) : State :=
  let c := ownContribution s b n
  let s := writeGlobal s w (b.staging + 512 * b.segments + 8 * n) (List.replicate 8 0)
  let (s, ok) := slipsHold s (ownPort (planOf s b.plan)) b n (residuesOf c.elems) (slips.filter fun x => x.position == n)
  if ok then contribute s b n c else s

/-- Own segments of a tag that wait for accumulators are added in order, as long as there is room (R261). -/
def sendOwnSegs (w : Who) (b : BucketDesc) (slips : List AdderSlip) : List Nat → State → State
  | [], s => s
  | n :: ns, s =>
    if accRoom s ((lowestTag s).getD b.tag) b.tag n then
      sendOwnSegs w b slips ns (sendOwn w b slips (setTag s { tagOf s b.tag with own := ns }) n)
    else s

/-- Every tag's waiting own segments, the lowest tag first, with what their additions meet (R260, R261). What was read for
them goes with the last of them. -/
def drainOwn (s : State) : State :=
  let waits (s : State) : Bool := s.reduce.tags.any fun t => !t.own.isEmpty
  let t := (((s.reduce.tags.filter fun t => !t.own.isEmpty).map (·.tag)).mergeSort).foldl (fun s tag =>
    match bucketOfTag s tag, sendWho s tag with
    | some b, some w => sendOwnSegs w b (tagOf s tag).slips (tagOf s tag).own s
    | _, _ => s) s
  if waits s && !waits t then dropArrivals t 0x800 else t


/-- Cycles of the FD's 1.0 GHz clock in which a credit was withheld, counted up to now (R272). -/
def countWaits (s : State) : State :=
  let s := if s.reduce.withheld.isEmpty then s else bump s 0x0A07 0x800 noTensor (s.timebase - s.reduce.waitFrom)
  { s with reduce := { s.reduce with waitFrom := s.timebase } }

/-- Withheld frames that are admitted now are taken, and their credits return; `n` bounds them. -/
def drainWithheld : Nat → State → State
  | 0, s => s
  | n + 1, s =>
    match s.reduce.withheld.find? fun x => frameAdmitted s (parseSegs 16 x.f.payload) with
    | none => s
    | some x =>
      let s := countWaits s
      let s := { s with reduce := { s.reduce with withheld := s.reduce.withheld.erase x } }
      drainWithheld n (drainOwn (takeSegs (oweCredits s x.port x.f) x.port x.f x.slips))

def drain (s : State) : State := drainWithheld s.reduce.withheld.length (drainOwn s)

/-- A reduction frame of this module: discarded where the program has halted, which contributes no more (R270), held by
withheld credits outside the window, otherwise added (R261). -/
def takeReduction (slips : List AdderSlip) (p : Fin 12) (s : State) (f : Kft) : State :=
  if inReset s ∨ s.pstate = .halted ∨ replaying s then discard s p.val 12 1
  else if frameAdmitted s (parseSegs 16 f.payload) then drain (takeSegs s p f slips)
  else
    let s := countWaits s
    let s := updPort s p fun q => { q with
      owed := Vector.ofFn fun i => if i.val = f.cls.toNat then q.owed[i] - creditUnits f else q.owed[i] }
    { s with reduce := { s.reduce with withheld := s.reduce.withheld ++ [{ port := p, f := f, slips := slips }] } }

/-- A reduction frame arrives; a residue that fails on arrival is a link error (R260, R285). -/
def execReductionFrame (x : Rx) (slips : List AdderSlip) (s : State) : Host.Outcome State Fault Refusal :=
  let bad := x.fcsOk && x.crcOk && x.f.typ == 0x0B && x.f.dst == s.fabric.rcd.node &&
    !((parseSegs 16 x.f.payload).all residuesHold)
  let q := s.fabric.ports[x.port]
  if bad then
    if q.link = .up ∨ q.link = .retraining then
      .next (sendNak (discard (countFrame s x) x.port.val 1 1) x.port)
    else .next s
  else .next (arrive s x 0x0B (takeReduction slips x.port))

/-! ### The send instruction (R247, R250, R258) -/

def bucketDescOf (s : State) (p : PInstr) : BucketDesc := parseBucket ((s.program.map fun g => descOf g p.desc).getD [])

def bucketSendWork (w : Who) (b : BucketDesc) (slips : List AdderSlip) (s : State) : State :=
  let rs := [(b.staging, 520 * b.segments), (b.segTable, 32 * b.segments)]
  let mine := (planOf s b.plan).contributes
  withSources s w (if mine then rs else []) (fun s =>
    let t := tagOf s b.tag
    let own := if mine then List.range b.segments else []
    let s := setTag (if t.finished then s else addWaiting s w 1) { t with sending := true, own := own, slips := slips }
    drain (sendOwnSegs w b slips own s)) { slips := slips }

/-- `slips` is what the additions of the own contribution meet (R260). -/
def execBucketSend (s : State) (slips : List AdderSlip := []) : Host.Outcome State Fault Refusal :=
  issue s 0x800 (fun _ p => p.cls == 8 && p.bucketKind == 0) fun s w p => bucketSendWork w (bucketDescOf s p) slips s

/-! ### The finish instruction (R252, R263 to R265) -/

/-- The smallest exponent that fits margin × a, 0xED when none does; 1 for 0 (R252). -/
def segBase (margin amax : Nat) : Nat :=
  if amax = 0 then 1
  else
    let v := (decode .k16 margin).mul (decode .k16 amax)
    ((rangeFrom 1 0xED).find? fun (e : Nat) => v.le (.fin false 32767 ((e : Int) - 141))).getD 0xED

/-- The half that governs the next step (R252), from the governing half. -/
def nextHalf (b : BucketDesc) (step : Nat) (gov : List Byte) (amax : Nat) (flag : Bool) : List Byte :=
  let h := b.history
  let slot := step % h
  let hist := (List.range 4).map fun k => if k = slot then amax else field gov (2 * k) 2
  let e := field gov 8 1
  let count := min (field gov 9 1 + 1) h
  let am := ((List.range count).map fun j => hist.getD ((step + 4 * h - j) % h) 0).foldl max 0
  let base := segBase b.margin am
  let next := if flag then max base (min 0xED (e + 1)) else max base (e - 1)
  hist.flatMap (leBytes 2) ++ leBytes 1 next ++ leBytes 1 count ++ List.replicate 6 0

/-- Bit of the flag bitmap of segment `n`; at another module an atomic sets or clears it, and leaves the bits beside it alone
(R263, R296). -/
def writeFlag (s : State) (w : Who) (b : BucketDesc) (n : Nat) (flag : Bool) : State :=
  let j := b.first / 256 + n
  let a := b.flags + j / 8
  if isLocal s (nodeOf a) then
    let old := leNat (peek s w.unit a 1)
    let cleared := if bitAt old (j % 8) then old - 2 ^ (j % 8) else old
    writeGlobal s w a (leBytes 1 (if flag then cleared + 2 ^ (j % 8) else cleared))
  else if replaying s then s
  else
    let bit := 2 ^ (8 * (a % 4) + j % 8)
    sendWrite w s (5, a / 4 * 4, if flag then atomicPayload 2 4 bit else atomicPayload 1 4 (2 ^ 32 - 1 - bit))

/-- A Vector Engine that does a unit's work keeps the flags of its conversions (R48). -/
def raiseVe (s : State) (w : Who) (f : BitVec 5) : State := if isVE w.unit then raiseFlags s w.unit f else s

/-- One segment finished: its gradient values, 256 or fewer, with the state. -/
def finishOne (w : Who) (b : BucketDesc) (step : Nat) (s : State) (n : Nat) (h : SegHdr) (es : List Int) : List Val × State :=
  let len := min 256 (b.count - 256 * n)
  let flag := segFlagged h es
  let convs := (List.range len).map fun i =>
    let v := if flag ∨ h.kind = 2 then Val.zero else ofInt false (es.getD i 0) ((h.exponent : Int) - 141)
    convertFull .b32 .nearestEven 0 0 v
  let codes := convs.map (·.code)
  let s := raiseVe s w ((convs.map convFlags).foldl (· ||| ·) 0)
  let s := writeGlobal s w (b.grad + 4 * (b.first + 256 * n)) (codes.flatMap (leBytes 4))
  let s := noteWatch s b.tensor (addWatch len (codes.filter (codeZero .b32)).length 0
    (codes.filter (codeNonFinite .b32)).length 0)
  let s := writeFlag s w b n flag
  let gov := peek s w.unit (segHalf b n step) 16
  let s := writeGlobal s w (segHalf b n (step + 1)) (nextHalf b step gov h.amax flag)
  (codes.map (decode .b32), s)

/-- A segment of the result region as a reader delivers it, and the first flit whose residue differs from the header's with
the residues of both (R264). -/
def readSegment (rd : Reader) (b : BucketDesc) (n : Nat) : SegHdr × List Int × Option (Nat × Nat) :=
  let h := parseSegHdr (rd (b.result + 1024 * b.segments + 16 * n) 16)
  let es := segElems 1 (rd (b.result + 1024 * n) 1024)
  let got := residuesOf es
  (h, es, ((List.range 4).find? fun j => got.getD j 0 != h.residues.getD j 0).map fun j =>
    (h.residues.getD j 0, got.getD j 0))

/-- The segments in order. A segment that fails its residues is read again, past what the first reading delivered in
error: passed, it is counted, and failed again it is a fault (R264). -/
def finishSegs (w : Who) (b : BucketDesc) (step : Nat) (stale : List (Nat × Byte)) :
    List Nat → List Val → State → Option (List Val) × State
  | [], vs, s => (some vs, s)
  | n :: ns, vs, s =>
    match readSegment (overlay stale (peek s w.unit)) b n, readSegment (peek s w.unit) b n with
    | (_, _, some _), (_, _, some (want, got)) => (none, stop (reductionFault s 0xE b.tag n 0xFF want got) w)
    | (_, _, some _), (h, es, none) =>
      let (new, s) := finishOne w b step (bump s 0x0A05 w.unit noTensor 1) n h es
      finishSegs w b step stale ns (vs ++ new) s
    | (h, es, none), _ =>
      let (new, s) := finishOne w b step s n h es
      finishSegs w b step stale ns (vs ++ new) s

/-- Segments of a bucket whose result carries the flag. -/
def flaggedSegs (s : State) (w : Who) (b : BucketDesc) : List Nat :=
  (List.range b.segments).filter fun n =>
    let (h, es, _) := readSegment (peek s w.unit) b n
    segFlagged h es

def bucketFinishWork (w : Who) (b : BucketDesc) (stale : List (Nat × Byte)) (s : State) : State :=
  withSources s w [(b.result, 1040 * b.segments), (b.segTable, 32 * b.segments)] (input := { stale := stale }) fun s =>
    let flagged := flaggedSegs s w b
    match finishSegs w b s.step.toNat stale (List.range b.segments) [] s with
    | (none, s) => s
    | (some vs, s) =>
      let s := writeGlobal s w (b.segTable + 32 * b.segments) (leBytes 8 (carryWord (chunkedSum (vs.map fun v => v.mul v))))
      match flagged with
      | [] => s
      | n :: _ => post s 0x0A01 (packed [(4, b.tensor), (2, b.tag), (4, s.step.toNat), (4, flagged.length), (2, n)])

/-- `stale` is what the first reading of the result region delivers in error (R264). -/
def execBucketFinish (unit : Nat) (s : State) (stale : List (Nat × Byte) := []) : Host.Outcome State Fault Refusal :=
  issue s unit (fun _ p => p.cls == 8 && p.bucketKind == 1) fun s w p => bucketFinishWork w (bucketDescOf s p) stale s

/-! ### The norm instruction (R265) -/

/-- The buckets a norm names, in ascending first element. -/
def normBuckets (p : Program) (i : PInstr) : List BucketDesc :=
  ((rangeFrom i.desc i.bucketCount).map fun k => parseBucket (descOf p k)).mergeSort fun a b => decide (a.first ≤ b.first)

def carryAddrOf (b : BucketDesc) : Nat := b.segTable + 32 * b.segments

def bucketNormWork (w : Who) (i : PInstr) (s : State) : State :=
  match s.program with
  | none => s
  | some p =>
    let bs := normBuckets p i
    withSources s w (bs.map fun b => (carryAddrOf b, 8)) fun s =>
      let words := bs.map fun b => leNat (peek s w.unit (carryAddrOf b) 8)
      match (bs.zip words).find? fun x => (carryParse x.2).isNone with
      | some x => stop (blockFault s w.unit x.1.tensor x.1.first 0xA x.2 x.2) w
      | none =>
        let total := accSum Acc.zero (words.map fun x => accVal ((carryParse x).getD .nan))
        match bs with
        | [] => s
        | b :: _ =>
          let count := (bs.map fun b => b.first + b.count).foldl max 0
          let c := convertFull .b32 .nearestEven 0 0 (accVal total)
          writeGlobal (raiseVe s w (convFlags c)) w (sumSqAddr b.grad count) (leBytes 4 c.code)

def execBucketNorm (unit : Nat) (s : State) : Host.Outcome State Fault Refusal :=
  issue s unit (fun _ p => p.cls == 8 && p.bucketKind == 2) fun s w p => bucketNormWork w p s

end Sys2Proof.Machine
end

