-- ==== Sys2Proof/Machine/Context.lean ====
section
/-! DEFINITION. Contexts (R217 to R219, R235, R253, R353): what a context holds, its image in logical order, and the SAVE
and RESTORE commands. The bodies of section kinds 2 and 3 and the order of sections are the model's (log 41). -/

namespace Sys2Proof.Machine

open Sys2Proof

/-- The step number that no program step takes (R132). -/
def lastStep : Word64 := 0xFFFF_FFFF_FFFF_FFFF

/-! ### Sections (R218) -/

structure Section where
  tensor : Nat
  kind : Nat                               -- 0 plain, 1 block, 2 trackers and coach, 3 epoch tokens, 4 ingest cursor
  fmt : Nat
  count : Nat
  body : List Byte
  deriving DecidableEq, Repr

def layoutOfTensor (p : Program) (tensor : Nat) : Layout := (p.layouts.find? (·.tensor == tensor)).getD noLayout

/-! ### Plain tensors -/

/-- Element count of a master weight tensor; none for a tensor that no update has as its master. -/
def masterCount (p : Program) (tensor : Nat) : Option Nat :=
  (((slotsOf p .update).map fun x => parseUpdate x.2).find? fun u => (parsePlain (descOf p u.master)).tensor == tensor).map (·.count)

/-- Where the body of a plain tensor lies in memory: element addresses in element-index order with the element width, and,
for a master, the address and length of its compensation bytes (R221, R235; log 92). -/
def plainParts (p : Program) (d : PlainDesc) (l : Layout) : List Nat × Nat × Nat :=
  let n := fmtBytes (fmtOf d.fmt)
  match masterCount p d.tensor with
  | some c => ((List.range c).map fun k => d.base + n * k, compAddr d.base c 0, c)
  | none => ((List.range l.elements).map fun k => d.base + n * plainPlace l (coordsOf l k), 0, 0)

/-- The logical image of a plain tensor: its elements, then a master's compensation bytes. -/
def plainImage (rd : Reader) (p : Program) (d : PlainDesc) (l : Layout) : List Byte :=
  let (es, c, n) := plainParts p d l
  (es.flatMap fun a => rd a (fmtBytes (fmtOf d.fmt))) ++ (if n = 0 then [] else rd c n)

/-! ### Block tensors -/

/-- Blocks in block-number order before the square reordering of R195. -/
def logicalBlocks (l : Layout) (n : Nat) : Nat :=
  if l.square then (l.order.take l.rank).foldl (fun b d => b * l.span d) 1 else n

/-- Stored block number of block `j` of that order. -/
def storedBlock (l : Layout) (j : Nat) : Nat :=
  if l.square then
    let ncb := max 1 ((l.size l.axis + 31) / 32)
    let rb := j / ncb
    let cb := j % ncb
    32 * (rb / 32 * ncb + cb) + rb % 32
  else j

/-- A block as read. One whose checks fail takes an all-zero place: SAVE and the journal find it before they write anything
(`contextFault`), and RESTORE an image's (`imageFault`). -/
def blockOr (rd : Reader) (d : BlockDesc) (b : Nat) : Blk :=
  match readBlock rd d b with
  | .ok k => k
  | .error _ => { s := 0, codes := [], escapes := [] }

/-- Scale words, data slots, directory and compacted side list of blocks in order. -/
def blockBody (f : BFmt) (ks : List Blk) : List Byte :=
  let n := ks.length
  let scales := ks.zipIdx.flatMap fun x => leBytes 2 (scaleWordOf x.2 x.1.s x.1.escapes.length)
  let data := ks.flatMap fun k => if k.s = 0 then List.replicate (slotBytes f) 0 else slotOf f k.codes
  if isBlocked f then scales ++ data
  else
    let counts := (List.range (ceilDiv n 256)).map fun sp => (((ks.drop (256 * sp)).take 256).map fun k => k.escapes.length).sum
    let dirs := counts.zipIdx.flatMap fun x => leBytes 8 (dirWordOf ((counts.take x.2).sum) x.1)
    let side := ks.zipIdx.flatMap fun x => x.1.escapes.flatMap fun e => leBytes 4 (entryWordOf x.2 e.1 e.2)
    scales ++ data ++ dirs ++ side

/-- The block tensor descriptor of a body of `n` blocks, its addresses counted from the body's start. -/
def bodyDesc (f : Nat) (n : Nat) : BlockDesc :=
  let b := (bfmtOf f).getD .k4
  { data := 2 * n, scale := 0, dir := 2 * n + n * slotBytes b, side := 2 * n + n * slotBytes b + 8 * ceilDiv n 256, n := n,
    tensor := 0, fmt := f, rank := 8, threshold := 0, capacity := 1792, rule := 0 }

/-- Blocks of a body written into a tensor's placement: escapes of a span packed from the span's start. -/
def placeBlocks (s : State) (d : BlockDesc) (l : Layout) (body : List Byte) : State :=
  let f := d.bfmt
  let n := logicalBlocks l d.n
  let rd : Reader := fun a k => padTo k ((body.drop a).take k)
  let src := bodyDesc d.fmt n
  let blk (b : Nat) : Blk :=
    match (List.range n).find? fun j => storedBlock l j == b with
    | some j => blockOr rd src j
    | none => { s := 0, codes := [], escapes := [] }
  (List.range (ceilDiv d.n 256)).foldl (fun s sp =>
    let bs := rangeFrom (256 * sp) (min 256 (d.n - 256 * sp))
    let (s, used) := bs.foldl (fun (s, used) b =>
      let k := blk b
      let s := poke s (d.scale + 2 * b) (leBytes 2 (scaleWordOf b k.s k.escapes.length))
      let s := if k.s = 0 then s else poke s (d.data + b * slotBytes f) (slotOf f k.codes)
      let s := poke s (d.side + 4 * (sp * d.capacity + used)) (k.escapes.flatMap fun e => leBytes 4 (entryWordOf b e.1 e.2))
      (s, used + k.escapes.length)) (s, 0)
    if isBlocked f then s else poke s (d.dir + 8 * sp) (leBytes 8 (dirWordOf (sp * d.capacity) used))) s

def blockSection (rd : Reader) (tensor : Nat) (d : BlockDesc) (l : Layout) : Section :=
  let n := logicalBlocks l d.n
  { tensor := tensor, kind := 1, fmt := d.fmt, count := if l.rank = 0 then 32 * d.n else l.elements
    body := blockBody d.bfmt ((List.range n).map fun j => blockOr rd d (storedBlock l j)) }

/-! ### Words of kinds 2 and 3 -/

/-- Eight-byte words. -/
def wordBytes (ws : List Nat) : List Byte := ws.flatMap (leBytes 8)

def bytesWords : Nat → List Byte → List Nat
  | 0, _ => []
  | n + 1, b => if b.length < 8 then [] else leNat (b.take 8) :: bytesWords n (b.drop 8)

def flagWord (b : Bool) : Nat := if b then 1 else 0

/-- A list with its length before it. -/
def listWords (ws : List Nat) : List Nat := ws.length :: ws

def layerStatWords (t : LayerStat) : List Nat :=
  [t.layer, t.shard, flagWord t.updated, carryWord t.w2, carryWord t.d2, flagWord t.skipped, t.blocks, t.escapes,
    t.shadowBlocks, t.shadowEscapes, t.saturations, t.elements, carryWord t.errDen] ++ listWords (t.errNum.map carryWord) ++
    listWords (t.channels.flatMap fun c => [carryWord c.1, carryWord c.2])

def trackStatWords (t : TrackStat) : List Nat :=
  [t.amax.toNat, t.codeBits, flagWord t.overflowCut, flagWord t.written] ++ listWords t.overflowed

def trackerWords (s : State) (d : TrackDesc) (t : Tracker) : List Nat :=
  [t.tensor, t.st, t.adj, t.headroom, flagWord t.refit, t.base] ++ trackStatWords t.stat ++
    listWords (t.history.map BitVec.toNat) ++ listWords ((bumpTable s d).map BitVec.toNat)

def layerWords (l : LayerState) : List Nat :=
  [l.layer, l.format, l.since, l.stall, flagWord l.alarm, flagWord l.advised, flagWord l.pauseAsked, l.ratio.toNat, l.late.1, l.late.2] ++
    listWords (l.channels.map BitVec.toNat) ++ layerStatWords (withSums l.stat l.sums) ++ l.window.length :: l.window.flatMap layerStatWords

/-- Governing halves of every segment record, by tag (R253). -/
def segmentWords (s : State) (p : Program) : List Nat :=
  ((bucketDescs p).mergeSort fun a b => decide (a.tag ≤ b.tag)).flatMap fun b => (List.range b.segments).flatMap fun n =>
    let h := peek s mcpUnit (segHalf b n s.step.toNat) 16
    [field h 0 8, field h 8 8]

/-- Trackers in ascending tensor number and layers in ascending layer number: an order no placement changes (R218). -/
def tracksInOrder (p : Program) : List TrackDesc := (trackDescs p).mergeSort fun a b => decide (a.tensor ≤ b.tensor)
def layersInOrder (p : Program) : List LayerDesc := (layerDescs p).mergeSort fun a b => decide (a.layer ≤ b.layer)

/-- The items of section kind 2: trackers, layers and segment records. -/
def stateCount (p : Program) : Nat :=
  (trackDescs p).length + (layerDescs p).length + ((bucketDescs p).map (·.segments)).sum

/-- Tracker and coach state (R164, R217) and the segment records (R253). -/
def stateWords (s : State) (p : Program) : List Nat :=
  ((tracksInOrder p).flatMap fun d => match trackerOf s d.tensor with
    | some t => trackerWords s d t
    | none => []) ++
  ((layersInOrder p).flatMap fun d => match layerOf s d.layer with
    | some l => layerWords l
    | none => []) ++ segmentWords s p

/-- Version records in ascending tensor number, with their slots. -/
def recordsInOrder (p : Program) : List (Nat × VersionDesc) :=
  ((slotsOf p .version).map fun x => (x.1, parseVersion x.2)).mergeSort fun a b => decide (a.2.tensor ≤ b.2.tensor)

/-- The versioned tensor whose epoch a token holds: its record's own epoch token, or a mirror, on which an instruction of the
unit waits that reads the record (R231); none for an epoch token of the program's own. -/
def tokenTensor (p : Program) (unit tok : Nat) : Option Nat :=
  (recordsInOrder p).findSome? fun x =>
    let own := (recordUnits p x.1).headD mcpUnit == unit && x.2.epochToken == tok
    let mirror := (allInstrs p).any fun y => y.1 == unit && y.2.waitMode == 2 && y.2.waitToken == tok &&
      (recordsRead p y.2).contains x.1
    if own || mirror then some x.2.tensor else none

/-- Every epoch token, by unit and number. -/
def epochTokens (s : State) : List (Nat × Nat) :=
  s.seqs.flatMap fun q => q.tokens.zipIdx.flatMap fun x => if x.1.mode = 2 then [(q.unit, x.2)] else []

/-- Rising order of lists of numbers. -/
def lexLe : List Nat → List Nat → Bool
  | [], _ => true
  | _ :: _, [] => false
  | a :: as, b :: bs => decide (a < b) || (a == b && lexLe as bs)

/-- The tensors of the instructions that wait on a token or signal it: what a placement does not change about it. -/
def tokenTensors (s : State) (p : Program) (unit tok : Nat) : List Nat :=
  let mine := (instsOf p).filter fun x => x.who.inst == 0 &&
    ((x.who.unit == unit && x.ins.waitMode != 0 && x.ins.waitToken == tok) ||
      (adds s p x.ins x.who.unit).any (fun a => a.1 == unit && a.2.1 == tok))
  (mine.flatMap fun x => (instRanges p 0 x).map (·.tensor)).foldl (fun l t => if t = noTensor then l else insertNat t l) []

/-- What those instructions do with the token: their stream, class and operand, whether they signal or wait, and how much. -/
def tokenUses (s : State) (p : Program) (unit tok : Nat) : List Nat :=
  let stream (t : Stream) : Nat := match t with
    | .F => 0
    | .B => 1
    | .U => 2
  let uses := ((instsOf p).filter fun x => x.who.inst == 0).filterMap fun x =>
    let waits := x.who.unit == unit && x.ins.waitMode != 0 && x.ins.waitToken == tok
    let signals := (adds s p x.ins x.who.unit).any fun a => a.1 == unit && a.2.1 == tok
    if waits || signals then some [stream x.who.stream, x.ins.cls, x.ins.operand, if waits then 1 else 0,
        if signals then 1 else 0, x.ins.waitTarget, x.ins.waitInc, x.ins.sigCount] else none
  (uses.mergeSort lexLe).flatten

/-- What tells epoch tokens apart in whatever placement: the tensors about them, what is done with them, and their initial
value. -/
def tokenKey (s : State) (p : Program) (unit tok : Nat) : List Nat :=
  listWords (tokenTensors s p unit tok) ++ listWords (tokenUses s p unit tok) ++ [(declared p unit tok).init]

/-- Epoch tokens that hold no versioned tensor's epoch, in the order of their keys (R218; log 41). -/
def freeTokens (s : State) (p : Program) : List (List Nat × Nat × Nat) :=
  (((epochTokens s).filter fun x => (tokenTensor p x.1 x.2).isNone).map fun x => (tokenKey s p x.1 x.2, x)).mergeSort
    fun a b => lexLe a.1 b.1

/-- Each epoch token's value, once for each versioned tensor in ascending tensor number, whatever units mirror it, then those
of the tokens that hold no tensor's epoch, in the order of their keys, and of their values where the keys are alike: no part
depends on the placement (R217, R218; log 41). -/
def epochWords (s : State) (p : Program) : List Nat :=
  ((recordsInOrder p).flatMap fun x =>
    [x.2.tensor, tokenValue s ((recordUnits p x.1).headD mcpUnit) x.2.epochToken]) ++
    (((freeTokens s p).map fun x => (x.1, tokenValue s x.2.1 x.2.2)).mergeSort fun a b => lexLe (a.1 ++ [a.2]) (b.1 ++ [b.2])).flatMap
      fun x => [0xFFFF_FFFF, x.2]

/-! ### Reading the words back -/

def takeWord : List Nat → Nat × List Nat
  | [] => (0, [])
  | w :: ws => (w, ws)

def takeList (ws : List Nat) : List Nat × List Nat :=
  let (n, ws) := takeWord ws
  (ws.take n, ws.drop n)

def wordAcc (w : Nat) : Acc := (carryParse w).getD .nan

def pairUp : List Nat → List (Acc × Acc)
  | a :: b :: r => (wordAcc a, wordAcc b) :: pairUp r
  | _ => []

def readLayerStat (ws : List Nat) : LayerStat × List Nat :=
  let g (i : Nat) : Nat := ws.getD i 0
  let (en, rest) := takeList (ws.drop 13)
  let (ch, rest) := takeList rest
  ({ layer := g 0, shard := g 1, updated := g 2 != 0, w2 := wordAcc (g 3), d2 := wordAcc (g 4), skipped := g 5 != 0,
     blocks := g 6, escapes := g 7, shadowBlocks := g 8, shadowEscapes := g 9, saturations := g 10, elements := g 11,
     errNum := en.map wordAcc, errDen := wordAcc (g 12), channels := pairUp ch }, rest)

def readLayerStats : Nat → List Nat → List LayerStat × List Nat
  | 0, ws => ([], ws)
  | n + 1, ws =>
    let (t, ws) := readLayerStat ws
    let (ts, ws) := readLayerStats n ws
    (t :: ts, ws)

/-- One tracker from the words, with its bump table written. -/
def restoreTracker (s : State) (d : TrackDesc) (ws : List Nat) : State × List Nat :=
  let g (i : Nat) : Nat := ws.getD i 0
  let (hits, rest) := takeList (ws.drop 10)
  let (hist, rest) := takeList rest
  let (bumps, rest) := takeList rest
  let stat : TrackStat :=
    { tensor := d.tensor, amax := BitVec.ofNat 16 (g 6), codeBits := g 7, overflowed := hits, overflowCut := g 8 != 0,
      written := g 9 != 0 }
  let s := setBumps s d (bumps.map (BitVec.ofNat 8))
  (updTracker s d.tensor fun t => { t with
    st := g 1, adj := g 2, headroom := g 3, refit := g 4 != 0, fit := hist.isEmpty || g 4 != 0, base := g 5
    history := hist.map (BitVec.ofNat 16), overflowed := [], stat := stat, last := noStat d.tensor }, rest)

/-- One layer from the words; bounds stay those in force (R160). -/
def restoreLayer (s : State) (d : LayerDesc) (ws : List Nat) : State × List Nat :=
  let g (i : Nat) : Nat := ws.getD i 0
  let (ch, rest) := takeList (ws.drop 10)
  let (stat, rest) := readLayerStat rest
  let (n, rest) := takeWord rest
  let (window, rest) := readLayerStats n rest
  (updLayer s d.layer fun l => { l with
    format := g 1, since := g 2, stall := g 3, alarm := g 4 != 0, advised := g 5 != 0, pauseAsked := g 6 != 0,
    ratio := BitVec.ofNat 32 (g 7), late := (g 8, g 9), taken := (0, 0), channels := ch.map (BitVec.ofNat 32), stat := stat, sums := [], window := window }, rest)

/-- Segment records: the saved half governs the restored step, the other half's history count is 0 (R253). -/
def restoreSegments (s : State) (bs : List BucketDesc) (step : Nat) (ws : List Nat) : State :=
  (bs.foldl (fun (s, ws) b => (List.range b.segments).foldl (fun (s, ws) n =>
    let s := poke s (segHalf b n step) (leBytes 8 (List.getD ws 0 0) ++ leBytes 8 (List.getD ws 1 0))
    (poke s (segHalf b n (step + 1) + 9) [0], List.drop 2 ws)) (s, ws)) (s, ws)).1

def restoreState (s : State) (p : Program) (step : Nat) (ws : List Nat) : State :=
  let (s, ws) := (tracksInOrder p).foldl (fun (s, ws) d => restoreTracker s d ws) (s, ws)
  let (s, ws) := (layersInOrder p).foldl (fun (s, ws) d => restoreLayer s d ws) (s, ws)
  restoreSegments s ((bucketDescs p).mergeSort fun a b => decide (a.tag ≤ b.tag)) step ws

/-- Every token at its declared initial value, in a step (R200, R219). -/
def freshTokens (s : State) (p : Program) (step : Nat) : State :=
  { s with seqs := s.seqs.map fun q => match stageOf p q.unit with
      | some g => { q with tokens := g.tokens.map fun d => freshToken d (step % 2) }
      | none => q }

def setEpoch (s : State) (x : Nat × Nat) (v : Nat) : State :=
  updSeq s x.1 fun q => { q with tokens := q.tokens.set x.2 { tokenOf q x.2 with v0 := v } }

/-- Epoch tokens take their saved values: a versioned tensor's own token and its mirrors the tensor's, the others theirs in
order. -/
def restoreEpochs (s : State) (p : Program) (ws : List Nat) : State :=
  let saved := (List.range (ws.length / 2)).map fun i => (ws.getD (2 * i) 0, ws.getD (2 * i + 1) 0)
  let s := (epochTokens s).foldl (fun s x => match tokenTensor p x.1 x.2 with
    | some t => match saved.find? (·.1 == t) with
      | some v => setEpoch s x v.2
      | none => s
    | none => s) s
  ((freeTokens s p).zip (saved.filter (·.1 == 0xFFFF_FFFF))).foldl (fun s x => setEpoch s x.1.2 x.2.2) s

/-! ### What a context holds (R217, R235) -/

/-- The tensors a context holds besides the versioned ones, in ascending number: those the load hints call persistent, and
every update's master weight, with its compensation bytes, and moments (R217, R235). -/
def persistentTensors (p : Program) : List Nat :=
  let ups := (slotsOf p .update).map fun x => parseUpdate x.2
  let held := ups.flatMap fun u => (parsePlain (descOf p u.master)).tensor ::
    ([u.m1, u.m2].filter (· != 0xFFFF)).map fun slot => (parseBlock (descOf p slot)).tensor
  let versioned := (recordsInOrder p).map fun x => x.2.tensor
  (p.persistent ++ held).foldl (fun l t => if versioned.contains t then l else insertNat t l) []

/-- The section of a persistent tensor. -/
def persistentSection (s : State) (p : Program) (tensor : Nat) : Section :=
  let rd := peek s mcpUnit
  let l := layoutOfTensor p tensor
  match (slotsOf p .block).find? fun x => (parseBlock x.2).tensor == tensor with
  | some x => blockSection rd tensor (parseBlock x.2) l
  | none =>
    let d := (((slotsOf p .plain).map fun x => parsePlain x.2).find? (·.tensor == tensor)).getD
      { base := 0, tensor := tensor, fmt := 0 }
    { tensor := tensor, kind := 0, fmt := d.fmt, count := (plainParts p d l).1.length, body := plainImage rd p d l }

/-- Slot of a version record that is home. -/
def homeSlot (v : VState) : Nat := if v.s0.cond = .home then 0 else 1

/-- The home slot of a versioned tensor, in the slot's format (R235). -/
def versionSection (s : State) (p : Program) (v : VState) : Section :=
  let i := homeSlot v
  let t := (parseVersion (descOf p v.record)).tensor
  blockSection (peek s mcpUnit) t (slotBlock p v i) (copyLayout p v.record i)

/-- The ingest cursor (R353). -/
def cursorBody (s : State) (p : Program) : List Byte :=
  match ingestDescs p with
  | [] => List.replicate 64 0
  | (_, d) :: _ =>
    let (members, _) := replicaOf p d.replica
    padTo 64 (leBytes 8 (s.step.toNat * members * d.b) ++ leBytes 8 d.digest ++ leBytes 4 d.entries ++
      leBytes 4 (members * d.b))

/-- Tensor number field of a section that is no tensor. -/
def noSection : Nat := 0xFFFF_FFFF

/-- Version states in ascending tensor number. -/
def versionsInOrder (s : State) (p : Program) : List VState :=
  (recordsInOrder p).filterMap fun x => versionOf s x.1

def contextSections (s : State) (p : Program) : List Section :=
  ((persistentTensors p).map (persistentSection s p)) ++ ((versionsInOrder s p).map (versionSection s p)) ++
    [{ tensor := noSection, kind := 2, fmt := 0, count := stateCount p, body := wordBytes (stateWords s p) },
     { tensor := noSection, kind := 3, fmt := 0, count := (recordsInOrder p).length, body := wordBytes (epochWords s p) },
     { tensor := noSection, kind := 4, fmt := 0, count := 1, body := cursorBody s p }]

/-- The block tensor descriptors a context reads, with their tensor numbers. -/
def contextBlocks (s : State) (p : Program) : List (Nat × BlockDesc) :=
  ((persistentTensors p).filterMap fun t =>
    ((slotsOf p .block).find? fun x => (parseBlock x.2).tensor == t).map fun x => (t, parseBlock x.2)) ++
    (versionsInOrder s p).map fun v => ((parseVersion (descOf p v.record)).tensor, slotBlock p v (homeSlot v))

/-- The first block of a tensor that fails its checks. The MCP reads by address, so no refetch can mend it (R81, R82). -/
def tensorFault (rd : Reader) (d : BlockDesc) : Option Skew :=
  (List.range (ceilDiv d.n 256)).findSome? fun sp =>
    ((rangeFrom (256 * sp) (min 256 (d.n - 256 * sp))).findSome? fun b => match readBlock rd d b with
      | .ok _ => none
      | .error e => some e) <|> checkSpan rd d sp

/-- The first block that a context of the program cannot hold, with its tensor (R81). -/
def contextFault (s : State) (p : Program) : Option (Nat × Skew) :=
  (contextBlocks s p).findSome? fun x => (tensorFault (peek s mcpUnit) x.2).map fun e => (x.1, e)

/-! ### Images (R218) -/

/-- Section bodies with their offsets, each at a multiple of 64. -/
def placeSections : Nat → List Section → List (Nat × Section)
  | _, [] => []
  | off, x :: xs =>
    let o := roundUp 64 off
    (o, x) :: placeSections (o + x.body.length) xs

/-- An image of a magic, a step, a logical digest and sections. -/
def buildImage (magic : Nat) (step : Word64) (digest : List Byte) (xs : List Section) : List Byte :=
  let start := 128 + 32 * xs.length
  let placed := placeSections start xs
  let entries := placed.flatMap fun x => leBytes 4 x.2.tensor ++ leBytes 1 x.2.kind ++ leBytes 1 x.2.fmt ++ leBytes 2 0 ++
    leBytes 8 x.2.count ++ leBytes 8 x.1 ++ leBytes 8 x.2.body.length
  let rest := placed.foldl (fun img x => padTo (x.1 - 128) img ++ x.2.body) entries
  let header := leBytes 4 magic ++ leBytes 4 0 ++ leBytes 8 step.toNat ++ padTo 32 digest ++ leBytes 4 xs.length ++ sm3 rest
  padTo 128 header ++ rest

def contextMagic : Nat := 0x5854_434B
def journalMagic : Nat := 0x4C4E_524A

def imageDigest (img : List Byte) : List Byte := sub img 52 32
def imageStep (img : List Byte) : Nat := field img 8 8

/-- The sections of an image. -/
def imageSections (img : List Byte) : List Section :=
  (List.range (field img 48 4)).map fun i =>
    let e := sub img (128 + 32 * i) 32
    { tensor := field e 0 4, kind := field e 4 1, fmt := field e 5 1, count := field e 8 8,
      body := sub img (field e 16 8) (field e 24 8) }

/-- Length of an image, as its section entries give it. -/
def imageLength (img : List Byte) : Nat :=
  (List.range (field img 48 4)).foldl (fun m i =>
    let e := sub img (128 + 32 * i) 32
    max m (field e 16 8 + field e 24 8)) (128 + 32 * field img 48 4)

def logicalDigest (s : State) : List Byte := (s.program.map (·.hdr.digest)).getD []

def contextImage (s : State) (p : Program) : List Byte := buildImage contextMagic s.step p.hdr.digest (contextSections s p)

/-! ### Refusals (R219, R353) -/

/-- Whether sections are those the program declares, by tensor number, kind and element count, in whatever order. -/
def sectionsMatch (mine theirs : List Section) : Bool :=
  mine.length == theirs.length && mine.all fun x => theirs.any fun y =>
    x.tensor == y.tensor && x.kind == y.kind && x.count == y.count

/-- Whether a cursor's catalogue digest, N and D × B are the loaded descriptors'. -/
def cursorMatches (s : State) (p : Program) (xs : List Section) : Bool :=
  match xs.find? (·.kind == 4) with
  | none => false
  | some x => sub x.body 8 16 == sub (cursorBody s p) 8 16

/-- The reason of R219 a context is refused for, 0 when it is taken. An image of another magic is refused as one whose digest
does not match (DESIGN CHOICE, log 41). `magic` tells a context from a journal. -/
def imageRefusal (s : State) (p : Program) (magic : Nat) (img : List Byte) : Nat :=
  if field img 0 4 ≠ magic ∨ sm3 (img.drop 128) ≠ imageDigest img then 1
  else if sub img 16 32 ≠ p.hdr.digest then 2
  else
    let xs := (imageSections img).filter fun x => magic == contextMagic || decide (x.kind ≤ 4)
    if !sectionsMatch (contextSections s p) xs ∨ !cursorMatches s p xs then 3 else 0

/-! ### Restoring (R219, R235, R253) -/

def restorePlain (s : State) (p : Program) (x : Section) : State :=
  match ((slotsOf p .plain).map fun d => parsePlain d.2).find? (·.tensor == x.tensor) with
  | none => s
  | some d =>
    let n := fmtBytes (fmtOf d.fmt)
    let (es, c, k) := plainParts p d (layoutOfTensor p x.tensor)
    let s := es.zipIdx.foldl (fun s a => poke s a.1 (sub x.body (n * a.2) n)) s
    if k = 0 then s else poke s c (sub x.body (n * es.length) k)

/-- A versioned tensor goes into slot (epoch mod 2) as home; the other slot is empty. -/
def restoreVersion (s : State) (p : Program) (v : VState) (x : Section) : State :=
  let r := parseVersion (descOf p v.record)
  let epoch := tokenValue s v.unit r.epochToken
  let d := { parseBlock (descOf p (r.slotDesc epoch)) with fmt := x.fmt }
  let s := placeBlocks s d (copyLayout p v.record epoch) x.body
  updVersion s v.record fun v =>
    let v := v.setSlot epoch { tag := BitVec.ofNat 16 epoch, fmt := x.fmt, cond := .home }
    { v.setSlot (epoch + 1) { tag := 0, fmt := x.fmt, cond := .empty } with spans := [], last := none }

def restoreBlock (s : State) (p : Program) (x : Section) : State :=
  match s.versions.find? fun v => (parseVersion (descOf p v.record)).tensor == x.tensor with
  | some v => restoreVersion s p v x
  | none => match (slotsOf p .block).find? fun d => (parseBlock d.2).tensor == x.tensor with
    | none => s
    | some d => placeBlocks s (parseBlock d.2) (layoutOfTensor p x.tensor) x.body

def restoreSection (p : Program) (step : Nat) (s : State) (x : Section) : State :=
  match x.kind with
  | 0 => restorePlain s p x
  | 1 => restoreBlock s p x
  | 2 => restoreState s p step (bytesWords (x.body.length / 8) x.body)
  | _ => s

/-- Sequencers at the start of a step: streams at their first instruction, nothing in flight. -/
def freshSeq (q : SeqUnit) : SeqUnit := { q with posF := (0, 0), posB := (0, 0), posU := (0, 0), flight := [] }

/-- The beat state of a program that has not started: no halting flags, no faults (R309). -/
def freshBeat (b : Beat) : Beat := { epoch := b.epoch, members := b.members, late := b.late }

/-- What the sections of an image make of the program: every section in its placement, the step, the tokens; the ingest
buffers are discarded (R352), and nothing of an unfinished step stays. -/
def restoreImage (s : State) (p : Program) (img : List Byte) : State :=
  let step := imageStep img
  let xs := imageSections img
  let s := freshTokens { s with step := BitVec.ofNat 64 step, seqs := s.seqs.map freshSeq } p step
  let ep := ((xs.find? (·.kind == 3)).map fun x => bytesWords (x.body.length / 8) x.body).getD []
  let s := restoreEpochs s p ep
  let s := dropFetches (xs.foldl (restoreSection p step) s)
  let s := dropWithheld (clearStepCounts s)
  { s with
    beat := freshBeat s.beat, gates := [], side := [], ingest := {}
    reduce := { s.reduce with tags := [] }
    scales := { s.scales with watchCounts := [] }
    fabric := { s.fabric with arrivals := hostArrivals s } }

/-! ### The commands (R384) -/

/-- The events of a block that SAVE cannot read (R83, R452). The program stays Paused (R215). -/
def saveFault (s : State) (tensor : Nat) (e : Skew) : State := blockFault s 0xFFFF tensor e.b e.cause e.expected e.received

/-- Regions of a block tensor. -/
def blockReads (d : BlockDesc) : List (Nat × Nat) :=
  let spans := ceilDiv d.n 256
  [(d.data, d.n * slotBytes d.bfmt), (d.scale, 2 * d.n)] ++
    (if isBlocked d.bfmt then [] else [(d.dir, 8 * spans), (d.side, 4 * d.capacity * spans)])

/-- The plain tensors, bump tables and segment records of a context, where they lie in memory; a bump table at another module
is held here (log 99). -/
def contextPlaces (s : State) (p : Program) : List (Nat × Nat) :=
  (((slotsOf p .plain).filter fun x => (persistentTensors p).contains (parsePlain x.2).tensor).map fun x =>
    ((parsePlain x.2).base, plainBytes p x.1)) ++
    (((trackDescs p).filter fun d => isLocal s (nodeOf d.bump)).map fun d => (d.bump, d.positions)) ++
    (bucketDescs p).map fun b => (b.segTable, 32 * b.segments)

/-- What is read of memory for a context: of block tensors what their blocks take (R66, R86). -/
def contextReads (s : State) (p : Program) : List (Nat × Nat) :=
  ((contextBlocks s p).flatMap fun x => blockParts (peek s mcpUnit) x.2 (List.range x.2.n)) ++ contextPlaces s p

/-- Those reads on lost devices are reconstructions (R327). -/
def chargeContext (s : State) (rs : List (Nat × Nat)) : State := rs.foldl (fun s r => chargeAt s r.1 r.2) s

/-- The state in which what a command has fetched stands for what the MCP reads at other modules. -/
def asMcp (s : State) (c : Cmd) : State :=
  { s with fabric := { s.fabric with arrivals :=
      (mcpUnit, ((s.fabric.arrivals.find? (·.1 == cmdKey c)).map (·.2)).getD []) :: s.fabric.arrivals } }

/-- A command gathers ranges of memory, which may hang on what it has gathered: it ends with status 0x07 where an access fails,
asks other modules for what is missing, and waits for that and for writes before it to its stripes (R13, R324, R383). -/
def gatherReads (s : State) (c : Cmd) (reads : State → List (Nat × Nat)) : Got × State :=
  let v := asMcp s c
  let rs := (reads v).filter fun r => decide (0 < r.2)
  if (firstFailure v mcpUnit rs).isSome then (.fail 7, s)
  else
    let missing := notYet v mcpUnit rs
    if missing.isEmpty then
      (if rs.any fun r => isLocal s (nodeOf r.1) && !(stripesHeld s (spaceOf r.1) (offsetOf r.1) r.2).isEmpty then .wait else .bytes [], s)
    else if outstanding s (.data c) then (.wait, s)
    else
      let (st, s) := (missing.filter fun r => isRemote s r.1).foldl (fun r x => if r.1 ≠ 0 then r else askData r.2 c x.1 x.2) (0, s)
      (if st = 0 then .wait else .fail 7, s)

/-- SAVE writes a logical context image of the Paused program. An access that fails ends it with status 0x07; a block that fails
its checks stops it (R13, R81, R83). -/
def execSave (c : Cmd) (s : State) : Host.Outcome State Fault Refusal :=
  command s c 0x0106 fun s =>
    let kind := arg c 24 1
    gated s c 1 true true [.paused] (decide (kind ≤ 1) && restZero c [(16, 9), (32, 8)]) fun s =>
      match s.program with
      | none => done s c 0x04
      | some p =>
        match gatherReads s c fun v => contextReads v p with
        | (.wait, s) => s
        | (.fail st, s) => done (dropArrivals s (cmdKey c)) c st
        | (.bytes _, s) =>
          let v := asMcp s c
          let s := dropArrivals s (cmdKey c)
          let img := contextImage v p
          if arg c 32 8 < img.length then done s c 0x05
          else match contextFault v p with
          | some (t, e) => done (saveFault s t e) c 0x05
          | none =>
            let d := leNat ((imageDigest img).take 8)
            finishData (chargeContext s (contextReads v p)) c kind (arg c 16 8) img 0 img.length d fun s =>
              post s 0x0805 (packed [(4, s.step.toNat), (8, img.length), (8, d)])

/-- An image read from where a command names it: the header, the section entries, then all of it. -/
def readImage (s : State) (c : Cmd) (kind addr : Nat) (host : HostRead) : Got × State :=
  match readData s c kind addr 128 host with
  | (.bytes head, s) => match readData s c kind addr (128 + 32 * field head 48 4) host with
    | (.bytes dir, s) => readData s c kind addr (imageLength dir) host
    | r => r
  | r => r

/-- The block tensors that an image's sections go to, with their bodies: a versioned tensor's is the slot of its saved epoch. -/
def imageBlocks (p : Program) (img : List Byte) : List (Section × BlockDesc × Layout) :=
  let xs := imageSections img
  let ep := ((xs.find? (·.kind == 3)).map fun x => bytesWords (x.body.length / 8) x.body).getD []
  let epoch (t : Nat) : Nat :=
    (((List.range (ep.length / 2)).find? fun i => ep.getD (2 * i) 0 == t).map fun i => ep.getD (2 * i + 1) 0).getD 0
  (xs.filter (·.kind == 1)).filterMap fun x =>
    match (recordsInOrder p).find? fun r => r.2.tensor == x.tensor with
    | some r => some (x, { parseBlock (descOf p (r.2.slotDesc (epoch x.tensor))) with fmt := x.fmt },
        copyLayout p r.1 (epoch x.tensor))
    | none => ((slotsOf p .block).find? fun d => (parseBlock d.2).tensor == x.tensor).map fun d =>
        (x, parseBlock d.2, layoutOfTensor p x.tensor)

/-- The first block of an image that fails its checks, with its tensor (R81). -/
def imageFault (p : Program) (img : List Byte) : Option (Nat × Skew) :=
  (imageBlocks p img).findSome? fun x =>
    let rd : Reader := fun a k => padTo k ((x.1.body.drop a).take k)
    (tensorFault rd (bodyDesc x.2.1.fmt (logicalBlocks x.2.2 x.2.1.n))).map fun e => (x.1.tensor, e)

/-- Whether a range can be written: this module's memory line by line, another module's when there is a way to it (R13, R293). -/
def placeable (s : State) (r : Nat × Nat) : Bool :=
  if isLocal s (nodeOf r.1) then
    (linesOf r.1 r.2).all fun l => (writeLocal s (spaceOf l.1) (offsetOf l.1) (List.replicate l.2 0)).1 == 0
  else (egress s (nodeOf r.1)).isSome

/-- Whether every region that an image's sections go to can be written (R13, R219). -/
def imagePlaceable (s : State) (p : Program) (img : List Byte) : Bool :=
  (((imageBlocks p img).flatMap fun x => blockReads x.2.1) ++ contextPlaces s p).all (placeable s)

/-- The requests that a command's writes have made wait for their acknowledgments as the command's data (R383). -/
def ownWrites (before : State) (c : Cmd) (s : State) : State :=
  { s with fabric := { s.fabric with txns := s.fabric.txns.map fun t =>
      if t.owner == .nobody && !(before.fabric.txns.any fun u => u.tid == t.tid) then { t with owner := .data c } else t } }

/-- A restored program is Paused, or Loaded when it was Loaded (R219); the command completes once other modules have their
bytes (R383). -/
def restored (s : State) (c : Cmd) (p : Program) (img : List Byte) : State :=
  let t := ownWrites s c (restoreImage s p img)
  let t := if t.pstate = .halted then setPState t .paused 0 else t
  if outstanding t (.data c) then awaits t c 0 0 0 else done t c 0

/-- RESTORE checks an image and writes it into the loaded program's placement, or refuses it. A region that cannot be written
ends it with status 0x07, and a block that fails its checks with 0x05, before anything is written (R13, R81; log 41). -/
def execRestore (c : Cmd) (host : HostRead) (s : State) : Host.Outcome State Fault Refusal :=
  command s c 0x0107 fun s =>
    let kind := arg c 24 1
    gated s c 1 true true [.loaded, .paused, .halted] (decide (kind ≤ 1) && restZero c [(16, 9)]) fun s =>
      match s.program with
      | none => done s c 0x04
      | some p =>
        match readImage s c kind (arg c 16 8) host with
        | (.wait, s) => s
        | (.fail st, s) => done (dropArrivals s (cmdKey c)) c st
        | (.bytes img, s) =>
          let s := dropArrivals s (cmdKey c)
          let why := imageRefusal s p contextMagic img
          if why ≠ 0 then complete (post s 0x0806 (packed [(1, why)])) c 0x05 why 0 0
          else if !imagePlaceable s p img then done s c 0x07
          else match imageFault p img with
          | some (t, e) => done (saveFault s t e) c 0x05
          | none => restored s c p img

end Sys2Proof.Machine
end

