-- ==== Sys2Proof/Machine/Signals.lean ====
section
/-! DEFINITION. Signal frames from other modules (R201, R283, R302, R309). -/

namespace Sys2Proof.Machine

open Sys2Proof

/-- The effect of a signal payload on the token it names; a counter takes the sender's step parity, and a sender's step
other than the receiver's current or next one is a token fault (R201, R302). That a signal for a unit without a stage program
has no effect is a DESIGN CHOICE (log 113). -/
def takeSignal (s : State) (p : List Byte) : State :=
  let u := field p 0 2
  let unit := bitsOf u 0 12
  let mode := bitsOf u 12 2 + 1
  let tok := field p 2 1
  let n := if mode = 1 then field p 3 1 else 1
  let step := field p 4 4
  match seqOf s unit with
  | none => s
  | some q =>
    let ahead := (step + 2 ^ 32 - s.step.toNat % 2 ^ 32) % 2 ^ 32
    if (tokenOf q tok).mode = 1 ∧ 1 < ahead then tokenFault s unit tok 1
    else applySignal s unit tok mode n (step % 2)

/-- A signal that reaches a module with no program Running, or in compute reset, is discarded and counted (R302, R309). -/
def execSignalFrame (x : Rx) (s : State) : Host.Outcome State Fault Refusal :=
  .next (arrive s x 0x07 fun s f =>
    if s.pstate ≠ .running ∨ inReset s then discard s x.port.val 9 1
    else takeSignal (logInbound s f.src.toNat 2 0 f.payload) f.payload)

end Sys2Proof.Machine
end

