-- ==== Sys2Proof/Machine/Journal.lean ====
section
/-! DEFINITION. The replay journal (R242 to R244): arming, what a step records, and a replay. The kind 7 encoding, the
tensors of the digest table and a journal longer than its capacity are the model's choices (log 45). -/

namespace Sys2Proof.Machine

open Sys2Proof

/-! ### Huddle messages and the combined record (R237, section kind 7; log 45) -/

/-- The 64-byte header (R237). -/
def huddleHeader (h : Huddle) : List Byte :=
  padTo 64 (leBytes 8 h.step.toNat ++ leBytes 8 h.stepCompl.toNat ++ leBytes 4 h.ready ++ leBytes 4 h.abortFlags.toNat ++
    leBytes 2 h.abortNode.toNat ++ leBytes 2 h.members ++ leBytes 4 h.pause.toNat)

/-- A message's header as it is read from its bytes; its body is `h`'s (log 33). -/
def withHeader (msg : List Byte) (h : Huddle) : Huddle :=
  { h with
    step := BitVec.ofNat 64 (field msg 0 8), stepCompl := BitVec.ofNat 64 (field msg 8 8), ready := field msg 16 4
    abortFlags := BitVec.ofNat 32 (field msg 20 4), abortNode := BitVec.ofNat 16 (field msg 24 2)
    members := field msg 26 2, pause := BitVec.ofNat 32 (field msg 28 4) }

/-- The body as words. -/
def huddleWords (h : Huddle) : List Nat :=
  h.digests.length :: h.digests.flatMap (fun d => [d.1, d.2.1.toNat, d.2.2.toNat]) ++
    h.tracks.length :: h.tracks.flatMap (fun t => t.tensor :: trackStatWords t) ++
    h.layers.length :: h.layers.flatMap layerStatWords

/-- The record in a journal: the header of R237 and the body's words. -/
def huddleRecord (h : Huddle) : List Byte := huddleHeader h ++ wordBytes (huddleWords h)

def readDigests : Nat → List Nat → List (Nat × Word32 × Word32) × List Nat
  | 0, ws => ([], ws)
  | n + 1, ws =>
    let g (i : Nat) : Nat := ws.getD i 0
    let (ds, rest) := readDigests n (ws.drop 3)
    ((g 0, BitVec.ofNat 32 (g 1), BitVec.ofNat 32 (g 2)) :: ds, rest)

def readTracks : Nat → List Nat → List TrackStat × List Nat
  | 0, ws => ([], ws)
  | n + 1, ws =>
    let g (i : Nat) : Nat := ws.getD i 0
    let (hit, rest) := takeList (ws.drop 5)
    let (ts, rest) := readTracks n rest
    ({ tensor := g 0, amax := BitVec.ofNat 16 (g 1), codeBits := g 2, overflowed := hit, overflowCut := g 3 != 0,
       written := g 4 != 0 } :: ts, rest)

def readHuddle (b : List Byte) : Huddle :=
  let ws := bytesWords ((b.length - 64) / 8) (b.drop 64)
  let (nd, rest) := takeWord ws
  let (ds, rest) := readDigests nd rest
  let (nt, rest) := takeWord rest
  let (ts, rest) := readTracks nt rest
  let (nl, rest) := takeWord rest
  let (ls, _) := readLayerStats nl rest
  withHeader b
    { step := 0, stepCompl := 0, ready := 0, abortFlags := 0, abortNode := 0, members := 0, pause := 0, digests := ds,
      tracks := ts, layers := ls }

/-! ### The digest table (section kind 8; log 45) -/

/-- The tensor a PASS writes, with its placement; none for carry words and staged gradients. -/
def passWritten (p : Program) (i : PInstr) : Option (Nat × Operand) :=
  let d := parseProduct (descOf p i.desc)
  let o := parseOut (descOf p d.out)
  let l := layoutOf p d.layoutOut
  match o.fmt with
  | 4 => let b := parseBlock (descOf p (o.dest % 65536)); some (b.tensor, .block b l)
  | 5 | 6 => none
  | f => some (o.tensor, .plain { base := o.dest, tensor := o.tensor, fmt := f } l)

/-- The rows a Row Engine instruction writes. -/
def rowWritten (p : Program) (i : PInstr) : Option (Nat × Operand) :=
  let d := parseRow (descOf p i.desc)
  some (d.tensor, .plain { base := d.dst, tensor := d.tensor, fmt := bitsOf d.formats 2 2 } (layoutOfTensor p d.tensor))

/-- The master values, moments and copies an UPDATE writes. -/
def updateWritten (s : State) (p : Program) (i : PInstr) : List (Nat × Operand) :=
  let u := parseUpdate (descOf p i.desc)
  let plain (slot : Nat) : Nat × Operand :=
    let d := parsePlain (descOf p slot)
    (d.tensor, .plain d (layoutOfTensor p d.tensor))
  let block (slot : Nat) : List (Nat × Operand) :=
    if slot = 0xFFFF then []
    else let b := parseBlock (descOf p slot); [(b.tensor, .block b (layoutOfTensor p b.tensor))]
  let copy (record : Nat) : List (Nat × Operand) :=
    match versionOf s record with
    | none => []
    | some v =>
      let n := homeSlot v
      [((parseVersion (descOf p record)).tensor, .block (slotBlock p v n) (copyLayout p record n))]
  plain u.master :: (block u.m1 ++ block u.m2 ++ copy u.fwd ++ copy u.trans)

/-- The gradient tensor a BUCKET finish writes. -/
def bucketWritten (p : Program) (i : PInstr) : Nat × Operand :=
  let b := parseBucket (descOf p i.desc)
  (b.tensor, .plain { base := b.grad, tensor := b.tensor, fmt := 3 } (layoutOfTensor p b.tensor))

/-- The tensor a VE instruction writes; none for staged gradients. -/
def veWritten (p : Program) (i : PInstr) : Option (Nat × Operand) :=
  match veOpOf p i with
  | none => none
  | some op =>
    let a := op.dst.base.toNat
    let l := layoutOf p op.lay
    let n := fmtBytes op.dst.fmt
    let plain (base fmt : Nat) : Option (Nat × Operand) :=
      some (op.tensor, .plain { base := base, tensor := op.tensor, fmt := fmt } l)
    let code := match op.dst.fmt with
      | .k8f => 1
      | .k8b => 2
      | .b32 => 3
      | _ => 0
    match op.fn with
    | .toBlock => let b := parseBlock (descOf p op.slot); some (b.tensor, .block b (layoutOfTensor p b.tensor))
    | .toG16 => none
    | .fromBlock => plain a code
    | .tieSum | .sum | .flagRead => plain a 3
    | .toInt | .fromCarry => plain (a - 4 * op.first) 3
    | _ => plain (a - n * op.first) code

/-- The tensors whose regions a move writes into. -/
def moveWritten (s : State) (p : Program) (i : PInstr) : List (Nat × Operand) :=
  let m := parseMove (descOf p i.desc)
  let hit (slot : Nat) : Bool := (regionsOf p slot).any fun r => overlap s r { slot := slot, addr := m.dst, len := m.len }
  ((slotsOf p .block).filter fun x => hit x.1).map (fun x =>
    let b := parseBlock x.2
    (b.tensor, .block b (layoutOfTensor p b.tensor))) ++
  ((slotsOf p .plain).filter fun x => hit x.1).map fun x =>
    let d := parsePlain x.2
    (d.tensor, .plain d (layoutOfTensor p d.tensor))

/-- The tensor a CKPT load puts back: codes, or the block tensor of a narrowed checkpoint, at its source base (log 37). -/
def ckptWritten (p : Program) (i : PInstr) : List (Nat × Operand) :=
  if !bitAt i.operand 0 then []
  else
    let d := parseCkpt (descOf p i.desc)
    let l := layoutOfTensor p d.tensor
    if d.mode = 2 then [(d.tensor, .block d.loaded l)]
    else [(d.tensor, .plain { base := d.src, tensor := d.tensor, fmt := if d.k16 then 0 else 1 } l)]

/-- Tensors that a step writes, in ascending tensor number. -/
def writtenTensors (s : State) (p : Program) : List (Nat × Operand) :=
  let all := (allInstrs p).flatMap fun x => match x.2.cls with
    | 2 => (passWritten p x.2).toList
    | 3 => (veWritten p x.2).toList
    | 5 => moveWritten s p x.2
    | 6 => ckptWritten p x.2
    | 4 => (rowWritten p x.2).toList
    | 7 => updateWritten s p x.2
    | 8 => if x.2.bucketKind = 1 then [bucketWritten p x.2] else []
    | _ => []
  let first := all.foldl (fun (l : List (Nat × Operand)) x => if l.any (·.1 == x.1) then l else l ++ [x]) []
  first.mergeSort fun a b => decide (a.1 ≤ b.1)

/-- The first block among tensors that fails its checks, with its tensor (R81). -/
def digestFault (s : State) (ts : List (Nat × Operand)) : Option (Nat × Skew) :=
  ts.findSome? fun t => match t.2 with
    | .plain _ _ => none
    | .block d _ => (tensorFault (peek s mcpUnit) d).map fun e => (t.1, e)

/-- Those tensors' reads on lost devices are reconstructions (R327). -/
def chargeDigests (s : State) (ts : List (Nat × Operand)) : State :=
  (ts.flatMap fun t => match t.2 with
    | .plain d l => [(d.base, l.elements * fmtBytes (fmtOf d.fmt))]
    | .block d _ => blockReads d).foldl (fun s r => chargeAt s r.1 r.2) s

/-- SM3 digest of a tensor's logical image (R218). -/
def tensorDigest (s : State) (p : Program) (t : Nat × Operand) : List Byte :=
  let rd := peek s mcpUnit
  sm3 (match t.2 with
    | .plain d l => plainImage rd p d l
    | .block d l => (blockSection rd t.1 d l).body)

def digestTable (s : State) (p : Program) : List (Nat × List Byte) := (writtenTensors s p).map fun t => (t.1, tensorDigest s p t)

def digestEntry (d : Nat × List Byte) : List Byte := leBytes 4 d.1 ++ List.replicate 12 0 ++ d.2

def readTable (b : List Byte) : List (Nat × List Byte) :=
  (List.range (b.length / 48)).map fun i => (field b (48 * i) 4, sub b (48 * i + 16) 32)

/-! ### The inbound log (section kind 6) -/

def inboundBytes (e : Inbound) : List Byte :=
  leBytes 2 e.source ++ leBytes 1 e.kind ++ List.replicate 5 0 ++ leBytes 8 e.addr ++ leBytes 4 e.data.length ++
    leBytes 2 e.beat ++ [0, 0] ++ leBytes 8 e.signals ++ padTo (roundUp 64 e.data.length) e.data

/-- Entries of a log; `n` bounds them. -/
def readLog : Nat → List Byte → List Inbound
  | 0, _ => []
  | n + 1, b =>
    if b.length < 32 then []
    else
      let k := field b 16 4
      { source := field b 0 2, kind := field b 2 1, addr := field b 8 8, beat := field b 20 2, signals := field b 24 8,
        data := sub b 32 k } :: readLog n (b.drop (32 + roundUp 64 k))

/-! ### The patch tensors (section kind 5) -/

/-- Bytes of the samples of a step in a descriptor's ring. -/
def patchBody (s : State) (raw : List Byte) : List Byte :=
  let d := parseIngest raw
  (rangeFrom d.b0 d.bs).flatMap fun b => readBytes s.mem.buffers (sampleBase s raw s.step.toNat b) (sampleStride raw)

def patchSections (s : State) (p : Program) : List Section :=
  (slotsOf p .ingest).map fun x =>
    let d := parseIngest x.2
    { tensor := d.view, kind := 5, fmt := bitsOf d.shape 6 2, count := d.bs, body := patchBody s x.2 }

/-- The samples of the journal's step are put back and are complete (R244). -/
def restorePatch (s : State) (p : Program) (x : Section) : State :=
  match (slotsOf p .ingest).find? fun d => (parseIngest d.2).view == x.tensor with
  | none => s
  | some (slot, raw) =>
    let d := parseIngest raw
    (rangeFrom d.b0 d.bs).foldl (fun s b =>
      let st := sampleStride raw
      let m := writeBytes s.mem.buffers (sampleBase s raw s.step.toNat b) (sub x.body (st * (b - d.b0)) st)
      { s with
        mem := { s.mem with buffers := m }
        ingest := { s.ingest with complete := s.ingest.complete ++ [{ slot := slot, step := s.step, b := b }] } }) s

/-! ### Recording (R243) -/

/-- The journal begins with its step: the state as it stands, no signals sent yet, an empty log. A block that it cannot
read is a fault, and there is no journal (R83). -/
def journalBegin (s : State) : State :=
  let s := { s with journal := { s.journal with signals := 0 } }
  match s.journal.armed, s.program with
  | some (n, _, _), some p =>
    if n = s.step then match contextFault s p with
      | some (t, e) => blockFault s 0xFFFF t e.b e.cause e.expected e.received
      | none => { chargeContext s (contextReads s p) with journal := { s.journal with
        recording := true, log := [], image := buildImage journalMagic s.step p.hdr.digest (contextSections s p) } }
    else s
  | _, _ => s

/-- The sections of a finished journal. -/
def journalSections (s : State) (p : Program) : List Section :=
  let log := s.journal.log.flatMap inboundBytes
  let huddle := (s.beat.combined.map huddleRecord).getD []
  let table := digestTable s p
  imageSections s.journal.image ++ patchSections s p ++
    [{ tensor := noSection, kind := 6, fmt := 0, count := s.journal.log.length, body := log },
     { tensor := noSection, kind := 7, fmt := 0, count := 1, body := huddle },
     { tensor := noSection, kind := 8, fmt := 0, count := table.length, body := table.flatMap digestEntry }]

/-- No journal is armed. -/
def disarm (s : State) : State :=
  { s with journal := { s.journal with armed := none, recording := false, log := [], image := [] } }

/-- The recorded step ends: the journal is written at its base and reported (R243). A written block that it cannot read is a
fault, and there is no journal (R83; log 45). -/
def journalEnd (s : State) : State :=
  match s.journal.recording, s.journal.armed, s.program with
  | true, some (_, base, capacity), some p =>
    match digestFault s (writtenTensors s p) with
    | some (t, e) => blockFault (disarm s) 0xFFFF t e.b e.cause e.expected e.received
    | none =>
      let img := buildImage journalMagic s.step p.hdr.digest (journalSections s p)
      let s := disarm (poke (chargeDigests s (writtenTensors s p)) base.toNat (img.take capacity))
      post s 0x0904 (packed [(4, s.step.toNat), (8, img.length), (8, leNat ((imageDigest img).take 8))])
  | _, _, _ => s

/-! ### Arming (R242) -/

/-- The module's estimate of a journal's size: its sections now, with an empty log. -/
def journalEstimate (s : State) (p : Program) : Nat :=
  let xs := contextSections s p ++ patchSections s p
  (buildImage journalMagic s.step p.hdr.digest xs).length + 96 + 48 * (writtenTensors s p).length

/-- Whether the region of a journal overlaps one of the program. -/
def journalOverlaps (s : State) (p : Program) (base n : Nat) : Bool :=
  (programRegions p).any fun r => overlap s r { slot := 0, addr := base, len := n }

/-- Whether step `n` has begun. -/
def stepBegun (s : State) (n : Nat) : Bool :=
  decide (n < s.step.toNat) || (n == s.step.toNat && s.pstate == .running && s.beat.started)

def execJournalArm (c : Cmd) (s : State) : Host.Outcome State Fault Refusal :=
  command s c 0x0204 fun s =>
    let n := arg c 16 8
    let base := arg c 24 8
    let capacity := arg c 32 8
    gated s c 1 true true [.loaded, .running, .paused] (restZero c [(16, 8), (24, 8), (32, 8)]) fun s =>
      match s.program with
      | none => done s c 0x04
      | some p =>
        if !isLocal s (nodeOf base) ∨ spaceOf base ≠ 1 ∨ !dramPopulated s (offsetOf base) (max 1 capacity) then done s c 0x07
        else if stepBegun s n ∨ capacity < journalEstimate s p ∨ journalOverlaps s p base capacity then done s c 0x05
        else done { s with journal := { s.journal with
          armed := some (BitVec.ofNat 64 n, BitVec.ofNat 64 base, capacity) } } c 0

/-! ### Replaying (R244) -/

/-- The entry's effect, as it had when it arrived. -/
def applyEntry (s : State) (e : Inbound) : State :=
  match e.kind with
  | 2 => takeSignal s e.data
  | 3 => match parseSegs 1 e.data with
    | g :: _ => match bucketOfTag s g.hdr.tag with
      | some b => if (segmentOf (tagOf s b.tag) g.hdr.number).done then s else takeResult s b g
      | none => s
    | [] => s
  | _ => (writeLocal s (spaceOf e.addr) (offsetOf e.addr) e.data).2

/-- The entries whose count of signals has been sent are applied in recorded order; `n` bounds them. -/
def applyInbound : Nat → State → State
  | 0, s => s
  | n + 1, s =>
    match s.journal.replay with
    | none => s
    | some r => match r.log with
      | [] => s
      | e :: rest =>
        if e.signals ≤ s.journal.signals then
          applyInbound n (applyEntry { s with journal := { s.journal with replay := some { r with log := rest } } } e)
        else s

/-- Every entry that is due. -/
def replayInbound (s : State) : State := applyInbound ((s.journal.replay.map (·.log.length)).getD 0) s

/-- The first tensor, in ascending number, whose digest differs from the table. -/
def firstDifference (s : State) (p : Program) (table : List (Nat × List Byte)) : Option Nat :=
  let mine := digestTable s p
  (table.find? fun d => (mine.find? (·.1 == d.1)).map (·.2) != some d.2).map (·.1)

/-- A replay ends: the digests are compared, the result posted and the command completed, and the program is Halted. A block
that cannot be read is a fault, and its tensor differs (R81, R83). -/
def replayEnd (s : State) : State :=
  match s.journal.replay, s.program with
  | some r, some p =>
    let bad := digestFault s (writtenTensors s p)
    let diff := match bad with
      | some x => some (((firstDifference s p r.digests).map fun t => min t x.1).getD x.1)
      | none => firstDifference s p r.digests
    let s := match bad with
      | some (t, e) => blockFault s 0xFFFF t e.b e.cause e.expected e.received
      | none => chargeDigests s (writtenTensors s p)
    let s := { s with journal := { s.journal with replay := none } }
    let s := post s 0x0905 (packed [(4, s.step.toNat), (4, if diff.isSome then 1 else 0), (4, diff.getD noSection)])
    let s := done s r.cmd 0
    let s := if s.pstate = .halted then s else setPState s .halted 0x0905
    { s with beat := { s.beat with started := false, haltCause := none } }
  | _, _ => s

/-- What a replay needs of a journal beyond a context's sections. -/
def journalTail (img : List Byte) : Option (Section × Section × Section) :=
  let xs := imageSections img
  match xs.find? (·.kind == 6), xs.find? (·.kind == 7), xs.find? (·.kind == 8) with
  | some l, some h, some t => some (l, h, t)
  | _, _, _ => none

/-- The replay starts: the state of the step's start, the recorded samples, log and huddle, on this module's own timebase. -/
def replayStart (s : State) (c : Cmd) (p : Program) (img : List Byte) (l h t : Section) : State :=
  let r : Replay :=
    { cmd := c, log := readLog (l.body.length / 32) l.body
      huddle := readHuddle h.body, digests := readTable t.body }
  let s := restoreImage { s with journal := { s.journal with replay := some r } } p img
  let s := ((imageSections img).filter (·.kind == 5)).foldl (fun s x => restorePatch s p x) s
  let s := { s with
    journal := { s.journal with replay := some r, signals := 0, recording := false }
    beat := { s.beat with epoch := s.timebase, started := true, stoppage := p.hdr.stoppage } }
  replayInbound s

/-- JOURNAL_REPLAY reads the journal and starts its replay, or refuses it; it completes when its replay-result event is
posted. -/
def execJournalReplay (c : Cmd) (s : State) : Host.Outcome State Fault Refusal :=
  command s c 0x0205 fun s =>
    gated s c 1 true true [.loaded, .paused, .halted] (restZero c [(16, 8)]) fun s =>
      match s.program with
      | none => done s c 0x04
      | some p =>
        if replaying s then s
        else
          match readImage s c 1 (arg c 16 8) none with
          | (.wait, s) => s
          | (.fail st, s) => done (dropArrivals s (cmdKey c)) c st
          | (.bytes img, s) =>
            let s := dropArrivals s (cmdKey c)
            match (if imageRefusal s p journalMagic img = 0 ∧ BitVec.ofNat 64 (imageStep img) ≠ lastStep then journalTail img else none) with
              | none => done (post s 0x0905 (packed [(4, imageStep img), (4, 2), (4, noSection)])) c 0x05
              | some (l, h, t) =>
                if !imagePlaceable s p img then done s c 0x07
                else match imageFault p img with
                | some (n, e) => done (saveFault s n e) c 0x05
                | none => replayStart s c p img l h t

end Sys2Proof.Machine
end

