-- ==== Sys2Proof/Machine/Huddle.lean ====
section
/-! DEFINITION. The huddle (R236 to R241): contributions, their combination up the whistle tree, the combined record, its
verdict, and the commit. -/

namespace Sys2Proof.Machine

open Sys2Proof

/-! ### Where the step stands -/

def headerOf (s : State) : Option Header := s.program.map (·.hdr)

/-- Whether the module waits for the huddle of the step: the huddle beat has come and nothing is committed (R239). -/
def huddleOpen (s : State) : Bool :=
  s.beat.started && !s.beat.committed && (match headerOf s with
    | some h => decide (h.huddleBeat ≤ s.beat.number)
    | none => false)

/-- Whether an instance at a stream's position, or a later one of the stream, has a beat up to `k`. -/
def unissuedUpTo (g : Stage) (q : SeqUnit) (t : Stream) (k : Nat) : Bool :=
  match nextInst g q t with
  | none => false
  | some (w, p) => decide (p.beatOf w.inst ≤ k) || ((g.body t).drop (w.index + 1)).any fun i => decide (i.beatOf 0 ≤ k)

def streams : List Stream := [.F, .B, .U]

/-- Whether every instance in beats up to `k` is complete (R210, R236). -/
def completeUpTo (s : State) (k : Nat) : Bool :=
  s.seqs.all fun q =>
    (match s.program.bind fun p => stageOf p q.unit with
      | some g => streams.all fun t => !unissuedUpTo g q t k
      | none => true) &&
    q.flight.all fun f => match instrOf s { unit := q.unit, stream := f.stream, index := f.index, inst := f.inst } with
      | some i => decide (k < i.beatOf f.inst)
      | none => true

/-- Whether the last bucket of the step is finished on this module (R236); with no finish instruction, whether the huddle
beat has come. -/
def bucketsFinished (s : State) : Bool :=
  match s.program with
  | none => false
  | some p =>
    let isFinish (i : PInstr) : Bool := i.cls == 8 && i.bucketKind == 1
    if (allInstrs p).any fun x => isFinish x.2 then
      p.stages.all fun g => match seqOf s g.unit with
        | none => true
        | some q => streams.all fun t => (g.body t).zipIdx.all fun x =>
            !isFinish x.1 || (decide (x.2 < (q.pos t).1) && !(q.flight.any fun f => f.stream == t && f.index == x.2))
    else decide (p.hdr.huddleBeat ≤ s.beat.number)

/-! ### Contributions (R236, R237) -/

/-- This module's contribution with given abort flags: a ready vote when they are 0 and every instance up to the huddle beat
is complete, else an abort vote (R236). -/
def ownHuddle (s : State) (p : Program) (flags : Word32) : Huddle :=
  let abort := flags != 0 || !completeUpTo s p.hdr.huddleBeat
  { step := s.step, stepCompl := ~~~s.step, ready := if abort then 0 else 1, abortFlags := flags
    abortNode := if abort then ~~~s.fabric.rcd.node else 0, members := s.beat.members
    pause := if s.scales.layers.any (·.pauseAsked) then 1 else 0
    digests := p.replicas.map fun r => (r.set, settingsDigest s r.set, ~~~settingsDigest s r.set)
    tracks := s.scales.trackers.map fun t => cutTrack t.stat, layers := ownLayers s p }

/-! ### Combination (R237, R238, R140) -/

def max32 (a b : Word32) : Word32 := if a.toNat < b.toNat then b else a
def max64 (a b : Word64) : Word64 := if a.toNat < b.toNat then b else a

/-- Positions merged in ascending order without duplicates; cut beyond 4,095 (R238). -/
def mergePositions (a b : List Nat) : List Nat := b.foldl (fun l x => insertNat x l) a

def combineTrack (a b : TrackStat) : TrackStat :=
  let hit := mergePositions a.overflowed b.overflowed
  let cut := a.overflowCut || b.overflowCut || decide (4095 < hit.length)
  { a with
    amax := BitVec.ofNat 16 (max a.amax.toNat b.amax.toNat), codeBits := max a.codeBits b.codeBits
    overflowed := if cut then [] else hit, overflowCut := cut, written := a.written || b.written }

/-- A shard sum as two Maximum words, the halves of its accumulator word: the replicas of a shard contribute one value, and
every other member 0 (log 46). -/
def combineAcc (a b : Acc) : Acc :=
  let (x, y) := (carryWord a, carryWord b)
  (carryParse (max (x / 2 ^ 32) (y / 2 ^ 32) * 2 ^ 32 + max (x % 2 ^ 32) (y % 2 ^ 32))).getD .nan

def combineAccs (a b : List Acc) : List Acc :=
  (List.range (max a.length b.length)).map fun i => combineAcc (a.getD i Acc.zero) (b.getD i Acc.zero)

/-- One shard's words from two members: flags are OR words, counts Sum words and the shard sums Maximum words. -/
def combineLayer (a b : LayerStat) : LayerStat :=
  { a with
    updated := a.updated || b.updated, skipped := a.skipped || b.skipped
    blocks := a.blocks + b.blocks, escapes := a.escapes + b.escapes
    shadowBlocks := a.shadowBlocks + b.shadowBlocks, shadowEscapes := a.shadowEscapes + b.shadowEscapes
    saturations := a.saturations + b.saturations, elements := a.elements + b.elements
    w2 := combineAcc a.w2 b.w2, d2 := combineAcc a.d2 b.d2
    errNum := combineAccs a.errNum b.errNum, errDen := combineAcc a.errDen b.errDen
    channels := (combineAccs (a.channels.map (·.1)) (b.channels.map (·.1))).zip
      (combineAccs (a.channels.map (·.2)) (b.channels.map (·.2))) }

/-- Lists merged entry by entry: an entry of `b` joins the entry of `a` with its key, or stands at the end. -/
def mergeBy {α : Type} (same : α → α → Bool) (join : α → α → α) (a b : List α) : List α :=
  b.foldl (fun l x => if l.any (same x) then l.map fun y => if same x y then join y x else y else l ++ [x]) a

/-- Two contributions combined field by field. -/
def combineHuddle (a b : Huddle) : Huddle :=
  { step := max64 a.step b.step, stepCompl := max64 a.stepCompl b.stepCompl, ready := a.ready + b.ready
    abortFlags := a.abortFlags ||| b.abortFlags
    abortNode := if a.abortNode.toNat < b.abortNode.toNat then b.abortNode else a.abortNode
    members := max a.members b.members, pause := a.pause ||| b.pause
    digests := mergeBy (fun x y => x.1 == y.1) (fun x y => (x.1, max32 x.2.1 y.2.1, max32 x.2.2 y.2.2)) a.digests b.digests
    tracks := mergeBy (fun x y => x.tensor == y.tensor) combineTrack a.tracks b.tracks
    layers := mergeBy (fun x y => x.layer == y.layer && x.shard == y.shard) combineLayer a.layers b.layers }

/-! ### Messages (R237, R283) -/

/-- A message leaves a port in pieces of the port's largest payload, the last with the end-of-message flag. -/
def sendHuddle (s : State) (p : Fin 12) (h : Huddle) : State :=
  let msg := huddleHeader h ++ Config.huddleBody (huddleWords h)
  let q := s.fabric.ports[p]
  let ps := pieces (maxPayload q) (msg.length / maxPayload q + 1) 0 msg
  ps.foldl (fun s x =>
    let f := mkFrame s 0x0D q.rcd.partner.toNat 0 x.2.length x.1 h.step x.2
    sendOn s p (if msg.length ≤ x.1 + x.2.length then { f with flags := 4 } else f)) s

/-- With this module's contribution and every whistle child's at hand they are combined: sent up, or at the root the
combined record, delivered to every member down the tree. In compute reset, where huddle frames are discarded (R309), only
this module's is waited for. -/
def tryCombine (s : State) : State :=
  match s.beat.huddleOwn with
  | none => s
  | some o =>
    if s.beat.combined.isSome || !(inReset s ||
        (childPorts s).all fun p => s.beat.huddleParts.any (·.1 == p)) then s
    else
      let c := s.beat.huddleParts.foldl (fun h x => combineHuddle h x.2) o
      match parentPort s with
      | some p => sendHuddle s p c
      | none => (childPorts s).foldl (fun s p => sendHuddle s p c) { s with beat := { s.beat with combined := some c } }

/-- The abort flags of a contribution made now: those of the step's faults, and bit [3] when the program is not Running. -/
def voteFlags (s : State) : Word32 := if s.pstate = .running then s.beat.abortFlags else s.beat.abortFlags ||| 8#32

/-- Whether the module has a vote to send: its last bucket is finished, or it has halted in the step, which no bucket of it
will finish (R236, DEDUCED, log 46). A compute reset sends none, but for the abort of a thermal fault, whose flag is bit [5]. -/
def voteDue (s : State) : Bool :=
  s.beat.started && !s.beat.huddleSent && !s.beat.committed &&
    (!inReset s || s.beat.abortFlags.getLsbD 5) &&
    (bucketsFinished s || (s.pstate == .halted && s.beat.halting))

/-- The module enters the huddle of the step and sends its ready or abort contribution (R236); in a replay the recorded
record takes the place of the exchange (R244). -/
def execHuddleEnter (s : State) : Host.Outcome State Fault Refusal :=
  match s.program with
  | none => .next s
  | some p =>
    if !voteDue s then .next s
    else
      let t := statsTaken s
      match s.journal.replay with
      | some r => .next { t with beat := { s.beat with huddleSent := true, combined := some r.huddle } }
      | none => .next (tryCombine { t with
          beat := { s.beat with huddleSent := true, huddleOwn := some (ownHuddle s p (voteFlags s)) } })

/-- The pieces of a message that have come by a port. -/
def piecesOf (s : State) (p : Fin 12) : List Byte := ((s.beat.huddleIn.find? (·.1 == p)).map (·.2)).getD []

def setPieces (s : State) (p : Fin 12) (msg : List Byte) : State :=
  let rest := s.beat.huddleIn.filter (·.1 != p)
  { s with beat := { s.beat with huddleIn := if msg.isEmpty then rest else rest ++ [(p, msg)] } }

/-- A huddle frame of this module: the frames of a message come in order, and `h` has the body of the message that the last
one completes. A child's message is combined, the parent's is the combined record and goes on down. -/
def takeHuddle (h : Huddle) (p : Fin 12) (s : State) (f : Kft) : State :=
  if inReset s ∨ replaying s then discard s p.val 12 1
  else
  let msg := piecesOf s p ++ f.payload
  if !f.flags.getLsbD 2 then setPieces s p msg
  else
  let s := setPieces s p []
  let h := withHeader msg h
  if (childPorts s).contains p then
    if s.beat.huddleParts.any (·.1 == p) then s
    else tryCombine { s with beat := { s.beat with huddleParts := s.beat.huddleParts ++ [(p, h)] } }
  else if parentPort s = some p then
    if s.beat.combined.isSome then s
    else (childPorts s).foldl (fun s p => sendHuddle s p h) { s with beat := { s.beat with combined := some h } }
  else s

def execHuddleFrame (x : Rx) (h : Huddle) (s : State) : Host.Outcome State Fault Refusal :=
  .next (arrive s x 0x0D (takeHuddle h x.port))

/-! ### The verdict (R141, R239, R240) -/

def votesReady (h : Huddle) : Bool := h.ready == h.members && h.abortFlags == 0 && h.abortNode == 0
def stepsEqual (h : Huddle) : Bool := h.stepCompl == ~~~h.step
def setDiffers (h : Huddle) : Option (Nat × Word32 × Word32) := h.digests.find? fun d => d.2.2 != ~~~d.2.1

/-- The reason a combined record shows for a failed huddle, 0 when it shows none. Of several it is the first of abort vote, step
and digest (DESIGN CHOICE, log 113). -/
def huddleReason (h : Huddle) : Nat :=
  if !votesReady h then 1 else if !stepsEqual h then 2 else if (setDiffers h).isSome then 3 else 0

/-- Of the two ends of a range of values, the one that is not this module's own. -/
def otherEnd (own top bottom : Nat) : Nat := if own = top then bottom else top

/-- Steps that differ post their event, whatever else the record shows (R220). It names no replica set for the step, so that
field is a free value (log 46). -/
def stepMismatch (s : State) (h : Huddle) : State :=
  if stepsEqual h then s
  else
    let (r, s) := drawFree s
    let step := s.step.toNat
    post s 0x0807 (packed [(1, r), (4, step), (4, otherEnd step h.step.toNat (~~~h.stepCompl).toNat)])

/-- Digests that differ post theirs (R141). -/
def digestMismatch (s : State) (h : Huddle) : State :=
  match setDiffers h with
  | none => s
  | some (set, top, low) =>
    let own := settingsDigest s set
    post s 0x0609 (packed [(1, set), (4, s.step.toNat), (8, own.toNat), (8, otherEnd own.toNat top.toNat (~~~low).toNat)])

/-- The events that explain a mismatch of steps or of digests (R452). -/
def mismatchEvent (s : State) (h : Huddle) : State := digestMismatch (stepMismatch s h) h

/-- The huddle has failed (R240): the event, once, and a program that still runs halts at the end of the period. -/
def failHuddle (s : State) (reason : Nat) (flags : Word32) (node : Word16) : State :=
  let s := post s 0x0901 (packed [(4, s.step.toNat), (1, reason), (4, flags.toNat), (2, node.toNat)])
  { s with beat := { s.beat with
      haltCause := if live s then some (s.beat.haltCause.getD 0x0901) else s.beat.haltCause
      huddleOk := false, huddleFailed := true } }

/-- Whether the huddle of the step is still to be decided here: a module that has halted in the step decides it too, so that
every module posts its failure (R240). -/
def huddleUndecided (s : State) : Bool :=
  !s.beat.huddleFailed && (if live s then huddleOpen s else s.beat.started && s.beat.halting && !s.beat.committed)

/-- The decision on the huddle at a hold point, once there is a combined record (R239). -/
def decideHuddle (s : State) : State :=
  match (if huddleUndecided s then s.beat.combined else none) with
  | none => s
  | some h =>
    let reason := huddleReason h
    if reason = 0 then { s with beat := { s.beat with huddleOk := live s && s.beat.haltCause.isNone } }
    else failHuddle (mismatchEvent s h) reason h.abortFlags (~~~h.abortNode)

/-- An abort that reaches an undecided huddle (R240). The contributions at hand and this module's own fault name the lowest
aborting node; a whistle frame names none, and that field is then a free value (log 46). -/
def abortHuddle (s : State) : State :=
  let own := (s.beat.abortFlags, if s.beat.abortFlags = 0 then (0 : Word16) else ~~~s.fabric.rcd.node)
  let (flags, low) := (s.beat.huddleOwn.toList ++ s.beat.huddleParts.map (·.2)).foldl (fun x h =>
    (x.1 ||| h.abortFlags, if x.2.toNat < h.abortNode.toNat then h.abortNode else x.2)) own
  if low ≠ 0 then failHuddle s 1 flags (~~~low)
  else
    let (n, s) := drawFree s
    failHuddle s 4 4 (BitVec.ofNat 16 n)

/-! ### The commit (R139, R151, R239) -/

/-- The stalled layers of this module that asked for the pause post their event. -/
def stallPause (s : State) : State :=
  let ls := s.scales.layers.filter (·.pauseAsked)
  let s := ls.foldl (fun s l => post s 0x060A (packed [(2, l.layer), (4, s.step.toNat)])) s
  { s with
    scales := { s.scales with layers := s.scales.layers.map fun l => { l with pauseAsked := false } }
    beat := { s.beat with pauseAt := some s.step, pauseCause := 0x060A } }

/-- The huddle completes: the combined statistics make the new state, and a set pause flag pauses the program at the end of
the step. -/
def commitHuddle (s : State) : State :=
  match s.beat.combined with
  | none => s
  | some h =>
    let s := scalesHuddle s h
    let s := { s with beat := { s.beat with committed := true } }
    if h.pause.getLsbD 0 then stallPause s else s

end Sys2Proof.Machine
end

