-- ==== Sys2Proof/Machine/Beat.lean ====
section
/-! DEFINITION. The beat: hold points and hold causes (R210 to R214), the whistle tree (R305 to R307), period boundaries,
the end of a step and pauses (R216). The choices the spec leaves open here are log 47. -/

namespace Sys2Proof.Machine

open Sys2Proof

/-! ### Time -/

/-- The timebase has reached `t`. -/
def clockTo (s : State) (t : Nat) : State := { s with timebase := max s.timebase t }

/-- Whether the period before the beat epoch is the current one. -/
def beforeEpoch (s : State) : Bool := !s.beat.started && !s.beat.heldNow

/-- The period number that whistle frames carry now; the period before the epoch is −1 (R234, R305). -/
def wirePeriod (s : State) : Nat := if beforeEpoch s then 2 ^ 64 - 1 else s.beat.period

/-- End of the current period. -/
def currentEnd (s : State) : Nat := if beforeEpoch s then s.beat.epoch else periodEnd s

/-- The hold margin in ns (R207, R210). -/
def marginNs (s : State) : Nat := ((headerOf s).map (·.holdMargin)).getD 0

def holdLimitOf (s : State) : Nat := ((headerOf s).map (·.holdLimit)).getD 0

/-! ### Hold reasons (R211, R234, R239, R300, R351) -/

/-- Why an instance in flight is not complete: its hold cause. -/
def flightCause (s : State) (q : SeqUnit) (w : Who) (i : PInstr) (f : InFlight) : Nat :=
  match s.beat.stuck.find? (·.1 == w) with
  | some x => x.2
  | none =>
    if s.beat.refetch.any (·.who == w) || s.beat.rebuilt.contains w then 5
    else match s.beat.deferred.find? (·.who == w) with
      | some d => if d.view then 2 else 5
      | none =>
        if q.unit = 0x800 ∧ i.cls = 8 then 4
        else if s.versions.any (·.last == some w) then 4
        else if 0 < f.waiting ∧ !isTile q.unit then 5
        else 1

/-- Whether an instance that has not issued waits for a token: its own wait, or the away slot's reference token, which an
UPDATE waits for besides (R233). -/
def tokenWait (s : State) (q : SeqUnit) (x : Who × PInstr) : Bool :=
  !waitSatisfied s.step.toNat q x.2 x.1.inst || (x.2.cls == 7 && (s.program.any fun p =>
    let u := parseUpdate (descOf p x.2.desc)
    !canWrite s (if x.2.passKind = 0 then u.fwd else u.trans)))

/-- Reasons of a unit: instances of beats up to the current one that have not issued, or are in flight. -/
def unitReasons (s : State) (q : SeqUnit) : List (Nat × Nat) :=
  let k := s.beat.number
  let unissued := match s.program.bind fun p => stageOf p q.unit with
    | none => []
    | some g => streams.filterMap fun t =>
        if unissuedUpTo g q t k then (nextInst g q t).map fun x =>
          (if tokenWait s q x then 4 else 1, q.unit)
        else none
  let flying := q.flight.filterMap fun f =>
    let w : Who := { unit := q.unit, stream := f.stream, index := f.index, inst := f.inst }
    match instrOf s w with
    | none => none
    | some i => if k < i.beatOf f.inst ∨ s.beat.reexec.contains w then none else some (flightCause s q w i f, q.unit)
  unissued ++ flying

/-- Whether the sample that a waiting read of a view needs is still missing. -/
def stillOpen (s : State) (r : ViewRead) : Bool :=
  match r.by_ with
  | .command _ addr n => readLocalAt s r.step (spaceOf addr) (offsetOf addr) n == .wait
  | _ => true

/-- Cause of a hold for re-execution (R211). -/
def rerunCause (s : State) : Nat := if s.beat.stoppage = 0 then 3 else 6

/-- This module's hold reasons at a hold point: cause and unit. A read of a view that waits since its beat is one (R351). -/
def ownReasons (s : State) : List (Nat × Nat) :=
  if !live s then []
  else
    let late := if s.beat.missed then [(4, 0x800)] else []
    let fills := (s.beat.fills.take 1).map fun r => (1, ((versionOf s r).map (·.unit)).getD 0x8B0)
    if !s.beat.started then fills ++ late
    else
      let work := s.seqs.flatMap (unitReasons s)
      let rerun := s.beat.reexec.map fun w => (rerunCause s, w.unit)
      let huddle := if huddleOpen s && s.beat.combined.isNone then [(4, 0x800)] else []
      let views := if s.fabric.waiting.any fun r => r.step == s.step && r.beat == s.beat.number && stillOpen s r then
          [(2, 0x800)] else []
      (work ++ rerun ++ huddle ++ views ++ late).eraseDups

/-- Causes byte of R305. -/
def causeMask (cs : List Nat) : Nat := (cs.eraseDups.map fun c => 2 ^ (c - 1)).sum

/-! ### The hold limit (R213, R240) -/

/-- Whether this module has requested more consecutive holds than the limit. -/
def limitReached (s : State) : Bool :=
  live s && s.beat.started && s.beat.atHoldPoint && !s.beat.reasons.isEmpty && decide (holdLimitOf s < s.beat.holdRun + 1)

/-- The hold-limit event, the abort flag, and the halt at the end of the period. -/
def limitHalt (s : State) : State :=
  if !limitReached s || s.beat.abortFlags.getLsbD 2 then s
  else
    let units := ((s.beat.reasons.map (·.2)).eraseDups).take 8
    let s := post s 0x0802 (packed ([(4, s.step.toNat), (2, s.beat.number), (4, s.beat.holdRun + 1)] ++
      units.map fun u => (2, u)))
    let open_ := huddleOpen s && !s.beat.huddleOk
    let s := raiseFault s 0x0802 2
    if open_ then failHuddle s 4 s.beat.abortFlags s.fabric.rcd.node else s

def execHoldLimit (s : State) : Host.Outcome State Fault Refusal := .next (limitHalt s)

/-! ### Up frames (R306) -/

/-- The down frames of a decision leave on the child ports. -/
def sendDown (s : State) (payload : List Byte) : State := (childPorts s).foldl (fun s p => sendOn s p (whistleFrame s p payload)) s

/-- Children whose up frame of this period has not come. -/
def absentChildren (s : State) : List (Fin 12) := (childPorts s).filter fun p => !(s.beat.ups.any (·.port == p))

/-- Whether an absent child has stopped: its link is lost, or its last frame said that it halts (R241). -/
def childStopped (s : State) (p : Fin 12) : Bool :=
  let q := s.fabric.ports[p]
  (q.link != .up && q.link != .retraining) || s.beat.seen.any fun u => u.port == p && u.halting

/-- Absent children that have stopped. They hold nothing but the huddle, for which a member whose frame has not come requests
a hold (R239): the others complete the update and hold at the next huddle (R241; DEDUCED, log 47). -/
def stoppedChildren (s : State) : List (Fin 12) :=
  if huddleOpen s then [] else (absentChildren s).filter (childStopped s)

/-- Members of the stopped subtrees, as their last frames gave them. -/
def stoppedMembers (s : State) : Nat :=
  ((s.beat.seen.filter fun u => (stoppedChildren s).contains u.port).map (·.members)).sum

/-- What a module reports up: the modules its subtree reported, with those that have stopped. -/
def membersBelow (s : State) : Nat := 1 + (s.beat.ups.map (·.members)).sum + stoppedMembers s

/-- Whether this module, with its children's frames at hand, holds for one that is missing: a child's frame, or at the root
members of the domain (R306). -/
def missesMembers (s : State) : Bool :=
  !((absentChildren s).all (stoppedChildren s).contains) ||
    ((parentPort s).isNone && decide (membersBelow s < s.beat.members))

/-- A hold for missing members is a request of this module's own, so that R213 bounds it (R216; DEDUCED, log 47). -/
def askMissing (s : State) (missing : Bool) : State :=
  if live s && s.beat.started && missing && !s.beat.reasons.contains (4, 0x800) then
    { s with beat := { s.beat with reasons := s.beat.reasons ++ [(4, 0x800)] } }
  else s

def noteMissing (s : State) : State := askMissing s (missesMembers s)

/-- A decision that tells of missing members makes every module hold, as those next to the missing ones do (R216). -/
def noteShort (s : State) : State := askMissing s (s.beat.down.any (·.short))

/-- This module's up frame, combined with its children's; the root decides instead (R306). A child whose frame has not come
counts as a hold. A module that halts at the end of the period says so in this, its last frame (R240). -/
def sendUp (s : State) : State :=
  if s.beat.upSent || !s.beat.atHoldPoint then s
  else if replaying s then
    let b := s.beat
    { s with beat := { b with upSent := true, down := some { hold := !b.reasons.isEmpty, abort := false,
                                                              causes := BitVec.ofNat 8 (causeMask (b.reasons.map (·.1))) } } }
  else
    let s := noteMissing s
    let b := s.beat
    let hold := !b.reasons.isEmpty || missesMembers s || b.ups.any (·.hold)
    let abort := b.halting || b.haltCause.isSome || limitReached s || b.ups.any (·.abort)
    let halting := b.halting || b.ups.any (·.halting)
    let members := membersBelow s
    let causes := b.ups.foldl (fun c u => c ||| u.causes) (BitVec.ofNat 8 (causeMask (b.reasons.map (·.1))))
    let s := { s with beat := { b with upSent := true } }
    let out (dir : Nat) (hold : Bool) : List Byte :=
      whistlePayload (wirePeriod s) (s.step.toNat % 2 ^ 32) b.number dir (whistleFlags hold abort halting) members causes.toNat
    match parentPort s with
    | some p => sendOn s p (whistleFrame s p (out 0 hold))
    | none =>
      sendDown { s with beat := { s.beat with
        down := some { hold := hold, abort := abort, causes := causes, short := decide (members < b.members) } } } (out 1 hold)

/-- The up frame goes once the own request and every child's frame are at hand. -/
def sendUpIfAll (s : State) : State :=
  if (childPorts s).all fun p => s.beat.ups.any (·.port == p) then sendUp s else s

/-! ### The hold point (R210, R211, R239) -/

/-- Whether this module takes part in the whistle: its program runs, or it has halted and no program has been loaded or
restored since (R306, R309); on the bench it sends no whistle frames (R459). -/
def onBeat (s : State) : Bool := (live s && !s.beat.pauseDue) || (s.beat.halting && s.power.mode != .bench)

def holdPoint (s : State) : State :=
  if s.beat.atHoldPoint then s
  else
    let s := replayInbound (decideHuddle (clockTo s (currentEnd s - marginNs s)))
    sendUpIfAll { s with beat := { s.beat with atHoldPoint := true, reasons := ownReasons s } }

def execHoldPoint (s : State) : Host.Outcome State Fault Refusal := .next (if onBeat s then holdPoint s else s)

/-- The up deadline has passed (R306). -/
def execWhistleUpDeadline (s : State) : Host.Outcome State Fault Refusal :=
  .next (if onBeat s ∧ s.beat.atHoldPoint ∧ !s.beat.upSent then
    sendUp (clockTo s (currentEnd s - marginNs s + marginNs s / 2)) else s)

/-- An up frame of a child for the current period. -/
def takeUpFrame (p : Fin 12) (s : State) (f : Kft) : State :=
  let pl := f.payload
  if !onBeat s || !(childPorts s).contains p || s.beat.upSent || field pl 0 8 != wirePeriod s ||
      s.beat.ups.any (·.port == p) then s
  else
    let flags := field pl 15 1
    let u : Up := { port := p, hold := bitAt flags 0, abort := bitAt flags 1, halting := bitAt flags 2,
                    members := field pl 16 2, causes := BitVec.ofNat 8 (field pl 18 1) }
    let s := { s with beat := { s.beat with ups := s.beat.ups ++ [u], seen := s.beat.seen.filter (·.port != p) ++ [u] } }
    if s.beat.atHoldPoint then sendUpIfAll s else s

def execWhistleUpFrame (x : Rx) (s : State) : Host.Outcome State Fault Refusal :=
  if field x.f.payload 14 1 ≠ 0 then .next s else .next (arrive s x 0x0C (takeUpFrame x.port))

/-! ### The end of a step (R139, R200, R212, R214, R216, R227, R243) -/

/-- Counts of a step that ends: they become the last step's, and the next starts from 0 (R450). -/
def rollCounts (s : State) : State := { s with counts := s.counts.map fun c => { c with last := c.cur, cur := 0 } }

/-- A step that ended late is reported (R212, R214). -/
def reportLate (s : State) : State :=
  let n := s.beat.latePeriods
  if n = 0 then s else post (bump s 0x0803 noInst noTensor n) 0x0803 (packed [(4, s.step.toNat), (4, n)])

/-- Elements an update left unchanged as non-finite, by tensor (R227). -/
def reportNonFinite (s : State) : State :=
  (s.counts.filter fun c => c.id == 0x0901 && decide (0 < c.cur)).foldl (fun s c =>
    post s 0x0903 (packed [(4, c.tensor), (4, s.step.toNat), (4, c.cur)])) s

/-- At a pause no counter holds a count, every reference token is 0 and no Row Engine record is live (R216). -/
def pauseTokens (s : State) : State :=
  let idle (t : Token) : Token := if t.mode = 1 ∨ t.mode = 3 then { t with v0 := 0, v1 := 0 } else t
  { s with seqs := s.seqs.map fun q => { q with tokens := q.tokens.map idle }, side := [] }

/-- Tokens, streams and tags of the next step; what the units' remote reads brought goes with the step. -/
def rewind (s : State) : State :=
  let parity := s.step.toNat % 2
  let fresh (q : SeqUnit) : SeqUnit :=
    { q with posF := (0, 0), posB := (0, 0), posU := (0, 0), tokens := q.tokens.map (clearParity parity) }
  { s with
    seqs := s.seqs.map fresh, reduce := { s.reduce with tags := [] }
    fabric := { s.fabric with arrivals := s.fabric.arrivals.filter fun a => decide (0x10000 ≤ a.1) } }

/-- The beat fields at the start of a step. -/
def freshStep (b : Beat) (stoppage : Nat) : Beat :=
  { b with number := 0, stoppage := stoppage, heldPeriods := 0, latePeriods := 0, abortFlags := 0, writes := [], moved := []
           huddleSent := false, huddleIn := [], huddleParts := [], huddleOwn := none, combined := none, huddleOk := false
           huddleFailed := false, committed := false, spanReads := [], encoded := [], heldBlocks := [], rebuilt := [], unrun := [] }

/-- The step has ended and the next begins, or the program pauses (R216), also before the number that no program step takes
(R132; DESIGN CHOICE, log 104). -/
def stepEnd (s : State) : State :=
  let ended := s.step
  let s := rollCounts (lateShares (reportNonFinite (scalesStepEnd (reportLate s))))
  if replaying s then replayEnd s
  else
    let s := rewind (journalEnd s)
    let s := releaseSlots { s with
      step := ended + 1
      beat := freshStep s.beat (((headerOf s).map (·.stoppage)).getD 0) }
    if s.beat.pauseAt = some ended ∨ s.step = lastStep then
      pauseTokens { s with beat := { s.beat with pauseDue := true, started := false, pauseAt := none } }
    else drain (journalBegin s)

/-! ### Applying a decision (R211, R212, R234, R239, R240, R306) -/

/-- A held period: a stoppage beat is used, and an overrun is reported by every module that asked for it for more than
re-execution within the stoppage beats: counted once for each of its causes, with an event for each reason (R214). Before the
first beat it counts for nothing (R234). -/
def heldPeriod (s : State) (rs : List (Nat × Nat)) (d : Decision) : State :=
  if !s.beat.started then { s with beat := { s.beat with heldNow := true } }
  else
    let b := s.beat
    let overrun := b.stoppage == 0 || d.causes != 0x20
    let s := bump s 0x0801 noInst noTensor 1
    let s := { s with beat := { b with
      stoppage := b.stoppage - 1, latePeriods := if b.stoppage = 0 then b.latePeriods + 1 else b.latePeriods
      holdRun := b.holdRun + 1, heldPeriods := b.heldPeriods + 1, heldNow := true } }
    if !overrun then s
    else
      let rs := rs.filter (·.1 != 6)
      let s := (rs.map (·.1)).eraseDups.foldl (fun s c => bump s 0x0802 c noTensor 1) s
      rs.foldl (fun s r => post s 0x0801
        (packed [(1, r.1), (2, r.2), (4, s.step.toNat), (2, s.beat.number), (4, s.beat.stoppage)])) s

/-- The beat number advances: the first beat, the next one, or the first of the next step; a huddle that was ready is
committed with it (R239). Blocks that still wait for their turn do so no longer (R79); a held period leaves them waiting, so
that no bit depends on it (R26). -/
def advanceBeat (s : State) : State :=
  let s := forceHeld (releaseRecords s)
  let s := { s with beat := { s.beat with holdRun := 0, heldNow := false } }
  if !s.beat.started then journalBegin { s with beat := { s.beat with started := true, number := 0 } }
  else
    let s := if huddleOpen s && s.beat.huddleOk then commitHuddle s else s
    let last := ((headerOf s).map (·.working)).getD 0 + s.beat.stoppage
    if last ≤ s.beat.number + 1 then stepEnd s
    else { s with beat := { s.beat with number := s.beat.number + 1, writes := [], moved := [] } }

/-- The program halts at the end of the period. -/
def haltBoundary (s : State) (cause : Nat) : State := if replaying s then replayEnd s else haltProgram s cause

/-- A decision applied to the period that has ended: an abort before the commit fails the huddle (R240), a fault halts, and
otherwise the period is held or the beat advances. -/
def settle (s : State) (rs : List (Nat × Nat)) (d : Decision) : State :=
  let s := if d.abort && huddleOpen s && !s.beat.huddleFailed then abortHuddle s else s
  match s.beat.haltCause with
  | some c => haltBoundary (if d.hold then heldPeriod s rs d else s) c
  | none => if d.hold then heldPeriod s rs d else advanceBeat s

/-! ### The period boundary (R305 to R307) -/

/-- The next period: its frames are not in yet. -/
def nextPeriod (s : State) : State :=
  let b := s.beat
  { s with beat := { b with
    period := if beforeEpoch s then 0 else b.period + 1
    atHoldPoint := false, reasons := [], ups := [], upSent := false, down := none } }

/-- The decision of a period has not come by the end of the next one (R307); the event names the period it was for. -/
def whistleLoss (s : State) : State :=
  let s := post s 0x0B06 (packed [(4, (s.beat.period + 2 ^ 32 - 2) % 2 ^ 32), (4, s.step.toNat)])
  haltBoundary { s with beat := { s.beat with halting := true } } (s.beat.haltCause.getD 0x0B06)

/-- A module that has halted in the step learns of an abort before the commit, once its huddle beat has come or its vote is
sent, and posts the failure as the others do (R240). -/
def settleHalted (s : State) (d : Option Decision) : State :=
  let begun := s.beat.huddleSent || (headerOf s).any fun h => decide (h.huddleBeat ≤ s.beat.number)
  if d.any (·.abort) && huddleUndecided s && begun then abortHuddle s else s

/-- A period ends. -/
def boundary (s : State) : State :=
  let s := clockTo s (currentEnd s)
  let s := noteShort (sendUp (holdPoint (if live s then flushAllGates s else s)))
  let s := limitHalt s
  let b := s.beat
  let s := nextPeriod s
  if !live s then settleHalted s b.down
  else match (if b.missed then none else b.down), b.haltCause with
    | some d, _ => settle s b.reasons d
    | none, some c => if b.missed then whistleLoss s else haltBoundary s c
    | none, none =>
      if b.missed then whistleLoss s
      else { s with beat := { s.beat with missed := true, lastReasons := b.reasons, heldNow := b.heldNow || !b.started } }

def execPeriodBoundary (s : State) : Host.Outcome State Fault Refusal :=
  .next (if onBeat s ∧ !beforeEpoch s then boundary s else s)

/-- The beat epoch that START or RESUME named arrives: the decision of the period before it lets period 0 run, or holds it
(R234, R305). -/
def execBeatEpoch (s : State) : Host.Outcome State Fault Refusal :=
  .next (if s.pstate = .running ∧ beforeEpoch s ∧ !s.beat.pauseDue then boundary s else s)

/-! ### Down frames (R306, R307) -/

/-- A decision from the parent: forwarded at once; the current period's is kept for its end, a late one is applied now. -/
def takeDownFrame (p : Fin 12) (s : State) (f : Kft) : State :=
  if parentPort s ≠ some p then s
  else
    let pl := f.payload
    let flags := field pl 15 1
    let d : Decision := { hold := bitAt flags 0, abort := bitAt flags 1, causes := BitVec.ofNat 8 (field pl 18 1)
                          short := decide (field pl 16 2 < s.beat.members) }
    let s := sendDown s pl
    if !onBeat s then s
    else if field pl 0 8 = wirePeriod s then { s with beat := { s.beat with down := some (s.beat.down.getD d) } }
    else if s.beat.missed ∧ live s ∧ (field pl 0 8 + 1) % 2 ^ 64 = wirePeriod s then
      let s := bump s 0x0B0F p.val noTensor 1
      settle { s with beat := { s.beat with missed := false, late := s.beat.late + 1, lastReasons := [] } } s.beat.lastReasons d
    else s

def execWhistleDownFrame (x : Rx) (s : State) : Host.Outcome State Fault Refusal :=
  if field x.f.payload 14 1 ≠ 1 then .next s else .next (arrive s x 0x0C (takeDownFrame x.port))

/-- The pause takes effect at the end of its step, whose number the event shows (R216, and the worked case of the host
link: step 20,000 ends, and the event names step 20,000). -/
def execPauseTakesEffect (s : State) : Host.Outcome State Fault Refusal :=
  if s.beat.pauseDue ∧ s.pstate = .running then
    .next (setPStateAt { s with beat := { s.beat with pauseDue := false } } .paused s.beat.pauseCause (s.step - 1).toNat)
  else .next s

end Sys2Proof.Machine
end

