-- ==== Sys2Proof/Machine/Complete.lean ====
section
/-! DEFINITION. An instance finishes its work (R191, R197, R210): work that waited for its sources runs once they are here
(R300, R351), work whose reader refetched a block runs again (R82), and the signals of the complete instances go in body
order, some of them as an instance issues (R204, R233, R350, R482). A replay applies the entries that those signals make due
(R244). -/

namespace Sys2Proof.Machine

open Sys2Proof

/-! ### Instances that are complete as they issue -/

/-- WAIT, SIGNAL and INGEST are complete as they issue, and their signal goes when its turn comes (R204, R350, R482). -/
def execWait (unit : Nat) (s : State) : Host.Outcome State Fault Refusal :=
  issue s unit (fun _ p => p.cls == 0) fun s w _ => replayInbound (finishNow s w)

def execSignalAdd (unit : Nat) (s : State) : Host.Outcome State Fault Refusal :=
  issue s unit (fun _ p => p.cls == 1 && p.signalMode == 1) fun s w _ => replayInbound (finishNow s w)

def execSignalAcquire (unit : Nat) (s : State) : Host.Outcome State Fault Refusal :=
  issue s unit (fun _ p => p.cls == 1 && p.signalMode == 2) fun s w _ => replayInbound (finishNow s w)

def execSignalRelease (unit : Nat) (s : State) : Host.Outcome State Fault Refusal :=
  issue s unit (fun _ p => p.cls == 1 && p.signalMode == 3) fun s w _ => replayInbound (finishNow s w)

def execIngest (unit : Nat) (s : State) : Host.Outcome State Fault Refusal :=
  issue s unit (fun _ p => p.cls == 9) fun s w p => replayInbound (ingestWork s w p)

/-- A swap of slots lets the UPDATE that waits for it be complete (R233). -/
def execVersionSlotSwap (slot : Nat) (s : State) : Host.Outcome State Fault Refusal :=
  if live s then .next (replayInbound (swapSlots s slot)) else .next s

/-! ### Instances that finish later -/

/-- The work of an instance that has issued, by its class, with what goes with it and the blocks it has refetched (R82). -/
def instWork (s : State) (w : Who) (p : PInstr) (input : WorkIn) (tried : List (Nat × Nat)) : State :=
  match p.cls with
  | 2 => passWork s w p input tried
  | 3 => veInstr s w p input.stale tried
  | 4 => rowWork s w (rowDescOf s p) input tried
  | 5 => moveWork w (moveDescOf s p) s
  | 6 => ckptWork w (bitAt p.operand 0) (ckptDescOf s p) input.stale tried s
  | 7 => if p.passKind = 0 then mainWork s w p input.stale tried else copyWork s w p
  | 8 => match p.bucketKind with
    | 0 => bucketSendWork w (bucketDescOf s p) input.slips s
    | 1 => bucketFinishWork w (bucketDescOf s p) input.stale s
    | _ => bucketNormWork w p s
  | _ => s

/-- What an instance meets now beside what it issued with: the timing of its passes is that of the time they run at. -/
def timed (input : WorkIn) (time : PassTime) : WorkIn := { input with time := time }

/-- An instance whose sources were not here tries again; while they are missing it stays deferred. Past a fault of its stream
it does no more (R83). -/
def retryDeferred (s : State) (w : Who) (time : PassTime) : State :=
  match s.beat.deferred.find? (·.who == w), instrOf s w with
  | some d, some p => if pastFault s w then s else instWork s w p (timed d.input time) []
  | _, _ => s

/-- BLOCK_REFETCH_COMPLETE of a unit: the block its reader waits for has come from memory, and the read goes on with it
(R82), unless a fault has stopped the stream before it (R83). -/
def execBlockRefetchComplete (unit : Nat) (s : State) (time : PassTime := { idle := 0, stalls := [] }) :
    Host.Outcome State Fault Refusal :=
  match s.beat.refetch.find? (·.who.unit == unit) with
  | none => .next s
  | some r =>
    let s := { s with beat := { s.beat with refetch := s.beat.refetch.erase r } }
    match instrOf s r.who with
    | none => .next s
    | some p => .next (if pastFault s r.who then s
        else instWork s r.who p (timed { r.input with stale := r.stale } time) r.blocks)

/-- The flight entry of an instance. -/
def flightOf (s : State) (w : Who) : Option InFlight := (seqOf s w.unit).bind fun q => q.flight.find? (sameInst w)

/-- Whether an instance is in flight and waits for no acknowledgment, row or swap, and all it wrote is visible (R191, R324). -/
def settledInst (s : State) (w : Who) : Bool := (flightOf s w).any fun f => f.waiting == 0 && f.stripes.isEmpty

/-- The re-execution and the reconstructions of an instance are over. -/
def ranAgain (s : State) (w : Who) : State :=
  { s with beat := { s.beat with reexec := s.beat.reexec.filter (· != w), rebuilt := s.beat.rebuilt.filter (· != w), unrun := s.beat.unrun.filter (·.1 != w) } }

/-- The passes of the beat that read the carry words of a pass which has run again run again behind it (R125). -/
def rerunReaders (s : State) (w : Who) : State :=
  if s.beat.reexec.contains w then
    reexecute s ((beatInstances s).filter fun x => x != w && readsCarry s x w && !s.beat.reexec.contains x)
  else s

/-- The passes of an instance that runs again issue and are counted again (R101, R106, R115), but for those whose first run is
still to come. Whether the remaining rows of a request that runs again enter the fill gate anew the spec does not say: they
make gated passes of their own, filled with zero rows (DESIGN CHOICE, log 113). -/
def countAgain (s : State) (w : Who) (time : PassTime) : State :=
  if !s.beat.reexec.contains w || s.beat.unrun.contains (w, true) then s
  else match instrOf s w with
    | none => s
    | some i =>
      if i.cls ≠ 2 then s
      else match passEnv s w i with
        | .error _ => s
        | .ok v =>
          let rest (x : Nat × Nat) : Bool := v.p.gate != 0xFFFF && v.p.rows % 32 != 0 && x.1 == v.p.rows / 32
          let named := namedPasses v.p i
          let mine := (named.filter fun x => !rest x) ++ (if s.beat.unrun.contains (w, false) then [] else named.filter rest)
          mine.zipIdx.foldl (fun s x =>
            let stall := time.stalls.getD x.2 0
            let idle := if x.2 = 0 then time.idle else 0
            if rest x.1 then countGated s w.unit [(v, passRect v.p x.1)] stall idle
            else countPass s w.unit (peek s w.unit) [(v, passRect v.p x.1)] stall idle) s

/-- INSTANCE_COMPLETE of an instance in flight that nothing holds up: its signal goes when its turn comes. For an instance
that has delivered its signal before and runs again, its re-execution alone is over (R114, R319). A pass that reads another's
carry words runs again after it (R125). -/
def execInstanceComplete (unit : Nat) (stream : Stream) (index inst : Nat) (s : State)
    (time : PassTime := { idle := 0, stalls := [] }) : Host.Outcome State Fault Refusal :=
  let w : Who := { unit := unit, stream := stream, index := index, inst := inst }
  if !live s || carryPending s w then .next s
  else if (flightOf s w).isNone then .next (ranAgain (rerunReaders (countAgain s w time) w) w)
  else
    let s := retryDeferred s w time
    if heldUp s w || !settledInst s w then .next s
    else .next (replayInbound (deliver (markFinished (ranAgain (rerunReaders (countAgain s w time) w) w) w) unit stream))

end Sys2Proof.Machine
end

