-- ==== Sys2Proof/Machine/ProgramLoad.lean ====
section
/-! DEFINITION. LOAD and UNLOAD (R164, R200, R209, R215, R234, R250, R252, R415). -/

namespace Sys2Proof.Machine

open Sys2Proof

/-! ### The state a load sets up -/

/-- A tracker at load (R164): no history, so its first step encodes under the fit rule (R147). -/
def freshTracker (d : TrackDesc) : Tracker :=
  { tensor := d.tensor, history := [], st := tensorExp 1 0, adj := 0, headroom := 0, refit := false, fit := true, base := 1,
    overflowed := [], stat := noStat d.tensor, last := noStat d.tensor }

/-- A coached layer at load (R161, R164). -/
def freshLayer (d : LayerDesc) : LayerState :=
  { layer := d.layer, format := d.initial, floor := d.floor, ceil := d.ceil, since := 0, stall := 0, alarm := false,
    advised := false, pauseAsked := false, ratio := 0, window := [], bounds := [], stat := noLayerStat d.layer d.shard,
    sums := [], channels := [] }

/-- A version state at load: both slots empty (R230, R234). -/
def freshVersion (p : Program) (record : Nat) : VState :=
  let f := (allowedFormats p record).headD 0
  let slot : VSlot := { tag := 0, fmt := f, cond := .empty }
  { record := record, unit := (recordUnits p record).headD 0, s0 := slot, s1 := slot, spans := [], last := none }

/-- Both halves of a segment record at load (R252). -/
def freshRecord (b : BucketDesc) : List Byte :=
  let half := List.replicate 8 0 ++ leBytes 1 b.initial ++ List.replicate 7 0
  half ++ half

/-- Segment records, carry word and staging words of a bucket at load (R250, R252). -/
def clearBucket (s : State) (b : BucketDesc) : State :=
  let g := b.segments
  let s := poke s b.segTable ((List.range g).flatMap fun _ => freshRecord b)
  let s := poke s (b.segTable + 32 * g) (List.replicate 8 0)
  poke s (b.staging + 512 * g) (List.replicate (8 * g) 0)

/-- What no program leaves behind for the next. -/
def dropProgram (s : State) : State :=
  let s := dropWithheld (clearStepCounts (dropFetches s))
  { s with
    program := none, step := 0, seqs := [], gates := [], versions := [], side := [], ingest := {}
    beat := { epoch := s.beat.epoch, members := s.beat.members, late := s.beat.late }
    scales := { s.scales with trackers := [], layers := [], watchCounts := [] }
    reduce := { s.reduce with tags := [] }
    journal := {}
    fabric := { s.fabric with arrivals := hostArrivals s } }

/-- A checked program is loaded: step 0, every token at its declared initial value, every state of R164 and R252 at its
initial value. -/
def install (s : State) (p : Program) : State :=
  let s := dropProgram s
  let s := { s with
    program := some p
    seqs := p.stages.map fun g => { unit := g.unit, tokens := g.tokens.map fun d => freshToken d 0 }
    versions := (slotsOf p .version).map fun x => freshVersion p x.1
    scales := { s.scales with trackers := (trackDescs p).map freshTracker, layers := (layerDescs p).map freshLayer } }
  let s := (trackDescs p).foldl (fun s d => setBumps s d (List.replicate d.positions 0)) s
  (bucketDescs p).foldl clearBucket s

/-- LOAD (R209, R215, R384, R415): the object is read, checked and set up. -/
def execLoad (c : Cmd) (host : HostRead) (h : LoadHints) (s : State) : Host.Outcome State Fault Refusal :=
  command s c 0x0101 fun s =>
    gated s c 1 true true [.empty] (decide (arg c 24 1 ≤ 1) && restZero c [(16, 9), (32, 8)]) fun s =>
      if s.fw.activation.isSome || s.fw.trial then complete s c 0x05 0x10 0 0
      else
        withData s c (arg c 24 1) (arg c 16 8) (arg c 32 8) host fun s obj => match loadResult s obj h with
          | (0, some p) => complete (setPState (install s p) .loaded 0) c 0 0 (leNat (p.hdr.digest.take 8)) 0
          | (r, _) => complete s c 0 r 0 0

/-- UNLOAD (R215): the module holds no program. -/
def execUnload (c : Cmd) (s : State) : Host.Outcome State Fault Refusal :=
  command s c 0x0102 fun s =>
    gated s c 1 true true [.loaded, .paused, .halted] (restZero c []) fun s =>
      done (setPState (dropProgram s) .empty 0) c 0

end Sys2Proof.Machine
end

