-- ==== Sys2Proof/Machine/Control.lean ====
section
/-! DEFINITION. The commands that start, pause and stop a program (R215, R216, R344, R352, R384, R434) and those on the
watch list and the layer bounds (R152, R160). -/

namespace Sys2Proof.Machine

open Sys2Proof

/-! ### START and RESUME -/

/-- The node ids that a list in memory holds. -/
def nodesAt (s : State) (addr n : Nat) : List Nat :=
  let b := peek s mcpUnit addr (2 * n)
  (List.range n).map fun i => field b (2 * i) 2

/-- Modules of the beat domain: this one, the peers and the members of every replica set (log 13). -/
def domainMembers (s : State) (p : Program) : Nat :=
  let all := s.fabric.rcd.node.toNat :: p.peers ++ p.replicas.flatMap fun r => nodesAt s r.list r.members
  max 1 ((all.filter (· != 0xFFFF)).eraseDups).length

/-- The program runs from a beat epoch on: the step's full stoppage allowance, the fill passes of empty home slots, the
missing samples queued (R212, R234, R352). -/
def startRun (s : State) (p : Program) (epoch : Nat) : State :=
  let s := setPState s .running 0
  queueMissing { s with beat :=
    { freshBeat s.beat with
      epoch := epoch, stoppage := p.hdr.stoppage, members := domainMembers s p, fills := emptyHomes s } }

/-- The checks of START and RESUME (R344, R384), then the start. No program step takes the last number (R132; log 104). -/
def startChecked (c : Cmd) (remote : List (Nat × List Byte)) (s : State) : State :=
  match s.program with
  | none => done s c 0x04
  | some p =>
    let epoch := arg c 16 8
    if s.step = lastStep then done s c 0x04
    else if epoch < s.timebase + 2000000 ∨ s.timebase + 60000000000 < epoch then complete s c 0x05 1 0 0
    else
      let s := chargeCatalogues s
      match catalogueMismatch s remote with
      | some (v, want, got) => complete (post s 0x0D02 (packed [(1, v), (8, want), (8, got)])) c 0x05 2 0 0
      | none => done (startRun s p epoch) c 0

def execStart (c : Cmd) (remote : List (Nat × List Byte)) (s : State) : Host.Outcome State Fault Refusal :=
  command s c 0x0103 fun s => gated s c 1 true true [.loaded] (restZero c [(16, 8)]) (startChecked c remote)

def execResume (c : Cmd) (remote : List (Nat × List Byte)) (s : State) : Host.Outcome State Fault Refusal :=
  command s c 0x0105 fun s => gated s c 1 true true [.paused] (restZero c [(16, 8)]) (startChecked c remote)

/-! ### PAUSE, HALT, COMPUTE_RESET -/

def execPause (c : Cmd) (s : State) : Host.Outcome State Fault Refusal :=
  command s c 0x0104 fun s =>
    gated s c 1 true true [.running] (restZero c [(16, 8), (24, 8)]) fun s =>
      let n := arg c 16 8
      if n < s.step.toNat then complete s c 0x05 1 0 0
      else if arg c 24 8 ≠ s.beat.epoch then complete s c 0x05 2 0 0
      else done { s with beat := { s.beat with pauseAt := some (BitVec.ofNat 64 n), pauseCause := 0 } } c 0

def execHalt (c : Cmd) (s : State) : Host.Outcome State Fault Refusal :=
  command s c 0x0108 fun s =>
    gated s c 0 false false [.running, .paused] (restZero c []) fun s => done (haltProgram s 0) c 0

def execComputeResetCommand (c : Cmd) (failed : List TileId) (s : State) : Host.Outcome State Fault Refusal :=
  command s c 0x0109 fun s =>
    gated s c 0 false false anyState (restZero c []) fun s =>
      if canReset s then done (computeReset s 2 failed) c 0 else done s c 0x0B

/-! ### The watch list (R152) -/

def parseWatch (b : List Byte) : Watch :=
  { tensor := field b 0 4, zeroLimit := field b 4 2, satLimit := field b 6 2, nonFiniteLimit := field b 8 4
    recordBase := field b 12 8, recordEntries := field b 20 2 }

/-- Whether a tensor number is one of the program's: a layout, a descriptor or a VE operand names it (R152). -/
def tensorKnown (s : State) (t : Nat) : Bool :=
  s.program.any fun p => p.layouts.any (·.tensor == t) || (p.ves.any fun v => v.2.tensor == t) ||
    (List.range p.descs.length).any fun i =>
      let d := descOf p i
      match kindOf p i with
      | .block => (parseBlock d).tensor == t
      | .plain => (parsePlain d).tensor == t
      | .version => (parseVersion d).tensor == t
      | .outStage => (parseOut d).tensor == t
      | .rowOp => (parseRow d).tensor == t
      | .ckpt => (parseCkpt d).tensor == t
      | .bucket => (parseBucket d).tensor == t
      | _ => false

/-- The ranges of R152. -/
def watchOk (s : State) (b : List Byte) : Bool :=
  let w := parseWatch b
  tensorKnown s w.tensor && w.recordBase % 64 == 0 && decide (1 ≤ w.recordEntries) && zeros b 22 10

/-- A change of an entry waits for the next huddle. -/
def watchChange (s : State) (i : Nat) (w : Option Watch) : State :=
  { s with scales := { s.scales with watchNext := s.scales.watchNext.filter (·.1 != i) ++ [(i, w)] } }

def execWatchSet (c : Cmd) (s : State) : Host.Outcome State Fault Refusal :=
  command s c 0x0201 fun s =>
    let b := sub c.payload 16 32
    gated s c 1 false false [.loaded, .running, .paused, .halted]
      (decide (arg c 16 1 < 64) && restZero c [(16, 1), (32, 32)] && (s.pstate == .empty || watchOk s b)) fun s =>
      done (watchChange s (arg c 16 1) (some (parseWatch b))) c 0

def execWatchClear (c : Cmd) (s : State) : Host.Outcome State Fault Refusal :=
  command s c 0x0202 fun s =>
    gated s c 1 false false [.loaded, .running, .paused, .halted] (decide (arg c 16 1 < 64) && restZero c [(16, 1)]) fun s =>
      done (watchChange s (arg c 16 1) none) c 0

/-! ### Layer bounds (R160) -/

/-- Whether new bounds are refused: the step has begun, the ceiling is wider than at load, or the floor wider than the
ceiling. -/
def boundsRefused (s : State) (d : LayerDesc) (fl ce step : Nat) : Bool :=
  stepBegun s step || decide (d.ceil < ce) || decide (ce < fl)

def execLayerBounds (c : Cmd) (s : State) : Host.Outcome State Fault Refusal :=
  command s c 0x0203 fun s =>
    let layer := arg c 16 4
    let fl := arg c 20 1
    let ce := arg c 21 1
    let step := arg c 24 8
    let desc := (s.program.map layerDescs).bind fun ds => ds.find? (·.layer == layer)
    gated s c 1 false false [.loaded, .running, .paused]
      (decide (fl < 4) && decide (ce < 4) && (s.pstate == .empty || desc.isSome) &&
        restZero c [(16, 4), (20, 1), (21, 1), (24, 8)]) fun s =>
      match desc with
      | none => done s c 0x02
      | some d =>
        if boundsRefused s d fl ce step then done s c 0x05
        else
          let n : Word64 := BitVec.ofNat 64 step
          done (updLayer s layer fun l => { l with bounds := l.bounds.filter (·.1 != n) ++ [(n, fl, ce)] }) c 0

end Sys2Proof.Machine
end

