-- ==== Sys2Proof/Machine/Firmware.lean ====
section
/-! DEFINITION. Bundles, staging, activation, trial, confirmation and fallback (R408 to R421). -/

namespace Sys2Proof.Machine

open Sys2Proof

/-! ### The bundle header (R410, R411) -/

def bodyLength (h : List Byte) : Nat := field h 24 4

/-- Component entry `i`: type, offset, length (R410). -/
def component (h : List Byte) (i : Nat) : Nat × Nat × Nat :=
  (field h (64 + 16 * i) 1, field h (68 + 16 * i) 4, field h (72 + 16 * i) 4)

def components (h : List Byte) : List (Nat × Nat × Nat) :=
  ((List.range 8).map (component h)).filter fun c => c.1 != 0

/-- Check 1: magic, header format and reserved fields. -/
def headerFieldsOk (h : List Byte) : Bool :=
  field h 0 4 == 0x4E444C42 && field h 4 2 == 1 && zeros h 11 1 && zeros h 15 1 && zeros h 22 2 && zeros h 28 4 &&
    zeros h 192 256 && ((List.range 8).all fun i => zeros h (65 + 16 * i) 3 && zeros h (76 + 16 * i) 4)

/-- Check 6: every component lies inside the body and no two overlap. -/
def componentsOk (h : List Byte) : Bool :=
  let cs := components h
  cs.all (fun c => decide (c.2.1 + c.2.2 ≤ bodyLength h)) &&
    (cs.zipIdx.all fun a => cs.zipIdx.all fun b =>
      a.2 == b.2 || decide (a.1.2.1 + a.1.2.2 ≤ b.1.2.1) || decide (b.1.2.1 + b.1.2.2 ≤ a.1.2.1))

/-- The checks of R411 in order: 0, or the result of the first failure. The running stepping is B1, bit 2 (R361, R410); the boot
ROM holds keys 0 to 3. -/
def headerCheck (fl : Flash) (h : List Byte) : Nat :=
  if !headerFieldsOk h then 1
  else if field h 6 2 ≠ 0x3250 ∨ !bitAt (field h 8 1) 2 then 2
  else if 3 < field h 9 1 ∨ !Config.folaelSigned (field h 9 1) (sub h 0 448) (sub h 448 64) then 3
  else if field h 16 4 < fl.boot.secVersion then 4
  else if field h 9 1 < fl.boot.keyFloor then 5
  else if !componentsOk h then 6
  else 0

/-- What the module keeps of a bundle (R386, R406, R410). The microcode digest covers the tile, VE and Row Engine
components in table order. -/
def imageOf (bundle : List Byte) : Image :=
  let h := bundle.take 512
  let body := bundle.drop 512
  let code := ((components h).filter fun c => c.1 == 2 || c.1 == 3).flatMap fun c => sub body c.2.1 c.2.2
  { patch := BitVec.ofNat 8 (field h 12 1), minor := BitVec.ofNat 8 (field h 13 1), major := BitVec.ofNat 8 (field h 14 1)
    keyIndex := field h 9 1, keyFloor := field h 10 1, secVersion := field h 16 4, settingsFormat := field h 20 2
    digest := sub h 32 32, microcode := sm3 code, bundle := bundle }

def digest8 (d : List Byte) : Nat := leNat (d.take 8)

/-! ### Staging (R412, R413) -/

/-- A staging is discarded; an activation scheduled for it is cancelled with an event (R412, R415). -/
def discardStaging (s : State) : State :=
  let s := { s with flash := { s.flash with staging := [], stagingComplete := false } }
  if s.fw.activation.isSome then post { s with fw := { s.fw with activation := none } } 0x0F05 (packed [(1, 1)]) else s

/-- Bytes of the staging partition, and of a slot (R407). -/
def stagingSize : Nat := 128 * 2 ^ 20

/-- A piece is appended; the last one completes the staging when the body digest matches (R412). A bundle longer than the
partition is refused as one longer than its header says (R407; log 117). -/
def appendPiece (s : State) (c : Cmd) (data : List Byte) (last : Bool) : State :=
  let all := s.flash.staging ++ data
  let size := 512 + bodyLength all
  if size < all.length ∨ stagingSize < all.length ∨ (last ∧ all.length ≠ size) then complete s c 0x05 0x08 0 0
  else if !last then done { s with flash := { s.flash with staging := all } } c 0
  else if sm3 (all.drop 512) = sub all 32 32 then
    let s := { s with flash := { s.flash with staging := all, stagingComplete := true } }
    done (post s 0x0F01 (packed [(8, all.length), (8, digest8 (sub all 32 32))])) c 0
  else complete { s with flash := { s.flash with staging := [], stagingComplete := false } } c 0x05 0x07 0 0

/-- FW_STAGE: one piece at a time, in ring order (R412). -/
def execFwStage (c : Cmd) (host : HostRead) (s : State) : Host.Outcome State Fault Refusal :=
  let first := (s.mbox.executing.find? fun e => e.cmd.opcode == 0x0504).map (·.cmd)
  if first ≠ some c then .next s
  else command s c 0x0504 fun s =>
    let n := arg c 28 4
    let off := arg c 32 8
    let last := bitAt (arg c 25 1) 0
    gated s c 2 false (arg c 24 1 == 1) anyState
      (n % 512 == 0 && decide (0 < n) && decide (n ≤ 0x400_0000) && decide (arg c 25 1 ≤ 1) &&
        restZero c [(16, 10), (28, 12)]) fun s =>
      withData s c (arg c 24 1) (arg c 16 8) n host fun s data =>
      if off = 0 then
        let s := discardStaging s
        let r := headerCheck s.flash (data.take 512)
        if r ≠ 0 then complete s c 0x05 r 0 0 else appendPiece s c data last
      else if off ≠ s.flash.staging.length ∨ s.flash.staging = [] then complete s c 0x05 0x08 0 0
      else appendPiece s c data last

/-! ### Activation (R414 to R416) -/

/-- FW_ACTIVATE: without an identity 0x0F (R403), then the refusals of R414 in order, then the epoch. -/
def execFwActivate (c : Cmd) (s : State) : Host.Outcome State Fault Refusal :=
  command s c 0x0505 fun s =>
    let e := arg c 16 8
    gated s c 1 false false anyState (restZero c [(16, 8)]) fun s =>
      if !s.fw.identity then complete s c 0x05 0x0F 0 0
      else if !s.flash.stagingComplete then complete s c 0x05 0x09 0 0
      else if s.pstate ≠ .empty then complete s c 0x05 0x0A 0 0
      else if e < s.timebase + 10 ^ 9 ∨ s.timebase + 3600 * 10 ^ 9 < e then complete s c 0x05 0x0B 0 0
      else if s.fw.trial then complete s c 0x05 0x0E 0 0
      else done { s with fw := { s.fw with activation := some e } } c 0

/-- Time has come to `t` at the latest: the timebase is not behind it. -/
def advanceTo (s : State) (t : Nat) : State := { s with timebase := max s.timebase t }

/-- The slot an activation writes (R416 step 3). -/
def otherSlot (fl : Flash) : Nat := 1 - fl.boot.activeSlot

/-- A failed step 2 or 3 of R416: the boot record is as it was, the active slot boots, the staging is emptied. -/
def activationFails (s : State) (a : ActIn) : State :=
  let s := { s with flash := { s.flash with staging := [], stagingComplete := false }
                    fw := { s.fw with activating := none } }
  bootActive s a.settingsOk fun s => post (serveReady s 3 a.failed) 0x0F05 (packed [(1, 2)])

/-- Step `k` of an activation (R416): the compute reset into the boot ROM, the staged header and body digest, the copy, the
boot record, the trial image, READY. An activation that has failed takes no further step, and none is taken while a thermal
fault stops the compute units (R467; log 116). -/
def activationStep (a : ActIn) (s : State) (k : Nat) : State :=
  if s.fw.activating ≠ some (k - 1) ∨ s.power.thermalFault then s
  else
    let bundle := s.flash.staging
    let next (s : State) : State :=
      { s with fw := { s.fw with activating := some k }, mbox := { s.mbox with module := .activation } }
    match k with
    | 1 => next (ringsReset (computeStop { s with mbox := { s.mbox with mcpUp := true, module := .activation } } 3))
    | 2 =>
      if !a.headerOk || headerCheck s.flash (bundle.take 512) != 0 || sm3 (bundle.drop 512) != sub bundle 32 32 then
        activationFails s a
      else next s
    | 3 =>
      let s := { s with flash := { s.flash with slots := setAt s.flash.slots (otherSlot s.flash) (some (imageOf bundle)) } }
      if a.copyOk then next s else activationFails s a
    | 4 => next (writeBoot s { s.flash.boot with trialSlot := some (otherSlot s.flash) })
    | 5 =>
      let s := { s with fw := { s.fw with trial := true, trialReady := false, trialStart := s.timebase } }
      next (computeServe (bootImage s (imageOf bundle) a.settingsOk) a.failed)
    | _ =>
      let s := resetReady { s with fw := { s.fw with trialReady := true, activating := none } } 3
      dueFirst s 0x0F02 (packed [(4, s.fw.image.secVersion), (8, digest8 s.fw.image.digest)])

/-- The activation epoch arrives, or an activation under way goes on, up to the step that has been reached (R416). -/
def execActivationEpoch (a : ActIn) (s : State) : Host.Outcome State Fault Refusal :=
  let s := match s.fw.activation with
    | some e => { advanceTo s e with fw := { s.fw with activation := none, activating := some 0 } }
    | none => s
  match s.fw.activating with
  | none => .next s
  | some k => .next ((rangeFrom (k + 1) (min 6 a.upTo - k)).foldl (activationStep a) s)

/-! ### Trial (R418, R419, R421) -/

/-- FW_CONFIRM: the commit of R418, in one write of the boot record, then the settings of R421. After 600 s no image is on
trial any more, though the fallback of R419 may be a command away (DESIGN CHOICE, log 110). -/
def execFwConfirm (c : Cmd) (s : State) : Host.Outcome State Fault Refusal :=
  command s c 0x0506 fun s =>
    gated s c 1 false false anyState (restZero c []) fun s =>
      if !s.fw.trial ∨ s.fw.trialStart + 600 * 10 ^ 9 < s.timebase then complete s c 0x05 0x0C 0 0
      else if !s.fw.trialReady then complete s c 0x05 0x0D 0 0
      else
        let b := s.flash.boot
        let i := s.fw.image
        let boot := { b with activeSlot := b.trialSlot.getD b.activeSlot, trialSlot := none,
                             secVersion := max b.secVersion i.secVersion, keyFloor := max b.keyFloor i.keyFloor,
                             settingsFormat := i.settingsFormat }
        let s := writeBoot s boot
        let s := { s with
          flash := { s.flash with profiles := profiles s, profilesFormat := i.settingsFormat,
                                  staging := [], stagingComplete := false }
          fw := { s.fw with trial := false, trialReady := false, memProfiles := none } }
        done (post s 0x0F03 (packed [(4, i.secVersion), (8, digest8 i.digest)])) c 0

/-- 600 s pass without a commit (R419). -/
def execTrialConfirmTimeout (failed : List TileId) (s : State) (settingsOk : Bool := true) : Host.Outcome State Fault Refusal :=
  if s.fw.trial then .next (fallback (advanceTo s (s.fw.trialStart + 600 * 10 ^ 9)) 1 failed settingsOk) else .next s

/-- The trial image stops advancing HEARTBEAT (R419). -/
def execTrialWatchdog (failed : List TileId) (s : State) (settingsOk : Bool := true) : Host.Outcome State Fault Refusal :=
  if s.fw.trial then .next (fallback s 2 failed settingsOk) else .next s

end Sys2Proof.Machine
end

