-- ==== Sys2Proof/Machine/Smbus.lean ====
section
/-! DEFINITION. Commands over SMBus (R397, R398). -/

namespace Sys2Proof.Machine

open Sys2Proof

/-- The commands that the SMBus path accepts while the program state is Empty (R397). -/
def smbusAllows (s : State) (c : Cmd) : Bool :=
  s.pstate == .empty &&
    (([0x0301, 0x0302, 0x0303, 0x0304, 0x0502, 0x0503].contains c.opcode) || (c.opcode == 0x0401 && decide (arg c 16 1 ≤ 1)))

/-- The command's own meaning, with the inline data of the message; one that must wait for its ring stays started. -/
def smbusRun (c : Cmd) (inl : HostRead) (s : State) : Host.Outcome State Fault Refusal :=
  match c.opcode with
  | 0x0301 => execFabricRecord c s
  | 0x0302 => execPortRecord c inl s
  | 0x0303 => execRouteWrite c inl s
  | 0x0304 => execPlanWrite c s
  | 0x0401 => execReadTable c s
  | 0x0502 => execProfileSelect c s
  | 0x0503 => execProfileWrite c inl s
  | _ => .next s

/-- The kind byte of a command that SMBus accepts (R383, R384). -/
def smbusKind (c : Cmd) : Nat := if c.opcode = 0x0303 then arg c 20 1 else arg c 17 1

/-- A vendor-defined MCTP message: type 0x7E and Folael's Vendor ID, high byte first (PRESUMED, log 48), then the 64-byte
command and its inline data. One that names a member of this captain's squad is proxied (R373, R394). `host` is what a
read of host memory returned. -/
def execSmbusMctpCommand (msg : List Byte) (s : State) (host : HostRead := none) : Host.Outcome State Fault Refusal :=
  if msg.take 3 ≠ 0x7E#8 :: beBytes 2 Config.vendorId.toNat ∨ msg.length < 67 ∨ !s.mbox.mcpUp ∨
      (s.mbox.module = .activation ∧ !s.fw.trial) then .next s
  else
    let raw := sub msg 3 64
    let (c, s) := numbered (notePath s .smbus) (parseCmd .smbus (ringOf (field raw 0 2)) raw)
    let node := field raw 8 2
    if !smbusAllows s c then .next (done s c 0x05)
    else if node ≠ 0xFFFF then .next (proxyCmd s c node raw host)
    else smbusRun c (if smbusKind c = 2 then some (msg.drop 67) else host) (startCmd s c (headerOk raw))

end Sys2Proof.Machine
end

