-- ==== Sys2Proof/Machine/Spdm.lean ====
section
/-! DEFINITION. SPDM attestation (R401 to R406) and DOE Discovery (R356). Message layouts are those of DMTF DSP0274, which
the spec names and does not restate (PRESUMED, log 9). -/

namespace Sys2Proof.Machine

open Sys2Proof

def transportIdx : Transport → Fin 2
  | .doe => 0 | .mctp => 1

def spdmOf (s : State) (t : Transport) : Spdm := s.spdm[transportIdx t]

def setSpdm (s : State) (t : Transport) (x : Spdm) : State := { s with spdm := s.spdm.set (transportIdx t) x }

def respond (s : State) (t : Transport) (b : List Byte) : State := emit s (.spdm t b)

/-- An ERROR response with a code (R403, R405). -/
def spdmError (s : State) (t : Transport) (code : Nat) : State :=
  respond s t [(spdmOf s t).version.getD 0x12, 0x7F, BitVec.ofNat 8 code, 0]

/-- What every request meets: Busy in activation and compute reset (R405), Unspecified without an identity (R403) or before
an image has been verified and its alias key derived (R401; the code DESIGN CHOICE, log 108), and the negotiation order and
version of the connection. -/
def spdmRequest (s : State) (t : Transport) (req : List Byte) (code : Nat) (always : Bool) (needs : Spdm → Bool)
    (k : State → Spdm → State) : State :=
  if !(s.power.mode != .off && s.power.mode != .standby) || field req 1 1 ≠ code then s
  else if s.mbox.module = .activation ∨ s.mbox.module = .computeReset then spdmError s t 3
  else if !always && (!s.fw.identity || s.fw.aliasKey.isNone) then spdmError s t 5
  else
    let x := spdmOf s t
    if !needs x then spdmError s t 4
    else if code ≠ 0x84 ∧ x.version.any (fun v => v != BitVec.ofNat 8 (field req 0 1)) then spdmError s t 0x41
    else k s x

/-- A response goes out, and the exchange joins the connection's transcript. -/
def exchange (s : State) (t : Transport) (x : Spdm) (req resp : List Byte) : State :=
  respond (setSpdm s t { x with transcript := x.transcript ++ req ++ resp }) t resp

/-- GET_VERSION: versions 1.2 and 1.3, and the connection begins anew (R404). -/
def execSpdmGetVersion (t : Transport) (req : List Byte) (s : State) : Host.Outcome State Fault Refusal :=
  .next (spdmRequest s t req 0x84 true (fun _ => true) fun s x =>
    exchange s t { draws := x.draws } req ([0x10, 0x04, 0, 0, 0, 2] ++ leBytes 2 0x1200 ++ leBytes 2 0x1300))

/-- CERT_CAP, CHAL_CAP, MEAS_CAP = 10b, MEAS_FRESH_CAP (R404). -/
def spdmFlags : Nat := 0x36

/-- GET_CAPABILITIES: the version of the request is taken; the timing exponent and sizes are open values (log 3). -/
def execSpdmGetCapabilities (t : Transport) (req : List Byte) (s : State) : Host.Outcome State Fault Refusal :=
  .next (spdmRequest s t req 0xE1 true (fun x => !x.transcript.isEmpty) fun s x =>
    let v := field req 0 1
    if v ≠ 0x12 ∧ v ≠ 0x13 then spdmError s t 0x41
    else
      let (ct, s) := drawFree s
      let (sz, s) := drawFree s
      let resp := [BitVec.ofNat 8 v, 0x61, 0, 0, 0, BitVec.ofNat 8 ct, 0, 0] ++ leBytes 4 spdmFlags ++ leBytes 4 sz ++ leBytes 4 sz
      exchange s t { x with version := some (BitVec.ofNat 8 v), caps := true } req resp)

/-- NEGOTIATE_ALGORITHMS: SM2 P256 and SM3-256 only, where the request offers them (R404). -/
def execSpdmNegotiateAlgorithms (t : Transport) (req : List Byte) (s : State) : Host.Outcome State Fault Refusal :=
  .next (spdmRequest s t req 0xE3 true (fun x => x.caps) fun s x =>
    let asym := if bitAt (field req 8 4) 9 then 0x200 else 0
    let hash := if bitAt (field req 12 4) 6 then 0x40 else 0
    let v := x.version.getD 0x12
    let resp := [v, 0x63, 0, 0] ++ leBytes 2 36 ++ [0x01, 0] ++ leBytes 4 0x80 ++ leBytes 4 asym ++ leBytes 4 hash ++
      List.replicate 16 0
    exchange s t { x with algs := true } req resp)

/-- The slot 0 chain: length, root digest, the Folael, product, device and alias certificates (R402). -/
def certChain (s : State) : List Byte :=
  let certs := rootCertificate ++ certificateDer s.flash.identity.product ++ certificateDer s.flash.identity.device ++
    aliasCertificate (s.fw.deviceKey.getD 0) (s.fw.aliasKey.getD 0)
  leBytes 2 (36 + certs.length) ++ [0, 0] ++ sm3 rootCertificate ++ certs

/-- A signature by the alias key over the connection's transcript, r and then s (R401, R404). -/
def aliasSign (s : State) (message : List Byte) : List Byte :=
  let g := signBy (s.fw.aliasKey.getD 0) message
  beBytes 32 g.1 ++ beBytes 32 g.2

/-- GET_DIGESTS: slot 0 only (R404). -/
def execSpdmGetDigests (t : Transport) (req : List Byte) (s : State) : Host.Outcome State Fault Refusal :=
  .next (spdmRequest s t req 0x81 false (fun x => x.algs) fun s x =>
    exchange s t x req ([x.version.getD 0x12, 0x01, 0, 1] ++ sm3 (certChain s)))

/-- GET_CERTIFICATE: a portion of the slot 0 chain; another slot is an invalid request (R402, R404). -/
def execSpdmGetCertificate (t : Transport) (req : List Byte) (s : State) : Host.Outcome State Fault Refusal :=
  .next (spdmRequest s t req 0x82 false (fun x => x.algs) fun s x =>
    let chain := certChain s
    let off := field req 4 2
    if field req 2 1 ≠ 0 ∨ chain.length ≤ off then spdmError s t 1
    else
      let part := sub chain off (field req 6 2)
      exchange s t x req ([x.version.getD 0x12, 0x02, 0, 0] ++ leBytes 2 part.length ++
        leBytes 2 (chain.length - off - part.length) ++ part))

/-- Measurement block `i` of R406 as a DMTF measurement. -/
def measurement (s : State) (i : Nat) : List Byte :=
  let value (raw : Bool) (v : List Byte) : List Byte :=
    [BitVec.ofNat 8 i, 1] ++ leBytes 2 (v.length + 3) ++ [if raw then 0x80#8 else 0#8] ++ leBytes 2 v.length ++ v
  match i with
  | 1 => value false (padTo 32 s.fw.image.digest)
  | 2 => value false (padTo 32 s.fw.image.microcode)
  | 3 => value true (leBytes 4 s.flash.boot.secVersion ++ leBytes 4 s.flash.boot.keyFloor)
  | 4 => value false (leBytes 32 Config.configDigest.toNat)
  | 5 => value false (sm3 (profileBytes s.fw.profile))
  | 6 => value false (padTo 32 ((s.program.map (·.hdr.digest)).getD []))
  | _ => []

def allMeasurements (s : State) : List Byte := (List.range 6).flatMap fun i => measurement s (i + 1)

/-- Requester context of SPDM 1.3, echoed; none in 1.2. -/
def context13 (x : Spdm) (req : List Byte) (off : Nat) : List Byte := if x.version = some 0x13#8 then sub req off 8 else []

/-- CHALLENGE: CHALLENGE_AUTH signed by the alias key over the connection's transcript (R404). -/
def execSpdmChallenge (t : Transport) (req : List Byte) (s : State) : Host.Outcome State Fault Refusal :=
  .next (spdmRequest s t req 0x83 false (fun x => x.algs) fun s x =>
    if field req 2 1 ≠ 0 then spdmError s t 1
    else
      let summary := if field req 3 1 = 0 then [] else sm3 (allMeasurements s)
      let nonce := padTo 32 (Config.nonce x.draws)
      let body := [x.version.getD 0x12, 0x03, 0, 1] ++ sm3 (certChain s) ++ nonce ++ summary ++ [0, 0] ++ context13 x req 36
      let sig := aliasSign s (x.transcript ++ req ++ body)
      exchange s t { x with draws := x.draws + 1 } req (body ++ sig))

/-- GET_MEASUREMENTS: the count, one block or all of R406, signed when asked (R404, R406). -/
def execSpdmGetMeasurements (t : Transport) (req : List Byte) (s : State) : Host.Outcome State Fault Refusal :=
  .next (spdmRequest s t req 0xE0 false (fun x => x.algs) fun s x =>
    let op := field req 3 1
    let signed := bitAt (field req 2 1) 0
    if op ≠ 0xFF ∧ 6 < op ∨ (signed ∧ field req 36 1 % 16 ≠ 0) then spdmError s t 1
    else
      let record := if op = 0 then [] else if op = 0xFF then allMeasurements s else measurement s op
      let blocks := if op = 0 then 0 else if op = 0xFF then 6 else 1
      let nonce := padTo 32 (Config.nonce x.draws)
      let body := [x.version.getD 0x12, 0x60, BitVec.ofNat 8 (if op = 0 then 6 else 0), 0, BitVec.ofNat 8 blocks] ++
        leBytes 3 record.length ++ record ++ nonce ++ [0, 0] ++ context13 x req (if signed then 37 else 4)
      let sig := if signed then aliasSign s (x.transcript ++ req ++ body) else []
      exchange s t { x with draws := x.draws + 1 } req (body ++ sig))

/-- RESPOND_IF_READY: the module never defers a response, so none is waiting (R404; log 9). -/
def execSpdmRespondIfReady (t : Transport) (req : List Byte) (s : State) : Host.Outcome State Fault Refusal :=
  .next (spdmRequest s t req 0xFF false (fun x => x.algs) fun s _ => spdmError s t 4)

/-- DOE Discovery: entry 0 is DOE Discovery, entry 1 is CMA/SPDM (R356; layout PRESUMED from PCI Express, log 9). -/
def execDoeDiscovery (req : List Byte) (s : State) : Host.Outcome State Fault Refusal :=
  if s.power.mode = .off ∨ s.power.mode = .standby ∨ field req 0 2 ≠ 1 ∨ field req 2 1 ≠ 0 then .next s
  else
    let i := field req 8 1
    let entry : List Byte := match i with
      | 0 => leBytes 2 1 ++ [0, 1]
      | 1 => leBytes 2 1 ++ [1, 0]
      | _ => leBytes 2 0xFFFF ++ [0, 0]
    .next (emit s (.doe (leBytes 2 1 ++ [0, 0] ++ leBytes 4 3 ++ entry)))

end Sys2Proof.Machine
end

