-- ==== Sys2Proof/Machine/Dispatch.lean ====
section
/-! DEFINITION. The meaning of every command: one arm per constructor, each one call of the meaning that is its own. -/

namespace Sys2Proof.Machine

open Sys2Proof

def exec (i : Instr) (s : State) : Host.Outcome State Fault Refusal :=
  match i with
  | .powerOn b => Sys2Proof.Machine.execPowerOn b s
  | .portLinkUp p fkm => Sys2Proof.Machine.execPortLinkUp p fkm s
  | .linkGateWindowEnd p ratio codewords measured => Sys2Proof.Machine.execLinkGateWindowEnd p ratio codewords s measured
  | .portLinkTimeout p => Sys2Proof.Machine.execPortLinkTimeout p s
  | .supplyExcursion mv => Sys2Proof.Machine.execSupplyExcursion mv s
  | .supplyWarning mv => Sys2Proof.Machine.execSupplyWarning mv s
  | .supplyRecovery mv us => Sys2Proof.Machine.execSupplyRecovery mv us s
  | .supplyReset mv => Sys2Proof.Machine.execSupplyReset mv s
  | .overvoltageStop mv => Sys2Proof.Machine.execOvervoltageStop mv s
  | .resetInAssert => Sys2Proof.Machine.execResetInAssert s
  | .resetInRelease b => Sys2Proof.Machine.execResetInRelease b s
  | .perstAssert => Sys2Proof.Machine.execPerstAssert s
  | .thermalThrottleStart die celsius => Sys2Proof.Machine.execThermalThrottleStart die celsius s
  | .thermalClockLower celsius => Sys2Proof.Machine.execThermalClockLower celsius s
  | .thermalClockRaise die celsius => Sys2Proof.Machine.execThermalClockRaise die celsius s
  | .thermalFault die celsius => Sys2Proof.Machine.execThermalFault die celsius s
  | .thermalFaultClear celsius => Sys2Proof.Machine.execThermalFaultClear celsius s
  | .hardThermalTrip die celsius => Sys2Proof.Machine.execHardThermalTrip die celsius s
  | .coolantInletWarning inlet outlet watts => Sys2Proof.Machine.execCoolantInletWarning inlet outlet watts s
  | .coolantFlowWarning inlet outlet watts => Sys2Proof.Machine.execCoolantFlowWarning inlet outlet watts s
  | .mr4Read mpd celsius => Sys2Proof.Machine.execMr4Read mpd celsius s
  | .avcLoopTick watts => Sys2Proof.Machine.execAvcLoopTick watts s
  | .capUnreachable watts => Sys2Proof.Machine.execCapUnreachable watts s
  | .heartbeatTick => Sys2Proof.Machine.execHeartbeatTick s
  | .managementRestart reports => Sys2Proof.Machine.execManagementRestart reports s
  | .managementFault => Sys2Proof.Machine.execManagementFault s
  | .resetCtrlMboxReset key => Sys2Proof.Machine.execResetCtrlMboxReset key s
  | .resetCtrlComputeReset key failed => Sys2Proof.Machine.execResetCtrlComputeReset key failed s
  | .sqTailDoorbell r v => Sys2Proof.Machine.execSqTailDoorbell r v s
  | .eqHeadWrite v => Sys2Proof.Machine.execEqHeadWrite v s
  | .ringCtrlWrite r v => Sys2Proof.Machine.execRingCtrlWrite r v s
  | .ringBaseWrite r h v => Sys2Proof.Machine.execRingBaseWrite r h v s
  | .registerWrite offset width v => Sys2Proof.Machine.execRegisterWrite offset width v s
  | .bar2Read offset n => Sys2Proof.Machine.execBar2Read offset n s
  | .bar2Write offset data => Sys2Proof.Machine.execBar2Write offset data s
  | .functionLevelReset => Sys2Proof.Machine.execFunctionLevelReset s
  | .pcieHotReset => Sys2Proof.Machine.execPcieHotReset s
  | .pcieLinkLoss => Sys2Proof.Machine.execPcieLinkLoss s
  | .commandFetch entry data => Sys2Proof.Machine.execCommandFetch entry s data
  | .eventCoalesceDelay vec => Sys2Proof.Machine.execEventCoalesceDelay vec s
  | .eventCountInterrupt vec => Sys2Proof.Machine.execEventCountInterrupt vec s
  | .load c host h => Sys2Proof.Machine.execLoad c host h s
  | .unload c => Sys2Proof.Machine.execUnload c s
  | .start c remote => Sys2Proof.Machine.execStart c remote s
  | .fillPassComplete => Sys2Proof.Machine.execFillPassComplete s
  | .pause c => Sys2Proof.Machine.execPause c s
  | .pauseTakesEffect => Sys2Proof.Machine.execPauseTakesEffect s
  | .resume c remote => Sys2Proof.Machine.execResume c remote s
  | .save c => Sys2Proof.Machine.execSave c s
  | .restore c host => Sys2Proof.Machine.execRestore c host s
  | .halt c => Sys2Proof.Machine.execHalt c s
  | .computeResetCommand c failed => Sys2Proof.Machine.execComputeResetCommand c failed s
  | .benchEnter c => Sys2Proof.Machine.execBenchEnter c s
  | .benchLeave c celsius untrained => Sys2Proof.Machine.execBenchLeave c celsius untrained s
  | .watchSet c => Sys2Proof.Machine.execWatchSet c s
  | .watchClear c => Sys2Proof.Machine.execWatchClear c s
  | .layerBounds c => Sys2Proof.Machine.execLayerBounds c s
  | .journalArm c => Sys2Proof.Machine.execJournalArm c s
  | .journalReplay c => Sys2Proof.Machine.execJournalReplay c s
  | .fabricRecord c => Sys2Proof.Machine.execFabricRecord c s
  | .portRecord c host => Sys2Proof.Machine.execPortRecord c host s
  | .routeWrite c host => Sys2Proof.Machine.execRouteWrite c host s
  | .planWrite c => Sys2Proof.Machine.execPlanWrite c s
  | .portRetrain c ratio codewords measured => Sys2Proof.Machine.execPortRetrain c ratio codewords s measured
  | .squadSet c host => Sys2Proof.Machine.execSquadSet c host s
  | .readTable c => Sys2Proof.Machine.execReadTable c s
  | .powerCap c => Sys2Proof.Machine.execPowerCap c s
  | .profileSelect c => Sys2Proof.Machine.execProfileSelect c s
  | .profileWrite c host => Sys2Proof.Machine.execProfileWrite c host s
  | .fwStage c host => Sys2Proof.Machine.execFwStage c host s
  | .fwActivate c => Sys2Proof.Machine.execFwActivate c s
  | .activationEpoch a => Sys2Proof.Machine.execActivationEpoch a s
  | .fwConfirm c => Sys2Proof.Machine.execFwConfirm c s
  | .trialConfirmTimeout failed settingsOk => Sys2Proof.Machine.execTrialConfirmTimeout failed s settingsOk
  | .trialWatchdog failed settingsOk => Sys2Proof.Machine.execTrialWatchdog failed s settingsOk
  | .dma c host => Sys2Proof.Machine.execDma c host s
  | .abort c ring => Sys2Proof.Machine.execAbort c ring s
  | .proxyCommandReceive x => Sys2Proof.Machine.execProxyCommandReceive x s
  | .proxyCompletionReceive x => Sys2Proof.Machine.execProxyCompletionReceive x s
  | .smbusMctpCommand msg host => Sys2Proof.Machine.execSmbusMctpCommand msg s host
  | .spdmGetVersion t req => Sys2Proof.Machine.execSpdmGetVersion t req s
  | .spdmGetCapabilities t req => Sys2Proof.Machine.execSpdmGetCapabilities t req s
  | .spdmNegotiateAlgorithms t req => Sys2Proof.Machine.execSpdmNegotiateAlgorithms t req s
  | .spdmGetDigests t req => Sys2Proof.Machine.execSpdmGetDigests t req s
  | .spdmGetCertificate t req => Sys2Proof.Machine.execSpdmGetCertificate t req s
  | .spdmChallenge t req => Sys2Proof.Machine.execSpdmChallenge t req s
  | .spdmGetMeasurements t req => Sys2Proof.Machine.execSpdmGetMeasurements t req s
  | .spdmRespondIfReady t req => Sys2Proof.Machine.execSpdmRespondIfReady t req s
  | .periodBoundary => Sys2Proof.Machine.execPeriodBoundary s
  | .headroomHalving tensor => Sys2Proof.Machine.execHeadroomHalving tensor s
  | .stallAlarm layer => Sys2Proof.Machine.execStallAlarm layer s
  | .holdPoint => Sys2Proof.Machine.execHoldPoint s
  | .holdLimit => Sys2Proof.Machine.execHoldLimit s
  | .whistleUpDeadline => Sys2Proof.Machine.execWhistleUpDeadline s
  | .whistleUpFrame x => Sys2Proof.Machine.execWhistleUpFrame x s
  | .whistleDownFrame x => Sys2Proof.Machine.execWhistleDownFrame x s
  | .huddleEnter => Sys2Proof.Machine.execHuddleEnter s
  | .huddleFrame x h => Sys2Proof.Machine.execHuddleFrame x h s
  | .wait unit => Sys2Proof.Machine.execWait unit s
  | .signalAdd unit => Sys2Proof.Machine.execSignalAdd unit s
  | .signalAcquire unit => Sys2Proof.Machine.execSignalAcquire unit s
  | .signalRelease unit => Sys2Proof.Machine.execSignalRelease unit s
  | .pass unit stale time => Sys2Proof.Machine.execPass unit stale s time
  | .fillGateWaitLimit unit group time => Sys2Proof.Machine.execFillGateWaitLimit unit group s time
  | .fillGateFlushPoint unit group time => Sys2Proof.Machine.execFillGateFlushPoint unit s group time
  | .blockRefetchComplete unit time => Sys2Proof.Machine.execBlockRefetchComplete unit s time
  | .veOperation unit stale => Sys2Proof.Machine.execVeOperation unit stale s
  | .veFlagRead td ve => Sys2Proof.Machine.execVeFlagRead td ve s
  | .rowSoftmaxForward unit => Sys2Proof.Machine.execRowSoftmaxForward unit s
  | .rowSoftmaxBackward unit lost => Sys2Proof.Machine.execRowSoftmaxBackward unit s lost
  | .rowLayerNormForward unit => Sys2Proof.Machine.execRowLayerNormForward unit s
  | .rowLayerNormBackward unit lost => Sys2Proof.Machine.execRowLayerNormBackward unit s lost
  | .rowRmsNormForward unit => Sys2Proof.Machine.execRowRmsNormForward unit s
  | .rowRmsNormBackward unit lost => Sys2Proof.Machine.execRowRmsNormBackward unit s lost
  | .rowCategoricalDraw unit => Sys2Proof.Machine.execRowCategoricalDraw unit s
  | .move unit => Sys2Proof.Machine.execMove unit s
  | .ckptStore unit => Sys2Proof.Machine.execCkptStore unit s
  | .ckptLoad unit stale => Sys2Proof.Machine.execCkptLoad unit s stale
  | .updateMainPass unit stale => Sys2Proof.Machine.execUpdateMainPass unit s stale
  | .updateCopyPass unit => Sys2Proof.Machine.execUpdateCopyPass unit s
  | .awaySlotWriteStart slot => Sys2Proof.Machine.execAwaySlotWriteStart slot s
  | .versionSlotSwap slot => Sys2Proof.Machine.execVersionSlotSwap slot s
  | .bucketSend slips => Sys2Proof.Machine.execBucketSend s slips
  | .bucketFinish unit stale => Sys2Proof.Machine.execBucketFinish unit s stale
  | .bucketNorm unit => Sys2Proof.Machine.execBucketNorm unit s
  | .ingest unit => Sys2Proof.Machine.execIngest unit s
  | .instanceComplete unit stream index inst time => Sys2Proof.Machine.execInstanceComplete unit stream index inst s time
  | .tileResidueMismatch t dpu cycle lost => Sys2Proof.Machine.execTileResidueMismatch t s dpu cycle lost
  | .tileReprobe t passes => Sys2Proof.Machine.execTileReprobe t passes s
  | .capacityCompaction td kind => Sys2Proof.Machine.execCapacityCompaction td kind s
  | .unitResidueMismatch unit second reprobePasses => Sys2Proof.Machine.execUnitResidueMismatch unit second reprobePasses s
  | .managementTelemetry r => Sys2Proof.Machine.execManagementTelemetry r s
  | .unitTableApply u => Sys2Proof.Machine.execUnitTableApply u s
  | .reductionFrame x slips => Sys2Proof.Machine.execReductionFrame x slips s
  | .readRequest x reads => Sys2Proof.Machine.execReadRequest x reads s
  | .readResponse x => Sys2Proof.Machine.execReadResponse x s
  | .writeRequest x => Sys2Proof.Machine.execWriteRequest x s
  | .writeAck x => Sys2Proof.Machine.execWriteAck x s
  | .atomicRequest x => Sys2Proof.Machine.execAtomicRequest x s
  | .atomicResponse x => Sys2Proof.Machine.execAtomicResponse x s
  | .signalFrame x => Sys2Proof.Machine.execSignalFrame x s
  | .bulkData x => Sys2Proof.Machine.execBulkData x s
  | .bulkReadRequest x => Sys2Proof.Machine.execBulkReadRequest x s
  | .bulkAck x => Sys2Proof.Machine.execBulkAck x s
  | .discoveryFrame x => Sys2Proof.Machine.execDiscoveryFrame x s
  | .linkControlAck x => Sys2Proof.Machine.execLinkControlAck x s
  | .linkControlNak x => Sys2Proof.Machine.execLinkControlNak x s
  | .creditGrant x => Sys2Proof.Machine.execCreditGrant x s
  | .laneChangeRequest x => Sys2Proof.Machine.execLaneChangeRequest x s
  | .laneChangeConfirm x => Sys2Proof.Machine.execLaneChangeConfirm x s
  | .frameTransit x => Sys2Proof.Machine.execFrameTransit x s
  | .frameSend p => Sys2Proof.Machine.execFrameSend p s
  | .arpRequest p target sender => Sys2Proof.Machine.execArpRequest p target sender s
  | .neighbourSolicitation p target sender => Sys2Proof.Machine.execNeighbourSolicitation p target sender s
  | .icmpEchoRequest p target sender data => Sys2Proof.Machine.execIcmpEchoRequest p target sender data s
  | .icmpv6EchoRequest p target sender data => Sys2Proof.Machine.execIcmpv6EchoRequest p target sender data s
  | .lldpFrame p chassis portId => Sys2Proof.Machine.execLldpFrame p chassis portId s
  | .pauseFrame p => Sys2Proof.Machine.execPauseFrame p s
  | .nonKftFrame p => Sys2Proof.Machine.execNonKftFrame p s
  | .ptpSync p sequence rxTime => Sys2Proof.Machine.execPtpSync p sequence rxTime s
  | .ptpFollowUp p sequence origin => Sys2Proof.Machine.execPtpFollowUp p sequence origin s
  | .ptpDelayReq p sequence rxTime => Sys2Proof.Machine.execPtpDelayReq p sequence rxTime s
  | .ptpDelayResp p sequence rxTime => Sys2Proof.Machine.execPtpDelayResp p sequence rxTime s
  | .ptpSyncInterval => Sys2Proof.Machine.execPtpSyncInterval s
  | .ackInterval p => Sys2Proof.Machine.execAckInterval p s
  | .retransmitTimeout p => Sys2Proof.Machine.execRetransmitTimeout p s
  | .retryExhausted p => Sys2Proof.Machine.execRetryExhausted p s
  | .responseTimeout tid => Sys2Proof.Machine.execResponseTimeout tid s
  | .ecnEchoTimeout p cls => Sys2Proof.Machine.execEcnEchoTimeout p cls s
  | .rateAlphaInterval p cls => Sys2Proof.Machine.execRateAlphaInterval p cls s
  | .rateRecoveryInterval p cls => Sys2Proof.Machine.execRateRecoveryInterval p cls s
  | .discoveryInterval p => Sys2Proof.Machine.execDiscoveryInterval p s
  | .lldpInterval => Sys2Proof.Machine.execLldpInterval s
  | .laneLost p lane bits codewords => Sys2Proof.Machine.execLaneLost p lane s bits codewords
  | .laneRetrainComplete p lanes => Sys2Proof.Machine.execLaneRetrainComplete p lanes s
  | .laneRetrainTimeout p => Sys2Proof.Machine.execLaneRetrainTimeout p s
  | .stripeFlushTimeout stripe reads => Sys2Proof.Machine.execStripeFlushTimeout stripe s reads
  | .reconstructionRateLimit device => Sys2Proof.Machine.execReconstructionRateLimit device s
  | .deviceCommandTimeout device => Sys2Proof.Machine.execDeviceCommandTimeout device s
  | .dqsTracking device retrainFailures => Sys2Proof.Machine.execDqsTracking device retrainFailures s
  | .refresh mpd managed => Sys2Proof.Machine.execRefresh mpd s managed
  | .lpddr5xScrub row group reads xorOk reader => Sys2Proof.Machine.execLpddr5xScrub row group reads xorOk s reader
  | .sramScrub offset correctable uncorrectable reader => Sys2Proof.Machine.execSramScrub offset correctable uncorrectable s reader
  | .sampleDecodeStart igd => Sys2Proof.Machine.execSampleDecodeStart igd s
  | .sampleComplete igd engine busy => Sys2Proof.Machine.execSampleComplete igd engine s busy
  | .bitstreamFetchRetry igd engine => Sys2Proof.Machine.execBitstreamFetchRetry igd engine s
  | .beatEpoch => Sys2Proof.Machine.execBeatEpoch s
  | .memorySpaceEnable sizeLog2 cfg => Sys2Proof.Machine.execMemorySpaceEnable sizeLog2 s cfg
  | .doeDiscovery req => Sys2Proof.Machine.execDoeDiscovery req s

end Sys2Proof.Machine
end

