-- ==== Sys2Proof/Machine/Time.lean ====
section
/-! DEFINITION. The passing of time on an empty queue. -/

namespace Sys2Proof.Machine

open Sys2Proof

/-- The block idles for one nanosecond: only the timebase counts (R302; log 20). -/
def idle (s : State) : State := { s with timebase := s.timebase + 1 }

end Sys2Proof.Machine
end

