-- ==== Sys2Proof/Safety.lean ====
section
/-! DEFINITION. The terms the claims use: canonical memory, what a command leaves alone, a mailbox command that runs, a
frame that is received in order, an instance that issues. -/

namespace Sys2Proof.Machine

open Sys2Proof

/-! ### Invariants -/

/-- The three byte stores keep the one canonical form. -/
def MemOk (s : State) : Prop := Memory.wf s.mem.sram = true ∧ Memory.wf s.mem.dram = true ∧ Memory.wf s.mem.buffers = true

/-! ### Frames -/

/-- Every byte of memory reads as before. -/
def SameMemory (s t : State) : Prop :=
  ∀ a, readByte t.mem.sram a = readByte s.mem.sram a ∧ readByte t.mem.dram a = readByte s.mem.dram a ∧
    readByte t.mem.buffers a = readByte s.mem.buffers a

/-- The program, where it stands and all it carries are as before. -/
def SameProgram (s t : State) : Prop :=
  t.pstate = s.pstate ∧ t.program = s.program ∧ t.step = s.step ∧ t.seqs = s.seqs ∧ t.gates = s.gates ∧ t.beat = s.beat ∧
    t.scales = s.scales ∧ t.versions = s.versions ∧ t.reduce = s.reduce ∧ t.side = s.side ∧ t.ingest = s.ingest ∧
    t.journal = s.journal

/-- Streams as they are, but for the stripes that their instances' writes are still in. -/
def unbuffered (qs : List SeqUnit) : List SeqUnit :=
  qs.map fun q => { q with flight := q.flight.map fun f => { f with stripes := [] } }

/-- The same, but that instances may wait for other stripes of the write buffer. -/
def SameButStripes (s t : State) : Prop :=
  SameProgram { s with seqs := unbuffered s.seqs } { t with seqs := unbuffered t.seqs }

/-- Everything but the mailbox, the fabric's queues, the counts, the free values and the outputs, which posting an event or
a completion may change. -/
def SameUnder (s t : State) : Prop :=
  SameProgram s t ∧ t.mem = s.mem ∧ t.units = s.units ∧ t.power = s.power ∧ t.flash = s.flash ∧ t.fw = s.fw ∧
    t.spdm = s.spdm ∧ t.timebase = s.timebase ∧ t.pending = s.pending

/-! ### Mailbox commands -/

/-- A started command whose opcode is `op` is executed now: the MCP runs, the command's turn has come, and none of its data
are on their way already (R374, R383). -/
def Executes (s : State) (c : Cmd) (op : Nat) : Prop :=
  c.opcode = op ∧ s.mbox.mcpUp = true ∧ mayStart s c = true ∧ underWay s c = false

/-- A fetched command with an opcode of R384 may run now, on its ring, in a module and program state that allow it. -/
def Runs (s : State) (c : Cmd) (op ring : Nat) (compute memory : Bool) (states : List PState) : Prop :=
  Executes s c op ∧ c.ring = ring ∧ moduleOk s compute memory = true ∧ states.contains s.pstate = true

/-- The bytes that a command names are at hand (R383): they are `data`, and `u` is the state once they have been read. -/
def Reads (s : State) (c : Cmd) (kind addr n : Nat) (host : HostRead) (data : List Byte) (u : State) : Prop :=
  ∃ v, readData s c kind addr n host = (.bytes data, v) ∧ u = dropArrivals v (cmdKey c)

/-- The same of an image, whose header says how long it is (R218). -/
def ReadsImage (s : State) (c : Cmd) (kind addr : Nat) (host : HostRead) (img : List Byte) (u : State) : Prop :=
  ∃ v, readImage s c kind addr host = (.bytes img, v) ∧ u = dropArrivals v (cmdKey c)

/-- No mailbox reset has discarded a command's completion (R366). -/
def Kept (s : State) (c : Cmd) : Prop := ∀ e ∈ s.mbox.executing, e.cmd = c → e.discard = false

/-! ### Frames of the fabric -/

/-- A frame within the MAC's limit that passes its FCS, its UDP checksum, its CRC and the pool's ECC (R275, R279, R285,
R290). -/
def Sound (s : State) (x : Rx) : Prop :=
  oversize s.fabric.ports[x.port].rcd x.f = false ∧ x.fcsOk = true ∧ x.udpOk = true ∧ x.crcOk = true ∧ x.poolOk = true

/-- A sound frame of a type, in its class, next in sequence on a port that receives (R277, R283, R284). -/
def InOrder (s : State) (x : Rx) (typ : Nat) : Prop :=
  x.f.typ.toNat = typ ∧ classOf typ = some x.f.cls.toNat ∧ Sound s x ∧
    (s.fabric.ports[x.port].link = .up ∨ s.fabric.ports[x.port].link = .retraining) ∧
    x.f.seq = s.fabric.ports[x.port].expect

/-- Such a frame for this module, which has a node id and is not on the bench (R291, R459). -/
def Arrives (s : State) (x : Rx) (typ : Nat) : Prop :=
  InOrder s x typ ∧ s.power.mode ≠ .bench ∧ s.fabric.rcd.node ≠ 0xFFFF#16 ∧ x.f.dst = s.fabric.rcd.node

/-- The state after the link layer has taken a frame and its credits are owed (R284, R287, R288). -/
def received (s : State) (x : Rx) : State := oweCredits (linkReceive s x).1 x.port x.f

/-! ### Instances -/

/-- Instance `w` of instruction `p` is the one that its unit issues next (R197, R198). -/
def Issues (s : State) (w : Who) (p : PInstr) : Prop := pick s w.unit = some (w, p)

/-- Every source range of an instance's unit can be read: no line fails and none is still to come (R300, R351). -/
def Here (s : State) (unit : Nat) (rs : List (Nat × Nat)) : Prop := firstFailure s unit rs = none ∧ notYet s unit rs = []

/-- The state in which an instance whose sources are here does its work: it no longer waits for them, and its reads of
LPDDR5X have cost what they cost (R326). -/
def workState (s : State) (w : Who) (rs : List (Nat × Nat)) : State :=
  chargeReads { s with beat := { s.beat with deferred := s.beat.deferred.filter (·.who != w) } } w rs

/-- The same, as the instance issues. -/
def atWork (s : State) (w : Who) (p : PInstr) (rs : List (Nat × Nat)) : State := workState (issued s w p) w rs

/-- What an instance's remote reads brought is dropped behind its work, unless it still needs it. -/
def afterWork (w : Who) (s : State) : State := if keepsArrivals s w then s else dropArrivals s w.unit

/-- Every feeder queue of a pass reads its own tile's SRAM (R98). -/
def FeedsOwn (s : State) (unit : Nat) (v : PassEnv) (rs : List Rect) : Prop :=
  ∀ r ∈ feederRanges (peek s unit) v rs, inOwnTile s unit r.1 r.2 = true

/-! ### The beat -/

/-- What an up frame carries (R305). -/
def upOf (x : Rx) : Up :=
  let flags := field x.f.payload 15 1
  { port := x.port, hold := bitAt flags 0, abort := bitAt flags 1, halting := bitAt flags 2
    members := field x.f.payload 16 2, causes := BitVec.ofNat 8 (field x.f.payload 18 1) }

/-- What a down frame carries (R305), and whether its count falls short of the beat's members. -/
def decisionOf (s : State) (x : Rx) : Decision :=
  let flags := field x.f.payload 15 1
  { hold := bitAt flags 0, abort := bitAt flags 1, causes := BitVec.ofNat 8 (field x.f.payload 18 1)
    short := decide (field x.f.payload 16 2 < s.beat.members) }

/-- A period of a Running program ends with its decision at hand, no row at a gate and no block held, no fault and the hold
limit kept (R79, R210 to R213, R306). -/
def Decided (s : State) (d : Decision) : Prop :=
  s.pstate = .running ∧ s.beat.pauseDue = false ∧ s.gates = [] ∧ s.beat.heldBlocks = [] ∧ s.beat.atHoldPoint = true ∧ s.beat.upSent = true ∧
    s.beat.down = some d ∧ s.beat.missed = false ∧ s.beat.haltCause = none ∧
    ((s.beat.reasons = [] ∧ d.short = false) ∨ s.beat.holdRun + 1 ≤ holdLimitOf s)

/-! ### Power-on -/

/-- An image boots: the boot ROM's checks hold and the active slot holds `img`, which anti-rollback allows (R409, R420). -/
def Boots (s : State) (b : BootIn) (img : Image) : Prop :=
  b.bootRecordOk = true ∧ bootAuthentic (deriveIdentity s b) = true ∧ b.configOk = true ∧ b.slotOk = true ∧
    bootFieldsOk s.flash.boot = true ∧
    bootable s.flash s.flash.boot.activeSlot = some img

/-- What the power-on steps have done when they reach the training of the ports (R330, R403, R426 to R428). -/
def Booted (s t : State) (b : BootIn) (img : Image) : Prop :=
  t.mbox.mcpUp = true ∧ t.mbox.module = .bringUp ∧ t.power.mode = .bringUp ∧ t.fw.image = img ∧
    t.fw.identity = b.seedOk ∧ t.fw.activeProfile = b.profileSel.toFin ∧ t.flash.slots = s.flash.slots ∧ t.mem.dram = [] ∧
    (b.failedUnits = [] → t.units = bootUnits s.flash b ∧ t.pstate = s.pstate)

/-- Every rail went off: what is not in flash is gone, and the power log holds the cause and the lowest voltage (R456). -/
def RailsOff (s t : State) (mode : PowerMode) (cause low : Nat) : Prop :=
  t.power.mode = mode ∧ t.program = none ∧ t.pstate = .empty ∧ t.mem = {} ∧ t.mbox = {} ∧ t.units = [] ∧
    t.flash.slots = s.flash.slots ∧ t.flash.boot = s.flash.boot ∧ t.flash.powerLog = (cause, low) :: s.flash.powerLog ∧
    t.out.getLast? = some .railsOff

end Sys2Proof.Machine
end

