-- ==== Sys2Proof/Certificates/Slice0/Obligations.lean ====
section
/-! DEFINITION. The statements for the provers. Each formalises rules of spec/ that its docstring names. -/

open Sys2Proof Sys2Proof.Machine

/-! ### The block as a whole -/

/-- A step runs the command at the front of the queue on the state with the queue's rest. -/
def Obligations.StepRunsFront : Prop :=
  ∀ (s : State) (c : Instr) (rest : List Instr), s.pending = c :: rest → step s = exec c { s with pending := rest }

/-- The model's choice (log 20): a step on an empty queue counts one nanosecond of the timebase and nothing else. -/
def Obligations.IdleCountsOneNanosecond : Prop :=
  ∀ s : State, s.pending = [] → step s = .next { s with timebase := s.timebase + 1 }

/-- Registers of BAR0 in State.reset read the values of R361's reset columns; STATE reads power-on and Empty. -/
def Obligations.ResetRegisterValues : Prop :=
  (regRead State.reset 8 4 = 0 ∧ regRead State.reset 0xC 4 = 0 ∧ regRead State.reset 0x1010 4 = 0) ∧
  (∀ r < 4, regRead State.reset (0x1000 + 4 * r) 4 = 0) ∧
  (∀ r < 5, regRead State.reset (0x2000 + 0x20 * r) 8 = 0 ∧ regRead State.reset (0x2008 + 0x20 * r) 4 = 0 ∧
    regRead State.reset (0x200C + 0x20 * r) 4 = 0x1000 ∧ regRead State.reset (0x2010 + 0x20 * r) 4 = 0) ∧
  (∀ w < 4, regRead State.reset (0x3000 + 8 * w) 8 = 0xFFFF_1000_0000_0000) ∧
  (regRead State.reset 0x3020 4 = 0 ∧ regRead State.reset 0x3028 8 = 0 ∧ regRead State.reset 0x4000 8 = 0) ∧
  (∀ c < 64, regRead State.reset (0x4040 + c) 1 = 0) ∧ regRead State.reset 0x4080 4 = 1

/-- After a mailbox reset every register but DEV_ID, FW_VER, STATE and HEARTBEAT reads its reset value (R363), whatever
the state and whether the MCP runs or not; the program and every byte of memory stay. -/
def Obligations.MailboxResetRegisters : Prop :=
  ∀ (s : State) (cause : Nat),
    (∀ off width : Nat, 0x10 ≤ off → off < 0x10000 →
      regRead (mailboxReset s cause) off width = regRead State.reset off width) ∧
    regRead (mailboxReset s cause) 0 4 = regRead s 0 4 ∧ regRead (mailboxReset s cause) 4 4 = regRead s 4 4 ∧
    regRead (mailboxReset s cause) 0xC 4 = regRead s 0xC 4 ∧
    SameProgram s (mailboxReset s cause) ∧
      { (mailboxReset s cause).mem with acks := s.mem.acks, ends := s.mem.ends } = s.mem

/-- Every command answers a next state, in every state, and leaves the queue of waiting commands alone. -/
def Obligations.EveryCommandAnswersNext : Prop :=
  ∀ (c : Instr) (s : State), ∃ t, exec c s = .next t ∧ t.pending = s.pending

/-- Reset memory is in the canonical form. -/
def Obligations.ResetMemoryCanonical : Prop := MemOk State.reset

/-- Every step keeps the three byte stores in their canonical form: addresses rise and no listed byte is 0. -/
def Obligations.StepsKeepMemoryCanonical : Prop := ∀ s t : State, MemOk s → step s = .next t → MemOk t

/-! ### Memory -/

/-- Bytes written to a store read back, every other address reads as before, and the store stays canonical. A write of this
module's memory that succeeds reads back in full, touches no other byte of its space and no byte of the other two, in spaces
0x0 and 0x1 and in the buffers of space 0x2. A lost line of space 0x0 is delivered again once it is written whole (R319; log
107). -/
def Obligations.LocalWriteReadsBack : Prop :=
  (∀ (m : Memory) (a : Nat) (bs : List Byte), Memory.wf m = true →
    readBytes (writeBytes m a bs) a bs.length = bs ∧
    (∀ x : Nat, x < a ∨ a + bs.length ≤ x → readByte (writeBytes m a bs) x = readByte m x) ∧
    Memory.wf (writeBytes m a bs) = true) ∧
  (∀ (s t : State) (space off : Nat) (data : List Byte), MemOk s → data ≠ [] → writeLocal s space off data = (0, t) →
    (space = 0 → ∀ l ∈ s.mem.lostLines, l < off + data.length → off < l + 64 → off ≤ l ∧ l + 64 ≤ off + data.length) →
    readLocal t space off data.length = .bytes data ∧
    (∀ a : Nat, (space ≠ 0 ∨ a < off ∨ off + data.length ≤ a → readByte t.mem.sram a = readByte s.mem.sram a) ∧
      (space ≠ 1 ∨ a < off ∨ off + data.length ≤ a → readByte t.mem.dram a = readByte s.mem.dram a) ∧
      (space ≠ 2 ∨ a < off ∨ off + data.length ≤ a → readByte t.mem.buffers a = readByte s.mem.buffers a)) ∧
    SameButStripes s t)

/-- A reserved space, or an offset beyond the populated extent, answers the address error and touches no memory (R13). An access to
space 0x0 in a compute reset, that of an activation included (R416), completes with status 0x2 while space 0x1 goes on being
served (R320). -/
def Obligations.LocalAccessErrors : Prop :=
  (∀ (s : State) (space off n : Nat) (data : List Byte), 2 < space →
    readLocal s space off n = .fail 1 ∧ writeLocal s space off data = (1, s)) ∧
  (∀ (s : State) (off n : Nat), 0x80_0000_0000 < off + n → readLocal s 1 off n = .fail 1) ∧
  (∀ (s : State) (off : Nat) (data : List Byte), 0x80_0000_0000 < off + data.length → writeLocal s 1 off data = (1, s)) ∧
  (∀ (s : State) (off n : Nat), inReset s = false → sramPopulated s off n = false →
    readLocal s 0 off n = .fail 1) ∧
  (∀ (s : State) (off : Nat) (data : List Byte), inReset s = false → sramPopulated s off data.length = false →
    writeLocal s 0 off data = (1, s)) ∧
  (∀ (s : State) (off n : Nat), inReset s = false → bufferPopulated off n = false → viewPlace s off n = none →
    readLocal s 2 off n = .fail 1) ∧
  (∀ (s : State) (off : Nat), s.mem.retention = false → inReset s = true →
    (∀ n : Nat, readLocal s 0 off n = .fail 2) ∧ (∀ data : List Byte, writeLocal s 0 off data = (2, s)) ∧
    (∀ n : Nat, dramPopulated s off n = true → readLocal s 1 off n = .bytes (readBytes s.mem.dram off n)))

/-- The stripe mapping of R322 sends no two offsets of space 0x1 to one place, keeps a stripe in its group, and leaves the
parity unit's device out. -/
def Obligations.StripeMapInjective : Prop :=
  ∀ o p : Nat, o < 2 ^ 39 → p < 2 ^ 39 →
    ((dramMap o).1 = (dramMap p).1 → (dramMap o).2.1 = (dramMap p).2.1 → (dramMap o).2.2 = (dramMap p).2.2 → o = p) ∧
    (dramMap o).1 / 5 = groupOf o ∧ (dramMap o).1 ≠ parityDevice (o / 1024) ∧ (dramMap o).2.1 < 4 ∧
    (dramMap o).2.2 < 2 ^ 35

/-! ### Power and module -/

/-- The 50 V input: excursions, the supply warning and its clock, recovery, and the two levels that switch the rails off
(R454 to R456). An excursion that begins before the recovery from the one before is reported is counted for itself (the
model's choice, log 114). -/
def Obligations.SupplyVoltage : Prop :=
  (∀ (s : State) (mv : Nat), isPowered s = true → mv < 44000 → s.power.excursion = none →
    exec (.supplyExcursion mv) s = .next (bump { s with power := { s.power with
      vinMv := mv, excursion := some { lowMv := mv, warned := false } } } 0x1101 noInst noTensor 1)) ∧
  (∀ (s : State) (mv : Nat) (e : Excursion), isPowered s = true → mv < 44000 → s.power.excursion = some e →
    (e.ended = false → exec (.supplyExcursion mv) s = .next { s with power := { s.power with
      vinMv := mv, excursion := some { e with lowMv := min e.lowMv mv } } }) ∧
    (e.ended = true → exec (.supplyExcursion mv) s = .next (bump { s with power := { s.power with
      vinMv := mv, excursion := some { e with lowMv := min e.lowMv mv, ended := false } } } 0x1101 noInst noTensor 1))) ∧
  (∀ (s : State) (mv : Nat) (e : Excursion), 44000 ≤ mv → s.power.excursion = some e →
    exec (.supplyExcursion mv) s =
      .next { s with power := { s.power with vinMv := mv, excursion := some { e with ended := true } } }) ∧
  (∀ (s : State) (mv : Nat) (e : Excursion), isPowered s = true → mv ≤ 42000 → s.power.warning = false →
    s.power.excursion = some e → e.ended = false →
    exec (.supplyWarning mv) s = .next (post (settleClock { s with power := { s.power with
      vinMv := mv, warning := true, supplyMhz := some (max 500 (s.power.tdMhz / 2 / 25 * 25))
      excursion := some { lowMv := min e.lowMv mv, warned := true } } }) 0x1101 (packed [(4, mv), (4, s.step.toNat)]))) ∧
  (∀ (s : State) (mv us : Nat) (e : Excursion), isPowered s = true → 44000 ≤ mv → s.power.excursion = some e →
    exec (.supplyRecovery mv us) s = .next (post (settleClock { s with power := { s.power with
      vinMv := mv, excursion := none, warning := false, supplyMhz := none } }) 0x1102
      (packed [(4, e.lowMv), (4, us), (1, if e.warned then 1 else 0)]))) ∧
  (∀ (s : State) (mv : Nat), isPowered s = true → mv ≤ 38000 →
    ∃ t, exec (.supplyReset mv) s = .next t ∧ RailsOff s t .off 1 (lowestVoltage s mv)) ∧
  (∀ (s : State) (mv : Nat), isPowered s = true → 60000 < mv →
    ∃ t, exec (.overvoltageStop mv) s = .next t ∧ RailsOff s t .off 2 (lowestVoltage s mv))

/-- Power-on by the start threshold and by the release of RESET_IN#: the active slot's image runs, space 0x1 is zeroed, units
have their numbers and the ports train (R330, R407, R409, R426 to R428, R472); PROFILE_SEL is sampled once, as the input comes
(R471); a hard trip holds the module Off (R468). -/
def Obligations.PowerOn : Prop :=
  (∀ (s : State) (b : BootIn) (img : Image), s.power.mode = .off → 44000 ≤ b.mv → b.mv ≤ 60000 → s.power.hardTrip = false →
    s.power.resetInLow = false → Boots s b img → ∃ t, exec (.powerOn b) s = .next t ∧ Booted s t b img) ∧
  (∀ (s : State) (b : BootIn) (img : Image), s.power.resetInLow = true → isPowered s = false → 44000 ≤ b.mv →
    b.mv ≤ 60000 → Boots s b img →
    ∃ t, exec (.resetInRelease b) s = .next t ∧ t.power.resetInLow = false ∧
      Booted s t { b with profileSel := if s.power.mode = .standby then s.power.profileSel else b.profileSel } img) ∧
  (∀ (s : State) (b : BootIn), s.power.mode = .off → s.power.hardTrip = true → exec (.powerOn b) s = .next s)

/-- RESET_IN# held low and the hard thermal trip switch every rail off, and the power log takes the cause (R456, R468, R472). -/
def Obligations.PowerLoss : Prop :=
  (∀ s : State, isPowered s = true → ∃ t, exec .resetInAssert s = .next t ∧
    RailsOff s t .standby 4 (lowestVoltage s s.power.vinMv) ∧ t.power.resetInLow = true) ∧
  (∀ (s : State) (die celsius : Nat), isPowered s = true → (115 ≤ celsius ∨ (coolDies die = true ∧ 110 ≤ celsius)) →
    ∃ t, exec (.hardThermalTrip die celsius) s = .next t ∧
      RailsOff s t .off 3 (lowestVoltage s s.power.vinMv) ∧ t.power.hardTrip = true)

/-- A logical port at bring-up: it links up, runs the gate, and passes, fails or times out (R430 to R432). -/
def Obligations.PortBringUp : Prop :=
  (∀ (s : State) (p : Fin 12) (fkm : Bool), isPowered s = true → s.mbox.mcpUp = true → enabled s.fabric.ports[p] = true →
    s.fabric.ports[p].link = .training → s.fabric.ports[p].lanes ≠ 0 → s.fabric.ports[p].noGate = false →
    exec (.portLinkUp p fkm) s = .next (setPort s p { s.fabric.ports[p] with link := .gating, fkm := fkm })) ∧
  (∀ (m : Nat) (ms : List LaneTest) (k : Fin 8), bitAt (ratioLanes m ms) k.val = (bitAt m k.val ||
      ms.any fun x => x.lane == k && decide (x.bits < x.errors * 1000000)) ∧
    bitAt (codewordLanes m ms) k.val = (bitAt m k.val || ms.any fun x => x.lane == k && decide (0 < x.codewords))) ∧
  (∀ (s : State) (p : Fin 12) (ratio codewords : Byte) (ms : List LaneTest), s.fabric.ports[p].link = .gating →
    let bad := (ratioLanes ratio.toNat ms ||| codewordLanes codewords.toNat ms) &&& s.fabric.ports[p].lanes.toNat
    (bad = 0 → exec (.linkGateWindowEnd p ratio codewords ms) s =
      .next (checkReady (portUp s p s.fabric.ports[p].lanes.toNat))) ∧
    (bad ≠ 0 → exec (.linkGateWindowEnd p ratio codewords ms) s = .next (checkReady (portDrops (post
      (setPort s p { s.fabric.ports[p] with lost := s.fabric.ports[p].lost ||| BitVec.ofNat 8 bad }) 0x1007
        (packed [(1, p.val), (1, bad),
          (1, if ratioLanes ratio.toNat ms &&& s.fabric.ports[p].lanes.toNat = 0 then 2 else 1)])) p)))) ∧
  (∀ (s : State) (p : Fin 12), s.mbox.module = .bringUp → enabled s.fabric.ports[p] = true →
    s.fabric.ports[p].link = .training → s.fabric.ports[p].gated = false →
    ∃ v, exec (.portLinkTimeout p) s = .next (checkReady
      (post (setPort { s with freeIdx := s.freeIdx + 1 } p { s.fabric.ports[p] with gated := true }) 0x1007
        (packed [(1, p.val), (1, v), (1, 3)]))))

/-- Thermal throttling, the thermal fault and its end (R466, R467); coolant warnings and MR4 readings (R331, R469). That the
doubled refresh ends with the fault is the model's reading (DEDUCED, log 74), and the flow of an estimate that is none or
negative is a free value (log 3). -/
def Obligations.ThermalLimits : Prop :=
  (∀ (s : State) (die celsius : Nat), isPowered s = true → 100 ≤ celsius → s.power.throttling = false →
    exec (.thermalThrottleStart die celsius) s = .next (post
      { s with power := { s.power with throttling := true, thermalMhz := some s.power.tdMhz } } 0x1104
      (packed [(1, 1), (1, die), (4, celsius)]))) ∧
  (∀ (s : State) (celsius m : Nat), isPowered s = true → 100 ≤ celsius → s.power.throttling = true →
    s.power.thermalMhz = some m → exec (.thermalClockLower celsius) s =
      .next (settleClock { s with power := { s.power with thermalMhz := some (max 500 (m - 25)) } })) ∧
  (∀ (s : State) (die celsius m : Nat), isPowered s = true → celsius < 97 → s.power.throttling = true →
    s.power.thermalMhz = some m → m + 25 < tdClock { s.power with thermalMhz := none } →
    exec (.thermalClockRaise die celsius) s =
      .next (settleClock { s with power := { s.power with thermalMhz := some (m + 25) } })) ∧
  (∀ (s : State) (die celsius m : Nat), isPowered s = true → celsius < 97 → s.power.throttling = true →
    s.power.thermalMhz = some m → tdClock { s.power with thermalMhz := none } ≤ m + 25 →
    exec (.thermalClockRaise die celsius) s = .next (post
      (settleClock { s with power := { s.power with thermalMhz := none, throttling := false } }) 0x1104
      (packed [(1, 2), (1, die), (4, celsius)]))) ∧
  (∀ (s : State) (die celsius : Nat), isPowered s = true → 105 ≤ celsius → s.power.thermalFault = false →
    s.pstate = .running → s.mbox.module ≠ .mgmtFault →
    ∃ t, exec (.thermalFault die celsius) s = .next t ∧ t.pstate = .halted ∧ t.power.thermalFault = true ∧
      t.power.computeStopped = true ∧ t.beat.halting = true ∧ t.mbox.module = .computeReset ∧ t.mem = s.mem ∧
      t.program = s.program ∧ t.step = s.step) ∧
  (∀ (s : State) (celsius : Nat), celsius < 90 → s.power.thermalFault = true → exec (.thermalFaultClear celsius) s =
    .next { s with power := { s.power with thermalFault := false, refreshDoubled := false } }) ∧
  (∀ (s : State) (inlet outlet watts : Nat), isPowered s = true → s.fw.profile.coolantC ≤ inlet → inlet < outlet →
    exec (.coolantInletWarning inlet outlet watts) s = .next (post s 0x1106
      (packed [(1, 1), (4, inlet), (4, 9500 * watts / (663 * (outlet - inlet)))]))) ∧
  (∀ (s : State) (inlet watts : Nat), isPowered s = true → s.fw.profile.coolantC ≤ inlet →
    ∃ v, exec (.coolantInletWarning inlet inlet watts) s = .next (post { s with freeIdx := s.freeIdx + 1 } 0x1106
      (packed [(1, 1), (4, inlet), (4, v)]))) ∧
  (∀ (s : State) (inlet outlet watts : Nat), isPowered s = true → inlet < outlet → 600 ≤ watts →
    9500 * watts / (663 * (outlet - inlet)) < 1800 →
    exec (.coolantFlowWarning inlet outlet watts) s = .next (post s 0x1106
      (packed [(1, 2), (4, inlet), (4, 9500 * watts / (663 * (outlet - inlet)))]))) ∧
  (∀ (s : State) (inlet outlet watts : Nat), isPowered s = true → outlet < inlet → 600 ≤ watts →
    ∃ v, exec (.coolantFlowWarning inlet outlet watts) s = .next (post { s with freeIdx := s.freeIdx + 1 } 0x1106
      (packed [(1, 2), (4, inlet), (4, v)]))) ∧
  (∀ (s : State) (mpd : Fin 4) (a b c d e : Nat), isPowered s = true → s.power.mode ≠ .bench → a ≤ 105 → b ≤ 105 →
    c ≤ 105 → d ≤ 105 → e ≤ 105 → (∀ k < 5, getAt s.mem.devLost (5 * mpd.val + k) false = false) →
    ∃ t, exec (.mr4Read mpd [a, b, c, d, e]) s = .next t ∧ { t with mem := s.mem } = s ∧
      { t.mem with mr4 := s.mem.mr4 } = s.mem ∧
      (List.range 5).map (fun k => getAt t.mem.mr4 (5 * mpd.val + k) 0) = [a, b, c, d, e] ∧
      (∀ i : Nat, i < 5 * mpd.val ∨ 5 * mpd.val + 5 ≤ i → getAt t.mem.mr4 i 0 = getAt s.mem.mr4 i 0)) ∧
  (∀ (s : State) (mpd : Fin 4) (a : Nat), isPowered s = true → s.power.mode ≠ .bench → s.power.thermalFault = false →
    105 < a → getAt s.mem.devLost (5 * mpd.val) false = false →
    ∃ t, exec (.mr4Read mpd [a]) s = .next t ∧ t.power.thermalFault = true ∧ t.power.computeStopped = true)

/-- The adaptive voltage and clock loop (R461, R462). -/
def Obligations.ClockLoop : Prop :=
  (∀ (s : State) (watts : Nat), isPowered s = true → s.power.computeStopped = false → s.power.capW < watts →
    525 < s.power.loopMhz → exec (.avcLoopTick watts) s = .next (settleClock { s with power := { s.power with
      loopMhz := s.power.loopMhz - 25, msBelow := none, msAtFloor := none } })) ∧
  (∀ (s : State) (watts n : Nat), isPowered s = true → s.power.computeStopped = false → watts < s.power.capW - 50 →
    s.power.msBelow = some n → 9 ≤ n → s.power.loopMhz + 25 ≤ s.power.ceilMhz →
    exec (.avcLoopTick watts) s = .next (settleClock { s with power := { s.power with
      capReported := false, loopMhz := s.power.loopMhz + 25, msBelow := some 0, msAtFloor := none } })) ∧
  (∀ (s : State) (watts : Nat), isPowered s = true → s.power.loopMhz = 500 → 100 ≤ s.power.msAtFloor.getD 0 →
    s.power.capW < watts → s.power.capReported = false →
    exec (.capUnreachable watts) s = .next (post { s with power := { s.power with capReported := true } } 0x1107
      (packed [(4, s.power.capW), (4, watts)]))) ∧
  (∀ s : State, 500 ≤ s.power.ceilMhz → 500 ≤ s.power.loopMhz → s.power.thermalMhz = none → s.power.supplyMhz = none →
    (settleClock s).power.tdMhz = min (min s.power.ceilMhz s.power.loopMhz) 1500)

/-- The MCP's heartbeat, its watchdog restart and the management fault (R361, R447, R448). -/
def Obligations.Management : Prop :=
  (∀ s : State, s.mbox.mcpUp = true →
    exec .heartbeatTick s = .next { s with mbox := { s.mbox with heartbeat := s.mbox.heartbeat + 1 } }) ∧
  (∀ s : State, isPowered s = true → s.mbox.mcpUp = true → (recentRestarts s).length < 3 → isMember s = false →
    ∃ t, exec (.managementRestart []) s = .next t ∧ t.mbox.ringOn = Vector.replicate 5 false ∧
      t.mbox.restarts = s.timebase :: recentRestarts s ∧ (t.mbox.firstDue.map (·.code)) = some 0x1008 ∧
      SameProgram s t ∧ { t.mem with acks := s.mem.acks, ends := s.mem.ends } = s.mem ∧ t.units = s.units) ∧
  (∀ s : State, isPowered s = true → s.mbox.mcpUp = true → 3 ≤ (recentRestarts s).length →
    exec .managementFault s = .next { s with mbox := { s.mbox with module := .mgmtFault, mcpUp := false } })

/-! ### Host interface -/

/-- A mailbox reset is caused by MBOX_RESET with its key, a Function Level Reset, a hot reset and loss of the link (R365);
PERST# is a loss of the link (R472), and a write without the key has no effect (R361). The event names the cause (R366, R399).
What becomes of the PCI Express configuration with the function's reset and with the link, is the model's (PRESUMED, log
111). -/
def Obligations.MailboxResetCauses : Prop :=
  ∀ s : State, (barsOpen s = true → exec (.resetCtrlMboxReset 0xA5C3#16) s = .next (mailboxReset s 1)) ∧
    (let reset (u : State) (cause : Nat) : State :=
       { mailboxReset u cause with mbox := (mailboxReset u cause).mbox.functionReset }
     let down (u : State) : State := { reset u 4 with mbox := (reset u 4).mbox.linkDown }
     exec .functionLevelReset s = .next (reset s 2) ∧ exec .pcieHotReset s = .next (reset s 3) ∧
       exec .pcieLinkLoss s = .next (down s) ∧
       exec .perstAssert s = .next (down { s with power := { s.power with perstLow := true } })) ∧
    (∀ key : Word16, key ≠ 0xA5C3#16 → exec (.resetCtrlMboxReset key) s = .next s) ∧
    (s.mbox.mcpUp = true → isMember s = false → ∀ cause : Nat,
      ((mailboxReset s cause).mbox.firstDue.map fun e => (e.code, e.payload)) = some (0x0E07, packed [(1, cause)]))

/-- A compute reset runs on RESET_CTRL with its key and on COMPUTE_RESET, and the COMPUTE_RESET command then completes. -/
def Obligations.ComputeResetCauses : Prop :=
  (∀ (s : State) (failed : List TileId), barsOpen s = true → canReset s = true →
    exec (.resetCtrlComputeReset 0xA5C3#16 failed) s = .next (computeReset s 1 failed)) ∧
  (∀ (s : State) (c : Cmd) (failed : List TileId), Runs s c 0x0109 0 false false anyState → restZero c [] = true →
    canReset s = true → exec (.computeResetCommand c failed) s = .next (done (computeReset s 2 failed) c 0)) ∧
  (∀ (s : State) (c : Cmd) (failed : List TileId), Runs s c 0x0109 0 false false anyState → restZero c [] = true →
    canReset s = false → exec (.computeResetCommand c failed) s = .next (done s c 0x0B))

/-- What a compute reset leaves (R309, R320, R434): space 0x0, the buffers, side records, gates and queues are empty, nothing
is in flight, space 0x1 is as it was, flash keeps its images and records (the reports of a first READY take what they
report), and the module is READY. -/
def Obligations.ComputeResetLeaves : Prop :=
  ∀ (s : State) (cause : Nat) (failed : List TileId),
    let t := computeReset s cause failed
    t.mem.sram = [] ∧ t.mem.buffers = [] ∧ t.mem.dram = s.mem.dram ∧ t.side = [] ∧ t.gates = [] ∧ t.ingest = {} ∧
      t.reduce.tags = [] ∧ (∀ q ∈ t.seqs, q.flight = [] ∧ q.flags = 0) ∧
      t.flash.slots = s.flash.slots ∧ t.flash.boot = s.flash.boot ∧ (s.power.bootReported = true → t.flash = s.flash) ∧
      t.mbox.module = .ready ∧
      t.power.mode = .active ∧ t.power.computeStopped = false ∧ t.program = s.program ∧
      (s.pstate = .running ∨ s.pstate = .paused → s.mbox.module ≠ .mgmtFault → t.pstate = .halted)

/-- Doorbells, EQ_HEAD, RING_CTRL and RING_BASE (R361, R362, R372, R376): a doorbell at or beyond SIZE is BAD_DOORBELL whether
its ring is enabled or not; SIZE does not change while the ring is enabled, a RING_CTRL write that leaves it as it is being no
write to it (DEDUCED, log 25); the event ring, when it is enabled, takes the kept events in their order (R381). -/
def Obligations.RingRegisters : Prop :=
  (∀ (s : State) (r : Fin 4) (v : Word32), barsOpen s = true →
    bitsOf v.toNat 0 12 < (getAt s.mbox.ringSize r.val 0).toNat → exec (.sqTailDoorbell r v) s =
      .next { s with mbox := { s.mbox with sqTail := s.mbox.sqTail.set r (BitVec.ofNat 12 (bitsOf v.toNat 0 12)) } }) ∧
  (∀ (s : State) (r : Fin 4) (v : Word32), barsOpen s = true →
    (getAt s.mbox.ringSize r.val 0).toNat ≤ bitsOf v.toNat 0 12 → ∃ t, exec (.sqTailDoorbell r v) s = .next t ∧
      getAt t.mbox.ringErr r.val 0 = getAt s.mbox.ringErr r.val 0 ||| 1#3 ∧ getAt t.mbox.ringOn r.val false = false) ∧
  (∀ (s : State) (v : Word32), barsOpen s = true → bitsOf v.toNat 0 12 < s.mbox.ringSize[4].toNat →
    s.mbox.firstDue = none → s.mbox.heldCompletions = [] → s.mbox.lostCount = 0 →
    s.mbox.kept = [] → exec (.eqHeadWrite v) s =
      .next { s with mbox := { s.mbox with eqHead := BitVec.ofNat 12 (bitsOf v.toNat 0 12) } }) ∧
  (∀ (s : State) (v : Word32), barsOpen s = true → s.mbox.ringSize[4].toNat ≤ bitsOf v.toNat 0 12 →
    ∃ t, exec (.eqHeadWrite v) s = .next t ∧ t.mbox.ringErr[4] = s.mbox.ringErr[4] ||| 1#3 ∧ t.mbox.ringOn[4] = false) ∧
  (∀ (s : State) (r : Fin 5) (v : Word32), barsOpen s = true → s.mbox.ringOn[r] = false → bitAt v.toNat 16 = true →
    sizeOk (bitsOf v.toNat 0 13) = true → r ≠ 4 → exec (.ringCtrlWrite r v) s = .next { s with mbox := { s.mbox with
      ringSize := s.mbox.ringSize.set r (BitVec.ofNat 13 (bitsOf v.toNat 0 13)), ringOn := s.mbox.ringOn.set r true } }) ∧
  (∀ (s : State) (v : Word32), barsOpen s = true → s.mbox.ringOn[4] = false → bitAt v.toNat 16 = true →
    sizeOk (bitsOf v.toNat 0 13) = true → s.mbox.ringHead[4] = 0 → s.mbox.eqHead = 0 → s.mbox.firstDue = none →
    s.mbox.heldCompletions = [] → s.mbox.lostCount = 0 → s.mbox.lostSources = [] →
    (∀ e ∈ s.mbox.kept, masked s e.code = false) → s.mbox.kept.length < bitsOf v.toNat 0 13 →
    ∃ t, exec (.ringCtrlWrite 4 v) s = .next t ∧ t.mbox.ringOn[4] = true ∧ t.mbox.kept = [] ∧
      t.out = s.out ++ s.mbox.kept.zipIdx.map fun x =>
        .hostWrite (s.mbox.ringBase[4] + BitVec.ofNat 64 (32 * x.2)) (entryBytes x.1 s.mbox.phase)) ∧
  (∀ (s : State) (r : Fin 5) (v : Word32), barsOpen s = true → s.mbox.ringOn[r] = true → bitAt v.toNat 16 = false →
    bitsOf v.toNat 0 13 = s.mbox.ringSize[r].toNat → exec (.ringCtrlWrite r v) s =
      .next { s with mbox := { s.mbox with ringOn := s.mbox.ringOn.set r false } }) ∧
  (∀ (s : State) (r : Fin 5) (v : Word32), barsOpen s = true → s.mbox.ringOn[r] = false →
    sizeOk (bitsOf v.toNat 0 13) = false →
    (bitAt v.toNat 16 = true ∨ bitsOf v.toNat 0 13 ≠ s.mbox.ringSize[r].toNat) → ∃ t, exec (.ringCtrlWrite r v) s = .next t ∧
      t.mbox.ringErr[r] = s.mbox.ringErr[r] ||| 4#3 ∧ t.mbox.ringOn[r] = false) ∧
  (∀ (s : State) (r : Fin 5) (v : Word32), barsOpen s = true → s.mbox.ringOn[r] = true →
    bitsOf v.toNat 0 13 ≠ s.mbox.ringSize[r].toNat → ∃ t, exec (.ringCtrlWrite r v) s = .next t ∧
      t.mbox.ringErr[r] = s.mbox.ringErr[r] ||| 4#3 ∧ t.mbox.ringOn[r] = false ∧ t.mbox.ringSize = s.mbox.ringSize) ∧
  (∀ (s : State) (r : Fin 5) (v : Word64), barsOpen s = true → s.mbox.ringOn[r] = false →
    exec (.ringBaseWrite r .whole v) s = .next { s with mbox := { s.mbox with
      ringBase := s.mbox.ringBase.set r (v &&& 0xFFFF_FFFF_FFFF_F000#64) } }) ∧
  (∀ (s : State) (r : Fin 5) (h : Half) (v : Word64), barsOpen s = true → s.mbox.ringOn[r] = true →
    ∃ t, exec (.ringBaseWrite r h v) s = .next t ∧ t.mbox.ringBase = s.mbox.ringBase ∧
      t.mbox.ringErr[r] = s.mbox.ringErr[r] ||| 4#3)

/-- A register is accessed at its own offset and width, which is naturally aligned, or a 64-bit register in halves; any other
access reads 0 and writes nothing (R360). -/
def Obligations.RegisterAccess : Prop :=
  (∀ (s : State) (off width : Nat) (v : Word64), ¬(width ≠ 0 ∧ regWidth off = width) →
    ¬(width = 4 ∧ regWidth off = 8) → ¬(width = 4 ∧ off % 8 = 4 ∧ regWidth (off - 4) = 8) →
    regRead s off width = 0 ∧ exec (.registerWrite off width v) s = .next s) ∧
  (∀ (s : State) (off : Nat), regWidth off = 8 → off % 8 = 0 →
    regRead s off 8 = regRead s off 4 + 2 ^ 32 * regRead s (off + 4) 4) ∧
  (∀ (s : State) (off : Nat) (v : Word64), regWidth off = 8 → off % 8 = 0 →
    exec (.registerWrite off 4 v) s =
      exec (.registerWrite off 8 (BitVec.ofNat 64 (2 ^ 32 * regRead s (off + 4) 4 + v.toNat % 2 ^ 32))) s ∧
    exec (.registerWrite (off + 4) 4 v) s =
      exec (.registerWrite off 8 (BitVec.ofNat 64 (regRead s off 4 + 2 ^ 32 * (v.toNat % 2 ^ 32)))) s) ∧
  (∀ (s : State) (off width : Nat), width ≠ 0 → regWidth off = width → regRead s off width = regValue s off) ∧
  (∀ off : Nat, regWidth off ≠ 0 → off % regWidth off = 0)

/-- Writes of the event registers, the windows, the two error registers and the MSI-X table (R361): the mask keeps bit 0 at 0,
vectors have 6 bits, COUNT and DELAY are the halves of EVT_COAL, a window's low 28 bits read 0, and a 1 written to a bit of
RING_ERR or to ERR of WIN_ERR clears it. A vector's entry takes what is written, and an interrupt left pending goes out once
nothing masks it (the model's choice, log 6). -/
def Obligations.ControlRegisters : Prop :=
  (∀ (s : State) (v : Word64), barsOpen s = true → exec (.registerWrite 0x4000 8 v) s =
    .next { s with mbox := { s.mbox with evtMask := v &&& 0xFFFF_FFFF_FFFF_FFFE#64 } }) ∧
  (∀ (s : State) (c : Nat) (v : Word64), barsOpen s = true → c < 64 → exec (.registerWrite (0x4040 + c) 1 v) s =
    .next { s with mbox := { s.mbox with evtVec := setAt s.mbox.evtVec c (v.setWidth 6) } }) ∧
  (∀ (s : State) (v : Word64), barsOpen s = true → exec (.registerWrite 0x4080 4 v) s = .next { s with mbox := { s.mbox with
    coalCount := v.setWidth 16, coalDelay := (v >>> 16).setWidth 16 } }) ∧
  (∀ (s : State) (i : Fin 4) (v : Word64), barsOpen s = true → exec (.registerWrite (0x3000 + 8 * i.val) 8 v) s =
    .next { s with mbox := { s.mbox with winBase := s.mbox.winBase.set i (v &&& 0xFFFF_FFFF_F000_0000#64) } }) ∧
  (∀ (s : State) (off width : Nat) (v : Word64), off < 0x10 → exec (.registerWrite off width v) s = .next s) ∧
  (∀ (s : State) (r : Fin 5) (v : Word64), barsOpen s = true → exec (.registerWrite (0x2010 + 0x20 * r.val) 4 v) s =
    .next { s with mbox := { s.mbox with ringErr := s.mbox.ringErr.set r (s.mbox.ringErr[r] &&& ~~~(v.setWidth 3)) } }) ∧
  (∀ (s : State) (v : Word64), barsOpen s = true → exec (.registerWrite 0x3020 4 v) s =
    .next (if v.getLsbD 0 then { s with mbox := { s.mbox with winErr := false } } else s)) ∧
  (∀ (s : State) (i : Fin 64) (v : Word64), barsOpen s = true → ∃ t u,
    exec (.registerWrite (0x10000 + 16 * i.val) 8 v) s = .next t ∧
      t.mbox.msix = s.mbox.msix.set i ((s.mbox.msix[i] >>> 64 <<< 64) ||| v.setWidth 128) ∧
      exec (.registerWrite (0x10008 + 16 * i.val) 8 v) s = .next u ∧
      u.mbox.msix = s.mbox.msix.set i ((s.mbox.msix[i] &&& BitVec.ofNat 128 (2 ^ 64 - 1)) ||| (v.setWidth 128 <<< 64)) ∧
      (s.mbox.msixPba = 0 → t = { s with mbox := { s.mbox with msix := t.mbox.msix } } ∧
        u = { s with mbox := { s.mbox with msix := u.mbox.msix } }) ∧
      (s.mbox.msixPba = 1#64 <<< i.val → s.mbox.pcie.msixEnable = true → s.mbox.pcie.msixMask = false →
        v.getLsbD 32 = false → u.out = s.out ++ [.interrupt i.val] ∧ u.mbox.msixPba = 0))

/-- The BAR2 size that a write of Memory Space Enable brings into force; it changes only while the bit is clear (R358). While
the function does not answer at its BARs no access takes effect (PRESUMED, log 111). -/
def Obligations.MemorySpaceEnable : Prop :=
  (∀ (s : State) (k : Nat) (cfg : ConfigWrite), cfg.enable = true → s.mbox.memEnable = false → 30 ≤ k → k ≤ 39 →
    exec (.memorySpaceEnable (some k) cfg) s = .next (sendPending { s with
      mbox := { s.mbox with memEnable := true, barPending := k, barLog2 := k, pcie := configured s.mbox.pcie k cfg }
      power := { s.power with perstLow := false } })) ∧
  (∀ (s : State) (size : Option Nat) (cfg : ConfigWrite), cfg.enable = true → size = none ∨ s.mbox.memEnable = true →
    exec (.memorySpaceEnable size cfg) s = .next (sendPending { s with
      mbox := { s.mbox with memEnable := true, barLog2 := s.mbox.barPending
                            pcie := configured s.mbox.pcie s.mbox.barPending cfg }
      power := { s.power with perstLow := false } })) ∧
  (∀ (s : State) (size : Option Nat) (cfg : ConfigWrite), cfg.enable = false → ∃ t,
    exec (.memorySpaceEnable size cfg) s = .next t ∧ t.mbox.memEnable = false ∧ t.mbox.barLog2 = s.mbox.barLog2 ∧ t.mem = s.mem) ∧
  (∀ (s : State) (off width n : Nat) (v : Word64) (data : List Byte), barsOpen s = false →
    exec (.registerWrite off width v) s = .next s ∧ exec (.bar2Write off data) s = .next s ∧
    exec (.bar2Read off n) s = .next (emit s (.readData (List.replicate n 0xFF))))

/-- The global address that a BAR2 offset reaches (R367). -/
def Obligations.WindowAddress : Prop :=
  ∀ (s : State) (o n : Nat), 30 ≤ s.mbox.barLog2 → s.mbox.barLog2 ≤ 39 → o < 2 ^ s.mbox.barLog2 →
    let seg := 2 ^ (s.mbox.barLog2 - 2)
    let w := (getAt s.mbox.winBase (o / seg) 0).toNat
    let a := (bar2Place s o n).2.2
    (bar2Place s o n).1 = o / seg ∧ o / seg < 4 ∧ nodeOf a = bitsOf w 48 16 ∧ spaceOf a = bitsOf w 44 4 ∧
      offsetOf a = bitsOf w 28 16 * 2 ^ 28 / seg * seg + o % seg ∧ offsetOf a % seg = o % seg

/-- BAR2 accesses of this module's memory, the reads that wait for earlier writes of a stripe or for a sample, and what a
failed one returns and records (R324, R351, R368, R370); accesses of another module leave as one request while its length
allows that, and one without a route, or that ends with a status, is a window error of cause 3 (R295, R298). -/
def Obligations.WindowAccess : Prop :=
  (∀ (s : State) (off n win addr : Nat) (b : List Byte), barsOpen s = true → bar2Place s off n = (win, true, addr) →
    isLocal s (nodeOf addr) = true → spaceOf addr ≠ 8 → readLocal s (spaceOf addr) (offsetOf addr) n = .bytes b →
    s.mem.stripes = [] → exec (.bar2Read off n) s =
      .next (emit (if spaceOf addr = 1 then chargeRead s (offsetOf addr) n else s) (.readData b))) ∧
  (∀ (s : State) (off n win addr : Nat) (b : List Byte) (st : Stripe), barsOpen s = true →
    bar2Place s off n = (win, true, addr) →
    isLocal s (nodeOf addr) = true → spaceOf addr = 1 → readLocal s 1 (offsetOf addr) n = .bytes b → 0 < n →
    s.mem.stripes = [st] → offsetOf addr / 1024 = st.number → ∃ t, exec (.bar2Read off n) s = .next t ∧ t.out = s.out ∧
      t.mem.acks = s.mem.acks ++ [{ what := .output win addr (.readData b), stripes := [st.number] }]) ∧
  (∀ (s : State) (off n win addr : Nat), barsOpen s = true → bar2Place s off n = (win, true, addr) →
    isLocal s (nodeOf addr) = true →
    spaceOf addr ≠ 8 → readLocal s (spaceOf addr) (offsetOf addr) n = .wait →
    exec (.bar2Read off n) s = .next (waitForView s (offsetOf addr) (.window win addr n))) ∧
  (∀ (s : State) (off n win addr st : Nat), barsOpen s = true → bar2Place s off n = (win, true, addr) →
    s.mbox.winErr = false →
    isLocal s (nodeOf addr) = true → spaceOf addr ≠ 8 → readLocal s (spaceOf addr) (offsetOf addr) n = .fail st →
    ∃ t, exec (.bar2Read off n) s = .next t ∧ t.out.getLast? = some (.readData (List.replicate n 0xFF)) ∧
      t.mbox.winErr = true ∧ t.mbox.winCause = BitVec.ofNat 3 (winCauseOf st) ∧ t.mbox.winErrAddr = BitVec.ofNat 64 addr) ∧
  (∀ (s : State) (off n win addr : Nat), barsOpen s = true → bar2Place s off n = (win, false, addr) →
    s.mbox.winErr = false →
    ∃ t, exec (.bar2Read off n) s = .next t ∧ t.out.getLast? = some (.readData (List.replicate n 0xFF)) ∧
      t.mbox.winErr = true ∧ t.mbox.winCause = 5#3 ∧ t.mem = s.mem) ∧
  (∀ (s t : State) (off win addr : Nat) (data : List Byte), barsOpen s = true →
    bar2Place s off data.length = (win, true, addr) →
    isLocal s (nodeOf addr) = true → spaceOf addr ≠ 8 →
    writeLocal s (spaceOf addr) (offsetOf addr) data = (0, t) → exec (.bar2Write off data) s = .next t) ∧
  (∀ (s : State) (off win addr : Nat) (data : List Byte), barsOpen s = true →
    bar2Place s off data.length = (win, true, addr) →
    isLocal s (nodeOf addr) = true → spaceOf addr = 8 → exec (.bar2Write off data) s = .next (windowError s win 4 addr)) ∧
  (∀ (s : State) (off n win addr : Nat) (p : Fin 12), barsOpen s = true → bar2Place s off n = (win, true, addr) →
    isLocal s (nodeOf addr) = false → s.fabric.rcd.node ≠ 0xFFFF#16 → egress s (nodeOf addr) = some p →
    n ≤ requestMax s (nodeOf addr) →
    let t : Txn := { tid := s.fabric.nextTid, typ := 1, port := p, node := BitVec.ofNat 16 (nodeOf addr)
                     addr := BitVec.ofNat 64 addr, len := n, owner := .hostRead win n }
    let u := enqueue s p (mkFrame s 0x01 (nodeOf addr) 0 n s.fabric.nextTid.toNat (BitVec.ofNat 64 addr) [])
    exec (.bar2Read off n) s = .next { u with fabric := { u.fabric with
      nextTid := s.fabric.nextTid + 1, txns := s.fabric.txns ++ [t] } }) ∧
  (∀ (s : State) (off win addr : Nat) (p : Fin 12) (data : List Byte), barsOpen s = true →
    bar2Place s off data.length = (win, true, addr) → isLocal s (nodeOf addr) = false → s.fabric.rcd.node ≠ 0xFFFF#16 →
    egress s (nodeOf addr) = some p → data ≠ [] → data.length ≤ requestMax s (nodeOf addr) →
    let t : Txn := { tid := s.fabric.nextTid, typ := 3, port := p, node := BitVec.ofNat 16 (nodeOf addr)
                     addr := BitVec.ofNat 64 addr, len := data.length, owner := .hostWrite win }
    let u := enqueue s p (mkFrame s 0x03 (nodeOf addr) 0 data.length s.fabric.nextTid.toNat (BitVec.ofNat 64 addr) data)
    exec (.bar2Write off data) s = .next { u with fabric := { u.fabric with
      nextTid := s.fabric.nextTid + 1, txns := s.fabric.txns ++ [t] } }) ∧
  (∀ (s : State) (off n win addr : Nat), barsOpen s = true → bar2Place s off n = (win, true, addr) →
    isLocal s (nodeOf addr) = false → egress s (nodeOf addr) = none → n ≤ 1024 → s.mbox.winErr = false →
    ∃ t, exec (.bar2Read off n) s = .next t ∧ t.out.getLast? = some (.readData (List.replicate n 0xFF)) ∧
      t.mbox.winErr = true ∧ t.mbox.winCause = 3#3 ∧ t.mbox.winErrAddr = BitVec.ofNat 64 addr ∧ t.mem = s.mem) ∧
  (∀ (s : State) (x : Rx) (t : Txn) (win n : Nat), Arrives s x 0x02 → s.fabric.txns = [t] → t.tid = x.f.tid → t.typ = 1 →
    t.owner = .hostRead win n → x.f.status ≠ 0 → s.mbox.winErr = false → s.mbox.squad = [] → ∃ u,
    exec (.readResponse x) s = .next u ∧ u.out.getLast? = some (.readData (List.replicate n 0xFF)) ∧ u.mbox.winErr = true ∧
      u.mbox.winCause = 3#3 ∧ u.mbox.winErrAddr = t.addr) ∧
  (∀ (s : State) (x : Rx) (t : Txn) (win : Nat), Arrives s x 0x04 → s.fabric.txns = [t] → t.tid = x.f.tid → t.typ = 3 →
    t.owner = .hostWrite win → x.f.status ≠ 0 → s.mbox.winErr = false → s.mbox.squad = [] → ∃ u,
    exec (.writeAck x) s = .next u ∧ u.mbox.winErr = true ∧ u.mbox.winCause = 3#3 ∧ u.mbox.winErrAddr = t.addr)

/-- The MCP fetches a command from RING_BASE + 64 × index and starts it, moving RING_HEAD; a failed fetch sets FETCH_ERROR
(R372 to R375). -/
def Obligations.CommandFetch : Prop :=
  (∀ (s : State) (i : Nat) (raw : List Byte), s.mbox.mcpUp = true → s.mbox.heldCompletions = [] →
    s.mbox.module ≠ .activation → nextRing s = some i → s.mbox.killed = [] → field raw 8 2 = 0xFFFF →
    knownOpcode (field raw 0 2) = true → headerOk raw = true →
    ∀ data : HostRead, ∃ t, exec (.commandFetch (some raw) data) s = .next t ∧
      t.mbox.executing = s.mbox.executing ++
        [{ cmd := { parseCmd .pcie i raw with nth := s.mbox.fetched }, discard := false }] ∧
      getAt t.mbox.ringHead i 0 = BitVec.ofNat 12
        (((getAt s.mbox.ringHead i 0).toNat + 1) % max (getAt s.mbox.ringSize i 0).toNat 1) ∧
      (∃ o, t.out = s.out ++ [.hostRead (getAt s.mbox.ringBase i 0 +
        BitVec.ofNat 64 (64 * (getAt s.mbox.ringHead i 0).toNat)) 64] ++ o) ∧ SameProgram s t ∧ t.mem = s.mem) ∧
  (∀ (s : State) (i : Fin 4), s.mbox.mcpUp = true → s.mbox.heldCompletions = [] → s.mbox.module ≠ .activation →
    nextRing s = some i.val → ∀ data : HostRead, ∃ t, exec (.commandFetch none data) s = .next t ∧
      getAt t.mbox.ringErr i.val 0 = getAt s.mbox.ringErr i.val 0 ||| 2#3 ∧ getAt t.mbox.ringOn i.val false = false)

/-- Interrupts (R382): DELAY after the first event, or COUNT events, send the vector's interrupt; events beyond COUNT count
toward the next. A masked one is left pending (R356; the model's, log 111). -/
def Obligations.Interrupts : Prop :=
  (∀ (s : State) (vec : Fin 64), s.mbox.pcie.msixEnable = true → s.mbox.pcie.msixMask = false → 1 ≤ s.mbox.sinceIrq[vec] →
    (s.mbox.msix[vec]).getLsbD 96 = false → ∃ t, exec (.eventCoalesceDelay vec) s = .next t ∧
      t.out = s.out ++ [.interrupt vec.val] ∧ t.mbox.sinceIrq[vec] = 0 ∧ t.mbox.msixPba = s.mbox.msixPba) ∧
  (∀ (s : State) (vec : Fin 64), s.mbox.pcie.msixEnable = true → s.mbox.pcie.msixMask = false →
    max 1 s.mbox.coalCount.toNat ≤ s.mbox.sinceIrq[vec] →
    (s.mbox.msix[vec]).getLsbD 96 = false → ∃ t, exec (.eventCountInterrupt vec) s = .next t ∧
      t.out = s.out ++ [.interrupt vec.val] ∧ t.mbox.sinceIrq[vec] = s.mbox.sinceIrq[vec] - max 1 s.mbox.coalCount.toNat ∧
      t.mbox.msixPba = s.mbox.msixPba) ∧
  (∀ (s : State) (vec : Fin 64), s.mbox.pcie.msixEnable = true → max 1 s.mbox.coalCount.toNat ≤ s.mbox.sinceIrq[vec] →
    (s.mbox.pcie.msixMask = true ∨ (s.mbox.msix[vec]).getLsbD 96 = true) → ∃ t, exec (.eventCountInterrupt vec) s = .next t ∧
      t.out = s.out ∧ t.mbox.sinceIrq[vec] = s.mbox.sinceIrq[vec] - max 1 s.mbox.coalCount.toNat ∧
      t.mbox.msixPba = s.mbox.msixPba ||| (1#64 <<< vec.val))

/-- An event entry has 32 bytes in the order of R377, and a completion's payload is that of R379. A command that came by PCI
Express puts its completion into the event ring while there is room, and changes nothing that lies under the mailbox (R374,
R376). -/
def Obligations.CompletionWritten : Prop :=
  (∀ (e : Event) (phase : Bool), (entryBytes e phase).length = 32 ∧ field (entryBytes e phase) 0 2 = e.code % 2 ^ 16 ∧
    bitAt (field (entryBytes e phase) 2 1) 0 = phase ∧ bitAt (field (entryBytes e phase) 2 1) 1 = e.lost ∧
    field (entryBytes e phase) 3 1 = e.ring % 256 ∧ field (entryBytes e phase) 4 2 = e.source.toNat ∧
    field (entryBytes e phase) 6 2 = e.seq.toNat) ∧
  (∀ (c : Cmd) (seq : Word16) (phase : Bool) (status result v1 v2 : Nat),
    let b := entryBytes (completionEvent c seq status result v1 v2) phase
    field b 8 4 = c.tag.toNat ∧ field b 12 1 = status % 256 ∧ field b 13 1 = result % 256 ∧
      field b 14 2 = c.opcode % 2 ^ 16 ∧ field b 16 8 = v1 % 2 ^ 64 ∧ field b 24 8 = v2 % 2 ^ 64) ∧
  (∀ (s : State) (c : Cmd) (status result v1 v2 : Nat), c.path = .pcie → s.mbox.ringOn[4] = true →
    s.mbox.heldCompletions = [] → ringFull s = false → Kept s c →
    ∃ (t : State) (lost : Bool), complete s c status result v1 v2 = t ∧
      t.out = s.out ++ [.hostWrite (s.mbox.ringBase[4] + BitVec.ofNat 64 (32 * s.mbox.ringHead[4].toNat))
        (entryBytes { completionEvent c s.mbox.evtSeq status result v1 v2 with lost := lost } s.mbox.phase)] ∧
      t.mbox.executing = s.mbox.executing.filter (fun e => e.cmd != c) ∧ t.mbox.evtSeq = s.mbox.evtSeq + 1 ∧
      SameUnder s t)

/-- The checks of R384 by the example of POWER_CAP, SAVE and HALT, and an unknown opcode: a ring, a module state, a field or a
program state that does not fit completes the command with its status and none of its effect. That the ring comes before the
module state and the module state before the fields is the model's (DESIGN CHOICE, log 27). -/
def Obligations.CommandRefusals : Prop :=
  (∀ (s : State) (c : Cmd), Executes s c 0x0501 → c.ring ≠ 1 → exec (.powerCap c) s = .next (done s c 0x03)) ∧
  (∀ (s : State) (c : Cmd), Executes s c 0x0106 → c.ring = 1 →
    moduleOk s true true = false → exec (.save c) s = .next (done s c 0x0B)) ∧
  (∀ (s : State) (c : Cmd), Runs s c 0x0501 1 false false anyState → (arg c 16 2 < 600 ∨ 2400 < arg c 16 2) →
    exec (.powerCap c) s = .next (done s c 0x02)) ∧
  (∀ (s : State) (c : Cmd), Executes s c 0x0108 → c.ring = 0 → moduleOk s false false = true → restZero c [] = true →
    s.pstate ≠ .running → s.pstate ≠ .paused →
    exec (.halt c) s = .next (done s c 0x04)) ∧
  (∀ (s : State) (c : Cmd), knownOpcode c.opcode = false → startCmd s c true = done s c 0x01)

/-- LOAD is refused with status 0x05 and result 0x10 while an activation is scheduled or an image is on trial; a first piece
that discards the staging cancels a scheduled activation with an event of cause 1 (R415). -/
def Obligations.LoadRefusedInTrial : Prop :=
  (∀ (s : State) (c : Cmd) (host : HostRead) (h : LoadHints), Runs s c 0x0101 1 true true [.empty] → arg c 24 1 ≤ 1 →
    restZero c [(16, 9), (32, 8)] = true → (s.fw.activation.isSome = true ∨ s.fw.trial = true) →
    exec (.load c host h) s = .next (complete s c 0x05 0x10 0 0)) ∧
  (∀ (s v : State) (c : Cmd) (host : HostRead) (data : List Byte) (e : Nat), Runs s c 0x0504 2 false false anyState →
    (s.mbox.executing.find? fun e => e.cmd.opcode == 0x0504).map (·.cmd) = some c → arg c 24 1 = 0 → arg c 25 1 ≤ 1 →
    arg c 28 4 % 512 = 0 → 0 < arg c 28 4 → arg c 28 4 ≤ 0x400_0000 → restZero c [(16, 10), (28, 12)] = true →
    Reads s c 0 (arg c 16 8) (arg c 28 4) host data v → arg c 32 8 = 0 → s.fw.activation = some e →
    let u := post { v with flash := { v.flash with staging := [], stagingComplete := false }
                           fw := { v.fw with activation := none } } 0x0F05 (packed [(1, 1)])
    exec (.fwStage c host) s = .next (if headerCheck s.flash (data.take 512) ≠ 0
      then complete u c 0x05 (headerCheck s.flash (data.take 512)) 0 0
      else appendPiece u c data (bitAt (arg c 25 1) 0)))

/-- LOAD of an object that passes the checks of R209 leaves the program Loaded at step 0 with every token at its declared
initial value; UNLOAD leaves no program (R200, R215). -/
def Obligations.LoadAndUnload : Prop :=
  (∀ (s v : State) (c : Cmd) (host : HostRead) (h : LoadHints) (obj : List Byte) (p : Program),
    Runs s c 0x0101 1 true true [.empty] → arg c 24 1 ≤ 1 → restZero c [(16, 9), (32, 8)] = true →
    s.fw.activation = none → s.fw.trial = false →
    Reads s c (arg c 24 1) (arg c 16 8) (arg c 32 8) host obj v → loadResult v obj h = (0, some p) →
    ∃ t, exec (.load c host h) s = .next t ∧ t.pstate = .loaded ∧ t.program = some p ∧ t.step = 0 ∧
      t.seqs = p.stages.map (fun g => { unit := g.unit, tokens := g.tokens.map fun d => freshToken d 0 }) ∧
      t.scales.trackers = (trackDescs p).map freshTracker ∧ t.scales.layers = (layerDescs p).map freshLayer) ∧
  (∀ (s : State) (c : Cmd), Runs s c 0x0102 1 true true [.loaded, .paused, .halted] → restZero c [] = true →
    ∃ t, exec (.unload c) s = .next t ∧ t.pstate = .empty ∧ t.program = none ∧ t.seqs = [] ∧ t.versions = [] ∧ t.mem = s.mem)

/-- START, RESUME, PAUSE and HALT (R215, R216, R234), the end of a pause's step, and the fill
pass that leaves the slot of a record's epoch home (R234). -/
def Obligations.RunCommands : Prop :=
  (∀ (s : State) (c : Cmd) (remote : List (Nat × List Byte)) (p : Program), Runs s c 0x0103 1 true true [.loaded] →
    restZero c [(16, 8)] = true → s.program = some p → s.step ≠ lastStep → s.timebase + 2000000 ≤ arg c 16 8 →
    arg c 16 8 ≤ s.timebase + 60000000000 → catalogueMismatch (chargeCatalogues s) remote = none →
    ∃ t, exec (.start c remote) s = .next t ∧ t.pstate = .running ∧ t.beat.epoch = arg c 16 8 ∧ t.beat.started = false ∧
      t.beat.stoppage = p.hdr.stoppage ∧ t.beat.fills = emptyHomes s ∧ t.program = some p ∧ t.step = s.step ∧
      t.seqs = s.seqs ∧ t.mem = (chargeCatalogues s).mem) ∧
  (∀ (s : State) (c : Cmd) (remote : List (Nat × List Byte)) (p : Program), Runs s c 0x0105 1 true true [.paused] →
    restZero c [(16, 8)] = true → s.program = some p → s.step ≠ lastStep → s.timebase + 2000000 ≤ arg c 16 8 →
    arg c 16 8 ≤ s.timebase + 60000000000 → catalogueMismatch (chargeCatalogues s) remote = none →
    ∃ t, exec (.resume c remote) s = .next t ∧ t.pstate = .running ∧ t.beat.epoch = arg c 16 8 ∧ t.beat.started = false ∧
      t.beat.stoppage = p.hdr.stoppage ∧ t.program = some p ∧ t.step = s.step ∧ t.seqs = s.seqs ∧
      t.mem = (chargeCatalogues s).mem) ∧
  (∀ (s : State) (c : Cmd), Runs s c 0x0104 1 true true [.running] → restZero c [(16, 8), (24, 8)] = true →
    s.step.toNat ≤ arg c 16 8 → arg c 24 8 = s.beat.epoch → exec (.pause c) s = .next (done { s with beat := { s.beat with
      pauseAt := some (BitVec.ofNat 64 (arg c 16 8)), pauseCause := 0 } } c 0)) ∧
  (∀ s : State, s.beat.pauseDue = true → s.pstate = .running → ∃ t, exec .pauseTakesEffect s = .next t ∧
    t.pstate = .paused ∧ t.beat.pauseDue = false ∧ t.mem = s.mem ∧ t.program = s.program ∧ t.step = s.step) ∧
  (∀ (s : State) (c : Cmd), Runs s c 0x0108 0 false false [.running, .paused] → restZero c [] = true →
    ∃ t, exec (.halt c) s = .next t ∧ t.pstate = .halted ∧ t.beat.halting = true ∧ t.mem = s.mem ∧
      t.program = s.program ∧ t.step = s.step ∧ t.seqs = s.seqs) ∧
  (∀ (s : State) (p : Program) (v : VState), s.pstate = .running → s.program = some p → s.beat.fills = [v.record] →
    s.versions = [v] → fillFailure s v.record = none → ∃ t v', exec .fillPassComplete s = .next t ∧ t.beat.fills = [] ∧ t.versions = [v'] ∧
      v'.record = v.record ∧
      v'.slot (tokenValue s v.unit (parseVersion (descOf p v.record)).epochToken) =
        { tag := BitVec.ofNat 16 (tokenValue s v.unit (parseVersion (descOf p v.record)).epochToken),
          fmt := copyFormat s p v.record, cond := .home } ∧ t.pstate = .running ∧ t.program = some p)

/-- START and RESUME are refused with a catalogue-mismatch event, and the program keeps its state, when the first 64 bits of
the SM3 digest of a catalogue's N × 32 bytes do not match a descriptor (R344). -/
def Obligations.CatalogueMismatch : Prop :=
  (∀ (s : State) (c : Cmd) (remote : List (Nat × List Byte)) (p : Program) (v want got : Nat),
    Runs s c 0x0103 1 true true [.loaded] → restZero c [(16, 8)] = true → s.program = some p → s.step ≠ lastStep →
    s.timebase + 2000000 ≤ arg c 16 8 → arg c 16 8 ≤ s.timebase + 60000000000 →
    catalogueMismatch (chargeCatalogues s) remote = some (v, want, got) →
    ∃ t, exec (.start c remote) s = .next t ∧
      t = complete (post (chargeCatalogues s) 0x0D02 (packed [(1, v), (8, want), (8, got)])) c 0x05 2 0 0 ∧ SameProgram s t) ∧
  (∀ (s : State) (c : Cmd) (remote : List (Nat × List Byte)) (p : Program) (v want got : Nat),
    Runs s c 0x0105 1 true true [.paused] → restZero c [(16, 8)] = true → s.program = some p → s.step ≠ lastStep →
    s.timebase + 2000000 ≤ arg c 16 8 → arg c 16 8 ≤ s.timebase + 60000000000 →
    catalogueMismatch (chargeCatalogues s) remote = some (v, want, got) →
    ∃ t, exec (.resume c remote) s = .next t ∧
      t = complete (post (chargeCatalogues s) 0x0D02 (packed [(1, v), (8, want), (8, got)])) c 0x05 2 0 0 ∧ SameProgram s t) ∧
  (∀ (s : State) (p : Program) (remote : List (Nat × List Byte)), s.program = some p →
    (catalogueMismatch s remote = none ↔
      ∀ x ∈ ingestDescs p, leNat ((sm3 (catalogueBytes s x.1 x.2 remote)).take 8) = x.2.digest)) ∧
  (∀ (s : State) (slot : Nat) (d : IngestDesc) (remote : List (Nat × List Byte)) (b : List Byte),
    isLocal s (nodeOf d.catalogue) = true →
    readLocal s (spaceOf d.catalogue) (offsetOf d.catalogue) (32 * d.entries) = .bytes b → catalogueBytes s slot d remote = b)

/-- SAVE writes the context image and posts it; a block that fails its checks stops it with the events of a block-format fault, and the
program stays Paused (R83, R215; the status is the model's choice, log 41). RESTORE takes the image's step, and a Halted program becomes Paused; an image
that does not fit is refused with its reason (R217 to R219). An access that fails ends either with status 0x07 (R13, R384). -/
def Obligations.SaveAndRestore : Prop :=
  (∀ (s : State) (c : Cmd) (p : Program), Runs s c 0x0106 1 true true [.paused] →
    restZero c [(16, 9), (32, 8)] = true → s.program = some p → arg c 24 1 = 0 → c.path ≠ .proxy → Kept s c →
    gatherReads s c (fun v => contextReads v p) = (.bytes [], s) →
    let v := asMcp s c
    let img := contextImage v p
    img.length ≤ arg c 32 8 → contextFault v p = none → exec (.save c) s = .next (complete
      (post (emit (chargeContext (dropArrivals s (cmdKey c)) (contextReads v p))
        (.hostWrite (BitVec.ofNat 64 (arg c 16 8)) img true)) 0x0805
        (packed [(4, s.step.toNat), (8, img.length), (8, leNat ((imageDigest img).take 8))])) c 0 0 img.length
      (leNat ((imageDigest img).take 8)))) ∧
  (∀ (s : State) (c : Cmd) (p : Program) (n : Nat) (e : Skew), Runs s c 0x0106 1 true true [.paused] →
    restZero c [(16, 9), (32, 8)] = true → s.program = some p → arg c 24 1 ≤ 1 →
    gatherReads s c (fun v => contextReads v p) = (.bytes [], s) →
    (contextImage (asMcp s c) p).length ≤ arg c 32 8 → contextFault (asMcp s c) p = some (n, e) →
    let u := saveFault (dropArrivals s (cmdKey c)) n e
    exec (.save c) s = .next (done u c 0x05) ∧ u.pstate = .paused) ∧
  (∀ (s : State) (c : Cmd) (p : Program), Runs s c 0x0106 1 true true [.paused] →
    restZero c [(16, 9), (32, 8)] = true → s.program = some p → arg c 24 1 ≤ 1 →
    (firstFailure (asMcp s c) mcpUnit ((contextReads (asMcp s c) p).filter fun r => decide (0 < r.2))).isSome = true →
    exec (.save c) s = .next (done (dropArrivals s (cmdKey c)) c 0x07)) ∧
  (∀ (s v : State) (c : Cmd) (host : HostRead) (p : Program) (img : List Byte),
    Runs s c 0x0107 1 true true [.loaded, .paused, .halted] → restZero c [(16, 9)] = true → s.program = some p →
    arg c 24 1 ≤ 1 → ReadsImage s c (arg c 24 1) (arg c 16 8) host img v → imageRefusal v p contextMagic img = 0 →
    imagePlaceable v p img = true → imageFault p img = none →
    ∃ t, exec (.restore c host) s = .next t ∧ t.step = BitVec.ofNat 64 (imageStep img) ∧
      t.pstate = (if s.pstate = .halted then .paused else s.pstate) ∧ t.program = some p ∧ t.gates = [] ∧
      t.beat.halting = false ∧ (∀ q ∈ t.seqs, q.flight = [])) ∧
  (∀ (s v : State) (c : Cmd) (host : HostRead) (p : Program) (img : List Byte),
    Runs s c 0x0107 1 true true [.loaded, .paused, .halted] → restZero c [(16, 9)] = true → s.program = some p →
    arg c 24 1 ≤ 1 → ReadsImage s c (arg c 24 1) (arg c 16 8) host img v → imageRefusal v p contextMagic img ≠ 0 →
    exec (.restore c host) s = .next (complete (post v 0x0806 (packed [(1, imageRefusal v p contextMagic img)])) c 0x05
      (imageRefusal v p contextMagic img) 0 0)) ∧
  (∀ (s v : State) (c : Cmd) (host : HostRead) (p : Program) (img : List Byte),
    Runs s c 0x0107 1 true true [.loaded, .paused, .halted] → restZero c [(16, 9)] = true → s.program = some p →
    arg c 24 1 ≤ 1 → ReadsImage s c (arg c 24 1) (arg c 16 8) host img v → imageRefusal v p contextMagic img = 0 →
    imagePlaceable v p img = false → exec (.restore c host) s = .next (done v c 0x07))

/-- JOURNAL_ARM arms the journal of a step; JOURNAL_REPLAY begins the replay at the journal's step (R242, R244). -/
def Obligations.Journals : Prop :=
  (∀ (s : State) (c : Cmd) (p : Program), Runs s c 0x0204 1 true true [.loaded, .running, .paused] →
    restZero c [(16, 8), (24, 8), (32, 8)] = true → s.program = some p → isLocal s (nodeOf (arg c 24 8)) = true →
    spaceOf (arg c 24 8) = 1 → dramPopulated s (offsetOf (arg c 24 8)) (max 1 (arg c 32 8)) = true →
    stepBegun s (arg c 16 8) = false → journalEstimate s p ≤ arg c 32 8 →
    journalOverlaps s p (arg c 24 8) (arg c 32 8) = false →
    exec (.journalArm c) s = .next (done { s with journal := { s.journal with armed :=
      (some (BitVec.ofNat 64 (arg c 16 8), BitVec.ofNat 64 (arg c 24 8), arg c 32 8)) } } c 0)) ∧
  (∀ (s v : State) (c : Cmd) (p : Program) (img : List Byte) (l h t : Section),
    Runs s c 0x0205 1 true true [.loaded, .paused, .halted] → restZero c [(16, 8)] = true → s.program = some p →
    s.journal.replay = none → ReadsImage s c 1 (arg c 16 8) none img v → imageRefusal v p journalMagic img = 0 →
    imagePlaceable v p img = true → imageFault p img = none →
    BitVec.ofNat 64 (imageStep img) ≠ lastStep → journalTail img = some (l, h, t) → ∃ u, exec (.journalReplay c) s = .next u ∧ u.journal.replay.isSome = true ∧
      u.beat.started = true ∧ u.step = BitVec.ofNat 64 (imageStep img) ∧ u.program = some p ∧ u.pstate = s.pstate)

/-- The watch list, the layer bounds, the cap and the profiles (R152, R160, R421 to R423). -/
def Obligations.SettingCommands : Prop :=
  (∀ (s : State) (c : Cmd), Runs s c 0x0201 1 false false [.loaded, .running, .paused, .halted] → arg c 16 1 < 64 →
    restZero c [(16, 1), (32, 32)] = true → watchOk s (sub c.payload 16 32) = true →
    exec (.watchSet c) s = .next (done { s with scales := { s.scales with
      watchNext := s.scales.watchNext.filter (fun x => x.1 != arg c 16 1) ++
        [(arg c 16 1, some (parseWatch (sub c.payload 16 32)))] } } c 0)) ∧
  (∀ (s : State) (c : Cmd), Runs s c 0x0202 1 false false [.loaded, .running, .paused, .halted] → arg c 16 1 < 64 →
    restZero c [(16, 1)] = true → exec (.watchClear c) s = .next (done { s with scales := { s.scales with
      watchNext := s.scales.watchNext.filter (fun x => x.1 != arg c 16 1) ++ [(arg c 16 1, none)] } } c 0)) ∧
  (∀ (s : State) (c : Cmd) (p : Program) (d : LayerDesc), Runs s c 0x0203 1 false false [.loaded, .running, .paused] →
    restZero c [(16, 4), (20, 1), (21, 1), (24, 8)] = true → s.program = some p →
    (layerDescs p).find? (fun d => d.layer == arg c 16 4) = some d → arg c 20 1 ≤ arg c 21 1 → arg c 21 1 ≤ d.ceil →
    arg c 21 1 < 4 → stepBegun s (arg c 24 8) = false →
    exec (.layerBounds c) s = .next (done (updLayer s (arg c 16 4) fun l => { l with bounds :=
      (l.bounds.filter (fun b => b.1 != BitVec.ofNat 64 (arg c 24 8)) ++
        [(BitVec.ofNat 64 (arg c 24 8), arg c 20 1, arg c 21 1)]) }) c 0)) ∧
  (∀ (s : State) (c : Cmd), Runs s c 0x0501 1 false false anyState → 600 ≤ arg c 16 2 → arg c 16 2 ≤ 2400 →
    restZero c [(16, 2)] = true →
    exec (.powerCap c) s = .next (done { s with power := { s.power with capW := arg c 16 2 } } c 0)) ∧
  (∀ (s : State) (c : Cmd) (i : Fin 4), Runs s c 0x0502 1 false false anyState → arg c 16 1 = i.val →
    restZero c [(16, 1)] = true →
    exec (.profileSelect c) s = .next (done { s with fw := { s.fw with chosenProfile := i, profileSource := 2 } } c 0)) ∧
  (∀ (s v : State) (c : Cmd) (host : HostRead) (data : List Byte) (r : Profile),
    Runs s c 0x0503 1 false (arg c 17 1 == 1) anyState → arg c 16 1 ≤ 3 → restZero c [(16, 2), (24, 8)] = true →
    Reads s c (arg c 17 1) (arg c 24 8) 64 host data v → parseProfile data = some r →
    s.fw.image.settingsFormat = s.flash.boot.settingsFormat →
    exec (.profileWrite c host) s = .next (done { v with
      flash := { v.flash with profiles := setAt (profiles s) (arg c 16 1) r }
      fw := { v.fw with memProfiles := none } } c 0))

/-- The fabric record, port records, routes, plans, the squad list and PORT_RETRAIN (R254, R291 to R293, R393, R431). -/
def Obligations.FabricCommands : Prop :=
  (∀ (s : State) (c : Cmd) (r : FabricRec), Runs s c 0x0301 1 false false anyState → s.pstate ≠ .running →
    parseFabricRec (sub c.payload 0 16) = some r → restZero c [(16, 16)] = true → r.node ≠ 0xFFFF#16 →
    exec (.fabricRecord c) s = .next (done { s with fabric := { s.fabric with
      rcd := r, routes := setRoute r.node.toNat 0xE s.fabric.routes } } c 0)) ∧
  (∀ (s v : State) (c : Cmd) (host : HostRead) (p : Fin 12) (data : List Byte) (r : PortRec),
    Runs s c 0x0302 1 false (arg c 17 1 == 1) anyState → arg c 16 1 = p.val →
    restZero c [(16, 2), (24, 8)] = true → Reads s c (arg c 17 1) (arg c 24 8) 64 host data v → parsePortRec data = some r →
    r.flags.getLsbD 0 = s.fabric.ports[p].rcd.flags.getLsbD 0 → s.mbox.module ≠ .bringUp →
    exec (.portRecord c host) s = .next (done (setPort v p { v.fabric.ports[p] with rcd := r }) c 0)) ∧
  (∀ (s v : State) (c : Cmd) (host : HostRead) (e : Byte), Runs s c 0x0303 1 false (arg c 20 1 == 1) anyState →
    arg c 18 2 = 1 → arg c 16 2 < 0xFFFF → restZero c [(16, 5), (24, 8)] = true →
    Reads s c (arg c 20 1) (arg c 24 8) 1 host [e] v → (e.toNat ≤ 0xB ∨ e = 0xE ∨ e = 0xF) →
    ∃ t, exec (.routeWrite c host) s = .next t ∧ t.fabric.routes = setRoute (arg c 16 2) e.toNat s.fabric.routes ∧
      SameProgram s t ∧ t.mem = v.mem ∧ (s.mbox.squad = [] → s.mbox.unreachable = [] → t = done { v with
        fabric := { v.fabric with routes := setRoute (arg c 16 2) e.toNat s.fabric.routes } } c 0)) ∧
  (∀ (s : State) (c : Cmd), Runs s c 0x0304 1 false false anyState → s.pstate ≠ .running →
    planEntryOk (arg c 16 1) (arg c 24 8) = true → restZero c [(16, 1), (24, 8)] = true →
    exec (.planWrite c) s = .next (done { s with reduce := { s.reduce with plans :=
      (setAt s.reduce.plans (arg c 16 1) (some (BitVec.ofNat 64 (arg c 24 8)))) } } c 0)) ∧
  (∀ (s v : State) (c : Cmd) (host : HostRead) (data : List Byte), Runs s c 0x0306 1 false (arg c 17 1 == 1) anyState →
    arg c 16 1 ≤ 63 → restZero c [(16, 2), (24, 8)] = true → s.fabric.rcd.node ≠ 0xFFFF#16 →
    Reads s c (arg c 17 1) (arg c 24 8) (2 * arg c 16 1) host data v →
    ((chunks 2 (arg c 16 1) data).map fun b => (BitVec.ofNat 16 (leNat b) : Word16)).Nodup →
    s.fabric.rcd.node ∉ ((chunks 2 (arg c 16 1) data).map fun b => (BitVec.ofNat 16 (leNat b) : Word16)) →
    let ids : List Word16 := (chunks 2 (arg c 16 1) data).map fun b => BitVec.ofNat 16 (leNat b)
    ((∀ n ∈ ids, (egress v n.toNat).isSome = true) → exec (.squadSet c host) s = .next (done { v with mbox := { v.mbox with
      squad := ids, unreachable := [] } } c 0)) ∧
    (∃ t, exec (.squadSet c host) s = .next t ∧ t.mbox.squad = ids ∧
      t.mbox.unreachable = ids.filter fun n => (egress v n.toNat).isNone)) ∧
  (∀ (s : State) (c : Cmd) (p : Fin 12), Runs s c 0x0305 1 false false anyState → s.mbox.module = .ready →
    arg c 16 1 = p.val → restZero c [(16, 1)] = true → enabled s.fabric.ports[p] = true → s.fabric.ports[p].fkm = false →
    let lanes := usableLanes s.units p.val (portLanes s p)
    lanes ≠ 0 → exec (.portRetrain c 0 0) s = .next (complete (portUp (emit (setPort s p { s.fabric.ports[p] with
      link := .gating, lost := 0, lanes := BitVec.ofNat 8 lanes }) (.cableReset (p.val % 6))) p lanes) c 0 0 lanes 0)) ∧
  (∀ (l : List (Nat × Nat)) (n e k : Nat), l.Pairwise (fun a b => a.1 < b.1) → k ≠ n →
    ((setRoute n e l).find? (fun r => r.1 == k)) = l.find? (fun r => r.1 == k) ∧
    (e ≠ 0xF → ((setRoute n e l).find? (fun r => r.1 == n)).map (·.2) = some e) ∧
    (setRoute n e l).Pairwise (fun a b => a.1 < b.1))

/-- READ_TABLE writes the first bytes of the named table and reports its full length; what a command reads of host memory; DMA
copies between host memory and this module's spaces 0x0 to 0x2 or a squad member's, by bulk transfer; ABORT ends the bulk commands with its tag (R383, R385 to R388). -/
def Obligations.TablesAndDma : Prop :=
  (∀ (s : State) (c : Cmd), Runs s c 0x0401 3 false false anyState → arg c 16 1 ≤ 5 → arg c 17 1 = 0 →
    restZero c [(16, 2), (24, 12)] = true → c.path ≠ .proxy → Kept s c → exec (.readTable c) s = .next (complete
      (emit s (.hostWrite (BitVec.ofNat 64 (arg c 24 8)) ((tableBytes s (arg c 16 1)).take (arg c 32 4)) true)) c 0 0
      (tableBytes s (arg c 16 1)).length 0)) ∧
  (∀ (s : State) (c : Cmd) (addr n : Nat) (b : List Byte), c.path ≠ .proxy →
    Reads s c 0 addr n (some b) (padTo n b) (dropArrivals (emit s (.hostRead (BitVec.ofNat 64 addr) n)) (cmdKey c))) ∧
  (∀ s : State, (tableBytes s 0).length = 256 ∧ (tableBytes s 2).length = 32 + 24 * s.counts.length ∧
    (tableBytes s 3).length = 16 + 16 * s.units.length ∧ (tableBytes s 4).length = 784 ∧ (tableBytes s 5).length = 65535) ∧
  (∀ (s : State) (c : Cmd) (b : List Byte), Runs s c 0x0601 2 (spaceOf (arg c 24 8) != 1) true anyState →
    restZero c [(16, 25)] = true → isLocal s (nodeOf (arg c 24 8)) = true → spaceOf (arg c 24 8) ≤ 2 →
    arg c 40 1 = 1 → arg c 32 8 = 64 → arg c 16 8 % 4 = 0 → offsetOf (arg c 24 8) % 64 = 0 → arg c 24 8 % 4 = 0 →
    c.path ≠ .proxy → s.mem.stripes = [] → s.mem.ends = [] → s.fabric.waiting = [] →
    readLocal s (spaceOf (arg c 24 8)) (offsetOf (arg c 24 8)) 64 = .bytes b →
    exec (.dma c none) s = .next (done (emit
      (if spaceOf (arg c 24 8) = 1 then chargeRead s (offsetOf (arg c 24 8)) 64 else s)
      (.hostWrite (BitVec.ofNat 64 (arg c 16 8)) b true)) c 0)) ∧
  (∀ (s t : State) (c : Cmd) (b : List Byte), Runs s c 0x0601 2 true true anyState →
    restZero c [(16, 25)] = true → isLocal s (nodeOf (arg c 24 8)) = true →
    (spaceOf (arg c 24 8) = 0 ∨ spaceOf (arg c 24 8) = 2) →
    arg c 40 1 = 0 → arg c 32 8 = 64 → arg c 16 8 % 4 = 0 → offsetOf (arg c 24 8) % 64 = 0 → arg c 24 8 % 4 = 0 →
    c.path ≠ .proxy → s.mem.ends = [] →
    writeLocal (emit s (.hostRead (BitVec.ofNat 64 (arg c 16 8)) 64)) (spaceOf (arg c 24 8)) (offsetOf (arg c 24 8))
      (padTo 64 b) = (0, t) →
    exec (.dma c (some b)) s = .next (done t c 0)) ∧
  (∀ (s : State) (c : Cmd) (b : List Byte), Runs s c 0x0601 2 false true anyState → MemOk s →
    restZero c [(16, 25)] = true → isLocal s (nodeOf (arg c 24 8)) = true → spaceOf (arg c 24 8) = 1 →
    arg c 40 1 = 0 → arg c 32 8 = 64 → arg c 16 8 % 4 = 0 → offsetOf (arg c 24 8) % 64 = 0 → arg c 24 8 % 4 = 0 →
    c.path ≠ .proxy → s.mem.stripes = [] → s.mem.ends = [] → s.mem.retention = false →
    dramPopulated s (offsetOf (arg c 24 8)) 64 = true →
    ∃ t, exec (.dma c (some b)) s = .next t ∧ readBytes t.mem.dram (offsetOf (arg c 24 8)) 64 = padTo 64 b ∧
      t.mem.ends = [.command c [offsetOf (arg c 24 8) / 1024]] ∧ t.mbox.executing = s.mbox.executing) ∧
  (∀ (s : State) (c : Cmd), Runs s c 0x0601 2 false false anyState → restZero c [(16, 25)] = true →
    isLocal s (nodeOf (arg c 24 8)) = false → s.mbox.squad.contains (BitVec.ofNat 16 (nodeOf (arg c 24 8))) = true →
    spaceOf (arg c 24 8) ≤ 2 → offsetOf (arg c 24 8) + arg c 32 8 ≤ 2 ^ 44 →
    arg c 32 8 % 4 = 0 → 4 ≤ arg c 32 8 → arg c 32 8 ≤ 2 ^ 40 → arg c 16 8 % 4 = 0 → arg c 24 8 % 4 = 0 →
    c.path ≠ .proxy →
    (arg c 40 1 = 1 → exec (.dma c none) s = .next
      (startBulkIn s (nodeOf (arg c 24 8)) (arg c 24 8) (arg c 16 8) (arg c 32 8) (.dma c))) ∧
    (∀ b : List Byte, arg c 40 1 = 0 → exec (.dma c (some b)) s = .next
      (startBulkOut (emit s (.hostRead (BitVec.ofNat 64 (arg c 16 8)) (arg c 32 8))) (nodeOf (arg c 24 8)) (arg c 16 8)
        (arg c 24 8) (padTo (arg c 32 8) b) (.dma c)))) ∧
  (∀ (s : State) (c : Cmd) (raw : List Byte), Runs s c 0x0602 0 false false anyState → arg c 20 1 = 2 →
    restZero c [(16, 5)] = true → pendingIdx s 2 = [] →
    (∀ e ∈ s.mbox.executing, e.cmd.ring = 2 → e.cmd.tag ≠ BitVec.ofNat 32 (arg c 16 4)) →
    exec (.abort c (some raw)) s = .next (complete s c 0 0 0 0)) ∧
  (∀ (s : State) (c d : Cmd) (raw : List Byte), Runs s c 0x0602 0 false false anyState → arg c 20 1 = 2 →
    restZero c [(16, 5)] = true → pendingIdx s 2 = [] → d.ring = 2 → d.tag = BitVec.ofNat 32 (arg c 16 4) → d ≠ c →
    s.mbox.executing = [{ cmd := d, discard := false }, { cmd := c, discard := false }] → s.fabric.bulks = [] →
    s.fabric.txns = [] → s.fabric.arrivals = [] → s.fabric.waiting = [] → s.mem.ends = [] → s.mem.acks = [] →
    s.mbox.awaiting = [] → exec (.abort c (some raw)) s = .next (complete (done s d 0x0A) c 0 0 1 0))

/-- The bench state is entered with the memories in retention and left again (R333, R334, R459). -/
def Obligations.Bench : Prop :=
  (∀ (s : State) (c : Cmd), Runs s c 0x010A 1 true false [.empty, .loaded, .paused, .halted] → arg c 16 1 = 1 →
    restZero c [(16, 1)] = true → ∃ t, exec (.benchEnter c) s = .next t ∧ t.power.mode = .bench ∧ t.mbox.module = .bench ∧
      t.mem.retention = true ∧ t.mem.sram = s.mem.sram ∧ t.mem.dram = s.mem.dram ∧ t.mem.buffers = [] ∧
      t.mem.benchMr4 = s.mem.mr4 ∧ t.mem.stripes = [] ∧ t.program = s.program ∧ t.pstate = s.pstate) ∧
  (∀ (s : State) (c : Cmd), Executes s c 0x010A → c.ring = 1 → s.power.mode = .bench → arg c 16 1 = 0 → restZero c [(16, 1)] = true →
    ∃ t, exec (.benchLeave c [] []) s = .next t ∧ t.power.mode = .active ∧
      t.mbox.module = (if s.power.thermalFault = true then .computeReset else .ready) ∧
      t.mem.retention = false ∧ t.mem.sram = s.mem.sram ∧ t.mem.dram = s.mem.dram ∧ t.program = s.program)

/-- Firmware: staging, activation, trial, confirmation and fallback (R412 to R420). A bundle that the staging partition cannot
hold is refused (log 117), FW_CONFIRM leaves the staging empty (DEDUCED, log 72), and no activation goes on while a thermal
fault stands (log 116). -/
def Obligations.Firmware : Prop :=
  (∀ (s v : State) (c : Cmd) (host : HostRead) (data : List Byte), Runs s c 0x0504 2 false (arg c 24 1 == 1) anyState →
    (s.mbox.executing.find? fun e => e.cmd.opcode == 0x0504).map (·.cmd) = some c → arg c 25 1 = 0 →
    arg c 28 4 % 512 = 0 → 0 < arg c 28 4 → arg c 28 4 ≤ 0x400_0000 → restZero c [(16, 10), (28, 12)] = true →
    Reads s c (arg c 24 1) (arg c 16 8) (arg c 28 4) host data v → s.flash.staging ≠ [] →
    arg c 32 8 = s.flash.staging.length → arg c 32 8 ≠ 0 →
    s.flash.staging.length + data.length ≤ 512 + bodyLength (s.flash.staging ++ data) →
    s.flash.staging.length + data.length ≤ stagingSize →
    exec (.fwStage c host) s = .next (done { v with flash := { v.flash with staging := s.flash.staging ++ data } } c 0)) ∧
  (∀ (s v : State) (c : Cmd) (host : HostRead) (data : List Byte), Runs s c 0x0504 2 false (arg c 24 1 == 1) anyState →
    (s.mbox.executing.find? fun e => e.cmd.opcode == 0x0504).map (·.cmd) = some c → arg c 25 1 = 1 →
    arg c 28 4 % 512 = 0 → 0 < arg c 28 4 → arg c 28 4 ≤ 0x400_0000 → restZero c [(16, 10), (28, 12)] = true →
    Reads s c (arg c 24 1) (arg c 16 8) (arg c 28 4) host data v → s.flash.staging ≠ [] →
    arg c 32 8 = s.flash.staging.length → arg c 32 8 ≠ 0 →
    let all := s.flash.staging ++ data
    all.length = 512 + bodyLength all → all.length ≤ stagingSize →
    (sm3 (all.drop 512) = sub all 32 32 → exec (.fwStage c host) s = .next (done (post
      { v with flash := { v.flash with staging := all, stagingComplete := true } } 0x0F01
      (packed [(8, all.length), (8, digest8 (sub all 32 32))])) c 0)) ∧
    (sm3 (all.drop 512) ≠ sub all 32 32 → exec (.fwStage c host) s = .next (complete
      { v with flash := { v.flash with staging := [], stagingComplete := false } } c 0x05 0x07 0 0))) ∧
  (∀ (s : State) (c : Cmd), Runs s c 0x0505 1 false false anyState → restZero c [(16, 8)] = true →
    s.flash.stagingComplete = true → s.pstate = .empty → s.timebase + 10 ^ 9 ≤ arg c 16 8 →
    arg c 16 8 ≤ s.timebase + 3600 * 10 ^ 9 → s.fw.trial = false → s.fw.identity = true →
    exec (.fwActivate c) s = .next (done { s with fw := { s.fw with activation := some (arg c 16 8) } } c 0)) ∧
  (∀ (s : State) (a : ActIn) (e : Nat), s.fw.activation = some e → s.power.thermalFault = false → a.upTo = 1 →
    ∃ t, exec (.activationEpoch a) s = .next t ∧ t.mbox.module = .activation ∧ t.fw.activating = some 1 ∧
      t.flash = s.flash ∧ t.mem.dram = s.mem.dram) ∧
  (∀ (s : State) (a : ActIn) (e : Nat) (img : Image), s.fw.activation = some e → s.power.thermalFault = false → 2 ≤ a.upTo →
    a.headerOk = false → bootable s.flash s.flash.boot.activeSlot = some img →
    ∃ t, exec (.activationEpoch a) s = .next t ∧ t.fw.activation = none ∧ t.flash.staging = [] ∧
      t.flash.stagingComplete = false ∧ t.flash.boot = s.flash.boot ∧ t.flash.slots = s.flash.slots ∧ t.fw.image = img ∧
      t.mbox.module = .ready ∧ t.mem.dram = s.mem.dram) ∧
  (∀ (s : State) (a : ActIn) (e : Nat), s.fw.activation = some e → s.power.thermalFault = false → 6 ≤ a.upTo → s.fw.seed.isSome = true →
    a.headerOk = true → a.copyOk = true →
    headerCheck s.flash (s.flash.staging.take 512) = 0 →
    sm3 (s.flash.staging.drop 512) = sub s.flash.staging 32 32 → ∃ t, exec (.activationEpoch a) s = .next t ∧
      t.fw.activation = none ∧ t.fw.trial = true ∧ t.fw.trialReady = true ∧ t.fw.image = imageOf s.flash.staging ∧
      getAt t.flash.slots (otherSlot s.flash) none = some (imageOf s.flash.staging) ∧
      t.flash.boot = { s.flash.boot with trialSlot := some (otherSlot s.flash) } ∧ t.mbox.module = .ready ∧
      t.mem.dram = s.mem.dram ∧ t.program = s.program ∧
      (isMember s = false → (t.mbox.firstDue.map (·.code)) = some 0x0F02)) ∧
  (∀ (s : State) (c : Cmd), Runs s c 0x0506 1 false false anyState → restZero c [] = true → s.fw.trial = true →
    s.fw.trialReady = true → s.timebase ≤ s.fw.trialStart + 600 * 10 ^ 9 → s.fw.seed.isSome = true →
    ∃ t, exec (.fwConfirm c) s = .next t ∧ t.fw.trial = false ∧ t.flash.boot.trialSlot = none ∧
      t.flash.boot.activeSlot = s.flash.boot.trialSlot.getD s.flash.boot.activeSlot ∧
      t.flash.boot.secVersion = max s.flash.boot.secVersion s.fw.image.secVersion ∧
      t.flash.boot.keyFloor = max s.flash.boot.keyFloor s.fw.image.keyFloor ∧ t.flash.staging = [] ∧
      t.flash.slots = s.flash.slots) ∧
  (∀ (s : State) (c : Cmd), Runs s c 0x0506 1 false false anyState → restZero c [] = true → s.fw.trial = false →
    exec (.fwConfirm c) s = .next (complete s c 0x05 0x0C 0 0)) ∧
  (∀ (s : State) (failed : List TileId) (settingsOk : Bool) (img : Image), s.fw.trial = true → s.fw.seed.isSome = true →
    s.power.thermalFault = false → bootable s.flash s.flash.boot.activeSlot = some img →
    ∃ t, exec (.trialConfirmTimeout failed settingsOk) s = .next t ∧
      t.fw.trial = false ∧ t.flash.boot = { s.flash.boot with trialSlot := none } ∧ t.fw.image = img ∧
      t.mbox.module = .ready ∧ t.mem.dram = s.mem.dram) ∧
  (∀ (s : State) (failed : List TileId) (settingsOk : Bool) (img : Image), s.fw.trial = true → s.fw.seed.isSome = true →
    s.power.thermalFault = false → bootable s.flash s.flash.boot.activeSlot = some img → ∃ t, exec (.trialWatchdog failed settingsOk) s = .next t ∧
      t.fw.trial = false ∧ t.flash.boot = { s.flash.boot with trialSlot := none } ∧ t.fw.image = img ∧
      t.mbox.module = .ready ∧ t.mem.dram = s.mem.dram)

/-- Proxied commands and completions of a squad, and a command over SMBus (R392 to R397). MCTP message type 0x7E and the order
of its vendor id are the model's (PRESUMED, log 48). -/
def Obligations.SquadAndSmbus : Prop :=
  (∀ (s : State) (x : Rx), Arrives s x 0x10 → proxyDirection x.f = 0 → isMember (received s x) = true →
    x.f.src = (received s x).fabric.rcd.captain → (received s x).mbox.mcpUp = true →
    let c := numbered (notePath (received s x) .proxy) (parseCmd .proxy (ringOf (field x.f.payload 0 2)) x.f.payload)
    exec (.proxyCommandReceive x) s = .next (startCmd c.2 c.1 (headerOk x.f.payload))) ∧
  (∀ (s : State) (x : Rx), Arrives s x 0x10 → proxyDirection x.f = 0 →
    (isMember (received s x) = false ∨ x.f.src ≠ (received s x).fabric.rcd.captain) →
    exec (.proxyCommandReceive x) s = .next (discard (received s x) x.port.val 8 1)) ∧
  (∀ (s : State) (x : Rx), Arrives s x 0x10 → proxyDirection x.f = 1 →
    (received s x).mbox.squad.contains x.f.src = true → (received s x).mbox.mcpUp = true →
    (received s x).mbox.unreachable = [] → x.f.payload.length = 32 →
    exec (.proxyCompletionReceive x) s = .next (memberEntry (received s x) x.f.src x.f.payload)) ∧
  (∀ (s : State) (e : Event) (c : Cmd) (node : Word16),
    s.mbox.proxied = [{ node := node, cmd := c, stage := .forwarded }] → s.mbox.orphans = [] → c.path = .pcie →
    e.code = 0x0001 → field e.payload 0 4 = c.tag.toNat → field e.payload 6 2 = c.opcode → e.payload.length = 24 →
    (((hostData c).map (·.1)) ≠ some true → memberEntry s node (entryBytes e false) =
      deliverCompletion { s with mbox := { s.mbox with proxied := [] } } { e with source := node, ring := c.ring }) ∧
    (∀ addr k : Nat, hostData c = some (true, addr, some k) → field e.payload 4 1 = 0 → c.opcode ≠ 0x0601 →
      0 < min k (field e.payload 8 8) → memberEntry s node (entryBytes e false) = startBulkIn { s with mbox := { s.mbox with
        proxied := [{ node := node, cmd := c, stage := .returning { e with source := node, ring := c.ring } }] } }
        node.toNat (proxyAddr node c) addr (min k (field e.payload 8 8)) (.proxy c))) ∧
  (∀ (s : State) (raw inl : List Byte) (host : HostRead), raw.length = 64 → s.mbox.mcpUp = true →
    s.mbox.module ≠ .activation →
    let c := numbered (notePath s .smbus) (parseCmd .smbus (ringOf (field raw 0 2)) raw)
    smbusAllows c.2 c.1 = false →
    exec (.smbusMctpCommand (0x7E#8 :: beBytes 2 Config.vendorId.toNat ++ raw ++ inl) host) s = .next (done c.2 c.1 0x05)) ∧
  (∀ (s : State) (raw : List Byte), raw.length = 64 → s.mbox.mcpUp = true → s.mbox.module = .ready → s.pstate = .empty →
    s.mbox.lastPath = Vector.replicate 3 none → s.mbox.executing = [] → s.mbox.awaiting = [] → s.fabric.txns = [] →
    s.fabric.bulks = [] → s.mem.ends = [] → field raw 8 2 = 0xFFFF → field raw 0 2 = 0x0502 → headerOk raw = true →
    restZero (parseCmd .smbus 1 raw) [(16, 1)] = true → arg (parseCmd .smbus 1 raw) 16 1 ≤ 3 →
    ∃ t, exec (.smbusMctpCommand (0x7E#8 :: beBytes 2 Config.vendorId.toNat ++ raw)) s = .next t ∧
      t.fw.chosenProfile.val = arg (parseCmd .smbus 1 raw) 16 1 ∧ t.fw.profileSource = 2 ∧ t.mbox.executing = [] ∧
      t.out.length = s.out.length + 1)

/-- SPDM on either transport (R402 to R406): each request that the connection's state allows is answered, and joins the
transcript; in a compute reset and an activation the answer is Busy. The bytes of the responses are those of SPDM, its keys and
signatures those of the standards (PRESUMED, logs 9 and 108), and so is the error that answers RESPOND_IF_READY (log 9). -/
def Obligations.Spdm : Prop :=
  (∀ (s : State) (t : Transport) (req : List Byte), isPowered s = true → field req 1 1 = 0x84 →
    s.mbox.module ≠ .activation → s.mbox.module ≠ .computeReset → ∃ u, exec (.spdmGetVersion t req) s = .next u ∧
      u = exchange s t { draws := (spdmOf s t).draws } req ([0x10, 0x04, 0, 0, 0, 2] ++ leBytes 2 0x1200 ++ leBytes 2 0x1300) ∧
      u.out = s.out ++ [.spdm t ([0x10, 0x04, 0, 0, 0, 2] ++ leBytes 2 0x1200 ++ leBytes 2 0x1300)] ∧
      (spdmOf u t).version = none ∧ (spdmOf u t).caps = false ∧ (spdmOf u t).algs = false ∧ SameProgram s u ∧ u.mem = s.mem) ∧
  (∀ (s : State) (t : Transport) (req : List Byte), isPowered s = true → field req 1 1 = 0xE1 →
    s.mbox.module ≠ .activation → s.mbox.module ≠ .computeReset → (spdmOf s t).transcript ≠ [] → (spdmOf s t).version = none →
    (field req 0 1 = 0x12 ∨ field req 0 1 = 0x13) → ∃ u resp, exec (.spdmGetCapabilities t req) s = .next u ∧
      u = exchange { s with freeIdx := u.freeIdx } t { spdmOf s t with
        version := some (BitVec.ofNat 8 (field req 0 1)), caps := true } req resp ∧ u.out = s.out ++ [.spdm t resp] ∧ resp.length = 20 ∧
      field resp 0 1 = field req 0 1 ∧ field resp 8 4 = 0x36 ∧ (spdmOf u t).caps = true ∧
      (spdmOf u t).version = some (BitVec.ofNat 8 (field req 0 1))) ∧
  (∀ (s : State) (t : Transport) (req : List Byte), isPowered s = true → field req 1 1 = 0xE3 →
    s.mbox.module ≠ .activation → s.mbox.module ≠ .computeReset → (spdmOf s t).caps = true → (spdmOf s t).version = some (BitVec.ofNat 8 (field req 0 1)) →
    ∃ u resp, exec (.spdmNegotiateAlgorithms t req) s = .next u ∧
      u = exchange s t { spdmOf s t with algs := true } req resp ∧ u.out = s.out ++ [.spdm t resp] ∧ resp.length = 36 ∧
      field resp 8 4 = 0x80 ∧ field resp 12 4 = (if bitAt (field req 8 4) 9 then 0x200 else 0) ∧
      field resp 16 4 = (if bitAt (field req 12 4) 6 then 0x40 else 0) ∧ (spdmOf u t).algs = true) ∧
  (∀ (s : State) (t : Transport) (req : List Byte), isPowered s = true → field req 1 1 = 0x81 →
    s.mbox.module ≠ .activation → s.mbox.module ≠ .computeReset → s.fw.identity = true → s.fw.aliasKey.isSome = true → (spdmOf s t).algs = true → (spdmOf s t).version = some (BitVec.ofNat 8 (field req 0 1)) →
    ∃ u, exec (.spdmGetDigests t req) s = .next u ∧ u = exchange s t (spdmOf s t) req
        ([BitVec.ofNat 8 (field req 0 1), 0x01, 0, 1] ++ sm3 (certChain s)) ∧
      u.out = s.out ++ [.spdm t ([BitVec.ofNat 8 (field req 0 1), 0x01, 0, 1] ++ sm3 (certChain s))]) ∧
  (∀ (s : State) (t : Transport) (req : List Byte), isPowered s = true → field req 1 1 = 0x82 →
    s.mbox.module ≠ .activation → s.mbox.module ≠ .computeReset → s.fw.identity = true → s.fw.aliasKey.isSome = true → (spdmOf s t).algs = true → (spdmOf s t).version = some (BitVec.ofNat 8 (field req 0 1)) →
    field req 2 1 = 0 → field req 4 2 < (certChain s).length →
    ∃ u head, exec (.spdmGetCertificate t req) s = .next u ∧ u = exchange s t (spdmOf s t) req
        (head ++ sub (certChain s) (field req 4 2) (field req 6 2)) ∧
      u.out = s.out ++ [.spdm t (head ++ sub (certChain s) (field req 4 2) (field req 6 2))] ∧ head.length = 8) ∧
  (∀ (s : State) (t : Transport) (req : List Byte), isPowered s = true → field req 1 1 = 0x83 →
    s.mbox.module ≠ .activation → s.mbox.module ≠ .computeReset → s.fw.identity = true → s.fw.aliasKey.isSome = true → (spdmOf s t).algs = true → (spdmOf s t).version = some (BitVec.ofNat 8 (field req 0 1)) →
    field req 2 1 = 0 → ∃ u body, exec (.spdmChallenge t req) s = .next u ∧
      u.out = s.out ++ [.spdm t (body ++
        aliasSign s ((spdmOf s t).transcript ++ req ++ body))] ∧
      (spdmOf u t).draws = (spdmOf s t).draws + 1) ∧
  (∀ (s : State) (t : Transport) (req : List Byte), isPowered s = true → field req 1 1 = 0xE0 →
    s.mbox.module ≠ .activation → s.mbox.module ≠ .computeReset → s.fw.identity = true → s.fw.aliasKey.isSome = true → (spdmOf s t).algs = true → (spdmOf s t).version = some (BitVec.ofNat 8 (field req 0 1)) →
    field req 3 1 = 0xFF → bitAt (field req 2 1) 0 = false → ∃ u head tail, exec (.spdmGetMeasurements t req) s = .next u ∧
      u.out = s.out ++ [.spdm t (head ++ allMeasurements s ++ tail)] ∧ head.length = 8) ∧
  (∀ (s : State) (t : Transport) (req : List Byte), isPowered s = true → field req 1 1 = 0xFF →
    s.mbox.module ≠ .activation → s.mbox.module ≠ .computeReset →
    s.fw.identity = true → s.fw.aliasKey.isSome = true → ∃ u ver code, exec (.spdmRespondIfReady t req) s = .next u ∧
      u.out = s.out ++ [.spdm t [ver, 0x7F, code, 0]] ∧ u.spdm = s.spdm ∧
      ((spdmOf s t).algs = true → (spdmOf s t).version = some (BitVec.ofNat 8 (field req 0 1)) → u = spdmError s t 4)) ∧
  (∀ (s : State) (t : Transport) (req : List Byte), isPowered s = true → field req 1 1 = 0xE0 →
    (s.mbox.module = .activation ∨ s.mbox.module = .computeReset) → ∃ ver, exec (.spdmGetMeasurements t req) s =
      .next (emit s (.spdm t [ver, 0x7F, 3, 0]))) ∧
  (∀ (s : State) (t : Transport) (req : List Byte), isPowered s = true → field req 1 1 = 0xE0 → s.mbox.module = .ready →
    s.fw.identity = false → ∃ ver, exec (.spdmGetMeasurements t req) s = .next (emit s (.spdm t [ver, 0x7F, 5, 0]))) ∧
  (∀ (s : State) (req : List Byte), isPowered s = true → field req 0 2 = 1 → field req 2 1 = 0 → field req 8 1 = 1 →
    exec (.doeDiscovery req) s =
      .next (emit s (.doe (leBytes 2 1 ++ [0, 0] ++ leBytes 4 3 ++ (leBytes 2 1 ++ [1, 0])))))

/-! ### Number formats and tokens -/

/-- The codes of K4, K3 and K2 and their escapes, with the value each has in a block of scale 1 (R40 to R42), and what ±∞ and
NaN become in K8f and K8b, as scalars and in blocks (R57). -/
def Obligations.NumberCodes : Prop :=
  ((List.range 8).map (blockCode .k4 false) = List.range 8 ∧
    (List.range 8).map (blockCode .k4 true) = [0, 9, 10, 11, 12, 13, 14, 15] ∧ escapeCode .k4 = 8 ∧
    ∀ neg : Bool, (List.range 7).map (fun o => blockDecode .k4 127 (blockCode .k4 neg (o + 1))) =
      [.fin neg 1 (-1), .fin neg 2 (-1), .fin neg 3 (-1), .fin neg 2 0, .fin neg 3 0, .fin neg 2 1, .fin neg 3 1]) ∧
  ((List.range 4).map (blockCode .k3 false) = List.range 4 ∧ (List.range 4).map (blockCode .k3 true) = [0, 5, 6, 7] ∧
    escapeCode .k3 = 4 ∧ ∀ neg : Bool, (List.range 3).map (fun o => blockDecode .k3 127 (blockCode .k3 neg (o + 1))) =
      [.fin neg 1 0, .fin neg 1 1, .fin neg 1 2]) ∧
  (blockCode .k2 false 0 = 0 ∧ blockCode .k2 false 1 = 1 ∧ blockCode .k2 true 1 = 3 ∧ escapeCode .k2 = 2 ∧
    blockDecode .k2 127 1 = .fin false 1 0 ∧ blockDecode .k2 127 3 = .fin true 1 0) ∧
  (∀ f : BFmt, (blockDecode f 127 0).isZero = true) ∧
  (∀ (rnd : Rnd) (w : Int) (r : Nat),
    convert .k8f rnd w r (.inf false) = 0x7E ∧ convert .k8f rnd w r (.inf true) = 0xFE ∧ convert .k8f rnd w r .nan = 0x7F ∧
    convert .k8b rnd w r (.inf false) = 0x7E ∧ convert .k8b rnd w r (.inf true) = 0xFE ∧ convert .k8b rnd w r .nan = 0x7F) ∧
  (∀ (f : BFmt) (s : Nat) (rnd : Rnd) (w : Int) (r : Nat), f = .bk8f ∨ f = .bk8b →
    blockConvert f s rnd w r (.inf false) = 0x7E ∧ blockConvert f s rnd w r (.inf true) = 0xFE ∧
    blockConvert f s rnd w r .nan = 0x7F) ∧
  (∀ (f : Fmt) (rnd : Rnd) (w : Int) (r : Nat) (v : Val), convert f rnd w r v < 2 ^ codeBits f)

/-- Combining huddle contributions does not depend on their order in the header's fields (R237). -/
def Obligations.HuddleOrderFree : Prop :=
  ∀ a b c : Huddle,
    let key (h : Huddle) := (h.step, h.stepCompl, h.ready, h.abortFlags, h.abortNode, h.members, h.pause)
    key (combineHuddle a b) = key (combineHuddle b a) ∧
    key (combineHuddle (combineHuddle a b) c) = key (combineHuddle a (combineHuddle b c))

/-- What a signal makes of a token (R200, R201), and the instructions that only wait or signal: the stream moves on, nothing
stays in flight, and the named token takes the signal (R204, R482); in a replay the entries that this makes due
are applied (R244). -/
def Obligations.TokensWaitsAndSignals : Prop :=
  (∀ (t : Token) (n parity : Nat), t.mode = 1 → parity < 2 →
    (signalToken t 1 n parity).2 = none ∧ (signalToken t 1 n parity).1.count parity = (t.count parity + n) % 65536 ∧
    (signalToken t 1 n parity).1.count (1 - parity) = t.count (1 - parity)) ∧
  (∀ (t : Token) (n parity : Nat), t.mode ≠ 1 → t.v0 + n ≤ 0xFFFF →
    signalToken t 1 n parity = ({ t with v0 := t.v0 + n }, none)) ∧
  (∀ (t : Token) (n parity : Nat), t.mode ≠ 1 → 0xFFFF < t.v0 + n → (signalToken t 1 n parity).2 = some 3) ∧
  (∀ (t : Token) (n parity : Nat), t.v0 < 0xFFFF → signalToken t 2 n parity = ({ t with v0 := t.v0 + 1 }, none)) ∧
  (∀ (t : Token) (n parity : Nat), t.v0 ≠ 0 → signalToken t 3 n parity = ({ t with v0 := t.v0 - 1 }, none)) ∧
  (∀ (t : Token) (n parity : Nat), t.v0 = 0 → signalToken t 3 n parity = (t, some 2)) ∧
  (∀ (s : State) (w : Who) (p : PInstr), Issues s w p → (∀ q ∈ s.seqs, q.unit = w.unit → q.flight = []) →
    let t := updSeq s w.unit fun q => q.setPos w.stream (advance p w.index w.inst)
    (p.cls = 0 → exec (.wait w.unit) s = .next (replayInbound (sendSignal t w.unit p))) ∧
    (p.cls = 1 → p.signalMode = 1 → exec (.signalAdd w.unit) s = .next (replayInbound (sendSignal t w.unit p))) ∧
    (p.cls = 1 → p.signalMode = 2 → exec (.signalAcquire w.unit) s = .next (replayInbound (sendSignal t w.unit p))) ∧
    (p.cls = 1 → p.signalMode = 3 → exec (.signalRelease w.unit) s = .next (replayInbound (sendSignal t w.unit p))) ∧
    (p.cls = 1 → p.signalMode ≠ 0 → p.desc = 0xFFFF → sendSignal t w.unit p = applySignal t p.sigUnit p.sigToken
      p.signalMode (if p.signalMode = 1 then p.sigCount else 1) (s.step.toNat % 2)))

/-! ### Units at work -/

/-- A PASS whose blocks and carry words hold writes its output rectangles and counts its passes (R95, R205); a feeder queue
that reads outside its tile meets an address error (R98; DEDUCED, log 61); the fill gate releases what waits at the wait
limit and at the flush point, and one that held a single group is empty then (R108); a refetched block is checked again
(R82, R83). -/
def Obligations.TilePasses : Prop :=
  (∀ (s : State) (w : Who) (p : PInstr) (stale : List (Nat × Byte)) (time : PassTime) (v : PassEnv), Issues s w p →
    p.cls = 2 → passEnv (issued s w p) w p = .ok v → (v.p.gate = 0xFFFF ∨ v.p.rows % 32 = 0) →
    let rs := (namedPasses v.p p).map (passRect v.p)
    let t := atWork s w p (rectReads (issued s w p) w.unit v rs)
    let rd := overlay stale (peek t w.unit)
    FeedsOwn (issued s w p) w.unit v rs → Here (issued s w p) w.unit (rectReads (issued s w p) w.unit v rs) →
    rectFault t w.unit v rs rd = none → carryFault rd v rs = none →
    exec (.pass w.unit stale time) s = .next (afterWork w (writeRects (rs.zipIdx.foldl (fun s x =>
      countPass s w.unit rd [(v, x.1)] (time.stalls.getD x.2 0) (if x.2 = 0 then time.idle else 0))
      (noteReads t w.unit v rs)) w rd v rs))) ∧
  (∀ (s : State) (w : Who) (p : PInstr) (stale : List (Nat × Byte)) (time : PassTime) (t e tag cond : Nat), Issues s w p →
    p.cls = 2 → passEnv (issued s w p) w p = .error (t, e, tag, cond) →
    exec (.pass w.unit stale time) s = .next (versionFault (issued s w p) w t e tag cond)) ∧
  (∀ (s : State) (w : Who) (p : PInstr) (stale : List (Nat × Byte)) (time : PassTime) (v : PassEnv) (r : Nat × Nat),
    Issues s w p → p.cls = 2 → passEnv (issued s w p) w p = .ok v →
    ((feederRanges (peek (issued s w p) w.unit) v ((namedPasses v.p p).map (passRect v.p))).find? fun r =>
      !inOwnTile (issued s w p) w.unit r.1 r.2) = some r →
    exec (.pass w.unit stale time) s = .next (accessFailed (issued s w p) w 1 r.1)) ∧
  (∀ (s : State) (unit group : Nat) (g : GateGroup) (time : PassTime), openGate s unit group = some g →
    (let oldest := (g.rows.map (·.arrived)).foldl min ((g.rows.map (·.arrived)).headD 0)
     let t := reach s (oldest + (gateDescOf s g.slot).waitNs)
     exec (.fillGateWaitLimit unit group time) s = .next (releaseGroup t unit g time)) ∧
    exec (.fillGateFlushPoint unit group time) s = .next (releaseGroup (reach s (flushPoint s g)) unit g time)) ∧
  (∀ (s : State) (unit group : Nat) (g : GateGroup) (time : PassTime), s.gates = [g] → g.unit = unit → g.group = group →
    g.waits = false → g.rows ≠ [] →
    (∃ t, exec (.fillGateWaitLimit unit group time) s = .next t ∧ t.gates = []) ∧
    ∃ t, exec (.fillGateFlushPoint unit group time) s = .next t ∧ t.gates = []) ∧
  (∀ (s : State) (w : Who) (p : PInstr) (v : PassEnv) (stale : List (Nat × Byte)) (tried : List (Nat × Nat)) (d : BlockDesc)
    (e : Skew) (i : WorkIn) (time : PassTime), s.beat.refetch = [{ who := w, stale := stale, blocks := tried, input := i }] →
    s.beat.stopped = [] → instrOf s w = some p → p.cls = 2 → passEnv s w p = .ok v →
    let rs := (namedPasses v.p p).map (passRect v.p)
    let s' := { s with beat := { s.beat with refetch := [] } }
    let t := workState s' w (rectReads s' w.unit v rs)
    FeedsOwn s' w.unit v rs → Here s' w.unit (rectReads s' w.unit v rs) →
    rectFault t w.unit v rs (overlay stale (peek t w.unit)) = some (d, e) → (d.data, e.b) ∈ tried →
    exec (.blockRefetchComplete w.unit time) s = .next (afterWork w (faultAt t w d.tensor e))) ∧
  (∀ (s : State) (w : Who) (p : PInstr) (v : PassEnv) (stale : List (Nat × Byte)) (tried : List (Nat × Nat)) (i : WorkIn)
    (time : PassTime), s.beat.refetch = [{ who := w, stale := stale, blocks := tried, input := i }] → tried ≠ [] →
    s.beat.stopped = [] → instrOf s w = some p → p.cls = 2 → passEnv s w p = .ok v → (v.p.gate = 0xFFFF ∨ v.p.rows % 32 = 0) →
    let rs := (namedPasses v.p p).map (passRect v.p)
    let s' := { s with beat := { s.beat with refetch := [] } }
    let t := workState s' w (rectReads s' w.unit v rs)
    let rd := overlay stale (peek t w.unit)
    let u := bump t 0x1001 (unitDie w.unit) noTensor 1
    FeedsOwn s' w.unit v rs → Here s' w.unit (rectReads s' w.unit v rs) → rectFault t w.unit v rs rd = none →
    carryFault rd v rs = none → exec (.blockRefetchComplete w.unit time) s = .next (afterWork w (writeRects
      (rs.zipIdx.foldl (fun s x => countPass s w.unit rd [(v, x.1)] (time.stalls.getD x.2 0)
        (if x.2 = 0 then time.idle else 0)) (noteReads u w.unit v rs)) w rd v rs)))

/-- A VE operation runs over its elements and a row operation over its rows once their sources are here (R48, R165 to R175);
a flag read writes the five sticky flags and clears them (R204): the place and the layout of the flag word are the model's
(DESIGN CHOICE, log 12). -/
def Obligations.VectorAndRows : Prop :=
  (∀ (s : State) (w : Who) (p : PInstr) (op : VeOp) (stale : List (Nat × Byte)), Issues s w p → p.cls = 3 →
    veOpIn s p = some op → op.fn ≠ .flagRead → Here (issued s w p) w.unit (veSources (issued s w p) w op) →
    let t := atWork s w p (veSources (issued s w p) w op)
    let rd := overlay stale (peek t w.unit)
    veFault t w op rd = none →
    exec (.veOperation w.unit stale) s = .next (afterWork w (veRun w op rd t))) ∧
  (∀ (s : State) (w : Who) (p : PInstr) (op : VeOp) (td : Fin 8) (ve : Fin 12) (q : SeqUnit), Issues s w p → p.cls = 3 →
    veOpIn s p = some op → op.fn = .flagRead → w.unit = veUnit td ve → seqOf s w.unit = some q →
    let u := writeGlobal (atWork s w p []) w op.dst.base.toNat (leBytes 4 q.flags.toNat)
    ∃ t, exec (.veFlagRead td ve) s = .next t ∧ t = afterWork w (updSeq u w.unit fun q => { q with flags := 0 }) ∧
      ((seqOf t w.unit).map (·.flags)) = some 0) ∧
  (∀ (s : State) (w : Who) (p : PInstr), Issues s w p → p.cls = 4 →
    let d := rowDescOf s p
    let rs := rowReads (issued s w p) w d
    let t' := atWork s w p rs
    let rd := overlay [] (peek t' w.unit)
    let t := noteRowReads t' w d
    Here (issued s w p) w.unit rs → rowFault t' w d rd = none →
    (d.op = 0 → exec (.rowSoftmaxForward w.unit) s = .next (afterWork w (eachRow softForward rd w d t))) ∧
    (d.op = 1 → ∀ lost, exec (.rowSoftmaxBackward w.unit lost) s =
      .next (afterWork w (eachRow (softBackward lost) rd w d t))) ∧
    (d.op = 2 → exec (.rowLayerNormForward w.unit) s = .next (afterWork w (eachRow (normForward false) rd w d t))) ∧
    (d.op = 3 → ∀ lost, exec (.rowLayerNormBackward w.unit lost) s =
      .next (afterWork w (normBackwardAll false lost rd w d t))) ∧
    (d.op = 4 → exec (.rowRmsNormForward w.unit) s = .next (afterWork w (eachRow (normForward true) rd w d t))) ∧
    (d.op = 5 → ∀ lost, exec (.rowRmsNormBackward w.unit lost) s =
      .next (afterWork w (normBackwardAll true lost rd w d t))) ∧
    (d.op = 6 → exec (.rowCategoricalDraw w.unit) s = .next (afterWork w (eachRow drawOne rd w d t))))

/-- Moves, checkpoints, buckets and ingest instructions whose sources are here, and the completion of an instance: it leaves
the flight and its signal goes (R180 to R183, R206, R247, R350, R191). A narrowed checkpoint's load writes the raw bytes of its
block tensor (DEDUCED, log 37). -/
def Obligations.MovesAndBuckets : Prop :=
  (∀ (s : State) (w : Who) (p : PInstr), Issues s w p → p.cls = 5 → isRemote s (moveDescOf s p).src = false →
    isRemote s (moveDescOf s p).dst = false →
    let rs := [((moveDescOf s p).src, (moveDescOf s p).len)]
    Here (issued s w p) w.unit rs →
    exec (.move w.unit) s = .next (afterWork w (moveHere (atWork s w p rs) w (moveDescOf s p)))) ∧
  (∀ (s : State) (w : Who) (p : PInstr), Issues s w p → p.cls = 6 → bitAt p.operand 0 = false →
    let d := ckptDescOf s p
    let rs := [(d.src, d.count * ckptBytes d.k16)]
    Here (issued s w p) w.unit rs →
    exec (.ckptStore w.unit) s = .next (afterWork w (storeRun w d (atWork s w p rs)))) ∧
  (∀ (s : State) (w : Who) (p : PInstr) (stale : List (Nat × Byte)), Issues s w p → p.cls = 6 → bitAt p.operand 0 = true →
    let d := ckptDescOf s p
    let rs := ckptSources (peek (issued s w p) w.unit) true d
    let t := atWork s w p rs
    let rd := overlay stale (peek t w.unit)
    Here (issued s w p) w.unit rs →
    (d.mode = 0 → exec (.ckptLoad w.unit stale) s = .next (afterWork w (writeGlobal t w d.src
      (peek t w.unit d.base (d.count * ckptBytes d.k16))))) ∧
    (d.mode = 1 → segmentFault d rd = none → exec (.ckptLoad w.unit stale) s =
      .next (afterWork w (loadSegments w d rd t))) ∧
    (1 < d.mode → narrowedFault t w.unit d rd = none → exec (.ckptLoad w.unit stale) s =
      .next (afterWork w (writeGlobal t w d.src (rd d.base d.narrowedBytes))))) ∧
  (∀ (s : State) (w : Who) (p : PInstr) (b : BucketDesc) (slips : List AdderSlip), Issues s w p → w.unit = 0x800 →
    p.cls = 8 → p.bucketKind = 0 → bucketDescOf s p = b →
    let mine := (planOf s b.plan).contributes
    let rs := if mine then [(b.staging, 520 * b.segments), (b.segTable, 32 * b.segments)] else []
    let own := if mine then List.range b.segments else []
    let t := atWork s w p rs
    Here (issued s w p) w.unit rs →
    exec (.bucketSend slips) s = .next (afterWork w (drain (sendOwnSegs w b slips own
      (setTag (if (tagOf t b.tag).finished then t else addWaiting t w 1)
        { tagOf t b.tag with sending := true, own := own, slips := slips }))))) ∧
  (∀ (s : State) (w : Who) (p : PInstr) (b : BucketDesc) (vs : List Val) (stale : List (Nat × Byte)) (u : State),
    Issues s w p → p.cls = 8 → p.bucketKind = 1 → bucketDescOf s p = b →
    let rs := [(b.result, 1040 * b.segments), (b.segTable, 32 * b.segments)]
    let t := atWork s w p rs
    Here (issued s w p) w.unit rs → flaggedSegs t w b = [] →
    finishSegs w b t.step.toNat stale (List.range b.segments) [] t = (some vs, u) →
    exec (.bucketFinish w.unit stale) s = .next (afterWork w (writeGlobal u w (b.segTable + 32 * b.segments)
      (leBytes 8 (carryWord (chunkedSum (vs.map fun v => v.mul v))))))) ∧
  (∀ (s : State) (w : Who) (p : PInstr) (g : Program) (b : BucketDesc) (x : Acc), Issues s w p → p.cls = 8 →
    p.bucketKind = 2 → s.program = some g → normBuckets g p = [b] →
    let rs := [(carryAddrOf b, 8)]
    let t := atWork s w p rs
    Here (issued s w p) w.unit rs → carryParse (leNat (peek t w.unit (carryAddrOf b) 8)) = some x →
    let c := convertFull .b32 .nearestEven 0 0 (accVal (accSum Acc.zero [accVal x]))
    exec (.bucketNorm w.unit) s = .next (afterWork w (writeGlobal (raiseVe t w (convFlags c)) w
      (sumSqAddr b.grad (b.first + b.count)) (leBytes 4 c.code)))) ∧
  (∀ (s : State) (w : Who) (p : PInstr), Issues s w p → p.cls = 9 → s.journal.replay = none →
    (∀ q ∈ s.seqs, q.unit = w.unit → q.flight = []) →
    p.signalMode = 0 → ∃ t, exec (.ingest w.unit) s = .next t ∧ t.ingest =
      (queueStep s p.desc (parseIngest ((s.program.map fun g => descOf g p.desc).getD []))
        (s.step + BitVec.ofNat 64 (runAheadOf s))).ingest ∧
      t.seqs = (updSeq s w.unit fun q => q.setPos w.stream (advance p w.index w.inst)).seqs) ∧
  (∀ (s : State) (q : SeqUnit) (f : InFlight) (p : PInstr) (time : PassTime), s.pstate = .running →
    s.journal.replay = none → s.beat.deferred = [] → s.beat.stuck = [] → s.beat.refetch = [] → s.beat.stopped = [] →
    s.beat.reexec = [] → unitStopped s q.unit = false → s.seqs = [q] → q.flight = [f] → f.waiting = 0 → f.stripes = [] →
    let w : Who := { unit := q.unit, stream := f.stream, index := f.index, inst := f.inst }
    instrOf s w = some p → exec (.instanceComplete q.unit f.stream f.index f.inst time) s =
      .next (sendSignal { ranAgain s w with seqs := [{ q with flight := [] }] } q.unit p)) ∧
  (∀ (s : State) (w : Who) (time : PassTime), live s = true → flightOf s w = none →
    (carryPending s w = false → exec (.instanceComplete w.unit w.stream w.index w.inst time) s =
      .next (ranAgain (rerunReaders (countAgain s w time) w) w)) ∧
    (carryPending s w = true → exec (.instanceComplete w.unit w.stream w.index w.inst time) s = .next s))

/-- Updates run once the step is committed and their slot can be written (R229, R233), and a moment block that fails is
refetched (R82); a slot starts to be written, be it held or empty as a restore leaves it (R235; DESIGN CHOICE, log 63; DEDUCED,
log 94), and becomes home (R233); the headroom halving and the stall alarm (R145, R151);
no instance of the U-stream issues before the step is committed (R25). -/
def Obligations.UpdatesAndSlots : Prop :=
  (∀ (s : State) (w : Who) (p : PInstr) (g : Program) (stale : List (Nat × Byte)), Issues s w p → p.cls = 7 →
    p.passKind = 0 → updateReady 0 s p = true → s.program = some g →
    let u := parseUpdate (descOf g p.desc)
    let s' := if u.fwd = 0xFFFF then issued s w p else startAway (issued s w p) u.fwd
    let idx := (mainBlocks s' g u (instSpans w p)).flatMap fun x => x.2.filterMap id
    let rs := mainRanges (peek s' w.unit) s' g u idx ++ copyBumps s' g u.fwd (instSpans w p)
    let t := workState s' w rs
    let rd := overlay stale (peek t w.unit)
    Here s' w.unit rs →
    (momentFault t w.unit g u idx rd = none →
      exec (.updateMainPass w.unit stale) s = .next (afterWork w (mainPass w p g u rd t))) ∧
    (∀ (d : BlockDesc) (e : Skew), momentFault t w.unit g u idx rd = some (d, e) →
      exec (.updateMainPass w.unit stale) s = .next { t with beat := { t.beat with refetch := t.beat.refetch ++
        [{ who := w, stale := dropStale (peek t w.unit) d e.b stale, blocks := [(d.data, e.b)],
           input := { stale := stale } }] } })) ∧
  (∀ (s : State) (w : Who) (p : PInstr) (g : Program), Issues s w p → p.cls = 7 → p.passKind = 1 →
    updateReady 1 s p = true → s.program = some g →
    let u := parseUpdate (descOf g p.desc)
    let k := s.step.toNat + 1
    let s' := startAway (issued s w p) u.trans
    let rs := copyRanges g u.trans k (instSpans w p) ++ copyBumps s g u.trans (instSpans w p)
    u.trans ≠ 0xFFFF → Here s' w.unit rs → exec (.updateCopyPass w.unit) s =
      .next (afterWork w (copyPass w g u k (instSpans w p) (workState s' w rs)))) ∧
  (∀ (s : State) (g : Program) (v : VState), s.pstate = .running → s.beat.committed = true → s.program = some g →
    s.versions = [v] → ((v.slot (s.step.toNat + 1)).cond = .held ∨ (v.slot (s.step.toNat + 1)).cond = .empty) →
    tokenValue s v.unit ((parseVersion (descOf g v.record)).refToken (s.step.toNat + 1)) = 0 →
    exec (.awaySlotWriteStart v.record) s = .next { s with versions := [{ v.setSlot (s.step.toNat + 1)
      { v.slot (s.step.toNat + 1) with fmt := copyFormat s g v.record, cond := .writing } with spans := [] }] }) ∧
  (∀ (s : State) (g : Program) (v : VState), s.pstate = .running → s.journal.replay = none → s.program = some g → s.versions = [v] →
    (v.slot (s.step.toNat + 1)).cond = .writing → v.last = none →
    (List.range (ceilDiv (parseBlock (descOf g ((parseVersion (descOf g v.record)).slotDesc (s.step.toNat + 1)))).n 256)).all
      v.spans.contains = true →
    tokenValue s v.unit ((parseVersion (descOf g v.record)).refToken (s.step.toNat + 2)) = 0 →
    ∃ t v', exec (.versionSlotSwap v.record) s = .next t ∧ t.versions = [v'] ∧
      (v'.slot (s.step.toNat + 1)).cond = .home ∧
      (v'.slot (s.step.toNat + 1)).tag = BitVec.ofNat 16 (s.step.toNat + 1) ∧
      (v'.slot (s.step.toNat + 2)).cond = .held ∧ (v'.slot (s.step.toNat + 2)).tag = (v.slot (s.step.toNat + 2)).tag ∧
      t.seqs = (applySignal s v.unit (parseVersion (descOf g v.record)).epochToken 1 1 0).seqs ∧ t.mem = s.mem) ∧
  (∀ (s : State) (d : TrackDesc) (t : Tracker), trackDescOf s d.tensor = some d → s.scales.trackers = [t] →
    t.tensor = d.tensor → t.last.written = true → d.headSteps ≤ t.headroom → t.adj < 15 →
    exec (.headroomHalving d.tensor) s = .next (post { s with scales := { s.scales with trackers :=
      [{ t with adj := t.adj + 1, headroom := 0, st := tensorExp t.base (t.adj + 1) }] } } 0x0602
      (packed [(4, d.tensor), (4, s.step.toNat), (4, (BitVec.ofInt 32 (-((t.adj : Int) + 1))).toNat)]))) ∧
  (∀ (s : State) (d : TrackDesc) (t : Tracker), trackDescOf s d.tensor = some d → s.scales.trackers = [t] →
    t.tensor = d.tensor → t.last.written = true → d.headSteps ≤ t.headroom → 15 ≤ t.adj →
    exec (.headroomHalving d.tensor) s = .next { s with scales := { s.scales with trackers := [{ t with headroom := 0 }] } }) ∧
  (∀ (s : State) (g : Program) (d : LayerDesc) (l : LayerState), s.program = some g →
    (layerDescs g).find? (fun x => x.layer == d.layer) = some d → s.scales.layers = [l] → l.layer = d.layer →
    stallOn d = true → l.alarm = false → d.stallSteps ≤ l.stall →
    (decode .b32 l.ratio.toNat).lt (decode .k16 d.stallFloor) = true →
    exec (.stallAlarm d.layer) s = .next (post { s with scales := { s.scales with layers :=
      [{ l with alarm := true, pauseAsked := l.pauseAsked || bitAt d.flags 1 }] } } 0x0603
      (packed [(2, d.layer), (4, s.step.toNat), (4, l.ratio.toNat)]))) ∧
  (∀ (s : State) (w : Who) (p : PInstr), Issues s w p → w.stream = .U → s.beat.committed = true)

/-! ### The beat -/

/-- The hold point, the hold limit, and the period boundaries: a beat advances, is held, or ends the step (R210 to R213,
R234, R305). The hold reason of missing members is the model's (DESIGN CHOICE, log 47). -/
def Obligations.BeatsAndHolds : Prop :=
  (∀ s : State, s.pstate = .running → s.beat.pauseDue = false → s.beat.atHoldPoint = false → s.beat.upSent = false →
    s.beat.halting = false → s.beat.ups = [] → s.journal.replay = none → huddleOpen s = false → childPorts s = [] →
    parentPort s = none → ∃ t d, exec .holdPoint s = .next t ∧ t.beat.atHoldPoint = true ∧ t.beat.upSent = true ∧
      t.beat.reasons = ownReasons s ++
        (if 1 < s.beat.members ∧ s.beat.started = true ∧ (4, 0x800) ∉ ownReasons s then [(4, 0x800)] else []) ∧
      t.beat.down = some d ∧ (d.hold = true ↔ ownReasons s ≠ [] ∨ 1 < s.beat.members) ∧ t.beat.number = s.beat.number ∧ t.mem = s.mem ∧ t.seqs = s.seqs) ∧
  (∀ s : State, s.pstate = .running → s.beat.started = true → s.beat.atHoldPoint = true → s.beat.reasons ≠ [] →
    holdLimitOf s < s.beat.holdRun + 1 → s.beat.abortFlags.getLsbD 2 = false →
    ∃ t, exec .holdLimit s = .next t ∧ t.beat.haltCause = some (s.beat.haltCause.getD 0x0802) ∧
      t.beat.abortFlags.getLsbD 2 = true ∧ t.beat.number = s.beat.number ∧ t.mem = s.mem) ∧
  (∀ (s : State) (d : Decision), Decided s d → s.beat.started = true → d.hold = false → huddleOpen s = false →
    s.beat.number + 1 < ((headerOf s).map (·.working)).getD 0 + s.beat.stoppage →
    ∃ t, exec .periodBoundary s = .next t ∧ t.beat.number = s.beat.number + 1 ∧ t.beat.period = s.beat.period + 1 ∧
      t.beat.holdRun = 0 ∧ t.step = s.step ∧ t.timebase = max s.timebase (periodEnd s) ∧ t.mem = s.mem ∧ t.seqs = s.seqs) ∧
  (∀ (s : State) (d : Decision), Decided s d → s.beat.started = true → d.hold = true → d.abort = false →
    ∃ t, exec .periodBoundary s = .next t ∧ t.beat.number = s.beat.number ∧ t.beat.period = s.beat.period + 1 ∧
      t.beat.stoppage = s.beat.stoppage - 1 ∧ t.beat.holdRun = s.beat.holdRun + 1 ∧
      t.beat.latePeriods = (if s.beat.stoppage = 0 then s.beat.latePeriods + 1 else s.beat.latePeriods) ∧ t.step = s.step ∧
      t.mem = s.mem ∧ t.seqs = s.seqs) ∧
  (∀ (s : State) (d : Decision), Decided s d → s.beat.started = true → d.hold = false → huddleOpen s = false →
    s.beat.pauseAt = none → s.journal.replay = none → s.journal.armed = none → s.reduce.withheld = [] →
    s.beat.number + 1 = ((headerOf s).map (·.working)).getD 0 + s.beat.stoppage →
    ∃ t, exec .periodBoundary s = .next t ∧ t.step = s.step + 1 ∧ t.beat.number = 0 ∧
      t.beat.stoppage = ((headerOf s).map (·.stoppage)).getD 0 ∧ t.beat.committed = false ∧
      (∀ q ∈ t.seqs, q.posF = (0, 0) ∧ q.posB = (0, 0) ∧ q.posU = (0, 0)) ∧ t.pstate = .running) ∧
  (∀ (s : State) (d : Decision), Decided s d → s.beat.started = false → s.beat.heldNow = false → d.hold = false →
    ∃ t, exec .beatEpoch s = .next t ∧ t.beat.started = true ∧ t.beat.number = 0 ∧ t.beat.period = 0 ∧
      t.timebase = max s.timebase s.beat.epoch ∧ t.step = s.step ∧ t.mem = s.mem ∧ t.seqs = s.seqs)

/-- The whistle's up and down frames (R306, R307) and the huddle's contributions (R236, R237, R309). What a stopped child means
for the decision is the model's choice (DESIGN CHOICE, log 47). -/
def Obligations.WhistleAndHuddle : Prop :=
  (∀ (s : State) (p : Fin 12), s.pstate = .running → s.beat.pauseDue = false → s.beat.atHoldPoint = true →
    s.beat.upSent = false → s.journal.replay = none → parentPort s = none → p ∈ childPorts s →
    s.beat.ups.any (·.port == p) = false → (childStopped s p = false ∨ huddleOpen s = true) →
    ∃ t d, exec .whistleUpDeadline s = .next t ∧ t.beat.upSent = true ∧ t.beat.down = some d ∧ d.hold = true ∧
      t.beat.number = s.beat.number ∧ t.mem = s.mem ∧ t.seqs = s.seqs) ∧
  (∀ s : State, s.pstate = .running → s.beat.pauseDue = false → s.beat.atHoldPoint = true → s.beat.upSent = false →
    s.journal.replay = none → parentPort s = none → huddleOpen s = false → s.beat.reasons = [] →
    (∀ u ∈ s.beat.ups, u.hold = false) → (∀ p ∈ absentChildren s, childStopped s p = true) →
    s.beat.members ≤ membersBelow s → ∃ t d, exec .whistleUpDeadline s = .next t ∧ t.beat.upSent = true ∧
      t.beat.down = some d ∧ d.hold = false ∧ t.beat.reasons = [] ∧ t.mem = s.mem ∧ t.seqs = s.seqs) ∧
  (∀ (s : State) (x : Rx), Arrives s x 0x0C → field x.f.payload 14 1 = 0 →
    onBeat (received s x) = true → (childPorts (received s x)).contains x.port = true → s.beat.upSent = false →
    s.beat.atHoldPoint = false → field x.f.payload 0 8 = wirePeriod (received s x) →
    s.beat.ups.any (fun u => u.port == x.port) = false → exec (.whistleUpFrame x) s = .next { received s x with
      beat := { (received s x).beat with
        ups := s.beat.ups ++ [upOf x], seen := s.beat.seen.filter (·.port != x.port) ++ [upOf x] } }) ∧
  (∀ (s : State) (x : Rx), Arrives s x 0x0C → field x.f.payload 14 1 = 1 → parentPort s = some x.port → childPorts s = [] →
    onBeat (received s x) = true → s.beat.down = none → field x.f.payload 0 8 = wirePeriod s →
    exec (.whistleDownFrame x) s =
      .next { received s x with beat := { (received s x).beat with down := some (decisionOf s x) } }) ∧
  (∀ (s : State) (x : Rx), Arrives s x 0x0C → field x.f.payload 14 1 = 1 → parentPort s ≠ some x.port →
    exec (.whistleDownFrame x) s = .next (received s x)) ∧
  (∀ (s : State) (p : Program), s.program = some p → voteDue s = true → s.journal.replay = none → childPorts s = [] →
    parentPort s = none → s.beat.combined = none → s.beat.huddleParts = [] →
    exec .huddleEnter s = .next { statsTaken s with beat :=
      { s.beat with huddleSent := true, huddleOwn := some (ownHuddle s p (voteFlags s)),
                    combined := some (ownHuddle s p (voteFlags s)) } }) ∧
  (∀ (s : State) (p : Program), (voteFlags s ≠ 0 ∨ completeUpTo s p.hdr.huddleBeat = false) →
    (ownHuddle s p (voteFlags s)).ready = 0 ∧ (ownHuddle s p (voteFlags s)).abortNode = ~~~s.fabric.rcd.node) ∧
  (∀ (s : State) (p : Program), voteFlags s = 0 → completeUpTo s p.hdr.huddleBeat = true →
    (ownHuddle s p (voteFlags s)).ready = 1 ∧ (ownHuddle s p (voteFlags s)).abortNode = 0) ∧
  (∀ (s : State) (x : Rx) (h : Huddle), Arrives s x 0x0D → inReset s = false → s.journal.replay = none →
    x.f.flags.getLsbD 2 = true → (childPorts s).contains x.port = true → s.beat.huddleOwn = none →
    s.beat.huddleParts.any (fun y => y.1 == x.port) = false → exec (.huddleFrame x h) s = .next { received s x with
      beat := { (received s x).beat with
        huddleIn := s.beat.huddleIn.filter (·.1 != x.port)
        huddleParts := s.beat.huddleParts ++ [(x.port, withHeader (piecesOf s x.port ++ x.f.payload) h)] } }) ∧
  (∀ (s : State) (x : Rx) (h : Huddle), Arrives s x 0x0D → inReset s = false → s.journal.replay = none →
    x.f.flags.getLsbD 2 = false →
    exec (.huddleFrame x h) s = .next (setPieces (received s x) x.port (piecesOf s x.port ++ x.f.payload))) ∧
  (∀ (s : State) (x : Rx) (h : Huddle), Arrives s x 0x0D → inReset s = true →
    exec (.huddleFrame x h) s = .next (discard (received s x) x.port.val 12 1))

/-! ### Faults of units -/

/-- Residue mismatches, substitutes, re-probes, compaction, telemetry and what a die scheduler makes of the table (R438 to
R446). -/
def Obligations.UnitFaults : Prop :=
  (∀ (s : State) (t : TileId) (dpu cycle : Nat) (lost : List Nat) (e sub : UnitEntry) (unit : Nat),
    findUnit s (tilePhys t) = some e → e.cond = .inService → e.logical = some unit →
    lowestSpare s (kindCode t.kind) t.td.val = some sub → sub.phys ≠ tilePhys t →
    ∃ u e' sub', exec (.tileResidueMismatch t dpu cycle lost) s = .next u ∧ findUnit u (tilePhys t) = some e' ∧
      e'.cond = .suspect ∧ e'.logical = none ∧ findUnit u sub.phys = some sub' ∧ sub'.cond = .inService ∧
      sub'.logical = some unit ∧
      (∀ q, seqOf s unit = some q → (seqOf u unit).bind (·.reported) = some { dpu := dpu, cycle := cycle })) ∧
  (∀ (s : State) (t : TileId) (dpu cycle : Nat) (lost : List Nat) (e : UnitEntry), findUnit s (tilePhys t) = some e →
    e.cond ≠ .inService → exec (.tileResidueMismatch t dpu cycle lost) s = .next s) ∧
  (∀ (s : State) (t : TileId) (e : UnitEntry), findUnit s (tilePhys t) = some e → e.cond = .suspect → e.logical = none →
    e.standsFor = [] → recentMismatches s (tilePhys t) < 3 → exec (.tileReprobe t true) s =
      .next (unitEvent (setCond s (tilePhys t) .spare 0) 0x1004 (tilePhys t) none)) ∧
  (∀ (s : State) (t : TileId) (e : UnitEntry), findUnit s (tilePhys t) = some e → e.cond = .suspect → e.logical = none →
    e.standsFor = [] → 3 ≤ recentMismatches s (tilePhys t) → exec (.tileReprobe t true) s =
      .next (unitEvent (setCond s (tilePhys t) .failed 7) 0x1005 (tilePhys t) (some 7))) ∧
  (∀ (s : State) (t : TileId) (e : UnitEntry), findUnit s (tilePhys t) = some e → e.cond = .suspect → e.logical = none →
    exec (.tileReprobe t false) s =
      .next (unitEvent (setCond s (tilePhys t) .failed 3) 0x1005 (tilePhys t) (some 3))) ∧
  (∀ (s : State) (td : Fin 8) (kind : TileKind) (x : PhysUnit × Nat), s.pstate ≠ .running → s.journal.replay = none →
    awaiting s (kindCode kind) td.val = [x] → (∀ k : Nat, 3 ≤ k → k ≤ 7 → awaiting s k td.val = []) →
    exec (.capacityCompaction td kind) s = .next (compactOne s x)) ∧
  (∀ (s : State) (td : Fin 8) (kind : TileKind), s.pstate = .running → exec (.capacityCompaction td kind) s = .next s) ∧
  (∀ (s : State) (unit : Nat) (passes : Bool) (e : UnitEntry), runner s unit = some e → 3 ≤ e.phys.kind → e.phys.kind ≤ 5 →
    e.cond = .inService →
    exec (.unitResidueMismatch unit false passes) s = .next ((numbersOf e).foldl rerun (countMismatch s e.phys))) ∧
  (∀ (s : State) (unit : Nat) (e : UnitEntry), runner s unit = some e → 3 ≤ e.phys.kind → e.phys.kind ≤ 5 →
    e.cond = .inService → 2 ≤ recentMismatches s e.phys → ∃ t, exec (.unitResidueMismatch unit true true) s = .next t ∧
      (findUnit t e.phys).map (fun x => (x.cond, x.cause)) = some (.failed, 7)) ∧
  (∀ (s : State) (r : UnitReport) (e : UnitEntry), findUnit s r.phys = some e →
    (e.cond = .inService ∨ e.cond = .spare) → e.logical = none → r.phys.kind ≠ 0xA →
    r.managementSound ≠ r.dataPathSound → exec (.managementTelemetry r) s =
      .next (suspect s r.phys (if r.managementSound then 5 else 4))) ∧
  (∀ (s : State) (r : UnitReport) (e o : UnitEntry), findUnit s r.phys = some e → e.cond = .inService → e.logical = none →
    r.phys.kind = 0xA → r.phys.index < 12 → (getAt s.reduce.pipes (r.phys.index / 2) 0).val = r.phys.index % 2 →
    findUnit s { r.phys with index := 2 * (r.phys.index / 2) + (1 - r.phys.index % 2) } = some o → o.cond ≠ .failed →
    r.managementSound ≠ r.dataPathSound → ∃ t, exec (.managementTelemetry r) s = .next t ∧
      (getAt t.reduce.pipes (r.phys.index / 2) 0).val = 1 - r.phys.index % 2 ∧
      (findUnit t r.phys).map (fun x => (x.cond, x.cause)) = some (.suspect, if r.managementSound then 5 else 4)) ∧
  (∀ (s : State) (r : UnitReport) (e : UnitEntry), findUnit s r.phys = some e → e.cond ≠ .suspect →
    r.managementSound = r.dataPathSound → exec (.managementTelemetry r) s = .next s) ∧
  (∀ (s : State) (u : PhysUnit) (e : UnitEntry) (unit : Nat) (q : SeqUnit), findUnit s u = some e → e.cond = .failed →
    e.logical = some unit → s.seqs = [q] → q.unit = unit → ∃ t q', exec (.unitTableApply u) s = .next t ∧ t.seqs = [q'] ∧
      q'.flight = q.flight.map (fun f => { f with finished := false }) ∧
      (∀ f ∈ q.flight, t.beat.reexec.contains { unit := unit, stream := f.stream, index := f.index, inst := f.inst } = true) ∧
      t.mem = s.mem) ∧
  (∀ (s : State) (w : Who) (p : PInstr), Issues s w p → w.unit / 256 < 8 → unitStopped s w.unit = false) ∧
  (∀ (s : State) (w : Who) (time : PassTime), unitStopped s w.unit = true → s.beat.deferred = [] → flightOf s w ≠ none →
    exec (.instanceComplete w.unit w.stream w.index w.inst time) s = .next s)

/-! ### The fabric -/

/-- Requests of other modules served, and their refusals (R295 to R299, R391); signal, bulk and reduction frames (R301, R302,
R262). `received s x` is the state once the link layer has taken the frame. The kind codes of the inbound log are log 38 (DESIGN
CHOICE), the header fields that a reduction fault posts are log 40 (DEDUCED). -/
def Obligations.ServedRequests : Prop :=
  (∀ (s : State) (x : Rx) (space off : Nat) (b : List Byte), Arrives s x 0x01 →
    requestPlace (received s x) x.f x.f.len.toNat = some (space, off) → space ≠ 8 → space ≠ 1 →
    rangeOk x.f x.f.len.toNat (maxPayload (received s x).fabric.ports[x.port]) = true →
    readLocal (received s x) space off x.f.len.toNat = .bytes b →
    exec (.readRequest x []) s = .next (sendFrame (received s x) (responseTo (received s x) x.f 0 b))) ∧
  (∀ (s : State) (x : Rx) (off : Nat) (b : List Byte) (reads : List DevRead), Arrives s x 0x01 →
    requestPlace (received s x) x.f x.f.len.toNat = some (1, off) →
    rangeOk x.f x.f.len.toNat (maxPayload (received s x).fabric.ports[x.port]) = true →
    readLocal (received s x) 1 off x.f.len.toNat = .bytes b →
    let n := x.f.len.toNat
    let t := deviceReads (chargeRead (received s x) off n) (unitsOn off n)
      (reads.filter fun r => decide (0 < unitsOn off n r.device.val))
    (stripesHeld t 1 off n = [] → exec (.readRequest x reads) s = .next (sendFrame t (responseTo t x.f 0 b))) ∧
    (stripesHeld t 1 off n ≠ [] → exec (.readRequest x reads) s = .next { t with mem := { t.mem with
      acks := t.mem.acks ++ [{ what := .frame (responseTo t x.f 0 b), stripes := stripesHeld t 1 off n }] } })) ∧
  (∀ (s : State) (x : Rx) (space off st : Nat), Arrives s x 0x01 →
    requestPlace (received s x) x.f x.f.len.toNat = some (space, off) → space ≠ 8 →
    rangeOk x.f x.f.len.toNat (maxPayload (received s x).fabric.ports[x.port]) = true →
    readLocal (received s x) space off x.f.len.toNat = .fail st →
    exec (.readRequest x []) s = .next (sendFrame (received s x) (responseTo (received s x) x.f st []))) ∧
  (∀ (s : State) (x : Rx) (off : Nat), Arrives s x 0x01 →
    requestPlace (received s x) x.f x.f.len.toNat = some (8, off) → fromCaptain (received s x) x.f = false →
    exec (.readRequest x []) s = .next (sendFrame (received s x) (responseTo (received s x) x.f 4 []))) ∧
  (∀ (s t : State) (x : Rx) (off : Nat), Arrives s x 0x03 →
    requestPlace (received s x) x.f x.f.payload.length = some (0, off) →
    rangeOk x.f x.f.payload.length (maxPayload (received s x).fabric.ports[x.port]) = true →
    writeLocal (received s x) 0 off x.f.payload = (0, t) → s.journal.recording = false →
    exec (.writeRequest x) s = .next (sendFrame t (responseTo t x.f 0 []))) ∧
  (∀ (s t : State) (x : Rx) (off : Nat), Arrives s x 0x03 →
    requestPlace (received s x) x.f x.f.payload.length = some (1, off) →
    rangeOk x.f x.f.payload.length (maxPayload (received s x).fabric.ports[x.port]) = true →
    writeLocal (received s x) 1 off x.f.payload = (0, t) →
    let u := logInbound t x.f.src.toNat 0 x.f.arg.toNat x.f.payload
    let held := stripesHeld u 1 off x.f.payload.length
    (held = [] → exec (.writeRequest x) s = .next (sendFrame u (responseTo u x.f 0 []))) ∧
    (held ≠ [] → exec (.writeRequest x) s = .next { u with mem := { u.mem with
      acks := u.mem.acks ++ [{ what := .frame (responseTo u x.f 0 []), stripes := held }] } })) ∧
  (∀ (s t : State) (x : Rx) (space off st : Nat), Arrives s x 0x03 →
    requestPlace (received s x) x.f x.f.payload.length = some (space, off) → space ≠ 8 →
    rangeOk x.f x.f.payload.length (maxPayload (received s x).fabric.ports[x.port]) = true →
    writeLocal (received s x) space off x.f.payload = (st, t) → st ≠ 0 →
    exec (.writeRequest x) s = .next (sendFrame t (responseTo t x.f st []))) ∧
  (∀ (s : State) (x : Rx) (off : Nat), Arrives s x 0x03 →
    requestPlace (received s x) x.f x.f.payload.length = some (8, off) → fromCaptain (received s x) x.f = true →
    (x.f.payload.length = 4 ∨ x.f.payload.length = 8) → off % x.f.payload.length = 0 →
    ((0x1000 ≤ off ∧ off < 0x1014) ∨ (0x2000 ≤ off ∧ off < 0x20A0) ∨ (0x10000 ≤ off ∧ off < 0x11008)) →
    exec (.writeRequest x) s = .next (sendFrame (received s x) (responseTo (received s x) x.f 4 []))) ∧
  (∀ (s t : State) (x : Rx) (off w : Nat) (b : List Byte), Arrives s x 0x05 → field x.f.payload 1 1 = w →
    requestPlace (received s x) x.f w = some (0, off) → x.f.payload.length = 24 → field x.f.payload 0 1 ≤ 5 →
    (w = 4 ∨ w = 8) → zeros x.f.payload 2 6 = true → x.f.arg.toNat % w = 0 →
    readLocal (received s x) 0 off w = .bytes b → s.journal.recording = false →
    writeLocal (received s x) 0 off (leBytes w (atomicNew (field x.f.payload 0 1) w (leNat b) (field x.f.payload 8 8)
      (field x.f.payload 16 8))) = (0, t) →
    exec (.atomicRequest x) s = .next (sendFrame t (responseTo t x.f 0 (leBytes 8 (leNat b))))) ∧
  (∀ (w old operand compare : Nat), old < 2 ^ (8 * w) → atomicNew 0 w old operand compare = (old + operand) % 2 ^ (8 * w) ∧
    atomicNew 4 w old operand compare = operand % 2 ^ (8 * w) ∧
    (old = compare % 2 ^ (8 * w) → atomicNew 5 w old operand compare = operand % 2 ^ (8 * w)) ∧
    (old ≠ compare % 2 ^ (8 * w) → atomicNew 5 w old operand compare = old) ∧
    (∀ op : Nat, atomicNew op w old operand compare < 2 ^ (8 * w))) ∧
  (∀ (s : State) (x : Rx), Arrives s x 0x07 → s.pstate = .running → inReset s = false →
    s.journal.recording = false → exec (.signalFrame x) s = .next (takeSignal (received s x) x.f.payload)) ∧
  (∀ (s : State) (x : Rx), Arrives s x 0x07 → s.pstate ≠ .running →
    exec (.signalFrame x) s = .next (discard (received s x) x.port.val 9 1)) ∧
  (∀ (s : State) (x : Rx) (space off : Nat) (b : List Byte), Arrives s x 0x09 →
    requestPlace (received s x) x.f x.f.len.toNat = some (space, off) → space ≠ 8 → space ≠ 1 →
    readLocal (received s x) space off x.f.len.toNat = .bytes b → exec (.bulkReadRequest x) s =
      (let t : Bulk := { tid := x.f.tid, node := x.f.src, inward := false, src := x.f.arg,
                         dst := BitVec.ofNat 64 (leNat (x.f.payload.take 8)), len := x.f.len.toNat, acked := 0, rest := 0,
                         served := true, owner := .nobody }
       let u := dropBulk (received s x) t
       .next (sendBulk { u with fabric := { u.fabric with bulks := u.fabric.bulks ++ [t] } } x.f.src.toNat x.f.tid.toNat
         (leNat (x.f.payload.take 8)) b none))) ∧
  (∀ (s : State) (x : Rx) (off st : Nat) (b : List Byte), Arrives s x 0x09 →
    requestPlace (received s x) x.f x.f.len.toNat = some (8, off) →
    controlRead (received s x) x.f off x.f.len.toNat = (st, b) →
    (fromCaptain (received s x) x.f = false → st = 4) ∧
    (st ≠ 0 → exec (.bulkReadRequest x) s = .next (sendFrame (received s x)
      (bulkAckFrame (received s x) x.f.src.toNat x.f.tid.toNat st (leNat (x.f.payload.take 8))))) ∧
    (st = 0 → exec (.bulkReadRequest x) s =
      (let t : Bulk := { tid := x.f.tid, node := x.f.src, inward := false, src := x.f.arg,
                         dst := BitVec.ofNat 64 (leNat (x.f.payload.take 8)), len := x.f.len.toNat, acked := 0, rest := 0,
                         served := true, owner := .nobody }
       let u := dropBulk (received s x) t
       .next (sendBulk { u with fabric := { u.fabric with bulks := u.fabric.bulks ++ [t] } } x.f.src.toNat x.f.tid.toNat
         (leNat (x.f.payload.take 8)) b none)))) ∧
  (∀ (s t : State) (x : Rx), Arrives s x 0x08 → s.fabric.bulks = [] → s.fabric.bulkIn = [] → s.fabric.lateReads = [] →
    s.mem.ends = [] → s.journal.recording = false →
    isLocal (received s x) (nodeOf x.f.arg.toNat) = true → spaceOf x.f.arg.toNat = 0 → x.f.flags.getLsbD 2 = true →
    writeLocal (received s x) 0 (offsetOf x.f.arg.toNat) x.f.payload = (0, t) →
    exec (.bulkData x) s = .next (sendFrame t
      (bulkAckFrame t x.f.src.toNat x.f.tid.toNat 0 (x.f.arg.toNat + x.f.payload.length - 1)))) ∧
  (∀ (s : State) (x : Rx) (slips : List AdderSlip), Arrives s x 0x0B →
    ((parseSegs 16 x.f.payload).all residuesHold) = true → (inReset s = true ∨ s.pstate = .halted) →
    exec (.reductionFrame x slips) s = .next (discard (received s x) x.port.val 12 1)) ∧
  (∀ (s : State) (x : Rx) (g : WireSeg) (b : BucketDesc), Arrives s x 0x0B → parseSegs 16 x.f.payload = [g] →
    residuesHold g = true → inReset s = false → s.pstate ≠ .halted → s.journal.replay = none →
    admitted (received s x) g = true → bucketOfTag s g.hdr.tag = some b → g.hdr.number < b.segments → g.hdr.kind ≠ 3 →
    let held := segmentOf (tagOf s b.tag) g.hdr.number
    (g.hdr.down = false → x.port ∈ planChildren (planOf s b.plan) → held.done = false → x.port.val ∉ held.seen →
      exec (.reductionFrame x []) s = .next (drain (contribute (received s x) b g.hdr.number
        { source := x.port.val, g16 := g.hdr.kind == 0, elems := g.elems, exponent := g.hdr.exponent, flag := g.hdr.flag,
          amax := g.hdr.amax, contributors := g.hdr.contributors }))) ∧
    (g.hdr.down = true → (planOf s b.plan).parent = x.port.val → held.done = false → ∀ slips,
      exec (.reductionFrame x slips) s = .next (drain (takeResult (logInbound (received s x) x.f.src.toNat 3
        (b.result + 1024 * g.hdr.number) g.raw) b g)))) ∧
  (∀ (s : State) (x : Rx) (slips : List AdderSlip) (g : WireSeg) (b : BucketDesc), Arrives s x 0x0B →
    parseSegs 16 x.f.payload = [g] → residuesHold g = true → inReset s = false → s.pstate ≠ .halted →
    s.journal.replay = none → admitted (received s x) g = true → s.reduce.withheld = [] → bucketOfTag s g.hdr.tag = some b → b.segments ≤ g.hdr.number →
    exec (.reductionFrame x slips) s = .next (drain
      (reductionFault (received s x) 0xC g.hdr.tag g.hdr.number x.port.val (b.segments - 1) g.hdr.number)))

/-- Responses and bulk acks that come back to this module, and requests that time out (R298, R300, R301). -/
def Obligations.Responses : Prop :=
  (∀ (s : State) (x : Rx) (t : Txn) (win n : Nat), Arrives s x 0x02 → s.fabric.txns = [t] → t.tid = x.f.tid → t.typ = 1 →
    t.owner = .hostRead win n → x.f.status = 0 → exec (.readResponse x) s = .next (emit { received s x with fabric :=
      { (received s x).fabric with txns := [] } } (.readData x.f.payload))) ∧
  (∀ (s : State) (x : Rx), Arrives s x 0x02 → s.fabric.txns = [] →
    exec (.readResponse x) s = .next (bump (received s x) 0x0B0E x.port.val noTensor 1)) ∧
  (∀ (s : State) (x : Rx) (t : Txn) (w : Who), Arrives s x 0x04 → s.fabric.txns = [t] → t.tid = x.f.tid → t.typ = 3 →
    t.owner = .unit w → x.f.status = 0 → exec (.writeAck x) s = .next (lessWaiting { received s x with fabric :=
      { (received s x).fabric with txns := [] } } w)) ∧
  (∀ (s : State) (x : Rx), Arrives s x 0x04 → s.fabric.txns = [] →
    exec (.writeAck x) s = .next (bump (received s x) 0x0B0E x.port.val noTensor 1)) ∧
  (∀ (s : State) (x : Rx) (t : Txn) (w : Who), Arrives s x 0x06 → s.fabric.txns = [t] → t.tid = x.f.tid → t.typ = 5 →
    t.owner = .unit w → x.f.status = 0 → exec (.atomicResponse x) s = .next (lessWaiting { received s x with fabric :=
      { (received s x).fabric with txns := [] } } w)) ∧
  (∀ (s : State) (x : Rx), Arrives s x 0x06 → s.fabric.txns = [] →
    exec (.atomicResponse x) s = .next (bump (received s x) 0x0B0E x.port.val noTensor 1)) ∧
  (∀ (s : State) (t : Txn) (w : Who), s.fabric.txns = [t] → t.owner = .unit w → s.mbox.squad = [] →
    exec (.responseTimeout t.tid) s =
      .next (accessFailed { s with fabric := { s.fabric with txns := [] } } w 6 t.addr.toNat)) ∧
  (∀ (s : State) (b : Bulk) (w : Who), s.fabric.txns = [] → s.fabric.bulks = [b] → b.served = false → b.owner = .unit w →
    s.mbox.squad = [] → exec (.responseTimeout b.tid) s = .next (accessFailed
      { s with fabric := { s.fabric with
        bulks := [], lateReads := s.fabric.lateReads ++ (if b.inward then [(b.node, b.tid)] else []) } } w 6
      (if b.inward then b.src.toNat else b.dst.toNat))) ∧
  (∀ (s : State) (x : Rx) (b : Bulk) (c : Cmd), Arrives s x 0x0A → s.fabric.bulks = [b] → b.tid = x.f.tid →
    b.node = x.f.src → b.inward = false → b.rest = 0 → b.owner = .dma c → x.f.status = 0 → b.len ≤ x.f.arg.toNat + 1 - b.dst.toNat →
    exec (.bulkAck x) s = .next (done { received s x with fabric := { (received s x).fabric with bulks := [] } } c 0)) ∧
  (∀ (s : State) (x : Rx) (b : Bulk) (c : Cmd), Arrives s x 0x0A → s.fabric.bulks = [b] → b.tid = x.f.tid →
    b.node = x.f.src → b.inward = false → b.owner = .dma c → x.f.status ≠ 0 → s.mbox.squad = [] →
    exec (.bulkAck x) s = .next (done { received s x with fabric := { (received s x).fabric with bulks := [] } } c
      (if x.f.status = 3 ∨ x.f.status = 6 then 0x09 else 0x07))) ∧
  (∀ (s : State) (x : Rx), Arrives s x 0x0A → s.fabric.bulks = [] →
    exec (.bulkAck x) s = .next (bump (received s x) 0x0B0E x.port.val noTensor 1))

/-- Link-control frames (R277, R284, R285, R287) and the forwarding of other modules' frames (R288, R293). -/
def Obligations.LinkLayer : Prop :=
  (∀ (s : State) (x : Rx), InOrder s x 0x0F → lcSubtype x.f = 0 →
    exec (.linkControlAck x) s = .next (takeAck (received s x) x.port (lcSequence x.f))) ∧
  (∀ (s : State) (p : Fin 12) (a : BitVec 24), (takeAck s p a).fabric.ports[p].retry =
    s.fabric.ports[p].retry.filter fun g => decide (2 ^ 23 ≤ seqDist a g.f.seq)) ∧
  (∀ (s : State) (x : Rx), InOrder s x 0x0F → lcSubtype x.f = 1 → exec (.linkControlNak x) s =
    .next (resendFrom (takeAck (received s x) x.port (lcSequence x.f - 1)) x.port (lcSequence x.f))) ∧
  (∀ (s : State) (x : Rx) (c : Fin 6), InOrder s x 0x0F → lcSubtype x.f = 2 → x.f.credit.getLsbD 3 = true →
    x.f.credit.toNat % 8 = c.val → ∃ t, exec (.creditGrant x) s = .next t ∧ t = received s x ∧
      t.fabric.ports[x.port].credits[c] = s.fabric.ports[x.port].credits[c] + x.f.grant.toNat) ∧
  (∀ (s : State) (x : Rx), InOrder s x 0x0F → lcSubtype x.f = 2 → exec (.creditGrant x) s = .next (received s x)) ∧
  (∀ (s : State) (x : Rx), InOrder s x 0x0F → lcSubtype x.f = 3 → ∃ t, exec (.laneChangeRequest x) s = .next t ∧
    t.fabric.ports[x.port].link = .retraining ∧ t.out.length = (received s x).out.length +
      (if 1 ≤ (received s x).fabric.ports[x.port].credits[1] then 1 else 0)) ∧
  (∀ (s : State) (x : Rx), InOrder s x 0x0F → lcSubtype x.f = 4 → exec (.laneChangeConfirm x) s = .next (received s x)) ∧
  (∀ (s : State) (x : Rx) (e : Fin 12), InOrder s x x.f.typ.toNat → x.f.typ ≠ 0x0E → x.f.typ ≠ 0x0F →
    s.power.mode ≠ .bench → s.fabric.rcd.node ≠ 0xFFFF#16 → x.f.dst ≠ s.fabric.rcd.node → x.f.hops ≠ 0 →
    egress (received s x) x.f.dst.toNat = some e → e ≠ x.port →
    ∃ f, exec (.frameTransit x) s = .next (enqueue (received s x) e f) ∧ f.hops = x.f.hops - 1 ∧ f.payload = x.f.payload ∧
      f.src = x.f.src ∧ f.dst = x.f.dst ∧ f.tid = x.f.tid ∧ f.arg = x.f.arg ∧
      (f.ce = true ↔ 2 ≤ x.f.cls.toNat ∧ s.fabric.ports[e].rcd.ceKib * 1024 <
        queueBytes (received s x).fabric.ports[e] x.f.cls.toNat)) ∧
  (∀ (s : State) (x : Rx), InOrder s x x.f.typ.toNat → x.f.typ ≠ 0x0E → x.f.typ ≠ 0x0F →
    s.power.mode ≠ .bench → s.fabric.rcd.node ≠ 0xFFFF#16 → x.f.dst ≠ s.fabric.rcd.node →
    isRequest (received s x) x.f = false →
    (x.f.hops = 0 → exec (.frameTransit x) s = .next (discard (received s x) x.port.val 5 1)) ∧
    (x.f.hops ≠ 0 → (egress (received s x) x.f.dst.toNat = none ∨ egress (received s x) x.f.dst.toNat = some x.port) →
      exec (.frameTransit x) s = .next (discard (received s x) x.port.val 6 1))) ∧
  (∀ (s : State) (x : Rx), InOrder s x x.f.typ.toNat → x.f.typ ≠ 0x0E → x.f.typ ≠ 0x0F →
    s.power.mode ≠ .bench → s.fabric.rcd.node ≠ 0xFFFF#16 → x.f.dst ≠ s.fabric.rcd.node → x.f.src ≠ s.fabric.rcd.node →
    (x.f.hops = 0 ∨ egress (received s x) x.f.dst.toNat = none ∨ egress (received s x) x.f.dst.toNat = some x.port) →
    ((x.f.typ = 1 ∨ x.f.typ = 3 ∨ x.f.typ = 5) → exec (.frameTransit x) s = .next (sendFrame (received s x)
      (mkFrame (received s x) (x.f.typ.toNat + 1) x.f.src.toNat 3 0 x.f.tid.toNat x.f.arg []))) ∧
    ((x.f.typ = 8 ∨ x.f.typ = 9) → exec (.frameTransit x) s = .next (sendFrame (received s x)
      (mkFrame (received s x) 0x0A x.f.src.toNat 3 0 x.f.tid.toNat x.f.arg []))))

/-- What a port does by itself: it sends, acknowledges, retransmits and gives up, paces its classes, and loses and retrains
lanes (R276 to R278, R284 to R289, R436). -/
def Obligations.PortsAndLanes : Prop :=
  (∀ (s : State) (p : Fin 12) (c : Nat) (w : Vector Nat 4) (f : Queued) (rest : List Queued), s.fabric.ports[p].link = .up →
    nextClass s p = some (c, w) → s.fabric.ports[p].queues.toList.getD c [] = f :: rest →
    ∃ t, exec (.frameSend p) s = .next t ∧ t.fabric.ports[p].wrr = w ∧
      t.fabric.ports[p].retry = s.fabric.ports[p].retry ++ [{ f := stamp s.fabric.ports[p] f.f, rcd := f.rcd }] ∧
      t.fabric.ports[p].nextSeq = s.fabric.ports[p].nextSeq + 1 ∧ t.fabric.ports[p].queues.toList.getD c [] = rest ∧
      (∀ k : Nat, k ≠ c → t.fabric.ports[p].queues.toList.getD k [] = s.fabric.ports[p].queues.toList.getD k []) ∧
      (∀ i : Fin 6, t.fabric.ports[p].credits[i] = s.fabric.ports[p].credits[i] - (if i.val = c then creditUnits f.f else 0)) ∧
      t.out.length = s.out.length + 1 ∧ t.mem = s.mem) ∧
  (∀ (s : State) (p : Fin 12), 0 < s.fabric.ports[p].unacked → s.fabric.ports[p].link = .up →
    ∃ t, exec (.ackInterval p) s = .next t ∧ t.fabric.ports[p].unacked = 0 ∧
      t.fabric.ports[p].queues[1].length = s.fabric.ports[p].queues[1].length + 1) ∧
  (∀ (s : State) (p : Fin 12) (f : Queued) (rest : List Queued), s.fabric.ports[p].retry = f :: rest →
    s.fabric.ports[p].link = .up → s.fabric.ports[p].retries < 16 →
    exec (.retransmitTimeout p) s = .next (resendFrom s p f.f.seq)) ∧
  (∀ (s : State) (p : Fin 12), s.fabric.ports[p].link = .up → 16 ≤ s.fabric.ports[p].retries →
    s.fabric.ports[p].retry ≠ [] → exec (.retryExhausted p) s = .next (portDown s p 3)) ∧
  (∀ (s : State) (p : Fin 12) (cls : Fin 6), s.fabric.ports[p].echoDue[cls] = true → ∃ t,
    exec (.ecnEchoTimeout p cls) s = .next t ∧ t.fabric.ports[p].echoDue[cls] = false) ∧
  (∀ (s : State) (p : Fin 12) (cls : Fin 6), 2 ≤ cls.val → ∃ t, exec (.rateAlphaInterval p cls) s = .next t ∧
    t.fabric.ports[p].limiters[cls].alpha = s.fabric.ports[p].limiters[cls].alpha * (15 / 16) +
      (if s.fabric.ports[p].limiters[cls].echoIn then 1 / 16 else 0) ∧
    t.fabric.ports[p].limiters[cls].echoIn = false ∧
    t.fabric.ports[p].limiters[cls].rate = s.fabric.ports[p].limiters[cls].rate) ∧
  (∀ (s : State) (p : Fin 12) (cls : Fin 6), 2 ≤ cls.val → s.fabric.ports[p].limiters[cls].echoIn = false →
    ∃ t, exec (.rateRecoveryInterval p cls) s = .next t ∧
      t.fabric.ports[p].limiters[cls].rate = min 1 (s.fabric.ports[p].limiters[cls].rate + 1 / 64)) ∧
  (∀ (s : State) (p : Fin 12) (lane : Fin 8) (bits words : Nat),
    (s.fabric.ports[p].link = .up ∨ s.fabric.ports[p].link = .retraining) →
    s.fabric.ports[p].lanes.getLsbD lane.val = true →
    let q := s.fabric.ports[p]
    let lost := q.lost ||| (1#8 <<< lane.val)
    let left := survivors (portLanes s p) lost.toNat
    ∃ t, exec (.laneLost p lane bits words) s = .next t ∧ t.fabric.ports[p].lost = lost ∧
      (q.fkm = true → q.rcd.flags.getLsbD 3 = true → left.isSome = true → t.fabric.ports[p].link = .retraining ∧
        t.out.length = s.out.length + (if 1 ≤ q.credits[1] then 1 else 0) ∧ (∀ e, findUnit s (lanePhys p lane.val) = some e →
          (findUnit t (lanePhys p lane.val)).map (fun e => (e.cond, e.cause)) = some (.failed, 6))) ∧
      (q.fkm = true → (q.rcd.flags.getLsbD 3 = false ∨ left = none) →
        t.fabric.ports[p].link = .down ∧ t.fabric.ports[p].retry = []) ∧
      (q.fkm = false → t.fabric.ports[p].link = (if left.isSome then .training else .down) ∧
        t.fabric.ports[p].retry = [])) ∧
  (∀ (s : State) (p : Fin 12) (lanes : Byte), s.fabric.ports[p].link = .retraining →
    ∃ t, exec (.laneRetrainComplete p lanes) s = .next t ∧ t.fabric.ports[p].link = .up ∧
      (s.fabric.ports[p].lost &&& s.fabric.ports[p].lanes = 0 → t.fabric.ports[p].lanes = lanes)) ∧
  (∀ (s : State) (p : Fin 12), s.fabric.ports[p].link = .retraining →
    exec (.laneRetrainTimeout p) s = .next (portDown s p 2))

/-- Discovery, LLDP, ARP, neighbour discovery, echo, PAUSE and other frames, and IEEE 1588 (R275, R281, R291, R294, R303,
R304, R310): `otherIn` and `otherOut` count a frame that comes in and one that leaves. The offset of a Follow_Up is log 31
(DESIGN CHOICE), the discard reason log 101 and the answers that are counted log 105 (DEDUCED). -/
def Obligations.OtherProtocols : Prop :=
  (∀ (s : State) (x : Rx), s.fabric.ports[x.port].link = .up → x.f.typ = 0x0E → x.f.cls = 1 → x.fcsOk = true →
    x.udpOk = true → x.crcOk = true → ∃ t, exec (.discoveryFrame x) s = .next t ∧
      t.fabric.ports[x.port].discovery = padTo 64 x.f.payload ∧ t.fabric.ports[x.port].discoveryAt = s.timebase) ∧
  (∀ (s : State) (x : Rx), s.fabric.ports[x.port].link = .up → x.f.typ = 0x0E → x.fcsOk = true → x.udpOk = false →
    exec (.discoveryFrame x) s = .next (discard (countFrame s x) x.port.val 1 1)) ∧
  (∀ (s : State) (p : Fin 12), enabled s.fabric.ports[p] = true → s.fabric.ports[p].link = .up →
    exec (.discoveryInterval p) s = .next (sendDiscovery s p)) ∧
  (∀ (s : State) (p : Fin 12) (chassis : List Byte) (portId : Byte), s.fabric.ports[p].link = .up →
    exec (.lldpFrame p chassis portId) s =
      .next (setPort (otherIn s p) p { s.fabric.ports[p] with lldpChassis := chassis, lldpPort := portId })) ∧
  (∀ s : State, ∃ t, exec .lldpInterval s = .next t ∧ t.fabric = s.fabric ∧ t.out.length = s.out.length +
    (s.fabric.ports.toList.filter fun q => enabled q && q.link == .up).length) ∧
  (∀ (s : State) (p : Fin 12) (v4 : Bool), answers s p v4 = true ↔ s.fabric.ports[p].link = .up ∧
    s.fabric.ports[p].rcd.flags.getLsbD 1 = v4 ∧ s.fabric.rcd.node ≠ 0xFFFF#16 ∧ s.power.mode ≠ .bench) ∧
  (∀ (s : State) (p : Fin 12) (sender data : List Byte), answers s p true = true →
    exec (.arpRequest p (ownIp4 s.fabric.ports[p]) sender) s = .next (otherOut (otherIn s p) p
      (.arpReply p s.fabric.ports[p].rcd.ownMac (ownIp4 s.fabric.ports[p]) sender)) ∧
    exec (.icmpEchoRequest p (ownIp4 s.fabric.ports[p]) sender data) s =
      .next (otherOut (otherIn s p) p (.echoReply p false sender data))) ∧
  (∀ (s : State) (p : Fin 12) (sender data : List Byte), answers s p false = true →
    exec (.neighbourSolicitation p (leBytes 16 s.fabric.ports[p].rcd.ownIp.toNat) sender) s = .next (otherOut (otherIn s p) p
      (.neighbourAdvert p s.fabric.ports[p].rcd.ownMac s.fabric.ports[p].rcd.ownIp sender)) ∧
    exec (.icmpv6EchoRequest p (leBytes 16 s.fabric.ports[p].rcd.ownIp.toNat) sender data) s =
      .next (otherOut (otherIn s p) p (.echoReply p true sender data))) ∧
  (∀ (s : State) (p : Fin 12) (target : Word32) (sender data : List Byte),
    (answers s p true = false ∨ target ≠ ownIp4 s.fabric.ports[p]) →
    exec (.arpRequest p target sender) s = .next (notKft (otherIn s p) p) ∧
      exec (.icmpEchoRequest p target sender data) s = .next (notKft (otherIn s p) p)) ∧
  (∀ (s : State) (p : Fin 12) (target sender data : List Byte),
    (answers s p false = false ∨ target ≠ leBytes 16 s.fabric.ports[p].rcd.ownIp.toNat) →
    exec (.neighbourSolicitation p target sender) s = .next (notKft (otherIn s p) p) ∧
      exec (.icmpv6EchoRequest p target sender data) s = .next (notKft (otherIn s p) p)) ∧
  (∀ (s : State) (p : Fin 12), s.fabric.ports[p].link = .up →
    exec (.pauseFrame p) s = .next (discard (otherIn s p) p.val 7 1) ∧
    exec (.nonKftFrame p) s = .next (discard (otherIn s p) p.val (if s.power.mode = .bench then 10 else 3) 1)) ∧
  (∀ (s : State) (p : Fin 12) (sequence : Word16) (rx : Nat), isTimeParent s p = true → s.fabric.ports[p].link = .up →
    exec (.ptpSync p sequence rx) s = .next (updPtp (otherIn s p) fun t => { t with sequence := sequence, t2 := rx })) ∧
  (∀ (s : State) (p : Fin 12) (origin : Nat), isTimeParent s p = true → s.fabric.ports[p].link = .up →
    ∃ t, exec (.ptpFollowUp p s.fabric.ptp.sequence origin) s = .next t ∧
      t.fabric.ptp.offset = (s.fabric.ptp.t2 : Int) - origin - s.fabric.ptp.delay ∧
      t.timebase = ((s.timebase : Int) - ((s.fabric.ptp.t2 : Int) - origin - s.fabric.ptp.delay) / 2).toNat) ∧
  (∀ (s : State) (p : Fin 12) (sequence : Word16) (rx : Nat), isTimeParent s p = false →
    enabled s.fabric.ports[p] = true → s.fabric.ports[p].link = .up → s.fabric.rcd.node ≠ 0xFFFF#16 →
    exec (.ptpDelayReq p sequence rx) s = .next (otherOut (otherIn s p) p
      (.ptpDelayResp p (s.fabric.ports[p].rcd.flags.getLsbD 1) sequence rx))) ∧
  (∀ (s : State) (p : Fin 12) (rx : Nat), isTimeParent s p = true → s.fabric.ports[p].link = .up →
    exec (.ptpDelayResp p s.fabric.ptp.reqSeq rx) s = .next (updPtp (otherIn s p) fun t => { t with delay :=
      (((t.t2 : Int) - t.t1) + ((rx : Int) - t.t3)) / 2 })) ∧
  (∀ s : State, s.fabric.rcd.node ≠ 0xFFFF#16 → ∃ t, exec .ptpSyncInterval s = .next t ∧
    t.fabric.ptp.reqSeq = s.fabric.ptp.reqSeq + 1 ∧ t.fabric.ptp.t3 = 2 * s.timebase ∧ t.out.length = s.out.length +
      ((List.finRange 12).map fun p => if enabled s.fabric.ports[p] = true ∧ s.fabric.ports[p].link = .up
        then (if isTimeParent s p then 1 else 2) else 0).sum)

/-! ### Memory devices and samples -/

/-- Stripes leave the write buffer, and what the reads of one that left early met comes later (log 102); devices are lost for
three causes; refresh and the two patrol scrubs (R319, R321, R323, R326 to R328, R331, R332). -/
def Obligations.MemoryDevices : Prop :=
  (∀ (s : State) (n : Nat) (reads : List DevRead), (∀ st ∈ s.mem.stripes, st.number ≠ n) →
    (∀ st ∈ s.mem.leftEarly, st.number ≠ n) →
    (∀ e ∈ s.mem.ends, e.stripes ≠ []) → exec (.stripeFlushTimeout n reads) s = .next s) ∧
  (∀ (s : State) (st : Stripe) (reads : List DevRead), s.mem.stripes = [st] → s.mem.acks = [] → s.mem.ends = [] →
    s.mem.leftEarly = [] → ∃ t, exec (.stripeFlushTimeout st.number reads) s = .next t ∧ t.mem.stripes = [] ∧ t.mem.dram = s.mem.dram ∧
      t.mem.sram = s.mem.sram ∧
      (st.covered = 2 ^ 1024 - 1 → t.mem = { s.mem with stripes := [] } ∧ t.counts = s.counts)) ∧
  (∀ (s : State) (st : Stripe) (reads : List DevRead), s.mem.leftEarly = [st] →
    exec (.stripeFlushTimeout st.number reads) s = .next (deviceReads { s with mem := { s.mem with leftEarly := [] } }
      (rmwUnits st) (reads.filter fun r => r.device.val / 5 == st.number % 4))) ∧
  (∀ (s : State) (d : Fin 20), dramLive s = true →
    64 < (s.mem.reconTimes[d].filter fun t => decide (s.timebase < t + 10 ^ 9)).length →
    exec (.reconstructionRateLimit d) s = .next (declareLost s d 1)) ∧
  (∀ (s : State) (d : Fin 20) (n : Nat), dramLive s = true → 3 ≤ n →
    exec (.dqsTracking d n) s = .next (declareLost s d 2)) ∧
  (∀ (s : State) (d : Fin 20), dramLive s = true → exec (.deviceCommandTimeout d) s = .next (declareLost s d 3)) ∧
  (∀ (s : State) (d : Fin 20) (cause : Nat), s.mem.devLost[d] = false → lostInGroup s (d.val / 5) = [] →
    ∃ t, declareLost s d cause = t ∧ t.mem = { s.mem with devLost := s.mem.devLost.set d true } ∧ t.pstate = s.pstate ∧
      t.beat = s.beat) ∧
  (∀ (s : State) (mpd : Fin 4) (managed : List (Fin 5)), dramLive s = true → ∃ t, exec (.refresh mpd managed) s = .next t ∧
    t.mem = { s.mem with refreshed := s.mem.refreshed.set mpd s.timebase } ∧ t.out = s.out ++ [.refreshCmd mpd.val] ++
      (managed.filter fun d => !deviceLost s (5 * mpd.val + d.val)).map fun d => .refreshManage mpd.val (5 * mpd.val + d.val)) ∧
  (∀ (s : State) (row : Nat) (g : Fin 4), dramLive s = true → s.mem.groupGone[g] = false → row + 1 < scrubRows →
    exec (.lpddr5xScrub row g [] true .patrol) s =
      .next { s with mem := { s.mem with scrubRow := s.mem.scrubRow.set g (row + 1) } }) ∧
  (∀ (s : State) (row : Nat) (g : Fin 4), dramLive s = true → s.mem.groupGone[g] = false → row + 1 < scrubRows →
    (∀ k < 5, getAt s.mem.devLost (5 * g.val + k) false = false) → ∃ t, exec (.lpddr5xScrub row g [] false .patrol) s = .next t ∧
      t = (let u := post s 0x0C04 (packed [(8, 1024 * (4 * row + g.val))])
           { u with mem := { u.mem with scrubRow := u.mem.scrubRow.set g (row + 1) } })) ∧
  (∀ (s : State) (off : Nat), isPowered s = true → s.mem.retention = false → inReset s = false →
    sramPopulated s (off / 64 * 64) 64 = true → off / 64 * 64 ≠ lastLine s (sramPlace (off / 64 * 64)).1 →
    exec (.sramScrub off false false .patrol) s = .next { s with mem := { s.mem with scrubLine := off / 64 * 64 + 64 } }) ∧
  (∀ (s : State) (off : Nat), isPowered s = true → s.mem.retention = false → inReset s = false →
    sramPopulated s (off / 64 * 64) 64 = true → s.beat.writes = [] → s.pstate = .running →
    ∃ t, exec (.sramScrub off false true .patrol) s = .next t ∧ t.beat.haltCause = some (s.beat.haltCause.getD 0x0C01) ∧
      t.beat.abortFlags.getLsbD 4 = true ∧ t.mem.sram = s.mem.sram ∧ t.mem.dram = s.mem.dram ∧
      (∀ (a n : Nat) (b : List Byte), a < off / 64 * 64 + 64 → off / 64 * 64 < a + n → readLocal t 0 a n ≠ .bytes b))

/-- An engine takes the next queued sample, finishes it once its bytes are here, and repeats a failed fetch (R340, R347 to
R351). -/
def Obligations.Samples : Prop :=
  (∀ (s : State) (igd : Fin 2) (e : Nat) (x : Sample) (rest : List Sample), s.pstate = .running →
    (List.range 16).find? (fun e => engineServes s igd.val e &&
      (getAt s.ingest.engines (16 * igd.val + e) none).isNone) = some e →
    s.ingest.queues[igd] = x :: rest → exec (.sampleDecodeStart igd) s = .next (continueFetch { s with ingest := { s.ingest with
      queues := s.ingest.queues.set igd rest, engines := setAt s.ingest.engines (16 * igd.val + e) (some x) } } igd.val e)) ∧
  (∀ (s : State) (igd : Fin 2) (e : Fin 16) (x : Sample) (p : Program) (d : IngestDesc) (b bits : List Byte) (busy : Nat),
    getAt s.ingest.engines (16 * igd.val + e.val) none = some x → sampleDesc s x = some (p, d) →
    s.ingest.fetching.contains (16 * igd.val + e.val) = false →
    fetched s igd.val e.val (entryAddr p d x) 32 = some b →
    let t := bump s 0x0D05 igd.val noTensor busy
    (entryBad (parseCat b) = true →
      exec (.sampleComplete igd e busy) s = .next (finishSample t igd.val e.val p d x b [])) ∧
    (entryBad (parseCat b) = false → fetched s igd.val e.val (parseCat b).addr (parseCat b).len = some bits →
      exec (.sampleComplete igd e busy) s = .next (finishSample t igd.val e.val p d x b bits))) ∧
  (∀ (s : State) (igd e : Nat) (p : Program) (d : IngestDesc) (x : Sample) (entry bits : List Byte), s.fabric.waiting = [] →
    ∃ t, finishSample s igd e p d x entry bits = t ∧ t.ingest.complete = s.ingest.complete ++ [x] ∧
      t.ingest.queues = s.ingest.queues ∧ (∀ k : Nat, k < 32 → getAt t.ingest.engines k none =
        if k = 16 * igd + e then none else getAt s.ingest.engines k none) ∧
      t.mem.sram = s.mem.sram ∧ t.mem.dram = s.mem.dram) ∧
  (∀ (s : State) (igd : Fin 2) (e : Fin 16), s.ingest.fetching = [16 * igd.val + e.val] →
    exec (.bitstreamFetchRetry igd e) s = .next (continueFetch
      (bump { s with ingest := { s.ingest with fetching := [] } } 0x0D06 igd.val noTensor 1) igd.val e.val))
end

