-- ==== Sys2Proof/Laws/Memory.lean ====
section
/-! SUPPORT. The byte stores: reads after writes, and the one canonical form that every operation keeps. -/

namespace Sys2Proof.Machine

open Sys2Proof

/-! ### The canonical form -/

theorem wfFrom_cons (lo k : Nat) (v : Byte) (m : Memory) :
    wfFrom lo ((k, v) :: m) = true ↔ lo ≤ k ∧ v ≠ 0 ∧ wfFrom (k + 1) m = true := by
  simp [wfFrom, and_assoc]

theorem wfFrom_mono {lo lo' : Nat} (h : lo' ≤ lo) : ∀ {m : Memory}, wfFrom lo m = true → wfFrom lo' m = true
  | [], _ => rfl
  | (k, v) :: m, w => by
    rw [wfFrom_cons] at w ⊢
    exact ⟨by omega, w.2.1, w.2.2⟩

theorem wfFrom_writeByte (a : Nat) (v : Byte) : ∀ {lo : Nat} {m : Memory}, wfFrom lo m = true → lo ≤ a →
    wfFrom lo (writeByte m a v) = true
  | lo, [], _, h => by
    unfold writeByte
    split
    · rfl
    · rename_i hv; rw [wfFrom_cons]; exact ⟨h, hv, rfl⟩
  | lo, (k, w) :: m, wf, h => by
    rw [wfFrom_cons] at wf
    obtain ⟨hk, hw, hm⟩ := wf
    unfold writeByte
    split
    · rename_i hlt
      rw [wfFrom_cons]
      exact ⟨hk, hw, wfFrom_writeByte a v hm (by omega)⟩
    · split
      · rename_i heq
        split
        · exact wfFrom_mono (by omega) hm
        · rename_i hv; rw [wfFrom_cons]; subst heq; exact ⟨h, hv, hm⟩
      · split
        · rw [wfFrom_cons]; exact ⟨hk, hw, hm⟩
        · rename_i hv
          rw [wfFrom_cons, wfFrom_cons]
          exact ⟨h, hv, by omega, hw, hm⟩

theorem wfFrom_filter (f : Host.Cell → Bool) : ∀ {lo : Nat} {m : Memory}, wfFrom lo m = true →
    wfFrom lo (m.filter f) = true
  | _, [], _ => rfl
  | lo, (k, v) :: m, wf => by
    rw [wfFrom_cons] at wf
    obtain ⟨hk, hv, hm⟩ := wf
    rw [List.filter_cons]
    split
    · rw [wfFrom_cons]; exact ⟨hk, hv, wfFrom_filter f hm⟩
    · exact wfFrom_mono (by omega) (wfFrom_filter f hm)

theorem wf_nil : Memory.wf [] = true := rfl

theorem wf_writeByte {m : Memory} (h : Memory.wf m = true) (a : Nat) (v : Byte) : Memory.wf (writeByte m a v) = true :=
  wfFrom_writeByte a v h (Nat.zero_le a)

theorem wf_writeBytes : ∀ (bs : List Byte) {m : Memory} (a : Nat), Memory.wf m = true → Memory.wf (writeBytes m a bs) = true
  | [], _, _, h => h
  | b :: bs, _, a, h => wf_writeBytes bs (a + 1) (wf_writeByte h a b)

/-! ### Reads after writes -/

theorem readByte_below : ∀ {lo : Nat} {m : Memory} {a : Nat}, wfFrom lo m = true → a < lo → readByte m a = 0
  | _, [], _, _, _ => rfl
  | lo, (k, v) :: m, a, wf, h => by
    rw [wfFrom_cons] at wf
    have h1 : k ≠ a := by omega
    have h2 : a < k := by omega
    simp [readByte, h1, h2]

theorem readByte_writeByte_from (a : Nat) (v : Byte) : ∀ {lo : Nat} {m : Memory}, wfFrom lo m = true → lo ≤ a →
    readByte (writeByte m a v) a = v
  | lo, [], _, h => by
    unfold writeByte
    split
    · rename_i hv; rw [hv]; rfl
    · simp [readByte]
  | lo, (k, w) :: m, wf, h => by
    rw [wfFrom_cons] at wf
    obtain ⟨hk, hw, hm⟩ := wf
    unfold writeByte
    split
    · rename_i hlt
      have h1 : k ≠ a := by omega
      have h2 : ¬ a < k := by omega
      simp only [readByte, h1, h2, if_false]
      exact readByte_writeByte_from a v hm (by omega)
    · split
      · rename_i heq
        split
        · rename_i hv; rw [hv]; exact readByte_below hm (by omega)
        · simp [readByte]
      · rename_i hlt hne
        split
        · rename_i hv
          have h2 : a < k := by omega
          simp [readByte, hne, h2, hv]
        · simp [readByte]

theorem readByte_writeByte_other_from (a : Nat) (v : Byte) : ∀ {lo : Nat} {m : Memory} {x : Nat}, wfFrom lo m = true →
    x ≠ a → readByte (writeByte m a v) x = readByte m x
  | lo, [], x, _, h => by
    unfold writeByte
    split
    · rfl
    · simp [readByte, Ne.symm h]
  | lo, (k, w) :: m, x, wf, h => by
    rw [wfFrom_cons] at wf
    obtain ⟨hk, hw, hm⟩ := wf
    have hs : a ≠ x := Ne.symm h
    unfold writeByte
    split
    · simp only [readByte]
      rw [readByte_writeByte_other_from a v hm h]
    · split
      · rename_i heq
        split
        · simp only [readByte]
          by_cases h2 : x < k
          · simp [show k ≠ x by omega, h2, readByte_below (a := x) hm (by omega)]
          · simp [show k ≠ x by omega, h2]
        · simp [readByte, hs, heq]
      · split
        · rfl
        · rename_i hlt hne hv
          simp only [readByte, hs, if_false]
          by_cases h2 : x < a
          · simp [h2, show k ≠ x by omega, show x < k by omega]
          · simp [h2]

@[simp] theorem readByte_writeByte {m : Memory} (h : Memory.wf m = true) (a : Nat) (v : Byte) :
    readByte (writeByte m a v) a = v := readByte_writeByte_from a v h (Nat.zero_le a)

theorem readByte_writeByte_other {m : Memory} (h : Memory.wf m = true) {a x : Nat} (v : Byte) (hx : x ≠ a) :
    readByte (writeByte m a v) x = readByte m x := readByte_writeByte_other_from a v h hx

@[simp] theorem readBytes_length (m : Memory) : ∀ (n a : Nat), (readBytes m a n).length = n
  | 0, _ => rfl
  | n + 1, a => by simp [readBytes, readBytes_length m n (a + 1)]

theorem writeBytes_cons (m : Memory) (a : Nat) (b : Byte) (bs : List Byte) :
    writeBytes m a (b :: bs) = writeBytes (writeByte m a b) (a + 1) bs := rfl

theorem readBytes_succ (m : Memory) (a n : Nat) : readBytes m a (n + 1) = readByte m a :: readBytes m (a + 1) n := rfl

/-! ### Reconstruction (R322, R326) -/

theorem xorUnits_length (us : List (List Byte)) (h : ∀ u ∈ us, u.length = 256) : (xorUnits us).length = 256 := by
  have key : ∀ (us : List (List Byte)) (a : List Byte), a.length = 256 → (∀ u ∈ us, u.length = 256) →
      (us.foldl (fun a u => (a.zip u).map fun x => x.1 ^^^ x.2) a).length = 256 := by
    intro us
    induction us with
    | nil => intro a ha _; exact ha
    | cons u us ih =>
      intro a ha hu
      exact ih _ (by simp [ha, hu u List.mem_cons_self]) fun v hv => hu v (List.mem_cons_of_mem _ hv)
  exact key us _ List.length_replicate h

theorem dataUnit_length (m : Memory) (stripe j : Nat) : (dataUnit m stripe j).length = 256 := by simp [dataUnit]

theorem parityUnit_length (m : Memory) (stripe : Nat) : (parityUnit m stripe).length = 256 :=
  xorUnits_length _ fun u hu => by
    obtain ⟨j, -, rfl⟩ := List.mem_map.1 hu
    exact dataUnit_length m stripe j

/-- Reconstruction gives a data unit back from the rest of its stripe. -/
theorem rebuiltUnit_eq (m : Memory) (stripe : Nat) {j : Nat} (h : j < 4) : rebuiltUnit m stripe j = dataUnit m stripe j := by
  have key : ∀ a b c d : List Byte, a.length = 256 → b.length = 256 → c.length = 256 → d.length = 256 →
      xorUnits [xorUnits [a, b, c, d], b, c, d] = a ∧ xorUnits [xorUnits [a, b, c, d], a, c, d] = b ∧
        xorUnits [xorUnits [a, b, c, d], a, b, d] = c ∧ xorUnits [xorUnits [a, b, c, d], a, b, c] = d := by
    intro a b c d ha hb hc hd
    have bit : ∀ x y z w : Byte, x ^^^ y ^^^ z ^^^ w ^^^ y ^^^ z ^^^ w = x ∧ x ^^^ y ^^^ z ^^^ w ^^^ x ^^^ z ^^^ w = y ∧
        x ^^^ y ^^^ z ^^^ w ^^^ x ^^^ y ^^^ w = z ∧ x ^^^ y ^^^ z ^^^ w ^^^ x ^^^ y ^^^ z = w := by
      intro x y z w
      refine ⟨?_, ?_, ?_, ?_⟩ <;> (ext k hk; simp only [BitVec.getElem_xor]; cases x[k] <;> cases y[k] <;> cases z[k] <;>
        cases w[k] <;> rfl)
    refine ⟨?_, ?_, ?_, ?_⟩ <;> apply List.ext_getElem <;>
      simp [-List.reduceReplicate, xorUnits, ha, hb, hc, hd, List.getElem_zip, bit]
  have k := key (dataUnit m stripe 0) (dataUnit m stripe 1) (dataUnit m stripe 2) (dataUnit m stripe 3)
    (dataUnit_length ..) (dataUnit_length ..) (dataUnit_length ..) (dataUnit_length ..)
  obtain rfl | rfl | rfl | rfl : j = 0 ∨ j = 1 ∨ j = 2 ∨ j = 3 := by omega
  · exact k.1
  · exact k.2.1
  · exact k.2.2.1
  · exact k.2.2.2

end Sys2Proof.Machine
end

