-- ==== Sys2Proof/Laws/State.lean ====
section
/-! SUPPORT. One lemma per field per update of the state, true by `rfl`: no proof unfolds a record update. -/

namespace Sys2Proof.Machine

open Sys2Proof

@[simp] theorem emit_pending (s : State) (o : Output) : (emit s o).pending = s.pending := rfl
@[simp] theorem emit_freeIdx (s : State) (o : Output) : (emit s o).freeIdx = s.freeIdx := rfl
@[simp] theorem emit_timebase (s : State) (o : Output) : (emit s o).timebase = s.timebase := rfl
@[simp] theorem emit_power (s : State) (o : Output) : (emit s o).power = s.power := rfl
@[simp] theorem emit_flash (s : State) (o : Output) : (emit s o).flash = s.flash := rfl
@[simp] theorem emit_fw (s : State) (o : Output) : (emit s o).fw = s.fw := rfl
@[simp] theorem emit_mbox (s : State) (o : Output) : (emit s o).mbox = s.mbox := rfl
@[simp] theorem emit_units (s : State) (o : Output) : (emit s o).units = s.units := rfl
@[simp] theorem emit_mem (s : State) (o : Output) : (emit s o).mem = s.mem := rfl
@[simp] theorem emit_pstate (s : State) (o : Output) : (emit s o).pstate = s.pstate := rfl
@[simp] theorem emit_program (s : State) (o : Output) : (emit s o).program = s.program := rfl
@[simp] theorem emit_step (s : State) (o : Output) : (emit s o).step = s.step := rfl
@[simp] theorem emit_seqs (s : State) (o : Output) : (emit s o).seqs = s.seqs := rfl
@[simp] theorem emit_gates (s : State) (o : Output) : (emit s o).gates = s.gates := rfl
@[simp] theorem emit_beat (s : State) (o : Output) : (emit s o).beat = s.beat := rfl
@[simp] theorem emit_scales (s : State) (o : Output) : (emit s o).scales = s.scales := rfl
@[simp] theorem emit_versions (s : State) (o : Output) : (emit s o).versions = s.versions := rfl
@[simp] theorem emit_reduce (s : State) (o : Output) : (emit s o).reduce = s.reduce := rfl
@[simp] theorem emit_side (s : State) (o : Output) : (emit s o).side = s.side := rfl
@[simp] theorem emit_fabric (s : State) (o : Output) : (emit s o).fabric = s.fabric := rfl
@[simp] theorem emit_ingest (s : State) (o : Output) : (emit s o).ingest = s.ingest := rfl
@[simp] theorem emit_journal (s : State) (o : Output) : (emit s o).journal = s.journal := rfl
@[simp] theorem emit_spdm (s : State) (o : Output) : (emit s o).spdm = s.spdm := rfl
@[simp] theorem emit_counts (s : State) (o : Output) : (emit s o).counts = s.counts := rfl

@[simp] theorem drawFree_snd_pending (s : State) : (drawFree s).2.pending = s.pending := rfl
@[simp] theorem drawFree_snd_timebase (s : State) : (drawFree s).2.timebase = s.timebase := rfl
@[simp] theorem drawFree_snd_power (s : State) : (drawFree s).2.power = s.power := rfl
@[simp] theorem drawFree_snd_flash (s : State) : (drawFree s).2.flash = s.flash := rfl
@[simp] theorem drawFree_snd_fw (s : State) : (drawFree s).2.fw = s.fw := rfl
@[simp] theorem drawFree_snd_mbox (s : State) : (drawFree s).2.mbox = s.mbox := rfl
@[simp] theorem drawFree_snd_units (s : State) : (drawFree s).2.units = s.units := rfl
@[simp] theorem drawFree_snd_mem (s : State) : (drawFree s).2.mem = s.mem := rfl
@[simp] theorem drawFree_snd_pstate (s : State) : (drawFree s).2.pstate = s.pstate := rfl
@[simp] theorem drawFree_snd_program (s : State) : (drawFree s).2.program = s.program := rfl
@[simp] theorem drawFree_snd_step (s : State) : (drawFree s).2.step = s.step := rfl
@[simp] theorem drawFree_snd_seqs (s : State) : (drawFree s).2.seqs = s.seqs := rfl
@[simp] theorem drawFree_snd_gates (s : State) : (drawFree s).2.gates = s.gates := rfl
@[simp] theorem drawFree_snd_beat (s : State) : (drawFree s).2.beat = s.beat := rfl
@[simp] theorem drawFree_snd_scales (s : State) : (drawFree s).2.scales = s.scales := rfl
@[simp] theorem drawFree_snd_versions (s : State) : (drawFree s).2.versions = s.versions := rfl
@[simp] theorem drawFree_snd_reduce (s : State) : (drawFree s).2.reduce = s.reduce := rfl
@[simp] theorem drawFree_snd_side (s : State) : (drawFree s).2.side = s.side := rfl
@[simp] theorem drawFree_snd_fabric (s : State) : (drawFree s).2.fabric = s.fabric := rfl
@[simp] theorem drawFree_snd_ingest (s : State) : (drawFree s).2.ingest = s.ingest := rfl
@[simp] theorem drawFree_snd_journal (s : State) : (drawFree s).2.journal = s.journal := rfl
@[simp] theorem drawFree_snd_spdm (s : State) : (drawFree s).2.spdm = s.spdm := rfl
@[simp] theorem drawFree_snd_counts (s : State) : (drawFree s).2.counts = s.counts := rfl
@[simp] theorem drawFree_snd_out (s : State) : (drawFree s).2.out = s.out := rfl

@[simp] theorem setPort_pending (s : State) (p : Fin 12) (q : Port) : (setPort s p q).pending = s.pending := rfl
@[simp] theorem setPort_freeIdx (s : State) (p : Fin 12) (q : Port) : (setPort s p q).freeIdx = s.freeIdx := rfl
@[simp] theorem setPort_timebase (s : State) (p : Fin 12) (q : Port) : (setPort s p q).timebase = s.timebase := rfl
@[simp] theorem setPort_power (s : State) (p : Fin 12) (q : Port) : (setPort s p q).power = s.power := rfl
@[simp] theorem setPort_flash (s : State) (p : Fin 12) (q : Port) : (setPort s p q).flash = s.flash := rfl
@[simp] theorem setPort_fw (s : State) (p : Fin 12) (q : Port) : (setPort s p q).fw = s.fw := rfl
@[simp] theorem setPort_mbox (s : State) (p : Fin 12) (q : Port) : (setPort s p q).mbox = s.mbox := rfl
@[simp] theorem setPort_units (s : State) (p : Fin 12) (q : Port) : (setPort s p q).units = s.units := rfl
@[simp] theorem setPort_mem (s : State) (p : Fin 12) (q : Port) : (setPort s p q).mem = s.mem := rfl
@[simp] theorem setPort_pstate (s : State) (p : Fin 12) (q : Port) : (setPort s p q).pstate = s.pstate := rfl
@[simp] theorem setPort_program (s : State) (p : Fin 12) (q : Port) : (setPort s p q).program = s.program := rfl
@[simp] theorem setPort_step (s : State) (p : Fin 12) (q : Port) : (setPort s p q).step = s.step := rfl
@[simp] theorem setPort_seqs (s : State) (p : Fin 12) (q : Port) : (setPort s p q).seqs = s.seqs := rfl
@[simp] theorem setPort_gates (s : State) (p : Fin 12) (q : Port) : (setPort s p q).gates = s.gates := rfl
@[simp] theorem setPort_beat (s : State) (p : Fin 12) (q : Port) : (setPort s p q).beat = s.beat := rfl
@[simp] theorem setPort_scales (s : State) (p : Fin 12) (q : Port) : (setPort s p q).scales = s.scales := rfl
@[simp] theorem setPort_versions (s : State) (p : Fin 12) (q : Port) : (setPort s p q).versions = s.versions := rfl
@[simp] theorem setPort_reduce (s : State) (p : Fin 12) (q : Port) : (setPort s p q).reduce = s.reduce := rfl
@[simp] theorem setPort_side (s : State) (p : Fin 12) (q : Port) : (setPort s p q).side = s.side := rfl
@[simp] theorem setPort_ingest (s : State) (p : Fin 12) (q : Port) : (setPort s p q).ingest = s.ingest := rfl
@[simp] theorem setPort_journal (s : State) (p : Fin 12) (q : Port) : (setPort s p q).journal = s.journal := rfl
@[simp] theorem setPort_spdm (s : State) (p : Fin 12) (q : Port) : (setPort s p q).spdm = s.spdm := rfl
@[simp] theorem setPort_counts (s : State) (p : Fin 12) (q : Port) : (setPort s p q).counts = s.counts := rfl
@[simp] theorem setPort_out (s : State) (p : Fin 12) (q : Port) : (setPort s p q).out = s.out := rfl

@[simp] theorem updPort_pending (s : State) (p : Fin 12) (f : Port → Port) : (updPort s p f).pending = s.pending := rfl
@[simp] theorem updPort_freeIdx (s : State) (p : Fin 12) (f : Port → Port) : (updPort s p f).freeIdx = s.freeIdx := rfl
@[simp] theorem updPort_timebase (s : State) (p : Fin 12) (f : Port → Port) : (updPort s p f).timebase = s.timebase := rfl
@[simp] theorem updPort_power (s : State) (p : Fin 12) (f : Port → Port) : (updPort s p f).power = s.power := rfl
@[simp] theorem updPort_flash (s : State) (p : Fin 12) (f : Port → Port) : (updPort s p f).flash = s.flash := rfl
@[simp] theorem updPort_fw (s : State) (p : Fin 12) (f : Port → Port) : (updPort s p f).fw = s.fw := rfl
@[simp] theorem updPort_mbox (s : State) (p : Fin 12) (f : Port → Port) : (updPort s p f).mbox = s.mbox := rfl
@[simp] theorem updPort_units (s : State) (p : Fin 12) (f : Port → Port) : (updPort s p f).units = s.units := rfl
@[simp] theorem updPort_mem (s : State) (p : Fin 12) (f : Port → Port) : (updPort s p f).mem = s.mem := rfl
@[simp] theorem updPort_pstate (s : State) (p : Fin 12) (f : Port → Port) : (updPort s p f).pstate = s.pstate := rfl
@[simp] theorem updPort_program (s : State) (p : Fin 12) (f : Port → Port) : (updPort s p f).program = s.program := rfl
@[simp] theorem updPort_step (s : State) (p : Fin 12) (f : Port → Port) : (updPort s p f).step = s.step := rfl
@[simp] theorem updPort_seqs (s : State) (p : Fin 12) (f : Port → Port) : (updPort s p f).seqs = s.seqs := rfl
@[simp] theorem updPort_gates (s : State) (p : Fin 12) (f : Port → Port) : (updPort s p f).gates = s.gates := rfl
@[simp] theorem updPort_beat (s : State) (p : Fin 12) (f : Port → Port) : (updPort s p f).beat = s.beat := rfl
@[simp] theorem updPort_scales (s : State) (p : Fin 12) (f : Port → Port) : (updPort s p f).scales = s.scales := rfl
@[simp] theorem updPort_versions (s : State) (p : Fin 12) (f : Port → Port) : (updPort s p f).versions = s.versions := rfl
@[simp] theorem updPort_reduce (s : State) (p : Fin 12) (f : Port → Port) : (updPort s p f).reduce = s.reduce := rfl
@[simp] theorem updPort_side (s : State) (p : Fin 12) (f : Port → Port) : (updPort s p f).side = s.side := rfl
@[simp] theorem updPort_ingest (s : State) (p : Fin 12) (f : Port → Port) : (updPort s p f).ingest = s.ingest := rfl
@[simp] theorem updPort_journal (s : State) (p : Fin 12) (f : Port → Port) : (updPort s p f).journal = s.journal := rfl
@[simp] theorem updPort_spdm (s : State) (p : Fin 12) (f : Port → Port) : (updPort s p f).spdm = s.spdm := rfl
@[simp] theorem updPort_counts (s : State) (p : Fin 12) (f : Port → Port) : (updPort s p f).counts = s.counts := rfl
@[simp] theorem updPort_out (s : State) (p : Fin 12) (f : Port → Port) : (updPort s p f).out = s.out := rfl

@[simp] theorem enqueue_pending (s : State) (p : Fin 12) (f : Kft) : (enqueue s p f).pending = s.pending := rfl
@[simp] theorem enqueue_freeIdx (s : State) (p : Fin 12) (f : Kft) : (enqueue s p f).freeIdx = s.freeIdx := rfl
@[simp] theorem enqueue_timebase (s : State) (p : Fin 12) (f : Kft) : (enqueue s p f).timebase = s.timebase := rfl
@[simp] theorem enqueue_power (s : State) (p : Fin 12) (f : Kft) : (enqueue s p f).power = s.power := rfl
@[simp] theorem enqueue_flash (s : State) (p : Fin 12) (f : Kft) : (enqueue s p f).flash = s.flash := rfl
@[simp] theorem enqueue_fw (s : State) (p : Fin 12) (f : Kft) : (enqueue s p f).fw = s.fw := rfl
@[simp] theorem enqueue_mbox (s : State) (p : Fin 12) (f : Kft) : (enqueue s p f).mbox = s.mbox := rfl
@[simp] theorem enqueue_units (s : State) (p : Fin 12) (f : Kft) : (enqueue s p f).units = s.units := rfl
@[simp] theorem enqueue_mem (s : State) (p : Fin 12) (f : Kft) : (enqueue s p f).mem = s.mem := rfl
@[simp] theorem enqueue_pstate (s : State) (p : Fin 12) (f : Kft) : (enqueue s p f).pstate = s.pstate := rfl
@[simp] theorem enqueue_program (s : State) (p : Fin 12) (f : Kft) : (enqueue s p f).program = s.program := rfl
@[simp] theorem enqueue_step (s : State) (p : Fin 12) (f : Kft) : (enqueue s p f).step = s.step := rfl
@[simp] theorem enqueue_seqs (s : State) (p : Fin 12) (f : Kft) : (enqueue s p f).seqs = s.seqs := rfl
@[simp] theorem enqueue_gates (s : State) (p : Fin 12) (f : Kft) : (enqueue s p f).gates = s.gates := rfl
@[simp] theorem enqueue_beat (s : State) (p : Fin 12) (f : Kft) : (enqueue s p f).beat = s.beat := rfl
@[simp] theorem enqueue_scales (s : State) (p : Fin 12) (f : Kft) : (enqueue s p f).scales = s.scales := rfl
@[simp] theorem enqueue_versions (s : State) (p : Fin 12) (f : Kft) : (enqueue s p f).versions = s.versions := rfl
@[simp] theorem enqueue_reduce (s : State) (p : Fin 12) (f : Kft) : (enqueue s p f).reduce = s.reduce := rfl
@[simp] theorem enqueue_side (s : State) (p : Fin 12) (f : Kft) : (enqueue s p f).side = s.side := rfl
@[simp] theorem enqueue_ingest (s : State) (p : Fin 12) (f : Kft) : (enqueue s p f).ingest = s.ingest := rfl
@[simp] theorem enqueue_journal (s : State) (p : Fin 12) (f : Kft) : (enqueue s p f).journal = s.journal := rfl
@[simp] theorem enqueue_spdm (s : State) (p : Fin 12) (f : Kft) : (enqueue s p f).spdm = s.spdm := rfl
@[simp] theorem enqueue_counts (s : State) (p : Fin 12) (f : Kft) : (enqueue s p f).counts = s.counts := rfl
@[simp] theorem enqueue_out (s : State) (p : Fin 12) (f : Kft) : (enqueue s p f).out = s.out := rfl

@[simp] theorem updSeq_pending (s : State) (u : Nat) (f : SeqUnit → SeqUnit) : (updSeq s u f).pending = s.pending := rfl
@[simp] theorem updSeq_freeIdx (s : State) (u : Nat) (f : SeqUnit → SeqUnit) : (updSeq s u f).freeIdx = s.freeIdx := rfl
@[simp] theorem updSeq_timebase (s : State) (u : Nat) (f : SeqUnit → SeqUnit) : (updSeq s u f).timebase = s.timebase := rfl
@[simp] theorem updSeq_power (s : State) (u : Nat) (f : SeqUnit → SeqUnit) : (updSeq s u f).power = s.power := rfl
@[simp] theorem updSeq_flash (s : State) (u : Nat) (f : SeqUnit → SeqUnit) : (updSeq s u f).flash = s.flash := rfl
@[simp] theorem updSeq_fw (s : State) (u : Nat) (f : SeqUnit → SeqUnit) : (updSeq s u f).fw = s.fw := rfl
@[simp] theorem updSeq_mbox (s : State) (u : Nat) (f : SeqUnit → SeqUnit) : (updSeq s u f).mbox = s.mbox := rfl
@[simp] theorem updSeq_units (s : State) (u : Nat) (f : SeqUnit → SeqUnit) : (updSeq s u f).units = s.units := rfl
@[simp] theorem updSeq_mem (s : State) (u : Nat) (f : SeqUnit → SeqUnit) : (updSeq s u f).mem = s.mem := rfl
@[simp] theorem updSeq_pstate (s : State) (u : Nat) (f : SeqUnit → SeqUnit) : (updSeq s u f).pstate = s.pstate := rfl
@[simp] theorem updSeq_program (s : State) (u : Nat) (f : SeqUnit → SeqUnit) : (updSeq s u f).program = s.program := rfl
@[simp] theorem updSeq_step (s : State) (u : Nat) (f : SeqUnit → SeqUnit) : (updSeq s u f).step = s.step := rfl
@[simp] theorem updSeq_gates (s : State) (u : Nat) (f : SeqUnit → SeqUnit) : (updSeq s u f).gates = s.gates := rfl
@[simp] theorem updSeq_beat (s : State) (u : Nat) (f : SeqUnit → SeqUnit) : (updSeq s u f).beat = s.beat := rfl
@[simp] theorem updSeq_scales (s : State) (u : Nat) (f : SeqUnit → SeqUnit) : (updSeq s u f).scales = s.scales := rfl
@[simp] theorem updSeq_versions (s : State) (u : Nat) (f : SeqUnit → SeqUnit) : (updSeq s u f).versions = s.versions := rfl
@[simp] theorem updSeq_reduce (s : State) (u : Nat) (f : SeqUnit → SeqUnit) : (updSeq s u f).reduce = s.reduce := rfl
@[simp] theorem updSeq_side (s : State) (u : Nat) (f : SeqUnit → SeqUnit) : (updSeq s u f).side = s.side := rfl
@[simp] theorem updSeq_fabric (s : State) (u : Nat) (f : SeqUnit → SeqUnit) : (updSeq s u f).fabric = s.fabric := rfl
@[simp] theorem updSeq_ingest (s : State) (u : Nat) (f : SeqUnit → SeqUnit) : (updSeq s u f).ingest = s.ingest := rfl
@[simp] theorem updSeq_journal (s : State) (u : Nat) (f : SeqUnit → SeqUnit) : (updSeq s u f).journal = s.journal := rfl
@[simp] theorem updSeq_spdm (s : State) (u : Nat) (f : SeqUnit → SeqUnit) : (updSeq s u f).spdm = s.spdm := rfl
@[simp] theorem updSeq_counts (s : State) (u : Nat) (f : SeqUnit → SeqUnit) : (updSeq s u f).counts = s.counts := rfl
@[simp] theorem updSeq_out (s : State) (u : Nat) (f : SeqUnit → SeqUnit) : (updSeq s u f).out = s.out := rfl

@[simp] theorem updFlight_pending (s : State) (w : Who) (f : InFlight → InFlight) : (updFlight s w f).pending = s.pending := rfl
@[simp] theorem updFlight_freeIdx (s : State) (w : Who) (f : InFlight → InFlight) : (updFlight s w f).freeIdx = s.freeIdx := rfl
@[simp] theorem updFlight_timebase (s : State) (w : Who) (f : InFlight → InFlight) : (updFlight s w f).timebase = s.timebase := rfl
@[simp] theorem updFlight_power (s : State) (w : Who) (f : InFlight → InFlight) : (updFlight s w f).power = s.power := rfl
@[simp] theorem updFlight_flash (s : State) (w : Who) (f : InFlight → InFlight) : (updFlight s w f).flash = s.flash := rfl
@[simp] theorem updFlight_fw (s : State) (w : Who) (f : InFlight → InFlight) : (updFlight s w f).fw = s.fw := rfl
@[simp] theorem updFlight_mbox (s : State) (w : Who) (f : InFlight → InFlight) : (updFlight s w f).mbox = s.mbox := rfl
@[simp] theorem updFlight_units (s : State) (w : Who) (f : InFlight → InFlight) : (updFlight s w f).units = s.units := rfl
@[simp] theorem updFlight_mem (s : State) (w : Who) (f : InFlight → InFlight) : (updFlight s w f).mem = s.mem := rfl
@[simp] theorem updFlight_pstate (s : State) (w : Who) (f : InFlight → InFlight) : (updFlight s w f).pstate = s.pstate := rfl
@[simp] theorem updFlight_program (s : State) (w : Who) (f : InFlight → InFlight) : (updFlight s w f).program = s.program := rfl
@[simp] theorem updFlight_step (s : State) (w : Who) (f : InFlight → InFlight) : (updFlight s w f).step = s.step := rfl
@[simp] theorem updFlight_gates (s : State) (w : Who) (f : InFlight → InFlight) : (updFlight s w f).gates = s.gates := rfl
@[simp] theorem updFlight_beat (s : State) (w : Who) (f : InFlight → InFlight) : (updFlight s w f).beat = s.beat := rfl
@[simp] theorem updFlight_scales (s : State) (w : Who) (f : InFlight → InFlight) : (updFlight s w f).scales = s.scales := rfl
@[simp] theorem updFlight_versions (s : State) (w : Who) (f : InFlight → InFlight) : (updFlight s w f).versions = s.versions := rfl
@[simp] theorem updFlight_reduce (s : State) (w : Who) (f : InFlight → InFlight) : (updFlight s w f).reduce = s.reduce := rfl
@[simp] theorem updFlight_side (s : State) (w : Who) (f : InFlight → InFlight) : (updFlight s w f).side = s.side := rfl
@[simp] theorem updFlight_fabric (s : State) (w : Who) (f : InFlight → InFlight) : (updFlight s w f).fabric = s.fabric := rfl
@[simp] theorem updFlight_ingest (s : State) (w : Who) (f : InFlight → InFlight) : (updFlight s w f).ingest = s.ingest := rfl
@[simp] theorem updFlight_journal (s : State) (w : Who) (f : InFlight → InFlight) : (updFlight s w f).journal = s.journal := rfl
@[simp] theorem updFlight_spdm (s : State) (w : Who) (f : InFlight → InFlight) : (updFlight s w f).spdm = s.spdm := rfl
@[simp] theorem updFlight_counts (s : State) (w : Who) (f : InFlight → InFlight) : (updFlight s w f).counts = s.counts := rfl
@[simp] theorem updFlight_out (s : State) (w : Who) (f : InFlight → InFlight) : (updFlight s w f).out = s.out := rfl

@[simp] theorem markFinished_pending (s : State) (w : Who) : (markFinished s w).pending = s.pending := rfl
@[simp] theorem markFinished_freeIdx (s : State) (w : Who) : (markFinished s w).freeIdx = s.freeIdx := rfl
@[simp] theorem markFinished_timebase (s : State) (w : Who) : (markFinished s w).timebase = s.timebase := rfl
@[simp] theorem markFinished_power (s : State) (w : Who) : (markFinished s w).power = s.power := rfl
@[simp] theorem markFinished_flash (s : State) (w : Who) : (markFinished s w).flash = s.flash := rfl
@[simp] theorem markFinished_fw (s : State) (w : Who) : (markFinished s w).fw = s.fw := rfl
@[simp] theorem markFinished_mbox (s : State) (w : Who) : (markFinished s w).mbox = s.mbox := rfl
@[simp] theorem markFinished_units (s : State) (w : Who) : (markFinished s w).units = s.units := rfl
@[simp] theorem markFinished_mem (s : State) (w : Who) : (markFinished s w).mem = s.mem := rfl
@[simp] theorem markFinished_pstate (s : State) (w : Who) : (markFinished s w).pstate = s.pstate := rfl
@[simp] theorem markFinished_program (s : State) (w : Who) : (markFinished s w).program = s.program := rfl
@[simp] theorem markFinished_step (s : State) (w : Who) : (markFinished s w).step = s.step := rfl
@[simp] theorem markFinished_gates (s : State) (w : Who) : (markFinished s w).gates = s.gates := rfl
@[simp] theorem markFinished_beat (s : State) (w : Who) : (markFinished s w).beat = s.beat := rfl
@[simp] theorem markFinished_scales (s : State) (w : Who) : (markFinished s w).scales = s.scales := rfl
@[simp] theorem markFinished_versions (s : State) (w : Who) : (markFinished s w).versions = s.versions := rfl
@[simp] theorem markFinished_reduce (s : State) (w : Who) : (markFinished s w).reduce = s.reduce := rfl
@[simp] theorem markFinished_side (s : State) (w : Who) : (markFinished s w).side = s.side := rfl
@[simp] theorem markFinished_fabric (s : State) (w : Who) : (markFinished s w).fabric = s.fabric := rfl
@[simp] theorem markFinished_ingest (s : State) (w : Who) : (markFinished s w).ingest = s.ingest := rfl
@[simp] theorem markFinished_journal (s : State) (w : Who) : (markFinished s w).journal = s.journal := rfl
@[simp] theorem markFinished_spdm (s : State) (w : Who) : (markFinished s w).spdm = s.spdm := rfl
@[simp] theorem markFinished_counts (s : State) (w : Who) : (markFinished s w).counts = s.counts := rfl
@[simp] theorem markFinished_out (s : State) (w : Who) : (markFinished s w).out = s.out := rfl

@[simp] theorem issued_pending (s : State) (w : Who) (p : PInstr) : (issued s w p).pending = s.pending := rfl
@[simp] theorem issued_freeIdx (s : State) (w : Who) (p : PInstr) : (issued s w p).freeIdx = s.freeIdx := rfl
@[simp] theorem issued_timebase (s : State) (w : Who) (p : PInstr) : (issued s w p).timebase = s.timebase := rfl
@[simp] theorem issued_power (s : State) (w : Who) (p : PInstr) : (issued s w p).power = s.power := rfl
@[simp] theorem issued_flash (s : State) (w : Who) (p : PInstr) : (issued s w p).flash = s.flash := rfl
@[simp] theorem issued_fw (s : State) (w : Who) (p : PInstr) : (issued s w p).fw = s.fw := rfl
@[simp] theorem issued_mbox (s : State) (w : Who) (p : PInstr) : (issued s w p).mbox = s.mbox := rfl
@[simp] theorem issued_units (s : State) (w : Who) (p : PInstr) : (issued s w p).units = s.units := rfl
@[simp] theorem issued_mem (s : State) (w : Who) (p : PInstr) : (issued s w p).mem = s.mem := rfl
@[simp] theorem issued_pstate (s : State) (w : Who) (p : PInstr) : (issued s w p).pstate = s.pstate := rfl
@[simp] theorem issued_program (s : State) (w : Who) (p : PInstr) : (issued s w p).program = s.program := rfl
@[simp] theorem issued_step (s : State) (w : Who) (p : PInstr) : (issued s w p).step = s.step := rfl
@[simp] theorem issued_gates (s : State) (w : Who) (p : PInstr) : (issued s w p).gates = s.gates := rfl
@[simp] theorem issued_beat (s : State) (w : Who) (p : PInstr) : (issued s w p).beat = s.beat := rfl
@[simp] theorem issued_scales (s : State) (w : Who) (p : PInstr) : (issued s w p).scales = s.scales := rfl
@[simp] theorem issued_versions (s : State) (w : Who) (p : PInstr) : (issued s w p).versions = s.versions := rfl
@[simp] theorem issued_reduce (s : State) (w : Who) (p : PInstr) : (issued s w p).reduce = s.reduce := rfl
@[simp] theorem issued_side (s : State) (w : Who) (p : PInstr) : (issued s w p).side = s.side := rfl
@[simp] theorem issued_fabric (s : State) (w : Who) (p : PInstr) : (issued s w p).fabric = s.fabric := rfl
@[simp] theorem issued_ingest (s : State) (w : Who) (p : PInstr) : (issued s w p).ingest = s.ingest := rfl
@[simp] theorem issued_journal (s : State) (w : Who) (p : PInstr) : (issued s w p).journal = s.journal := rfl
@[simp] theorem issued_spdm (s : State) (w : Who) (p : PInstr) : (issued s w p).spdm = s.spdm := rfl
@[simp] theorem issued_counts (s : State) (w : Who) (p : PInstr) : (issued s w p).counts = s.counts := rfl
@[simp] theorem issued_out (s : State) (w : Who) (p : PInstr) : (issued s w p).out = s.out := rfl

@[simp] theorem addWaiting_pending (s : State) (w : Who) (n : Nat) : (addWaiting s w n).pending = s.pending := rfl
@[simp] theorem addWaiting_freeIdx (s : State) (w : Who) (n : Nat) : (addWaiting s w n).freeIdx = s.freeIdx := rfl
@[simp] theorem addWaiting_timebase (s : State) (w : Who) (n : Nat) : (addWaiting s w n).timebase = s.timebase := rfl
@[simp] theorem addWaiting_power (s : State) (w : Who) (n : Nat) : (addWaiting s w n).power = s.power := rfl
@[simp] theorem addWaiting_flash (s : State) (w : Who) (n : Nat) : (addWaiting s w n).flash = s.flash := rfl
@[simp] theorem addWaiting_fw (s : State) (w : Who) (n : Nat) : (addWaiting s w n).fw = s.fw := rfl
@[simp] theorem addWaiting_mbox (s : State) (w : Who) (n : Nat) : (addWaiting s w n).mbox = s.mbox := rfl
@[simp] theorem addWaiting_units (s : State) (w : Who) (n : Nat) : (addWaiting s w n).units = s.units := rfl
@[simp] theorem addWaiting_mem (s : State) (w : Who) (n : Nat) : (addWaiting s w n).mem = s.mem := rfl
@[simp] theorem addWaiting_pstate (s : State) (w : Who) (n : Nat) : (addWaiting s w n).pstate = s.pstate := rfl
@[simp] theorem addWaiting_program (s : State) (w : Who) (n : Nat) : (addWaiting s w n).program = s.program := rfl
@[simp] theorem addWaiting_step (s : State) (w : Who) (n : Nat) : (addWaiting s w n).step = s.step := rfl
@[simp] theorem addWaiting_gates (s : State) (w : Who) (n : Nat) : (addWaiting s w n).gates = s.gates := rfl
@[simp] theorem addWaiting_beat (s : State) (w : Who) (n : Nat) : (addWaiting s w n).beat = s.beat := rfl
@[simp] theorem addWaiting_scales (s : State) (w : Who) (n : Nat) : (addWaiting s w n).scales = s.scales := rfl
@[simp] theorem addWaiting_versions (s : State) (w : Who) (n : Nat) : (addWaiting s w n).versions = s.versions := rfl
@[simp] theorem addWaiting_reduce (s : State) (w : Who) (n : Nat) : (addWaiting s w n).reduce = s.reduce := rfl
@[simp] theorem addWaiting_side (s : State) (w : Who) (n : Nat) : (addWaiting s w n).side = s.side := rfl
@[simp] theorem addWaiting_fabric (s : State) (w : Who) (n : Nat) : (addWaiting s w n).fabric = s.fabric := rfl
@[simp] theorem addWaiting_ingest (s : State) (w : Who) (n : Nat) : (addWaiting s w n).ingest = s.ingest := rfl
@[simp] theorem addWaiting_journal (s : State) (w : Who) (n : Nat) : (addWaiting s w n).journal = s.journal := rfl
@[simp] theorem addWaiting_spdm (s : State) (w : Who) (n : Nat) : (addWaiting s w n).spdm = s.spdm := rfl
@[simp] theorem addWaiting_counts (s : State) (w : Who) (n : Nat) : (addWaiting s w n).counts = s.counts := rfl
@[simp] theorem addWaiting_out (s : State) (w : Who) (n : Nat) : (addWaiting s w n).out = s.out := rfl

@[simp] theorem lessWaiting_pending (s : State) (w : Who) : (lessWaiting s w).pending = s.pending := rfl
@[simp] theorem lessWaiting_freeIdx (s : State) (w : Who) : (lessWaiting s w).freeIdx = s.freeIdx := rfl
@[simp] theorem lessWaiting_timebase (s : State) (w : Who) : (lessWaiting s w).timebase = s.timebase := rfl
@[simp] theorem lessWaiting_power (s : State) (w : Who) : (lessWaiting s w).power = s.power := rfl
@[simp] theorem lessWaiting_flash (s : State) (w : Who) : (lessWaiting s w).flash = s.flash := rfl
@[simp] theorem lessWaiting_fw (s : State) (w : Who) : (lessWaiting s w).fw = s.fw := rfl
@[simp] theorem lessWaiting_mbox (s : State) (w : Who) : (lessWaiting s w).mbox = s.mbox := rfl
@[simp] theorem lessWaiting_units (s : State) (w : Who) : (lessWaiting s w).units = s.units := rfl
@[simp] theorem lessWaiting_mem (s : State) (w : Who) : (lessWaiting s w).mem = s.mem := rfl
@[simp] theorem lessWaiting_pstate (s : State) (w : Who) : (lessWaiting s w).pstate = s.pstate := rfl
@[simp] theorem lessWaiting_program (s : State) (w : Who) : (lessWaiting s w).program = s.program := rfl
@[simp] theorem lessWaiting_step (s : State) (w : Who) : (lessWaiting s w).step = s.step := rfl
@[simp] theorem lessWaiting_gates (s : State) (w : Who) : (lessWaiting s w).gates = s.gates := rfl
@[simp] theorem lessWaiting_beat (s : State) (w : Who) : (lessWaiting s w).beat = s.beat := rfl
@[simp] theorem lessWaiting_scales (s : State) (w : Who) : (lessWaiting s w).scales = s.scales := rfl
@[simp] theorem lessWaiting_versions (s : State) (w : Who) : (lessWaiting s w).versions = s.versions := rfl
@[simp] theorem lessWaiting_reduce (s : State) (w : Who) : (lessWaiting s w).reduce = s.reduce := rfl
@[simp] theorem lessWaiting_side (s : State) (w : Who) : (lessWaiting s w).side = s.side := rfl
@[simp] theorem lessWaiting_fabric (s : State) (w : Who) : (lessWaiting s w).fabric = s.fabric := rfl
@[simp] theorem lessWaiting_ingest (s : State) (w : Who) : (lessWaiting s w).ingest = s.ingest := rfl
@[simp] theorem lessWaiting_journal (s : State) (w : Who) : (lessWaiting s w).journal = s.journal := rfl
@[simp] theorem lessWaiting_spdm (s : State) (w : Who) : (lessWaiting s w).spdm = s.spdm := rfl
@[simp] theorem lessWaiting_counts (s : State) (w : Who) : (lessWaiting s w).counts = s.counts := rfl
@[simp] theorem lessWaiting_out (s : State) (w : Who) : (lessWaiting s w).out = s.out := rfl

@[simp] theorem updTracker_pending (s : State) (t : Nat) (f : Tracker → Tracker) : (updTracker s t f).pending = s.pending := rfl
@[simp] theorem updTracker_freeIdx (s : State) (t : Nat) (f : Tracker → Tracker) : (updTracker s t f).freeIdx = s.freeIdx := rfl
@[simp] theorem updTracker_timebase (s : State) (t : Nat) (f : Tracker → Tracker) : (updTracker s t f).timebase = s.timebase := rfl
@[simp] theorem updTracker_power (s : State) (t : Nat) (f : Tracker → Tracker) : (updTracker s t f).power = s.power := rfl
@[simp] theorem updTracker_flash (s : State) (t : Nat) (f : Tracker → Tracker) : (updTracker s t f).flash = s.flash := rfl
@[simp] theorem updTracker_fw (s : State) (t : Nat) (f : Tracker → Tracker) : (updTracker s t f).fw = s.fw := rfl
@[simp] theorem updTracker_mbox (s : State) (t : Nat) (f : Tracker → Tracker) : (updTracker s t f).mbox = s.mbox := rfl
@[simp] theorem updTracker_units (s : State) (t : Nat) (f : Tracker → Tracker) : (updTracker s t f).units = s.units := rfl
@[simp] theorem updTracker_mem (s : State) (t : Nat) (f : Tracker → Tracker) : (updTracker s t f).mem = s.mem := rfl
@[simp] theorem updTracker_pstate (s : State) (t : Nat) (f : Tracker → Tracker) : (updTracker s t f).pstate = s.pstate := rfl
@[simp] theorem updTracker_program (s : State) (t : Nat) (f : Tracker → Tracker) : (updTracker s t f).program = s.program := rfl
@[simp] theorem updTracker_step (s : State) (t : Nat) (f : Tracker → Tracker) : (updTracker s t f).step = s.step := rfl
@[simp] theorem updTracker_seqs (s : State) (t : Nat) (f : Tracker → Tracker) : (updTracker s t f).seqs = s.seqs := rfl
@[simp] theorem updTracker_gates (s : State) (t : Nat) (f : Tracker → Tracker) : (updTracker s t f).gates = s.gates := rfl
@[simp] theorem updTracker_beat (s : State) (t : Nat) (f : Tracker → Tracker) : (updTracker s t f).beat = s.beat := rfl
@[simp] theorem updTracker_versions (s : State) (t : Nat) (f : Tracker → Tracker) : (updTracker s t f).versions = s.versions := rfl
@[simp] theorem updTracker_reduce (s : State) (t : Nat) (f : Tracker → Tracker) : (updTracker s t f).reduce = s.reduce := rfl
@[simp] theorem updTracker_side (s : State) (t : Nat) (f : Tracker → Tracker) : (updTracker s t f).side = s.side := rfl
@[simp] theorem updTracker_fabric (s : State) (t : Nat) (f : Tracker → Tracker) : (updTracker s t f).fabric = s.fabric := rfl
@[simp] theorem updTracker_ingest (s : State) (t : Nat) (f : Tracker → Tracker) : (updTracker s t f).ingest = s.ingest := rfl
@[simp] theorem updTracker_journal (s : State) (t : Nat) (f : Tracker → Tracker) : (updTracker s t f).journal = s.journal := rfl
@[simp] theorem updTracker_spdm (s : State) (t : Nat) (f : Tracker → Tracker) : (updTracker s t f).spdm = s.spdm := rfl
@[simp] theorem updTracker_counts (s : State) (t : Nat) (f : Tracker → Tracker) : (updTracker s t f).counts = s.counts := rfl
@[simp] theorem updTracker_out (s : State) (t : Nat) (f : Tracker → Tracker) : (updTracker s t f).out = s.out := rfl

@[simp] theorem updLayer_pending (s : State) (l : Nat) (f : LayerState → LayerState) : (updLayer s l f).pending = s.pending := rfl
@[simp] theorem updLayer_freeIdx (s : State) (l : Nat) (f : LayerState → LayerState) : (updLayer s l f).freeIdx = s.freeIdx := rfl
@[simp] theorem updLayer_timebase (s : State) (l : Nat) (f : LayerState → LayerState) : (updLayer s l f).timebase = s.timebase := rfl
@[simp] theorem updLayer_power (s : State) (l : Nat) (f : LayerState → LayerState) : (updLayer s l f).power = s.power := rfl
@[simp] theorem updLayer_flash (s : State) (l : Nat) (f : LayerState → LayerState) : (updLayer s l f).flash = s.flash := rfl
@[simp] theorem updLayer_fw (s : State) (l : Nat) (f : LayerState → LayerState) : (updLayer s l f).fw = s.fw := rfl
@[simp] theorem updLayer_mbox (s : State) (l : Nat) (f : LayerState → LayerState) : (updLayer s l f).mbox = s.mbox := rfl
@[simp] theorem updLayer_units (s : State) (l : Nat) (f : LayerState → LayerState) : (updLayer s l f).units = s.units := rfl
@[simp] theorem updLayer_mem (s : State) (l : Nat) (f : LayerState → LayerState) : (updLayer s l f).mem = s.mem := rfl
@[simp] theorem updLayer_pstate (s : State) (l : Nat) (f : LayerState → LayerState) : (updLayer s l f).pstate = s.pstate := rfl
@[simp] theorem updLayer_program (s : State) (l : Nat) (f : LayerState → LayerState) : (updLayer s l f).program = s.program := rfl
@[simp] theorem updLayer_step (s : State) (l : Nat) (f : LayerState → LayerState) : (updLayer s l f).step = s.step := rfl
@[simp] theorem updLayer_seqs (s : State) (l : Nat) (f : LayerState → LayerState) : (updLayer s l f).seqs = s.seqs := rfl
@[simp] theorem updLayer_gates (s : State) (l : Nat) (f : LayerState → LayerState) : (updLayer s l f).gates = s.gates := rfl
@[simp] theorem updLayer_beat (s : State) (l : Nat) (f : LayerState → LayerState) : (updLayer s l f).beat = s.beat := rfl
@[simp] theorem updLayer_versions (s : State) (l : Nat) (f : LayerState → LayerState) : (updLayer s l f).versions = s.versions := rfl
@[simp] theorem updLayer_reduce (s : State) (l : Nat) (f : LayerState → LayerState) : (updLayer s l f).reduce = s.reduce := rfl
@[simp] theorem updLayer_side (s : State) (l : Nat) (f : LayerState → LayerState) : (updLayer s l f).side = s.side := rfl
@[simp] theorem updLayer_fabric (s : State) (l : Nat) (f : LayerState → LayerState) : (updLayer s l f).fabric = s.fabric := rfl
@[simp] theorem updLayer_ingest (s : State) (l : Nat) (f : LayerState → LayerState) : (updLayer s l f).ingest = s.ingest := rfl
@[simp] theorem updLayer_journal (s : State) (l : Nat) (f : LayerState → LayerState) : (updLayer s l f).journal = s.journal := rfl
@[simp] theorem updLayer_spdm (s : State) (l : Nat) (f : LayerState → LayerState) : (updLayer s l f).spdm = s.spdm := rfl
@[simp] theorem updLayer_counts (s : State) (l : Nat) (f : LayerState → LayerState) : (updLayer s l f).counts = s.counts := rfl
@[simp] theorem updLayer_out (s : State) (l : Nat) (f : LayerState → LayerState) : (updLayer s l f).out = s.out := rfl

@[simp] theorem updVersion_pending (s : State) (r : Nat) (f : VState → VState) : (updVersion s r f).pending = s.pending := rfl
@[simp] theorem updVersion_freeIdx (s : State) (r : Nat) (f : VState → VState) : (updVersion s r f).freeIdx = s.freeIdx := rfl
@[simp] theorem updVersion_timebase (s : State) (r : Nat) (f : VState → VState) : (updVersion s r f).timebase = s.timebase := rfl
@[simp] theorem updVersion_power (s : State) (r : Nat) (f : VState → VState) : (updVersion s r f).power = s.power := rfl
@[simp] theorem updVersion_flash (s : State) (r : Nat) (f : VState → VState) : (updVersion s r f).flash = s.flash := rfl
@[simp] theorem updVersion_fw (s : State) (r : Nat) (f : VState → VState) : (updVersion s r f).fw = s.fw := rfl
@[simp] theorem updVersion_mbox (s : State) (r : Nat) (f : VState → VState) : (updVersion s r f).mbox = s.mbox := rfl
@[simp] theorem updVersion_units (s : State) (r : Nat) (f : VState → VState) : (updVersion s r f).units = s.units := rfl
@[simp] theorem updVersion_mem (s : State) (r : Nat) (f : VState → VState) : (updVersion s r f).mem = s.mem := rfl
@[simp] theorem updVersion_pstate (s : State) (r : Nat) (f : VState → VState) : (updVersion s r f).pstate = s.pstate := rfl
@[simp] theorem updVersion_program (s : State) (r : Nat) (f : VState → VState) : (updVersion s r f).program = s.program := rfl
@[simp] theorem updVersion_step (s : State) (r : Nat) (f : VState → VState) : (updVersion s r f).step = s.step := rfl
@[simp] theorem updVersion_seqs (s : State) (r : Nat) (f : VState → VState) : (updVersion s r f).seqs = s.seqs := rfl
@[simp] theorem updVersion_gates (s : State) (r : Nat) (f : VState → VState) : (updVersion s r f).gates = s.gates := rfl
@[simp] theorem updVersion_beat (s : State) (r : Nat) (f : VState → VState) : (updVersion s r f).beat = s.beat := rfl
@[simp] theorem updVersion_scales (s : State) (r : Nat) (f : VState → VState) : (updVersion s r f).scales = s.scales := rfl
@[simp] theorem updVersion_reduce (s : State) (r : Nat) (f : VState → VState) : (updVersion s r f).reduce = s.reduce := rfl
@[simp] theorem updVersion_side (s : State) (r : Nat) (f : VState → VState) : (updVersion s r f).side = s.side := rfl
@[simp] theorem updVersion_fabric (s : State) (r : Nat) (f : VState → VState) : (updVersion s r f).fabric = s.fabric := rfl
@[simp] theorem updVersion_ingest (s : State) (r : Nat) (f : VState → VState) : (updVersion s r f).ingest = s.ingest := rfl
@[simp] theorem updVersion_journal (s : State) (r : Nat) (f : VState → VState) : (updVersion s r f).journal = s.journal := rfl
@[simp] theorem updVersion_spdm (s : State) (r : Nat) (f : VState → VState) : (updVersion s r f).spdm = s.spdm := rfl
@[simp] theorem updVersion_counts (s : State) (r : Nat) (f : VState → VState) : (updVersion s r f).counts = s.counts := rfl
@[simp] theorem updVersion_out (s : State) (r : Nat) (f : VState → VState) : (updVersion s r f).out = s.out := rfl

@[simp] theorem updUnit_pending (s : State) (u : PhysUnit) (f : UnitEntry → UnitEntry) : (updUnit s u f).pending = s.pending := rfl
@[simp] theorem updUnit_freeIdx (s : State) (u : PhysUnit) (f : UnitEntry → UnitEntry) : (updUnit s u f).freeIdx = s.freeIdx := rfl
@[simp] theorem updUnit_timebase (s : State) (u : PhysUnit) (f : UnitEntry → UnitEntry) : (updUnit s u f).timebase = s.timebase := rfl
@[simp] theorem updUnit_power (s : State) (u : PhysUnit) (f : UnitEntry → UnitEntry) : (updUnit s u f).power = s.power := rfl
@[simp] theorem updUnit_flash (s : State) (u : PhysUnit) (f : UnitEntry → UnitEntry) : (updUnit s u f).flash = s.flash := rfl
@[simp] theorem updUnit_fw (s : State) (u : PhysUnit) (f : UnitEntry → UnitEntry) : (updUnit s u f).fw = s.fw := rfl
@[simp] theorem updUnit_mbox (s : State) (u : PhysUnit) (f : UnitEntry → UnitEntry) : (updUnit s u f).mbox = s.mbox := rfl
@[simp] theorem updUnit_mem (s : State) (u : PhysUnit) (f : UnitEntry → UnitEntry) : (updUnit s u f).mem = s.mem := rfl
@[simp] theorem updUnit_pstate (s : State) (u : PhysUnit) (f : UnitEntry → UnitEntry) : (updUnit s u f).pstate = s.pstate := rfl
@[simp] theorem updUnit_program (s : State) (u : PhysUnit) (f : UnitEntry → UnitEntry) : (updUnit s u f).program = s.program := rfl
@[simp] theorem updUnit_step (s : State) (u : PhysUnit) (f : UnitEntry → UnitEntry) : (updUnit s u f).step = s.step := rfl
@[simp] theorem updUnit_seqs (s : State) (u : PhysUnit) (f : UnitEntry → UnitEntry) : (updUnit s u f).seqs = s.seqs := rfl
@[simp] theorem updUnit_gates (s : State) (u : PhysUnit) (f : UnitEntry → UnitEntry) : (updUnit s u f).gates = s.gates := rfl
@[simp] theorem updUnit_beat (s : State) (u : PhysUnit) (f : UnitEntry → UnitEntry) : (updUnit s u f).beat = s.beat := rfl
@[simp] theorem updUnit_scales (s : State) (u : PhysUnit) (f : UnitEntry → UnitEntry) : (updUnit s u f).scales = s.scales := rfl
@[simp] theorem updUnit_versions (s : State) (u : PhysUnit) (f : UnitEntry → UnitEntry) : (updUnit s u f).versions = s.versions := rfl
@[simp] theorem updUnit_reduce (s : State) (u : PhysUnit) (f : UnitEntry → UnitEntry) : (updUnit s u f).reduce = s.reduce := rfl
@[simp] theorem updUnit_side (s : State) (u : PhysUnit) (f : UnitEntry → UnitEntry) : (updUnit s u f).side = s.side := rfl
@[simp] theorem updUnit_fabric (s : State) (u : PhysUnit) (f : UnitEntry → UnitEntry) : (updUnit s u f).fabric = s.fabric := rfl
@[simp] theorem updUnit_ingest (s : State) (u : PhysUnit) (f : UnitEntry → UnitEntry) : (updUnit s u f).ingest = s.ingest := rfl
@[simp] theorem updUnit_journal (s : State) (u : PhysUnit) (f : UnitEntry → UnitEntry) : (updUnit s u f).journal = s.journal := rfl
@[simp] theorem updUnit_spdm (s : State) (u : PhysUnit) (f : UnitEntry → UnitEntry) : (updUnit s u f).spdm = s.spdm := rfl
@[simp] theorem updUnit_counts (s : State) (u : PhysUnit) (f : UnitEntry → UnitEntry) : (updUnit s u f).counts = s.counts := rfl
@[simp] theorem updUnit_out (s : State) (u : PhysUnit) (f : UnitEntry → UnitEntry) : (updUnit s u f).out = s.out := rfl

@[simp] theorem setCond_pending (s : State) (u : PhysUnit) (c : Cond) (k : Nat) : (setCond s u c k).pending = s.pending := rfl
@[simp] theorem setCond_freeIdx (s : State) (u : PhysUnit) (c : Cond) (k : Nat) : (setCond s u c k).freeIdx = s.freeIdx := rfl
@[simp] theorem setCond_timebase (s : State) (u : PhysUnit) (c : Cond) (k : Nat) : (setCond s u c k).timebase = s.timebase := rfl
@[simp] theorem setCond_power (s : State) (u : PhysUnit) (c : Cond) (k : Nat) : (setCond s u c k).power = s.power := rfl
@[simp] theorem setCond_flash (s : State) (u : PhysUnit) (c : Cond) (k : Nat) : (setCond s u c k).flash = s.flash := rfl
@[simp] theorem setCond_fw (s : State) (u : PhysUnit) (c : Cond) (k : Nat) : (setCond s u c k).fw = s.fw := rfl
@[simp] theorem setCond_mbox (s : State) (u : PhysUnit) (c : Cond) (k : Nat) : (setCond s u c k).mbox = s.mbox := rfl
@[simp] theorem setCond_mem (s : State) (u : PhysUnit) (c : Cond) (k : Nat) : (setCond s u c k).mem = s.mem := rfl
@[simp] theorem setCond_pstate (s : State) (u : PhysUnit) (c : Cond) (k : Nat) : (setCond s u c k).pstate = s.pstate := rfl
@[simp] theorem setCond_program (s : State) (u : PhysUnit) (c : Cond) (k : Nat) : (setCond s u c k).program = s.program := rfl
@[simp] theorem setCond_step (s : State) (u : PhysUnit) (c : Cond) (k : Nat) : (setCond s u c k).step = s.step := rfl
@[simp] theorem setCond_seqs (s : State) (u : PhysUnit) (c : Cond) (k : Nat) : (setCond s u c k).seqs = s.seqs := rfl
@[simp] theorem setCond_gates (s : State) (u : PhysUnit) (c : Cond) (k : Nat) : (setCond s u c k).gates = s.gates := rfl
@[simp] theorem setCond_beat (s : State) (u : PhysUnit) (c : Cond) (k : Nat) : (setCond s u c k).beat = s.beat := rfl
@[simp] theorem setCond_scales (s : State) (u : PhysUnit) (c : Cond) (k : Nat) : (setCond s u c k).scales = s.scales := rfl
@[simp] theorem setCond_versions (s : State) (u : PhysUnit) (c : Cond) (k : Nat) : (setCond s u c k).versions = s.versions := rfl
@[simp] theorem setCond_reduce (s : State) (u : PhysUnit) (c : Cond) (k : Nat) : (setCond s u c k).reduce = s.reduce := rfl
@[simp] theorem setCond_side (s : State) (u : PhysUnit) (c : Cond) (k : Nat) : (setCond s u c k).side = s.side := rfl
@[simp] theorem setCond_fabric (s : State) (u : PhysUnit) (c : Cond) (k : Nat) : (setCond s u c k).fabric = s.fabric := rfl
@[simp] theorem setCond_ingest (s : State) (u : PhysUnit) (c : Cond) (k : Nat) : (setCond s u c k).ingest = s.ingest := rfl
@[simp] theorem setCond_journal (s : State) (u : PhysUnit) (c : Cond) (k : Nat) : (setCond s u c k).journal = s.journal := rfl
@[simp] theorem setCond_spdm (s : State) (u : PhysUnit) (c : Cond) (k : Nat) : (setCond s u c k).spdm = s.spdm := rfl
@[simp] theorem setCond_counts (s : State) (u : PhysUnit) (c : Cond) (k : Nat) : (setCond s u c k).counts = s.counts := rfl
@[simp] theorem setCond_out (s : State) (u : PhysUnit) (c : Cond) (k : Nat) : (setCond s u c k).out = s.out := rfl

@[simp] theorem settleClock_pending (s : State) : (settleClock s).pending = s.pending := rfl
@[simp] theorem settleClock_freeIdx (s : State) : (settleClock s).freeIdx = s.freeIdx := rfl
@[simp] theorem settleClock_timebase (s : State) : (settleClock s).timebase = s.timebase := rfl
@[simp] theorem settleClock_flash (s : State) : (settleClock s).flash = s.flash := rfl
@[simp] theorem settleClock_fw (s : State) : (settleClock s).fw = s.fw := rfl
@[simp] theorem settleClock_mbox (s : State) : (settleClock s).mbox = s.mbox := rfl
@[simp] theorem settleClock_units (s : State) : (settleClock s).units = s.units := rfl
@[simp] theorem settleClock_mem (s : State) : (settleClock s).mem = s.mem := rfl
@[simp] theorem settleClock_pstate (s : State) : (settleClock s).pstate = s.pstate := rfl
@[simp] theorem settleClock_program (s : State) : (settleClock s).program = s.program := rfl
@[simp] theorem settleClock_step (s : State) : (settleClock s).step = s.step := rfl
@[simp] theorem settleClock_seqs (s : State) : (settleClock s).seqs = s.seqs := rfl
@[simp] theorem settleClock_gates (s : State) : (settleClock s).gates = s.gates := rfl
@[simp] theorem settleClock_beat (s : State) : (settleClock s).beat = s.beat := rfl
@[simp] theorem settleClock_scales (s : State) : (settleClock s).scales = s.scales := rfl
@[simp] theorem settleClock_versions (s : State) : (settleClock s).versions = s.versions := rfl
@[simp] theorem settleClock_reduce (s : State) : (settleClock s).reduce = s.reduce := rfl
@[simp] theorem settleClock_side (s : State) : (settleClock s).side = s.side := rfl
@[simp] theorem settleClock_fabric (s : State) : (settleClock s).fabric = s.fabric := rfl
@[simp] theorem settleClock_ingest (s : State) : (settleClock s).ingest = s.ingest := rfl
@[simp] theorem settleClock_journal (s : State) : (settleClock s).journal = s.journal := rfl
@[simp] theorem settleClock_spdm (s : State) : (settleClock s).spdm = s.spdm := rfl
@[simp] theorem settleClock_counts (s : State) : (settleClock s).counts = s.counts := rfl
@[simp] theorem settleClock_out (s : State) : (settleClock s).out = s.out := rfl

@[simp] theorem updPtp_pending (s : State) (f : Ptp → Ptp) : (updPtp s f).pending = s.pending := rfl
@[simp] theorem updPtp_freeIdx (s : State) (f : Ptp → Ptp) : (updPtp s f).freeIdx = s.freeIdx := rfl
@[simp] theorem updPtp_timebase (s : State) (f : Ptp → Ptp) : (updPtp s f).timebase = s.timebase := rfl
@[simp] theorem updPtp_power (s : State) (f : Ptp → Ptp) : (updPtp s f).power = s.power := rfl
@[simp] theorem updPtp_flash (s : State) (f : Ptp → Ptp) : (updPtp s f).flash = s.flash := rfl
@[simp] theorem updPtp_fw (s : State) (f : Ptp → Ptp) : (updPtp s f).fw = s.fw := rfl
@[simp] theorem updPtp_mbox (s : State) (f : Ptp → Ptp) : (updPtp s f).mbox = s.mbox := rfl
@[simp] theorem updPtp_units (s : State) (f : Ptp → Ptp) : (updPtp s f).units = s.units := rfl
@[simp] theorem updPtp_mem (s : State) (f : Ptp → Ptp) : (updPtp s f).mem = s.mem := rfl
@[simp] theorem updPtp_pstate (s : State) (f : Ptp → Ptp) : (updPtp s f).pstate = s.pstate := rfl
@[simp] theorem updPtp_program (s : State) (f : Ptp → Ptp) : (updPtp s f).program = s.program := rfl
@[simp] theorem updPtp_step (s : State) (f : Ptp → Ptp) : (updPtp s f).step = s.step := rfl
@[simp] theorem updPtp_seqs (s : State) (f : Ptp → Ptp) : (updPtp s f).seqs = s.seqs := rfl
@[simp] theorem updPtp_gates (s : State) (f : Ptp → Ptp) : (updPtp s f).gates = s.gates := rfl
@[simp] theorem updPtp_beat (s : State) (f : Ptp → Ptp) : (updPtp s f).beat = s.beat := rfl
@[simp] theorem updPtp_scales (s : State) (f : Ptp → Ptp) : (updPtp s f).scales = s.scales := rfl
@[simp] theorem updPtp_versions (s : State) (f : Ptp → Ptp) : (updPtp s f).versions = s.versions := rfl
@[simp] theorem updPtp_reduce (s : State) (f : Ptp → Ptp) : (updPtp s f).reduce = s.reduce := rfl
@[simp] theorem updPtp_side (s : State) (f : Ptp → Ptp) : (updPtp s f).side = s.side := rfl
@[simp] theorem updPtp_ingest (s : State) (f : Ptp → Ptp) : (updPtp s f).ingest = s.ingest := rfl
@[simp] theorem updPtp_journal (s : State) (f : Ptp → Ptp) : (updPtp s f).journal = s.journal := rfl
@[simp] theorem updPtp_spdm (s : State) (f : Ptp → Ptp) : (updPtp s f).spdm = s.spdm := rfl
@[simp] theorem updPtp_counts (s : State) (f : Ptp → Ptp) : (updPtp s f).counts = s.counts := rfl
@[simp] theorem updPtp_out (s : State) (f : Ptp → Ptp) : (updPtp s f).out = s.out := rfl

@[simp] theorem clockTo_pending (s : State) (t : Nat) : (clockTo s t).pending = s.pending := rfl
@[simp] theorem clockTo_freeIdx (s : State) (t : Nat) : (clockTo s t).freeIdx = s.freeIdx := rfl
@[simp] theorem clockTo_power (s : State) (t : Nat) : (clockTo s t).power = s.power := rfl
@[simp] theorem clockTo_flash (s : State) (t : Nat) : (clockTo s t).flash = s.flash := rfl
@[simp] theorem clockTo_fw (s : State) (t : Nat) : (clockTo s t).fw = s.fw := rfl
@[simp] theorem clockTo_mbox (s : State) (t : Nat) : (clockTo s t).mbox = s.mbox := rfl
@[simp] theorem clockTo_units (s : State) (t : Nat) : (clockTo s t).units = s.units := rfl
@[simp] theorem clockTo_mem (s : State) (t : Nat) : (clockTo s t).mem = s.mem := rfl
@[simp] theorem clockTo_pstate (s : State) (t : Nat) : (clockTo s t).pstate = s.pstate := rfl
@[simp] theorem clockTo_program (s : State) (t : Nat) : (clockTo s t).program = s.program := rfl
@[simp] theorem clockTo_step (s : State) (t : Nat) : (clockTo s t).step = s.step := rfl
@[simp] theorem clockTo_seqs (s : State) (t : Nat) : (clockTo s t).seqs = s.seqs := rfl
@[simp] theorem clockTo_gates (s : State) (t : Nat) : (clockTo s t).gates = s.gates := rfl
@[simp] theorem clockTo_beat (s : State) (t : Nat) : (clockTo s t).beat = s.beat := rfl
@[simp] theorem clockTo_scales (s : State) (t : Nat) : (clockTo s t).scales = s.scales := rfl
@[simp] theorem clockTo_versions (s : State) (t : Nat) : (clockTo s t).versions = s.versions := rfl
@[simp] theorem clockTo_reduce (s : State) (t : Nat) : (clockTo s t).reduce = s.reduce := rfl
@[simp] theorem clockTo_side (s : State) (t : Nat) : (clockTo s t).side = s.side := rfl
@[simp] theorem clockTo_fabric (s : State) (t : Nat) : (clockTo s t).fabric = s.fabric := rfl
@[simp] theorem clockTo_ingest (s : State) (t : Nat) : (clockTo s t).ingest = s.ingest := rfl
@[simp] theorem clockTo_journal (s : State) (t : Nat) : (clockTo s t).journal = s.journal := rfl
@[simp] theorem clockTo_spdm (s : State) (t : Nat) : (clockTo s t).spdm = s.spdm := rfl
@[simp] theorem clockTo_counts (s : State) (t : Nat) : (clockTo s t).counts = s.counts := rfl
@[simp] theorem clockTo_out (s : State) (t : Nat) : (clockTo s t).out = s.out := rfl

@[simp] theorem setTag_pending (s : State) (t : TagState) : (setTag s t).pending = s.pending := rfl
@[simp] theorem setTag_freeIdx (s : State) (t : TagState) : (setTag s t).freeIdx = s.freeIdx := rfl
@[simp] theorem setTag_timebase (s : State) (t : TagState) : (setTag s t).timebase = s.timebase := rfl
@[simp] theorem setTag_power (s : State) (t : TagState) : (setTag s t).power = s.power := rfl
@[simp] theorem setTag_flash (s : State) (t : TagState) : (setTag s t).flash = s.flash := rfl
@[simp] theorem setTag_fw (s : State) (t : TagState) : (setTag s t).fw = s.fw := rfl
@[simp] theorem setTag_mbox (s : State) (t : TagState) : (setTag s t).mbox = s.mbox := rfl
@[simp] theorem setTag_units (s : State) (t : TagState) : (setTag s t).units = s.units := rfl
@[simp] theorem setTag_mem (s : State) (t : TagState) : (setTag s t).mem = s.mem := rfl
@[simp] theorem setTag_pstate (s : State) (t : TagState) : (setTag s t).pstate = s.pstate := rfl
@[simp] theorem setTag_program (s : State) (t : TagState) : (setTag s t).program = s.program := rfl
@[simp] theorem setTag_step (s : State) (t : TagState) : (setTag s t).step = s.step := rfl
@[simp] theorem setTag_seqs (s : State) (t : TagState) : (setTag s t).seqs = s.seqs := rfl
@[simp] theorem setTag_gates (s : State) (t : TagState) : (setTag s t).gates = s.gates := rfl
@[simp] theorem setTag_beat (s : State) (t : TagState) : (setTag s t).beat = s.beat := rfl
@[simp] theorem setTag_scales (s : State) (t : TagState) : (setTag s t).scales = s.scales := rfl
@[simp] theorem setTag_versions (s : State) (t : TagState) : (setTag s t).versions = s.versions := rfl
@[simp] theorem setTag_side (s : State) (t : TagState) : (setTag s t).side = s.side := rfl
@[simp] theorem setTag_fabric (s : State) (t : TagState) : (setTag s t).fabric = s.fabric := rfl
@[simp] theorem setTag_ingest (s : State) (t : TagState) : (setTag s t).ingest = s.ingest := rfl
@[simp] theorem setTag_journal (s : State) (t : TagState) : (setTag s t).journal = s.journal := rfl
@[simp] theorem setTag_spdm (s : State) (t : TagState) : (setTag s t).spdm = s.spdm := rfl
@[simp] theorem setTag_counts (s : State) (t : TagState) : (setTag s t).counts = s.counts := rfl
@[simp] theorem setTag_out (s : State) (t : TagState) : (setTag s t).out = s.out := rfl

@[simp] theorem addArrival_pending (s : State) (k a : Nat) (d : List Byte) : (addArrival s k a d).pending = s.pending := rfl
@[simp] theorem addArrival_freeIdx (s : State) (k a : Nat) (d : List Byte) : (addArrival s k a d).freeIdx = s.freeIdx := rfl
@[simp] theorem addArrival_timebase (s : State) (k a : Nat) (d : List Byte) : (addArrival s k a d).timebase = s.timebase := rfl
@[simp] theorem addArrival_power (s : State) (k a : Nat) (d : List Byte) : (addArrival s k a d).power = s.power := rfl
@[simp] theorem addArrival_flash (s : State) (k a : Nat) (d : List Byte) : (addArrival s k a d).flash = s.flash := rfl
@[simp] theorem addArrival_fw (s : State) (k a : Nat) (d : List Byte) : (addArrival s k a d).fw = s.fw := rfl
@[simp] theorem addArrival_mbox (s : State) (k a : Nat) (d : List Byte) : (addArrival s k a d).mbox = s.mbox := rfl
@[simp] theorem addArrival_units (s : State) (k a : Nat) (d : List Byte) : (addArrival s k a d).units = s.units := rfl
@[simp] theorem addArrival_mem (s : State) (k a : Nat) (d : List Byte) : (addArrival s k a d).mem = s.mem := rfl
@[simp] theorem addArrival_pstate (s : State) (k a : Nat) (d : List Byte) : (addArrival s k a d).pstate = s.pstate := rfl
@[simp] theorem addArrival_program (s : State) (k a : Nat) (d : List Byte) : (addArrival s k a d).program = s.program := rfl
@[simp] theorem addArrival_step (s : State) (k a : Nat) (d : List Byte) : (addArrival s k a d).step = s.step := rfl
@[simp] theorem addArrival_seqs (s : State) (k a : Nat) (d : List Byte) : (addArrival s k a d).seqs = s.seqs := rfl
@[simp] theorem addArrival_gates (s : State) (k a : Nat) (d : List Byte) : (addArrival s k a d).gates = s.gates := rfl
@[simp] theorem addArrival_beat (s : State) (k a : Nat) (d : List Byte) : (addArrival s k a d).beat = s.beat := rfl
@[simp] theorem addArrival_scales (s : State) (k a : Nat) (d : List Byte) : (addArrival s k a d).scales = s.scales := rfl
@[simp] theorem addArrival_versions (s : State) (k a : Nat) (d : List Byte) : (addArrival s k a d).versions = s.versions := rfl
@[simp] theorem addArrival_reduce (s : State) (k a : Nat) (d : List Byte) : (addArrival s k a d).reduce = s.reduce := rfl
@[simp] theorem addArrival_side (s : State) (k a : Nat) (d : List Byte) : (addArrival s k a d).side = s.side := rfl
@[simp] theorem addArrival_ingest (s : State) (k a : Nat) (d : List Byte) : (addArrival s k a d).ingest = s.ingest := rfl
@[simp] theorem addArrival_journal (s : State) (k a : Nat) (d : List Byte) : (addArrival s k a d).journal = s.journal := rfl
@[simp] theorem addArrival_spdm (s : State) (k a : Nat) (d : List Byte) : (addArrival s k a d).spdm = s.spdm := rfl
@[simp] theorem addArrival_counts (s : State) (k a : Nat) (d : List Byte) : (addArrival s k a d).counts = s.counts := rfl
@[simp] theorem addArrival_out (s : State) (k a : Nat) (d : List Byte) : (addArrival s k a d).out = s.out := rfl

@[simp] theorem dropArrivals_pending (s : State) (k : Nat) : (dropArrivals s k).pending = s.pending := rfl
@[simp] theorem dropArrivals_freeIdx (s : State) (k : Nat) : (dropArrivals s k).freeIdx = s.freeIdx := rfl
@[simp] theorem dropArrivals_timebase (s : State) (k : Nat) : (dropArrivals s k).timebase = s.timebase := rfl
@[simp] theorem dropArrivals_power (s : State) (k : Nat) : (dropArrivals s k).power = s.power := rfl
@[simp] theorem dropArrivals_flash (s : State) (k : Nat) : (dropArrivals s k).flash = s.flash := rfl
@[simp] theorem dropArrivals_fw (s : State) (k : Nat) : (dropArrivals s k).fw = s.fw := rfl
@[simp] theorem dropArrivals_mbox (s : State) (k : Nat) : (dropArrivals s k).mbox = s.mbox := rfl
@[simp] theorem dropArrivals_units (s : State) (k : Nat) : (dropArrivals s k).units = s.units := rfl
@[simp] theorem dropArrivals_mem (s : State) (k : Nat) : (dropArrivals s k).mem = s.mem := rfl
@[simp] theorem dropArrivals_pstate (s : State) (k : Nat) : (dropArrivals s k).pstate = s.pstate := rfl
@[simp] theorem dropArrivals_program (s : State) (k : Nat) : (dropArrivals s k).program = s.program := rfl
@[simp] theorem dropArrivals_step (s : State) (k : Nat) : (dropArrivals s k).step = s.step := rfl
@[simp] theorem dropArrivals_seqs (s : State) (k : Nat) : (dropArrivals s k).seqs = s.seqs := rfl
@[simp] theorem dropArrivals_gates (s : State) (k : Nat) : (dropArrivals s k).gates = s.gates := rfl
@[simp] theorem dropArrivals_beat (s : State) (k : Nat) : (dropArrivals s k).beat = s.beat := rfl
@[simp] theorem dropArrivals_scales (s : State) (k : Nat) : (dropArrivals s k).scales = s.scales := rfl
@[simp] theorem dropArrivals_versions (s : State) (k : Nat) : (dropArrivals s k).versions = s.versions := rfl
@[simp] theorem dropArrivals_reduce (s : State) (k : Nat) : (dropArrivals s k).reduce = s.reduce := rfl
@[simp] theorem dropArrivals_side (s : State) (k : Nat) : (dropArrivals s k).side = s.side := rfl
@[simp] theorem dropArrivals_ingest (s : State) (k : Nat) : (dropArrivals s k).ingest = s.ingest := rfl
@[simp] theorem dropArrivals_journal (s : State) (k : Nat) : (dropArrivals s k).journal = s.journal := rfl
@[simp] theorem dropArrivals_spdm (s : State) (k : Nat) : (dropArrivals s k).spdm = s.spdm := rfl
@[simp] theorem dropArrivals_counts (s : State) (k : Nat) : (dropArrivals s k).counts = s.counts := rfl
@[simp] theorem dropArrivals_out (s : State) (k : Nat) : (dropArrivals s k).out = s.out := rfl

/-- Owing credits changes the fabric alone. -/
theorem oweCredits_eq (s : State) (p : Fin 12) (f : Kft) : ∃ fab, oweCredits s p f = { s with fabric := fab } := by
  simp only [oweCredits]
  split <;> exact ⟨_, rfl⟩

@[simp] theorem oweCredits_pending (s : State) (p : Fin 12) (f : Kft) : (oweCredits s p f).pending = s.pending := by obtain ⟨_, h⟩ := oweCredits_eq s p f; rw [h]
@[simp] theorem oweCredits_freeIdx (s : State) (p : Fin 12) (f : Kft) : (oweCredits s p f).freeIdx = s.freeIdx := by obtain ⟨_, h⟩ := oweCredits_eq s p f; rw [h]
@[simp] theorem oweCredits_timebase (s : State) (p : Fin 12) (f : Kft) : (oweCredits s p f).timebase = s.timebase := by obtain ⟨_, h⟩ := oweCredits_eq s p f; rw [h]
@[simp] theorem oweCredits_power (s : State) (p : Fin 12) (f : Kft) : (oweCredits s p f).power = s.power := by obtain ⟨_, h⟩ := oweCredits_eq s p f; rw [h]
@[simp] theorem oweCredits_flash (s : State) (p : Fin 12) (f : Kft) : (oweCredits s p f).flash = s.flash := by obtain ⟨_, h⟩ := oweCredits_eq s p f; rw [h]
@[simp] theorem oweCredits_fw (s : State) (p : Fin 12) (f : Kft) : (oweCredits s p f).fw = s.fw := by obtain ⟨_, h⟩ := oweCredits_eq s p f; rw [h]
@[simp] theorem oweCredits_mbox (s : State) (p : Fin 12) (f : Kft) : (oweCredits s p f).mbox = s.mbox := by obtain ⟨_, h⟩ := oweCredits_eq s p f; rw [h]
@[simp] theorem oweCredits_units (s : State) (p : Fin 12) (f : Kft) : (oweCredits s p f).units = s.units := by obtain ⟨_, h⟩ := oweCredits_eq s p f; rw [h]
@[simp] theorem oweCredits_mem (s : State) (p : Fin 12) (f : Kft) : (oweCredits s p f).mem = s.mem := by obtain ⟨_, h⟩ := oweCredits_eq s p f; rw [h]
@[simp] theorem oweCredits_pstate (s : State) (p : Fin 12) (f : Kft) : (oweCredits s p f).pstate = s.pstate := by obtain ⟨_, h⟩ := oweCredits_eq s p f; rw [h]
@[simp] theorem oweCredits_program (s : State) (p : Fin 12) (f : Kft) : (oweCredits s p f).program = s.program := by obtain ⟨_, h⟩ := oweCredits_eq s p f; rw [h]
@[simp] theorem oweCredits_step (s : State) (p : Fin 12) (f : Kft) : (oweCredits s p f).step = s.step := by obtain ⟨_, h⟩ := oweCredits_eq s p f; rw [h]
@[simp] theorem oweCredits_seqs (s : State) (p : Fin 12) (f : Kft) : (oweCredits s p f).seqs = s.seqs := by obtain ⟨_, h⟩ := oweCredits_eq s p f; rw [h]
@[simp] theorem oweCredits_gates (s : State) (p : Fin 12) (f : Kft) : (oweCredits s p f).gates = s.gates := by obtain ⟨_, h⟩ := oweCredits_eq s p f; rw [h]
@[simp] theorem oweCredits_beat (s : State) (p : Fin 12) (f : Kft) : (oweCredits s p f).beat = s.beat := by obtain ⟨_, h⟩ := oweCredits_eq s p f; rw [h]
@[simp] theorem oweCredits_scales (s : State) (p : Fin 12) (f : Kft) : (oweCredits s p f).scales = s.scales := by obtain ⟨_, h⟩ := oweCredits_eq s p f; rw [h]
@[simp] theorem oweCredits_versions (s : State) (p : Fin 12) (f : Kft) : (oweCredits s p f).versions = s.versions := by obtain ⟨_, h⟩ := oweCredits_eq s p f; rw [h]
@[simp] theorem oweCredits_reduce (s : State) (p : Fin 12) (f : Kft) : (oweCredits s p f).reduce = s.reduce := by obtain ⟨_, h⟩ := oweCredits_eq s p f; rw [h]
@[simp] theorem oweCredits_side (s : State) (p : Fin 12) (f : Kft) : (oweCredits s p f).side = s.side := by obtain ⟨_, h⟩ := oweCredits_eq s p f; rw [h]
@[simp] theorem oweCredits_ingest (s : State) (p : Fin 12) (f : Kft) : (oweCredits s p f).ingest = s.ingest := by obtain ⟨_, h⟩ := oweCredits_eq s p f; rw [h]
@[simp] theorem oweCredits_journal (s : State) (p : Fin 12) (f : Kft) : (oweCredits s p f).journal = s.journal := by obtain ⟨_, h⟩ := oweCredits_eq s p f; rw [h]
@[simp] theorem oweCredits_spdm (s : State) (p : Fin 12) (f : Kft) : (oweCredits s p f).spdm = s.spdm := by obtain ⟨_, h⟩ := oweCredits_eq s p f; rw [h]
@[simp] theorem oweCredits_counts (s : State) (p : Fin 12) (f : Kft) : (oweCredits s p f).counts = s.counts := by obtain ⟨_, h⟩ := oweCredits_eq s p f; rw [h]
@[simp] theorem oweCredits_out (s : State) (p : Fin 12) (f : Kft) : (oweCredits s p f).out = s.out := by obtain ⟨_, h⟩ := oweCredits_eq s p f; rw [h]

@[simp] theorem rollCounts_pending (s : State) : (rollCounts s).pending = s.pending := rfl
@[simp] theorem rollCounts_freeIdx (s : State) : (rollCounts s).freeIdx = s.freeIdx := rfl
@[simp] theorem rollCounts_timebase (s : State) : (rollCounts s).timebase = s.timebase := rfl
@[simp] theorem rollCounts_power (s : State) : (rollCounts s).power = s.power := rfl
@[simp] theorem rollCounts_flash (s : State) : (rollCounts s).flash = s.flash := rfl
@[simp] theorem rollCounts_fw (s : State) : (rollCounts s).fw = s.fw := rfl
@[simp] theorem rollCounts_mbox (s : State) : (rollCounts s).mbox = s.mbox := rfl
@[simp] theorem rollCounts_units (s : State) : (rollCounts s).units = s.units := rfl
@[simp] theorem rollCounts_mem (s : State) : (rollCounts s).mem = s.mem := rfl
@[simp] theorem rollCounts_pstate (s : State) : (rollCounts s).pstate = s.pstate := rfl
@[simp] theorem rollCounts_program (s : State) : (rollCounts s).program = s.program := rfl
@[simp] theorem rollCounts_step (s : State) : (rollCounts s).step = s.step := rfl
@[simp] theorem rollCounts_seqs (s : State) : (rollCounts s).seqs = s.seqs := rfl
@[simp] theorem rollCounts_gates (s : State) : (rollCounts s).gates = s.gates := rfl
@[simp] theorem rollCounts_beat (s : State) : (rollCounts s).beat = s.beat := rfl
@[simp] theorem rollCounts_scales (s : State) : (rollCounts s).scales = s.scales := rfl
@[simp] theorem rollCounts_versions (s : State) : (rollCounts s).versions = s.versions := rfl
@[simp] theorem rollCounts_reduce (s : State) : (rollCounts s).reduce = s.reduce := rfl
@[simp] theorem rollCounts_side (s : State) : (rollCounts s).side = s.side := rfl
@[simp] theorem rollCounts_fabric (s : State) : (rollCounts s).fabric = s.fabric := rfl
@[simp] theorem rollCounts_ingest (s : State) : (rollCounts s).ingest = s.ingest := rfl
@[simp] theorem rollCounts_journal (s : State) : (rollCounts s).journal = s.journal := rfl
@[simp] theorem rollCounts_spdm (s : State) : (rollCounts s).spdm = s.spdm := rfl
@[simp] theorem rollCounts_out (s : State) : (rollCounts s).out = s.out := rfl

@[simp] theorem releaseSlots_pending (s : State) : (releaseSlots s).pending = s.pending := rfl
@[simp] theorem releaseSlots_freeIdx (s : State) : (releaseSlots s).freeIdx = s.freeIdx := rfl
@[simp] theorem releaseSlots_timebase (s : State) : (releaseSlots s).timebase = s.timebase := rfl
@[simp] theorem releaseSlots_power (s : State) : (releaseSlots s).power = s.power := rfl
@[simp] theorem releaseSlots_flash (s : State) : (releaseSlots s).flash = s.flash := rfl
@[simp] theorem releaseSlots_fw (s : State) : (releaseSlots s).fw = s.fw := rfl
@[simp] theorem releaseSlots_mbox (s : State) : (releaseSlots s).mbox = s.mbox := rfl
@[simp] theorem releaseSlots_units (s : State) : (releaseSlots s).units = s.units := rfl
@[simp] theorem releaseSlots_mem (s : State) : (releaseSlots s).mem = s.mem := rfl
@[simp] theorem releaseSlots_pstate (s : State) : (releaseSlots s).pstate = s.pstate := rfl
@[simp] theorem releaseSlots_program (s : State) : (releaseSlots s).program = s.program := rfl
@[simp] theorem releaseSlots_step (s : State) : (releaseSlots s).step = s.step := rfl
@[simp] theorem releaseSlots_seqs (s : State) : (releaseSlots s).seqs = s.seqs := rfl
@[simp] theorem releaseSlots_gates (s : State) : (releaseSlots s).gates = s.gates := rfl
@[simp] theorem releaseSlots_beat (s : State) : (releaseSlots s).beat = s.beat := rfl
@[simp] theorem releaseSlots_scales (s : State) : (releaseSlots s).scales = s.scales := rfl
@[simp] theorem releaseSlots_versions (s : State) : (releaseSlots s).versions = s.versions := rfl
@[simp] theorem releaseSlots_reduce (s : State) : (releaseSlots s).reduce = s.reduce := rfl
@[simp] theorem releaseSlots_side (s : State) : (releaseSlots s).side = s.side := rfl
@[simp] theorem releaseSlots_fabric (s : State) : (releaseSlots s).fabric = s.fabric := rfl
@[simp] theorem releaseSlots_journal (s : State) : (releaseSlots s).journal = s.journal := rfl
@[simp] theorem releaseSlots_spdm (s : State) : (releaseSlots s).spdm = s.spdm := rfl
@[simp] theorem releaseSlots_counts (s : State) : (releaseSlots s).counts = s.counts := rfl
@[simp] theorem releaseSlots_out (s : State) : (releaseSlots s).out = s.out := rfl

@[simp] theorem rewind_pending (s : State) : (rewind s).pending = s.pending := rfl
@[simp] theorem rewind_freeIdx (s : State) : (rewind s).freeIdx = s.freeIdx := rfl
@[simp] theorem rewind_timebase (s : State) : (rewind s).timebase = s.timebase := rfl
@[simp] theorem rewind_power (s : State) : (rewind s).power = s.power := rfl
@[simp] theorem rewind_flash (s : State) : (rewind s).flash = s.flash := rfl
@[simp] theorem rewind_fw (s : State) : (rewind s).fw = s.fw := rfl
@[simp] theorem rewind_mbox (s : State) : (rewind s).mbox = s.mbox := rfl
@[simp] theorem rewind_units (s : State) : (rewind s).units = s.units := rfl
@[simp] theorem rewind_mem (s : State) : (rewind s).mem = s.mem := rfl
@[simp] theorem rewind_pstate (s : State) : (rewind s).pstate = s.pstate := rfl
@[simp] theorem rewind_program (s : State) : (rewind s).program = s.program := rfl
@[simp] theorem rewind_step (s : State) : (rewind s).step = s.step := rfl
@[simp] theorem rewind_gates (s : State) : (rewind s).gates = s.gates := rfl
@[simp] theorem rewind_beat (s : State) : (rewind s).beat = s.beat := rfl
@[simp] theorem rewind_scales (s : State) : (rewind s).scales = s.scales := rfl
@[simp] theorem rewind_versions (s : State) : (rewind s).versions = s.versions := rfl
@[simp] theorem rewind_side (s : State) : (rewind s).side = s.side := rfl
@[simp] theorem rewind_fabric (s : State) :
    (rewind s).fabric = { s.fabric with arrivals := s.fabric.arrivals.filter fun a => decide (0x10000 ≤ a.1) } := rfl
@[simp] theorem rewind_ingest (s : State) : (rewind s).ingest = s.ingest := rfl
@[simp] theorem rewind_journal (s : State) : (rewind s).journal = s.journal := rfl
@[simp] theorem rewind_spdm (s : State) : (rewind s).spdm = s.spdm := rfl
@[simp] theorem rewind_counts (s : State) : (rewind s).counts = s.counts := rfl
@[simp] theorem rewind_out (s : State) : (rewind s).out = s.out := rfl

@[simp] theorem nextPeriod_pending (s : State) : (nextPeriod s).pending = s.pending := rfl
@[simp] theorem nextPeriod_freeIdx (s : State) : (nextPeriod s).freeIdx = s.freeIdx := rfl
@[simp] theorem nextPeriod_timebase (s : State) : (nextPeriod s).timebase = s.timebase := rfl
@[simp] theorem nextPeriod_power (s : State) : (nextPeriod s).power = s.power := rfl
@[simp] theorem nextPeriod_flash (s : State) : (nextPeriod s).flash = s.flash := rfl
@[simp] theorem nextPeriod_fw (s : State) : (nextPeriod s).fw = s.fw := rfl
@[simp] theorem nextPeriod_mbox (s : State) : (nextPeriod s).mbox = s.mbox := rfl
@[simp] theorem nextPeriod_units (s : State) : (nextPeriod s).units = s.units := rfl
@[simp] theorem nextPeriod_mem (s : State) : (nextPeriod s).mem = s.mem := rfl
@[simp] theorem nextPeriod_pstate (s : State) : (nextPeriod s).pstate = s.pstate := rfl
@[simp] theorem nextPeriod_program (s : State) : (nextPeriod s).program = s.program := rfl
@[simp] theorem nextPeriod_step (s : State) : (nextPeriod s).step = s.step := rfl
@[simp] theorem nextPeriod_seqs (s : State) : (nextPeriod s).seqs = s.seqs := rfl
@[simp] theorem nextPeriod_gates (s : State) : (nextPeriod s).gates = s.gates := rfl
@[simp] theorem nextPeriod_scales (s : State) : (nextPeriod s).scales = s.scales := rfl
@[simp] theorem nextPeriod_versions (s : State) : (nextPeriod s).versions = s.versions := rfl
@[simp] theorem nextPeriod_reduce (s : State) : (nextPeriod s).reduce = s.reduce := rfl
@[simp] theorem nextPeriod_side (s : State) : (nextPeriod s).side = s.side := rfl
@[simp] theorem nextPeriod_fabric (s : State) : (nextPeriod s).fabric = s.fabric := rfl
@[simp] theorem nextPeriod_ingest (s : State) : (nextPeriod s).ingest = s.ingest := rfl
@[simp] theorem nextPeriod_journal (s : State) : (nextPeriod s).journal = s.journal := rfl
@[simp] theorem nextPeriod_spdm (s : State) : (nextPeriod s).spdm = s.spdm := rfl
@[simp] theorem nextPeriod_counts (s : State) : (nextPeriod s).counts = s.counts := rfl
@[simp] theorem nextPeriod_out (s : State) : (nextPeriod s).out = s.out := rfl

@[simp] theorem emit_out (s : State) (o : Output) : (emit s o).out = s.out ++ [o] := rfl
@[simp] theorem drawFree_snd_freeIdx (s : State) : (drawFree s).2.freeIdx = s.freeIdx + 1 := rfl
@[simp] theorem setPort_ports (s : State) (p : Fin 12) (q : Port) : (setPort s p q).fabric.ports = s.fabric.ports.set p q := rfl
@[simp] theorem setPort_rcd (s : State) (p : Fin 12) (q : Port) : (setPort s p q).fabric.rcd = s.fabric.rcd := rfl
@[simp] theorem updPort_rcd (s : State) (p : Fin 12) (f : Port → Port) : (updPort s p f).fabric.rcd = s.fabric.rcd := rfl
@[simp] theorem enqueue_rcd (s : State) (p : Fin 12) (f : Kft) : (enqueue s p f).fabric.rcd = s.fabric.rcd := rfl
@[simp] theorem updPort_port (s : State) (p : Fin 12) (f : Port → Port) :
    (updPort s p f).fabric.ports[p] = f s.fabric.ports[p] := by simp [updPort, setPort]
@[simp] theorem clockTo_now (s : State) (t : Nat) : (clockTo s t).timebase = max s.timebase t := rfl
@[simp] theorem updSeq_seqs (s : State) (u : Nat) (f : SeqUnit → SeqUnit) :
    (updSeq s u f).seqs = s.seqs.map fun q => if q.unit == u then f q else q := rfl

end Sys2Proof.Machine
end

