-- ==== Sys2Proof/Laws/Posts.lean ====
section
/-! SUPPORT. What posting an event, sending a frame and completing a command can change, said once. -/

namespace Sys2Proof.Machine

open Sys2Proof

/-! ### The relation -/

/-- `t` is `s` after outputs, counts, frames put on queues and events put into the event ring or kept: nothing that lies
under the mailbox, no register the host set, no link and no request changes. -/
structure Posts (s t : State) : Prop where
  pending : t.pending = s.pending
  timebase : t.timebase = s.timebase
  power : t.power = s.power
  flash : t.flash = s.flash
  fw : t.fw = s.fw
  units : t.units = s.units
  mem : t.mem = s.mem
  pstate : t.pstate = s.pstate
  program : t.program = s.program
  step : t.step = s.step
  seqs : t.seqs = s.seqs
  gates : t.gates = s.gates
  beat : t.beat = s.beat
  scales : t.scales = s.scales
  versions : t.versions = s.versions
  reduce : t.reduce = s.reduce
  side : t.side = s.side
  ingest : t.ingest = s.ingest
  journal : t.journal = s.journal
  spdm : t.spdm = s.spdm
  freeIdx : t.freeIdx = s.freeIdx
  module : t.mbox.module = s.mbox.module
  mcpUp : t.mbox.mcpUp = s.mbox.mcpUp
  executing : t.mbox.executing = s.mbox.executing
  ringOn : t.mbox.ringOn = s.mbox.ringOn
  ringBase : t.mbox.ringBase = s.mbox.ringBase
  ringSize : t.mbox.ringSize = s.mbox.ringSize
  ringErr : t.mbox.ringErr = s.mbox.ringErr
  eqHead : t.mbox.eqHead = s.mbox.eqHead
  winErr : t.mbox.winErr = s.mbox.winErr
  winCause : t.mbox.winCause = s.mbox.winCause
  winErrAddr : t.mbox.winErrAddr = s.mbox.winErrAddr
  squad : t.mbox.squad = s.mbox.squad
  unreachable : t.mbox.unreachable = s.mbox.unreachable
  proxied : t.mbox.proxied = s.mbox.proxied
  restarts : t.mbox.restarts = s.mbox.restarts
  firstDue : t.mbox.firstDue = s.mbox.firstDue
  lastPath : t.mbox.lastPath = s.mbox.lastPath
  rcd : t.fabric.rcd = s.fabric.rcd
  routes : t.fabric.routes = s.fabric.routes
  nextTid : t.fabric.nextTid = s.fabric.nextTid
  txns : t.fabric.txns = s.fabric.txns
  bulks : t.fabric.bulks = s.fabric.bulks
  arrivals : t.fabric.arrivals = s.fabric.arrivals
  bulkIn : t.fabric.bulkIn = s.fabric.bulkIn
  waiting : t.fabric.waiting = s.fabric.waiting
  heldCredits : t.fabric.heldCredits = s.fabric.heldCredits
  ptp : t.fabric.ptp = s.fabric.ptp
  port : ∀ p : Fin 12, { t.fabric.ports[p] with queues := s.fabric.ports[p].queues } = s.fabric.ports[p]

theorem Posts.refl (s : State) : Posts s s := by constructor <;> intros <;> rfl

theorem Posts.trans {s t u : State} (h : Posts s t) (k : Posts t u) : Posts s u := by
  have hp := fun p => h.port p
  have kp := fun p => k.port p
  constructor
  case port =>
    intro p
    have h1 := hp p; have h2 := kp p
    rw [← h1, ← h2]
  all_goals first
    | exact k.pending.trans h.pending
    | exact k.timebase.trans h.timebase
    | exact k.power.trans h.power
    | exact k.flash.trans h.flash
    | exact k.fw.trans h.fw
    | exact k.units.trans h.units
    | exact k.mem.trans h.mem
    | exact k.pstate.trans h.pstate
    | exact k.program.trans h.program
    | exact k.step.trans h.step
    | exact k.seqs.trans h.seqs
    | exact k.gates.trans h.gates
    | exact k.beat.trans h.beat
    | exact k.scales.trans h.scales
    | exact k.versions.trans h.versions
    | exact k.reduce.trans h.reduce
    | exact k.side.trans h.side
    | exact k.ingest.trans h.ingest
    | exact k.journal.trans h.journal
    | exact k.spdm.trans h.spdm
    | exact k.freeIdx.trans h.freeIdx
    | exact k.module.trans h.module
    | exact k.mcpUp.trans h.mcpUp
    | exact k.executing.trans h.executing
    | exact k.ringOn.trans h.ringOn
    | exact k.ringBase.trans h.ringBase
    | exact k.ringSize.trans h.ringSize
    | exact k.ringErr.trans h.ringErr
    | exact k.eqHead.trans h.eqHead
    | exact k.winErr.trans h.winErr
    | exact k.winCause.trans h.winCause
    | exact k.winErrAddr.trans h.winErrAddr
    | exact k.squad.trans h.squad
    | exact k.unreachable.trans h.unreachable
    | exact k.proxied.trans h.proxied
    | exact k.restarts.trans h.restarts
    | exact k.firstDue.trans h.firstDue
    | exact k.lastPath.trans h.lastPath
    | exact k.rcd.trans h.rcd
    | exact k.routes.trans h.routes
    | exact k.nextTid.trans h.nextTid
    | exact k.txns.trans h.txns
    | exact k.bulks.trans h.bulks
    | exact k.arrivals.trans h.arrivals
    | exact k.bulkIn.trans h.bulkIn
    | exact k.waiting.trans h.waiting
    | exact k.heldCredits.trans h.heldCredits
    | exact k.ptp.trans h.ptp

theorem Posts.same {s t : State} (h : Posts s t) : SameUnder s t :=
  ⟨⟨h.pstate, h.program, h.step, h.seqs, h.gates, h.beat, h.scales, h.versions, h.reduce, h.side, h.ingest, h.journal⟩,
    h.mem, h.units, h.power, h.flash, h.fw, h.spdm, h.timebase, h.pending⟩

/-- A fold of steps that each only post only posts. -/
theorem Posts.foldl {α : Type} (f : State → α → State) (h : ∀ s a, Posts s (f s a)) :
    ∀ (l : List α) (s : State), Posts s (l.foldl f s)
  | [], s => Posts.refl s
  | a :: l, s => (h s a).trans (Posts.foldl f h l (f s a))

/-! ### The operations -/

theorem emit_posts (s : State) (o : Output) : Posts s (emit s o) := by constructor <;> intros <;> rfl

theorem bump_posts (s : State) (id inst tensor n : Nat) : Posts s (bump s id inst tensor n) := by
  unfold bump
  split
  · exact Posts.refl s
  · constructor <;> intros <;> rfl

theorem enqueue_posts (s : State) (p : Fin 12) (f : Kft) : Posts s (enqueue s p f) := by
  constructor
  case port =>
    intro k
    simp only [enqueue]
    by_cases h : p = k
    · subst h; simp
    · have : p.val ≠ k.val := fun e => h (Fin.ext e)
      simp [this]
  all_goals rfl

theorem sendFrame_posts (s : State) (f : Kft) : Posts s (sendFrame s f) := by
  unfold sendFrame
  split
  · exact Posts.refl s
  · split
    · exact Posts.refl s
    · exact enqueue_posts _ _ _

theorem sendOn_posts (s : State) (p : Fin 12) (f : Kft) : Posts s (sendOn s p f) := by
  unfold sendOn
  split
  · exact Posts.refl s
  · split
    · exact enqueue_posts _ _ _
    · exact Posts.refl s

theorem linkControl_posts (s : State) (p : Fin 12) (a b : Nat) (f : Byte) : Posts s (linkControl s p a b f) :=
  sendOn_posts _ _ _

theorem writeEntry_posts (s : State) (e : Event) : Posts s (writeEntry s e) := by constructor <;> intros <;> rfl

theorem keepEvent_posts (s : State) (e : Event) : Posts s (keepEvent s e) := by
  unfold keepEvent
  split
  · constructor <;> intros <;> rfl
  · split
    · exact Posts.refl s
    · refine Posts.trans ?_ (bump_posts _ _ _ _ _)
      constructor <;> intros <;> rfl

theorem proxyEvents_posts (s : State) (es : List Event) : Posts s (proxyEvents s es) := sendFrame_posts _ _

theorem deliverEvent_posts (s : State) (e : Event) : Posts s (deliverEvent s e) := by
  unfold deliverEvent
  split
  · exact Posts.refl s
  · split
    · exact writeEntry_posts _ _
    · exact keepEvent_posts _ _

theorem post_posts (s : State) (code : Nat) (payload : List Byte) : Posts s (post s code payload) := by
  unfold post
  split
  · exact Posts.refl s
  · have h : ∀ n, Posts s { s with mbox := { s.mbox with evtSeq := n } } := by intro n; constructor <;> intros <;> rfl
    dsimp only
    split
    · split
      · exact h _
      · exact (h _).trans (proxyEvents_posts _ _)
    · exact (h _).trans (deliverEvent_posts _ _)

theorem discard_posts (s : State) (p reason n : Nat) : Posts s (discard s p reason n) := bump_posts _ _ _ _ _

/-! ### Fields after a post -/

section
variable (s : State) (code : Nat) (payload : List Byte)
@[simp] theorem post_pending : (post s code payload).pending = s.pending := (post_posts s code payload).pending
@[simp] theorem post_timebase : (post s code payload).timebase = s.timebase := (post_posts s code payload).timebase
@[simp] theorem post_power : (post s code payload).power = s.power := (post_posts s code payload).power
@[simp] theorem post_flash : (post s code payload).flash = s.flash := (post_posts s code payload).flash
@[simp] theorem post_fw : (post s code payload).fw = s.fw := (post_posts s code payload).fw
@[simp] theorem post_units : (post s code payload).units = s.units := (post_posts s code payload).units
@[simp] theorem post_mem : (post s code payload).mem = s.mem := (post_posts s code payload).mem
@[simp] theorem post_pstate : (post s code payload).pstate = s.pstate := (post_posts s code payload).pstate
@[simp] theorem post_program : (post s code payload).program = s.program := (post_posts s code payload).program
@[simp] theorem post_step : (post s code payload).step = s.step := (post_posts s code payload).step
@[simp] theorem post_seqs : (post s code payload).seqs = s.seqs := (post_posts s code payload).seqs
@[simp] theorem post_gates : (post s code payload).gates = s.gates := (post_posts s code payload).gates
@[simp] theorem post_beat : (post s code payload).beat = s.beat := (post_posts s code payload).beat
@[simp] theorem post_scales : (post s code payload).scales = s.scales := (post_posts s code payload).scales
@[simp] theorem post_versions : (post s code payload).versions = s.versions := (post_posts s code payload).versions
@[simp] theorem post_reduce : (post s code payload).reduce = s.reduce := (post_posts s code payload).reduce
@[simp] theorem post_side : (post s code payload).side = s.side := (post_posts s code payload).side
@[simp] theorem post_ingest : (post s code payload).ingest = s.ingest := (post_posts s code payload).ingest
@[simp] theorem post_journal : (post s code payload).journal = s.journal := (post_posts s code payload).journal
@[simp] theorem post_spdm : (post s code payload).spdm = s.spdm := (post_posts s code payload).spdm
@[simp] theorem post_freeIdx : (post s code payload).freeIdx = s.freeIdx := (post_posts s code payload).freeIdx
@[simp] theorem post_module : (post s code payload).mbox.module = s.mbox.module := (post_posts s code payload).module
@[simp] theorem post_mcpUp : (post s code payload).mbox.mcpUp = s.mbox.mcpUp := (post_posts s code payload).mcpUp
@[simp] theorem post_executing : (post s code payload).mbox.executing = s.mbox.executing := (post_posts s code payload).executing
@[simp] theorem post_ringOn : (post s code payload).mbox.ringOn = s.mbox.ringOn := (post_posts s code payload).ringOn
@[simp] theorem post_ringBase : (post s code payload).mbox.ringBase = s.mbox.ringBase := (post_posts s code payload).ringBase
@[simp] theorem post_ringSize : (post s code payload).mbox.ringSize = s.mbox.ringSize := (post_posts s code payload).ringSize
@[simp] theorem post_ringErr : (post s code payload).mbox.ringErr = s.mbox.ringErr := (post_posts s code payload).ringErr
@[simp] theorem post_eqHead : (post s code payload).mbox.eqHead = s.mbox.eqHead := (post_posts s code payload).eqHead
@[simp] theorem post_winErr : (post s code payload).mbox.winErr = s.mbox.winErr := (post_posts s code payload).winErr
@[simp] theorem post_winCause : (post s code payload).mbox.winCause = s.mbox.winCause := (post_posts s code payload).winCause
@[simp] theorem post_winErrAddr : (post s code payload).mbox.winErrAddr = s.mbox.winErrAddr := (post_posts s code payload).winErrAddr
@[simp] theorem post_squad : (post s code payload).mbox.squad = s.mbox.squad := (post_posts s code payload).squad
@[simp] theorem post_unreachable : (post s code payload).mbox.unreachable = s.mbox.unreachable := (post_posts s code payload).unreachable
@[simp] theorem post_proxied : (post s code payload).mbox.proxied = s.mbox.proxied := (post_posts s code payload).proxied
@[simp] theorem post_restarts : (post s code payload).mbox.restarts = s.mbox.restarts := (post_posts s code payload).restarts
@[simp] theorem post_firstDue : (post s code payload).mbox.firstDue = s.mbox.firstDue := (post_posts s code payload).firstDue
@[simp] theorem post_lastPath : (post s code payload).mbox.lastPath = s.mbox.lastPath := (post_posts s code payload).lastPath
@[simp] theorem post_rcd : (post s code payload).fabric.rcd = s.fabric.rcd := (post_posts s code payload).rcd
@[simp] theorem post_routes : (post s code payload).fabric.routes = s.fabric.routes := (post_posts s code payload).routes
@[simp] theorem post_nextTid : (post s code payload).fabric.nextTid = s.fabric.nextTid := (post_posts s code payload).nextTid
@[simp] theorem post_txns : (post s code payload).fabric.txns = s.fabric.txns := (post_posts s code payload).txns
@[simp] theorem post_bulks : (post s code payload).fabric.bulks = s.fabric.bulks := (post_posts s code payload).bulks
@[simp] theorem post_arrivals : (post s code payload).fabric.arrivals = s.fabric.arrivals := (post_posts s code payload).arrivals
@[simp] theorem post_bulkIn : (post s code payload).fabric.bulkIn = s.fabric.bulkIn := (post_posts s code payload).bulkIn
@[simp] theorem post_waiting : (post s code payload).fabric.waiting = s.fabric.waiting := (post_posts s code payload).waiting
@[simp] theorem post_heldCredits : (post s code payload).fabric.heldCredits = s.fabric.heldCredits := (post_posts s code payload).heldCredits
@[simp] theorem post_ptp : (post s code payload).fabric.ptp = s.fabric.ptp := (post_posts s code payload).ptp
end

section
variable (s : State) (id inst tensor n : Nat)
@[simp] theorem bump_pending : (bump s id inst tensor n).pending = s.pending := (bump_posts s id inst tensor n).pending
@[simp] theorem bump_timebase : (bump s id inst tensor n).timebase = s.timebase := (bump_posts s id inst tensor n).timebase
@[simp] theorem bump_power : (bump s id inst tensor n).power = s.power := (bump_posts s id inst tensor n).power
@[simp] theorem bump_flash : (bump s id inst tensor n).flash = s.flash := (bump_posts s id inst tensor n).flash
@[simp] theorem bump_fw : (bump s id inst tensor n).fw = s.fw := (bump_posts s id inst tensor n).fw
@[simp] theorem bump_units : (bump s id inst tensor n).units = s.units := (bump_posts s id inst tensor n).units
@[simp] theorem bump_mem : (bump s id inst tensor n).mem = s.mem := (bump_posts s id inst tensor n).mem
@[simp] theorem bump_pstate : (bump s id inst tensor n).pstate = s.pstate := (bump_posts s id inst tensor n).pstate
@[simp] theorem bump_program : (bump s id inst tensor n).program = s.program := (bump_posts s id inst tensor n).program
@[simp] theorem bump_step : (bump s id inst tensor n).step = s.step := (bump_posts s id inst tensor n).step
@[simp] theorem bump_seqs : (bump s id inst tensor n).seqs = s.seqs := (bump_posts s id inst tensor n).seqs
@[simp] theorem bump_gates : (bump s id inst tensor n).gates = s.gates := (bump_posts s id inst tensor n).gates
@[simp] theorem bump_beat : (bump s id inst tensor n).beat = s.beat := (bump_posts s id inst tensor n).beat
@[simp] theorem bump_scales : (bump s id inst tensor n).scales = s.scales := (bump_posts s id inst tensor n).scales
@[simp] theorem bump_versions : (bump s id inst tensor n).versions = s.versions := (bump_posts s id inst tensor n).versions
@[simp] theorem bump_reduce : (bump s id inst tensor n).reduce = s.reduce := (bump_posts s id inst tensor n).reduce
@[simp] theorem bump_side : (bump s id inst tensor n).side = s.side := (bump_posts s id inst tensor n).side
@[simp] theorem bump_ingest : (bump s id inst tensor n).ingest = s.ingest := (bump_posts s id inst tensor n).ingest
@[simp] theorem bump_journal : (bump s id inst tensor n).journal = s.journal := (bump_posts s id inst tensor n).journal
@[simp] theorem bump_spdm : (bump s id inst tensor n).spdm = s.spdm := (bump_posts s id inst tensor n).spdm
@[simp] theorem bump_freeIdx : (bump s id inst tensor n).freeIdx = s.freeIdx := (bump_posts s id inst tensor n).freeIdx
@[simp] theorem bump_fabric : (bump s id inst tensor n).fabric = s.fabric := by unfold bump; split <;> rfl
@[simp] theorem bump_mbox : (bump s id inst tensor n).mbox = s.mbox := by unfold bump; split <;> rfl
@[simp] theorem bump_out : (bump s id inst tensor n).out = s.out := by unfold bump; split <;> rfl
end

section
variable (s : State) (f : Kft)
@[simp] theorem sendFrame_pending : (sendFrame s f).pending = s.pending := (sendFrame_posts s f).pending
@[simp] theorem sendFrame_timebase : (sendFrame s f).timebase = s.timebase := (sendFrame_posts s f).timebase
@[simp] theorem sendFrame_power : (sendFrame s f).power = s.power := (sendFrame_posts s f).power
@[simp] theorem sendFrame_flash : (sendFrame s f).flash = s.flash := (sendFrame_posts s f).flash
@[simp] theorem sendFrame_fw : (sendFrame s f).fw = s.fw := (sendFrame_posts s f).fw
@[simp] theorem sendFrame_units : (sendFrame s f).units = s.units := (sendFrame_posts s f).units
@[simp] theorem sendFrame_mem : (sendFrame s f).mem = s.mem := (sendFrame_posts s f).mem
@[simp] theorem sendFrame_pstate : (sendFrame s f).pstate = s.pstate := (sendFrame_posts s f).pstate
@[simp] theorem sendFrame_program : (sendFrame s f).program = s.program := (sendFrame_posts s f).program
@[simp] theorem sendFrame_step : (sendFrame s f).step = s.step := (sendFrame_posts s f).step
@[simp] theorem sendFrame_seqs : (sendFrame s f).seqs = s.seqs := (sendFrame_posts s f).seqs
@[simp] theorem sendFrame_gates : (sendFrame s f).gates = s.gates := (sendFrame_posts s f).gates
@[simp] theorem sendFrame_beat : (sendFrame s f).beat = s.beat := (sendFrame_posts s f).beat
@[simp] theorem sendFrame_scales : (sendFrame s f).scales = s.scales := (sendFrame_posts s f).scales
@[simp] theorem sendFrame_versions : (sendFrame s f).versions = s.versions := (sendFrame_posts s f).versions
@[simp] theorem sendFrame_reduce : (sendFrame s f).reduce = s.reduce := (sendFrame_posts s f).reduce
@[simp] theorem sendFrame_side : (sendFrame s f).side = s.side := (sendFrame_posts s f).side
@[simp] theorem sendFrame_ingest : (sendFrame s f).ingest = s.ingest := (sendFrame_posts s f).ingest
@[simp] theorem sendFrame_journal : (sendFrame s f).journal = s.journal := (sendFrame_posts s f).journal
@[simp] theorem sendFrame_spdm : (sendFrame s f).spdm = s.spdm := (sendFrame_posts s f).spdm
@[simp] theorem sendFrame_freeIdx : (sendFrame s f).freeIdx = s.freeIdx := (sendFrame_posts s f).freeIdx
@[simp] theorem sendFrame_out : (sendFrame s f).out = s.out := by
  unfold sendFrame
  split
  · rfl
  · split <;> rfl
end

/-! ### Completions -/

theorem deliverCompletion_posts (s : State) (e : Event) : Posts s (deliverCompletion s e) := by
  unfold deliverCompletion
  split
  · exact writeEntry_posts _ _
  · split
    · constructor <;> intros <;> rfl
    · exact keepEvent_posts _ _

/-- The state in which a command has left the list of executing commands. -/
def leave (s : State) (c : Cmd) : State :=
  { s with mbox := { s.mbox with executing := s.mbox.executing.filter fun e => e.cmd != c } }

/-- A completion leaves the list of executing commands and otherwise changes no more than a post does. -/
theorem complete_posts (s : State) (c : Cmd) (status result v1 v2 : Nat) :
    Posts (leave s c) (complete s c status result v1 v2) := by
  unfold complete leave
  dsimp only
  split
  · exact Posts.refl _
  · refine Posts.trans (t := { s with mbox := { s.mbox with
        executing := s.mbox.executing.filter (fun e => e.cmd != c), evtSeq := s.mbox.evtSeq + 1 } }) ?_ ?_
    · constructor <;> intros <;> rfl
    · split
      · exact deliverCompletion_posts _ _
      · exact proxyEvents_posts _ _
      · exact emit_posts _ _

section
variable (s : State) (c : Cmd) (status result v1 v2 : Nat)
@[simp] theorem complete_pending : (complete s c status result v1 v2).pending = s.pending := (complete_posts s c status result v1 v2).pending
@[simp] theorem complete_timebase : (complete s c status result v1 v2).timebase = s.timebase := (complete_posts s c status result v1 v2).timebase
@[simp] theorem complete_power : (complete s c status result v1 v2).power = s.power := (complete_posts s c status result v1 v2).power
@[simp] theorem complete_flash : (complete s c status result v1 v2).flash = s.flash := (complete_posts s c status result v1 v2).flash
@[simp] theorem complete_fw : (complete s c status result v1 v2).fw = s.fw := (complete_posts s c status result v1 v2).fw
@[simp] theorem complete_units : (complete s c status result v1 v2).units = s.units := (complete_posts s c status result v1 v2).units
@[simp] theorem complete_mem : (complete s c status result v1 v2).mem = s.mem := (complete_posts s c status result v1 v2).mem
@[simp] theorem complete_pstate : (complete s c status result v1 v2).pstate = s.pstate := (complete_posts s c status result v1 v2).pstate
@[simp] theorem complete_program : (complete s c status result v1 v2).program = s.program := (complete_posts s c status result v1 v2).program
@[simp] theorem complete_step : (complete s c status result v1 v2).step = s.step := (complete_posts s c status result v1 v2).step
@[simp] theorem complete_seqs : (complete s c status result v1 v2).seqs = s.seqs := (complete_posts s c status result v1 v2).seqs
@[simp] theorem complete_gates : (complete s c status result v1 v2).gates = s.gates := (complete_posts s c status result v1 v2).gates
@[simp] theorem complete_beat : (complete s c status result v1 v2).beat = s.beat := (complete_posts s c status result v1 v2).beat
@[simp] theorem complete_scales : (complete s c status result v1 v2).scales = s.scales := (complete_posts s c status result v1 v2).scales
@[simp] theorem complete_versions : (complete s c status result v1 v2).versions = s.versions := (complete_posts s c status result v1 v2).versions
@[simp] theorem complete_reduce : (complete s c status result v1 v2).reduce = s.reduce := (complete_posts s c status result v1 v2).reduce
@[simp] theorem complete_side : (complete s c status result v1 v2).side = s.side := (complete_posts s c status result v1 v2).side
@[simp] theorem complete_ingest : (complete s c status result v1 v2).ingest = s.ingest := (complete_posts s c status result v1 v2).ingest
@[simp] theorem complete_journal : (complete s c status result v1 v2).journal = s.journal := (complete_posts s c status result v1 v2).journal
@[simp] theorem complete_spdm : (complete s c status result v1 v2).spdm = s.spdm := (complete_posts s c status result v1 v2).spdm
@[simp] theorem complete_freeIdx : (complete s c status result v1 v2).freeIdx = s.freeIdx := (complete_posts s c status result v1 v2).freeIdx
@[simp] theorem complete_module : (complete s c status result v1 v2).mbox.module = s.mbox.module := (complete_posts s c status result v1 v2).module
@[simp] theorem complete_mcpUp : (complete s c status result v1 v2).mbox.mcpUp = s.mbox.mcpUp := (complete_posts s c status result v1 v2).mcpUp
@[simp] theorem complete_ringOn : (complete s c status result v1 v2).mbox.ringOn = s.mbox.ringOn := (complete_posts s c status result v1 v2).ringOn
@[simp] theorem complete_ringBase : (complete s c status result v1 v2).mbox.ringBase = s.mbox.ringBase := (complete_posts s c status result v1 v2).ringBase
@[simp] theorem complete_ringSize : (complete s c status result v1 v2).mbox.ringSize = s.mbox.ringSize := (complete_posts s c status result v1 v2).ringSize
@[simp] theorem complete_ringErr : (complete s c status result v1 v2).mbox.ringErr = s.mbox.ringErr := (complete_posts s c status result v1 v2).ringErr
@[simp] theorem complete_eqHead : (complete s c status result v1 v2).mbox.eqHead = s.mbox.eqHead := (complete_posts s c status result v1 v2).eqHead
@[simp] theorem complete_winErr : (complete s c status result v1 v2).mbox.winErr = s.mbox.winErr := (complete_posts s c status result v1 v2).winErr
@[simp] theorem complete_winCause : (complete s c status result v1 v2).mbox.winCause = s.mbox.winCause := (complete_posts s c status result v1 v2).winCause
@[simp] theorem complete_winErrAddr : (complete s c status result v1 v2).mbox.winErrAddr = s.mbox.winErrAddr := (complete_posts s c status result v1 v2).winErrAddr
@[simp] theorem complete_squad : (complete s c status result v1 v2).mbox.squad = s.mbox.squad := (complete_posts s c status result v1 v2).squad
@[simp] theorem complete_unreachable : (complete s c status result v1 v2).mbox.unreachable = s.mbox.unreachable := (complete_posts s c status result v1 v2).unreachable
@[simp] theorem complete_proxied : (complete s c status result v1 v2).mbox.proxied = s.mbox.proxied := (complete_posts s c status result v1 v2).proxied
@[simp] theorem complete_restarts : (complete s c status result v1 v2).mbox.restarts = s.mbox.restarts := (complete_posts s c status result v1 v2).restarts
@[simp] theorem complete_firstDue : (complete s c status result v1 v2).mbox.firstDue = s.mbox.firstDue := (complete_posts s c status result v1 v2).firstDue
@[simp] theorem complete_lastPath : (complete s c status result v1 v2).mbox.lastPath = s.mbox.lastPath := (complete_posts s c status result v1 v2).lastPath
@[simp] theorem complete_rcd : (complete s c status result v1 v2).fabric.rcd = s.fabric.rcd := (complete_posts s c status result v1 v2).rcd
@[simp] theorem complete_routes : (complete s c status result v1 v2).fabric.routes = s.fabric.routes := (complete_posts s c status result v1 v2).routes
@[simp] theorem complete_nextTid : (complete s c status result v1 v2).fabric.nextTid = s.fabric.nextTid := (complete_posts s c status result v1 v2).nextTid
@[simp] theorem complete_txns : (complete s c status result v1 v2).fabric.txns = s.fabric.txns := (complete_posts s c status result v1 v2).txns
@[simp] theorem complete_bulks : (complete s c status result v1 v2).fabric.bulks = s.fabric.bulks := (complete_posts s c status result v1 v2).bulks
@[simp] theorem complete_arrivals : (complete s c status result v1 v2).fabric.arrivals = s.fabric.arrivals := (complete_posts s c status result v1 v2).arrivals
@[simp] theorem complete_bulkIn : (complete s c status result v1 v2).fabric.bulkIn = s.fabric.bulkIn := (complete_posts s c status result v1 v2).bulkIn
@[simp] theorem complete_waiting : (complete s c status result v1 v2).fabric.waiting = s.fabric.waiting := (complete_posts s c status result v1 v2).waiting
@[simp] theorem complete_heldCredits : (complete s c status result v1 v2).fabric.heldCredits = s.fabric.heldCredits := (complete_posts s c status result v1 v2).heldCredits
@[simp] theorem complete_ptp : (complete s c status result v1 v2).fabric.ptp = s.fabric.ptp := (complete_posts s c status result v1 v2).ptp
@[simp] theorem complete_executing : (complete s c status result v1 v2).mbox.executing = s.mbox.executing.filter fun e => e.cmd != c := (complete_posts s c status result v1 v2).executing
@[simp] theorem done_pending : (done s c status).pending = s.pending := (complete_posts s c status 0 0 0).pending
@[simp] theorem done_timebase : (done s c status).timebase = s.timebase := (complete_posts s c status 0 0 0).timebase
@[simp] theorem done_power : (done s c status).power = s.power := (complete_posts s c status 0 0 0).power
@[simp] theorem done_flash : (done s c status).flash = s.flash := (complete_posts s c status 0 0 0).flash
@[simp] theorem done_fw : (done s c status).fw = s.fw := (complete_posts s c status 0 0 0).fw
@[simp] theorem done_units : (done s c status).units = s.units := (complete_posts s c status 0 0 0).units
@[simp] theorem done_mem : (done s c status).mem = s.mem := (complete_posts s c status 0 0 0).mem
@[simp] theorem done_pstate : (done s c status).pstate = s.pstate := (complete_posts s c status 0 0 0).pstate
@[simp] theorem done_program : (done s c status).program = s.program := (complete_posts s c status 0 0 0).program
@[simp] theorem done_step : (done s c status).step = s.step := (complete_posts s c status 0 0 0).step
@[simp] theorem done_seqs : (done s c status).seqs = s.seqs := (complete_posts s c status 0 0 0).seqs
@[simp] theorem done_gates : (done s c status).gates = s.gates := (complete_posts s c status 0 0 0).gates
@[simp] theorem done_beat : (done s c status).beat = s.beat := (complete_posts s c status 0 0 0).beat
@[simp] theorem done_scales : (done s c status).scales = s.scales := (complete_posts s c status 0 0 0).scales
@[simp] theorem done_versions : (done s c status).versions = s.versions := (complete_posts s c status 0 0 0).versions
@[simp] theorem done_reduce : (done s c status).reduce = s.reduce := (complete_posts s c status 0 0 0).reduce
@[simp] theorem done_side : (done s c status).side = s.side := (complete_posts s c status 0 0 0).side
@[simp] theorem done_ingest : (done s c status).ingest = s.ingest := (complete_posts s c status 0 0 0).ingest
@[simp] theorem done_journal : (done s c status).journal = s.journal := (complete_posts s c status 0 0 0).journal
@[simp] theorem done_spdm : (done s c status).spdm = s.spdm := (complete_posts s c status 0 0 0).spdm
@[simp] theorem done_freeIdx : (done s c status).freeIdx = s.freeIdx := (complete_posts s c status 0 0 0).freeIdx
@[simp] theorem done_module : (done s c status).mbox.module = s.mbox.module := (complete_posts s c status 0 0 0).module
@[simp] theorem done_mcpUp : (done s c status).mbox.mcpUp = s.mbox.mcpUp := (complete_posts s c status 0 0 0).mcpUp
@[simp] theorem done_ringOn : (done s c status).mbox.ringOn = s.mbox.ringOn := (complete_posts s c status 0 0 0).ringOn
@[simp] theorem done_ringBase : (done s c status).mbox.ringBase = s.mbox.ringBase := (complete_posts s c status 0 0 0).ringBase
@[simp] theorem done_ringSize : (done s c status).mbox.ringSize = s.mbox.ringSize := (complete_posts s c status 0 0 0).ringSize
@[simp] theorem done_ringErr : (done s c status).mbox.ringErr = s.mbox.ringErr := (complete_posts s c status 0 0 0).ringErr
@[simp] theorem done_eqHead : (done s c status).mbox.eqHead = s.mbox.eqHead := (complete_posts s c status 0 0 0).eqHead
@[simp] theorem done_winErr : (done s c status).mbox.winErr = s.mbox.winErr := (complete_posts s c status 0 0 0).winErr
@[simp] theorem done_winCause : (done s c status).mbox.winCause = s.mbox.winCause := (complete_posts s c status 0 0 0).winCause
@[simp] theorem done_winErrAddr : (done s c status).mbox.winErrAddr = s.mbox.winErrAddr := (complete_posts s c status 0 0 0).winErrAddr
@[simp] theorem done_squad : (done s c status).mbox.squad = s.mbox.squad := (complete_posts s c status 0 0 0).squad
@[simp] theorem done_unreachable : (done s c status).mbox.unreachable = s.mbox.unreachable := (complete_posts s c status 0 0 0).unreachable
@[simp] theorem done_proxied : (done s c status).mbox.proxied = s.mbox.proxied := (complete_posts s c status 0 0 0).proxied
@[simp] theorem done_restarts : (done s c status).mbox.restarts = s.mbox.restarts := (complete_posts s c status 0 0 0).restarts
@[simp] theorem done_firstDue : (done s c status).mbox.firstDue = s.mbox.firstDue := (complete_posts s c status 0 0 0).firstDue
@[simp] theorem done_lastPath : (done s c status).mbox.lastPath = s.mbox.lastPath := (complete_posts s c status 0 0 0).lastPath
@[simp] theorem done_rcd : (done s c status).fabric.rcd = s.fabric.rcd := (complete_posts s c status 0 0 0).rcd
@[simp] theorem done_routes : (done s c status).fabric.routes = s.fabric.routes := (complete_posts s c status 0 0 0).routes
@[simp] theorem done_nextTid : (done s c status).fabric.nextTid = s.fabric.nextTid := (complete_posts s c status 0 0 0).nextTid
@[simp] theorem done_txns : (done s c status).fabric.txns = s.fabric.txns := (complete_posts s c status 0 0 0).txns
@[simp] theorem done_bulks : (done s c status).fabric.bulks = s.fabric.bulks := (complete_posts s c status 0 0 0).bulks
@[simp] theorem done_arrivals : (done s c status).fabric.arrivals = s.fabric.arrivals := (complete_posts s c status 0 0 0).arrivals
@[simp] theorem done_bulkIn : (done s c status).fabric.bulkIn = s.fabric.bulkIn := (complete_posts s c status 0 0 0).bulkIn
@[simp] theorem done_waiting : (done s c status).fabric.waiting = s.fabric.waiting := (complete_posts s c status 0 0 0).waiting
@[simp] theorem done_heldCredits : (done s c status).fabric.heldCredits = s.fabric.heldCredits := (complete_posts s c status 0 0 0).heldCredits
@[simp] theorem done_ptp : (done s c status).fabric.ptp = s.fabric.ptp := (complete_posts s c status 0 0 0).ptp
@[simp] theorem done_executing : (done s c status).mbox.executing = s.mbox.executing.filter fun e => e.cmd != c := (complete_posts s c status 0 0 0).executing
end

end Sys2Proof.Machine
end

