-- ==== Sys2Proof/Laws/Local.lean ====
section
/-! SUPPORT. The write buffer and the writes of this module's memory: everything they can do (R13, R320, R323). -/

namespace Sys2Proof.Machine

open Sys2Proof

/-! ### Stripes leaving the write buffer -/

theorem unbuffered_filter (qs : List SeqUnit) (t : Nat) :
    unbuffered (qs.map fun q => { q with flight := q.flight.map fun f => { f with stripes := f.stripes.filter (· != t) } }) =
      unbuffered qs := by
  simp [unbuffered, Function.comp_def]

/-- The state with another's write buffer, what waits for its stripes, and streams. -/
def bufferOf (s t : State) : State :=
  { t with
    mem := { t.mem with stripes := s.mem.stripes, acks := s.mem.acks, ends := s.mem.ends, reconTimes := s.mem.reconTimes,
                        leftEarly := s.mem.leftEarly }
    seqs := s.seqs }

/-- `t` is `s` after stripes entered or left the write buffer: beside what a post can change, only the stripes, the held
responses, the endings and the instances that wait for stripes and the times of reconstructions differ; no byte of memory
does. -/
def Flushes (s t : State) : Prop := Posts s (bufferOf s t) ∧ unbuffered t.seqs = unbuffered s.seqs

theorem Flushes.refl (s : State) : Flushes s s := ⟨Posts.refl s, rfl⟩

theorem Posts.flushes {s t : State} (h : Posts s t) : Flushes s t := by
  have e : bufferOf s t = t := by
    have := h.mem
    have hq := h.seqs
    unfold bufferOf
    rw [← this, ← hq]
  exact ⟨by rw [e]; exact h, by rw [h.seqs]⟩

/-- Another's write buffer and streams over the state that a post leaves. -/
theorem Posts.setBuffer {s t : State} (h : Posts s t) (u : State) : Posts (bufferOf u s) (bufferOf u t) := by
  have hm := h.mem
  constructor
  case mem =>
    show ({ t.mem with stripes := u.mem.stripes, acks := u.mem.acks, ends := u.mem.ends, reconTimes := u.mem.reconTimes,
                       leftEarly := u.mem.leftEarly } : MemSys) =
      { s.mem with stripes := u.mem.stripes, acks := u.mem.acks, ends := u.mem.ends, reconTimes := u.mem.reconTimes,
                   leftEarly := u.mem.leftEarly }
    rw [hm]
  case seqs => rfl
  case port => exact h.port
  all_goals first
    | exact h.pending
    | exact h.timebase
    | exact h.power
    | exact h.flash
    | exact h.fw
    | exact h.units
    | exact h.pstate
    | exact h.program
    | exact h.step
    | exact h.gates
    | exact h.beat
    | exact h.scales
    | exact h.versions
    | exact h.reduce
    | exact h.side
    | exact h.ingest
    | exact h.journal
    | exact h.spdm
    | exact h.freeIdx
    | exact h.module
    | exact h.mcpUp
    | exact h.executing
    | exact h.ringOn
    | exact h.ringBase
    | exact h.ringSize
    | exact h.ringErr
    | exact h.eqHead
    | exact h.winErr
    | exact h.winCause
    | exact h.winErrAddr
    | exact h.squad
    | exact h.unreachable
    | exact h.proxied
    | exact h.restarts
    | exact h.firstDue
    | exact h.lastPath
    | exact h.rcd
    | exact h.routes
    | exact h.nextTid
    | exact h.txns
    | exact h.bulks
    | exact h.arrivals
    | exact h.bulkIn
    | exact h.waiting
    | exact h.heldCredits
    | exact h.ptp

theorem Flushes.trans {s t u : State} (h : Flushes s t) (k : Flushes t u) : Flushes s u :=
  ⟨Posts.trans h.1 (Posts.setBuffer k.1 s), k.2.trans h.2⟩

theorem Flushes.foldl {α : Type} (f : State → α → State) (h : ∀ s a, Flushes s (f s a)) :
    ∀ (l : List α) (s : State), Flushes s (l.foldl f s)
  | [], s => Flushes.refl s
  | a :: l, s => (h s a).trans (Flushes.foldl f h l (f s a))

theorem setBuffer_flushes (s : State) (st : List Stripe) (ac : List HeldAck) :
    Flushes s { s with mem := { s.mem with stripes := st, acks := ac } } := ⟨Posts.refl s, rfl⟩

theorem reconstruct_flushes (s : State) (d n : Nat) : Flushes s (reconstruct s d n) := by
  unfold reconstruct
  split
  · exact Flushes.refl s
  · dsimp only
    refine Flushes.trans ?_ (bump_posts _ _ _ _ _).flushes
    exact ⟨Posts.refl s, rfl⟩

theorem chargeRead_flushes (s : State) (off n : Nat) : Flushes s (chargeRead s off n) := by
  unfold chargeRead
  split
  · exact Flushes.refl s
  · refine Flushes.foldl _ (fun s d => ?_) _ _
    split
    · exact reconstruct_flushes _ _ _
    · exact Flushes.refl s

theorem releaseAcks_flushes (s : State) (t : Nat) : Flushes s (releaseAcks s t) := by
  unfold releaseAcks
  dsimp only
  refine Flushes.trans ?_
    (Posts.foldl _ (fun s (a : HeldAck) => by split <;> first | exact sendFrame_posts s _ | exact emit_posts s _) _ _).flushes
  exact ⟨Posts.refl s, unbuffered_filter s.seqs t⟩

theorem flushStripe_flushes (s : State) (t : Nat) : Flushes s (flushStripe s t) := by
  unfold flushStripe
  split
  · exact Flushes.refl s
  · dsimp only
    refine Flushes.trans ?_ (releaseAcks_flushes _ _)
    split
    · exact setBuffer_flushes s _ s.mem.acks
    · exact ((setBuffer_flushes s _ s.mem.acks).trans
        (Flushes.foldl _ (fun s u => chargeRead_flushes s (1024 * t + 256 * u) 1) _ _)).trans
          (bump_posts _ _ _ _ _).flushes

theorem setLeftEarly_flushes (s : State) (l : List Stripe) :
    Flushes s { s with mem := { s.mem with leftEarly := l } } := ⟨Posts.refl s, rfl⟩

theorem flushEarly_flushes (s : State) (st : Stripe) : Flushes s (flushEarly s st) := by
  unfold flushEarly
  dsimp only
  split
  · exact flushStripe_flushes _ _
  · exact (setLeftEarly_flushes s (s.mem.leftEarly ++ [st])).trans (flushStripe_flushes _ _)

theorem gatherStripe_flushes (s : State) (t mask : Nat) : Flushes s (gatherStripe s t mask) := by
  unfold gatherStripe
  dsimp only
  have tail : ∀ (u : State) (c : Prop) [Decidable c], Flushes s u → Flushes s (if c then flushStripe u t else u) := by
    intro u c _ h
    split
    · exact h.trans (flushStripe_flushes _ _)
    · exact h
  refine tail _ _ ?_
  repeat' split
  all_goals first
    | exact setBuffer_flushes s _ s.mem.acks
    | exact (setBuffer_flushes s _ s.mem.acks).trans (flushEarly_flushes _ _)

theorem gather_flushes (s : State) (off n : Nat) : Flushes s (gather s off n) := by
  unfold gather
  split
  · exact Flushes.refl s
  · exact Flushes.foldl _ (fun s t => gatherStripe_flushes s t _) _ _

theorem ackWhenVisible_flushes (s : State) (space off n : Nat) (f : Kft) : Flushes s (ackWhenVisible s space off n f) := by
  unfold ackWhenVisible
  dsimp only
  generalize (if space = 1 ∧ 0 < n then _ else _ : List Nat) = held
  split
  · exact (sendFrame_posts s f).flushes
  · exact setBuffer_flushes s s.mem.stripes _

/-! ### What a flush leaves -/

theorem Flushes.sram {s t : State} (h : Flushes s t) : t.mem.sram = s.mem.sram := by
  have e := congrArg MemSys.sram (Posts.mem h.1); exact e

theorem Flushes.dram {s t : State} (h : Flushes s t) : t.mem.dram = s.mem.dram := by
  have e := congrArg MemSys.dram (Posts.mem h.1); exact e

theorem Flushes.buffers {s t : State} (h : Flushes s t) : t.mem.buffers = s.mem.buffers := by
  have e := congrArg MemSys.buffers (Posts.mem h.1); exact e

theorem Flushes.groupGone {s t : State} (h : Flushes s t) : t.mem.groupGone = s.mem.groupGone := by
  have e := congrArg MemSys.groupGone (Posts.mem h.1); exact e

theorem Flushes.retention {s t : State} (h : Flushes s t) : t.mem.retention = s.mem.retention := by
  have e := congrArg MemSys.retention (Posts.mem h.1); exact e

theorem Flushes.pending {s t : State} (h : Flushes s t) : t.pending = s.pending := h.1.pending

/-- A flush leaves the program where it stands; only what its instances' writes wait for changes. -/
theorem Flushes.program {s t : State} (h : Flushes s t) : SameProgram s (bufferOf s t) :=
  ⟨h.1.pstate, h.1.program, h.1.step, h.1.seqs, h.1.gates, h.1.beat, h.1.scales, h.1.versions, h.1.reduce, h.1.side, h.1.ingest,
    h.1.journal⟩

/-! ### Writes of this module's memory -/

/-- Everything a write of this module's memory can do: it answers a status other than 0 and changes nothing, or it writes
its bytes into the store of its space, and in space 0x1 gathers them in the write buffer. -/
theorem writeLocal_cases {s t : State} {space off st : Nat} {data : List Byte} (h : writeLocal s space off data = (st, t)) :
    (st ≠ 0 ∧ t = s) ∨
    (st = 0 ∧ space = 0 ∧ s.mem.retention = false ∧ inReset s = false ∧ sramPopulated s off data.length = true ∧
      t = { s with mem := { s.mem with
        sram := writeBytes s.mem.sram off data
        lostLines := s.mem.lostLines.filter fun l => decide (l < off) || decide (off + data.length < l + 64) } }) ∨
    (st = 0 ∧ space = 1 ∧ s.mem.retention = false ∧ dramPopulated s off data.length = true ∧
      Flushes { s with mem := { s.mem with dram := writeBytes s.mem.dram off data } } t) ∨
    (st = 0 ∧ space = 2 ∧ s.mem.retention = false ∧ inReset s = false ∧ bufferPopulated off data.length = true ∧
      t = { s with mem := { s.mem with buffers := writeBytes s.mem.buffers off data } }) := by
  unfold writeLocal at h
  dsimp only at h
  split at h
  · simp only [Prod.mk.injEq] at h; exact .inl ⟨by omega, h.2.symm⟩
  · rename_i hr
    have hr' : s.mem.retention = false := by simpa using hr
    split at h
    · split at h
      · simp only [Prod.mk.injEq] at h; exact .inl ⟨by omega, h.2.symm⟩
      · rename_i hm
        split at h
        · rename_i hp
          simp only [Prod.mk.injEq] at h
          exact .inr (.inl ⟨h.1.symm, rfl, hr', by simpa using hm, hp, h.2.symm⟩)
        · simp only [Prod.mk.injEq] at h; exact .inl ⟨by omega, h.2.symm⟩
    · split at h
      · rename_i hp
        simp only [Prod.mk.injEq] at h
        refine .inr (.inr (.inl ⟨h.1.symm, rfl, hr', hp, ?_⟩))
        rw [← h.2]
        exact gather_flushes _ _ _
      · simp only [Prod.mk.injEq] at h; exact .inl ⟨by omega, h.2.symm⟩
    · split at h
      · simp only [Prod.mk.injEq] at h; exact .inl ⟨by omega, h.2.symm⟩
      · rename_i hm
        split at h
        · rename_i hp
          simp only [Prod.mk.injEq] at h
          exact .inr (.inr (.inr ⟨h.1.symm, rfl, hr', by simpa using hm, hp, h.2.symm⟩))
        · split at h <;> (simp only [Prod.mk.injEq] at h; exact .inl ⟨by omega, h.2.symm⟩)
    · simp only [Prod.mk.injEq] at h; exact .inl ⟨by omega, h.2.symm⟩

end Sys2Proof.Machine
end

