-- ==== Sys2Proof/Laws/Wire.lean ====
section
/-! SUPPORT. What the link layer changes when it takes a frame, and that a frame which arrives is delivered. -/

namespace Sys2Proof.Machine

open Sys2Proof

/-! ### The relation -/

/-- `t` is `s` after link-layer work: only counts, ports and held credits differ, and every port keeps its record, its link and its
shape. -/
structure Linked (s t : State) : Prop where
  rest : { t with fabric := { t.fabric with ports := s.fabric.ports, heldCredits := s.fabric.heldCredits }, counts := s.counts } = s
  link : ∀ p : Fin 12, t.fabric.ports[p].link = s.fabric.ports[p].link
  rcd : ∀ p : Fin 12, t.fabric.ports[p].rcd = s.fabric.ports[p].rcd
  present : ∀ p : Fin 12, t.fabric.ports[p].present = s.fabric.ports[p].present
  lanes : ∀ p : Fin 12, t.fabric.ports[p].lanes = s.fabric.ports[p].lanes

theorem Linked.refl (s : State) : Linked s s := ⟨rfl, fun _ => rfl, fun _ => rfl, fun _ => rfl, fun _ => rfl⟩

theorem Linked.trans {s t u : State} (h : Linked s t) (k : Linked t u) : Linked s u := by
  refine ⟨?_, fun p => (k.link p).trans (h.link p), fun p => (k.rcd p).trans (h.rcd p),
    fun p => (k.present p).trans (h.present p), fun p => (k.lanes p).trans (h.lanes p)⟩
  have h1 := h.rest
  have k1 := k.rest
  rw [← k1] at h1
  exact h1

theorem Linked.foldl {α : Type} (f : State → α → State) (h : ∀ s a, Linked s (f s a)) :
    ∀ (l : List α) (s : State), Linked s (l.foldl f s)
  | [], s => Linked.refl s
  | a :: l, s => (h s a).trans (Linked.foldl f h l (f s a))

/-! ### The operations -/

theorem bump_linked (s : State) (id inst tensor n : Nat) : Linked s (bump s id inst tensor n) := by
  unfold bump
  split
  · exact Linked.refl s
  · exact ⟨rfl, fun _ => rfl, fun _ => rfl, fun _ => rfl, fun _ => rfl⟩

theorem setPort_linked (s : State) (p : Fin 12) (q : Port) (h1 : q.link = s.fabric.ports[p].link)
    (h2 : q.rcd = s.fabric.ports[p].rcd) (h3 : q.present = s.fabric.ports[p].present)
    (h4 : q.lanes = s.fabric.ports[p].lanes) : Linked s (setPort s p q) := by
  have key : ∀ {α : Type} (f : Port → α), f q = f s.fabric.ports[p] → ∀ k : Fin 12,
      f (setPort s p q).fabric.ports[k] = f s.fabric.ports[k] := by
    intro α f hf k
    by_cases h : p = k
    · subst h; simpa [setPort] using hf
    · have : p.val ≠ k.val := fun e => h (Fin.ext e)
      simp [setPort, this]
  exact ⟨rfl, key _ h1, key _ h2, key _ h3, key _ h4⟩

theorem updPort_linked (s : State) (p : Fin 12) (f : Port → Port) (h1 : ∀ q, (f q).link = q.link)
    (h2 : ∀ q, (f q).rcd = q.rcd) (h3 : ∀ q, (f q).present = q.present) (h4 : ∀ q, (f q).lanes = q.lanes) :
    Linked s (updPort s p f) := setPort_linked s p _ (h1 _) (h2 _) (h3 _) (h4 _)

theorem enqueue_linked (s : State) (p : Fin 12) (f : Kft) : Linked s (enqueue s p f) := by
  show Linked s (setPort s p _)
  exact setPort_linked s p _ rfl rfl rfl rfl

theorem sendOn_linked (s : State) (p : Fin 12) (f : Kft) : Linked s (sendOn s p f) := by
  unfold sendOn
  split
  · exact Linked.refl s
  · split
    · exact enqueue_linked _ _ _
    · exact Linked.refl s

theorem oweCredits_linked (s : State) (p : Fin 12) (f : Kft) : Linked s (oweCredits s p f) := by
  simp only [oweCredits]
  split
  · exact ⟨rfl, fun _ => rfl, fun _ => rfl, fun _ => rfl, fun _ => rfl⟩
  · exact updPort_linked s p _ (fun _ => rfl) (fun _ => rfl) (fun _ => rfl) (fun _ => rfl)

theorem discard_linked (s : State) (p r n : Nat) : Linked s (discard s p r n) := bump_linked _ _ _ _ _

theorem sendNak_linked (s : State) (p : Fin 12) : Linked s (sendNak s p) := by
  unfold sendNak linkControl
  exact ((bump_linked _ _ _ _ _).trans (sendOn_linked _ _ _)).trans
    (updPort_linked _ p _ (fun _ => rfl) (fun _ => rfl) (fun _ => rfl) (fun _ => rfl))

theorem takeAck_linked (s : State) (p : Fin 12) (a : BitVec 24) : Linked s (takeAck s p a) := by
  unfold takeAck
  dsimp only
  split
  · exact Linked.refl s
  · exact setPort_linked s p _ rfl rfl rfl rfl

theorem echoClass_linked (s : State) (p : Fin 12) (c : Fin 6) : Linked s (echoClass s p c) := by
  unfold echoClass
  dsimp only
  split
  · exact Linked.refl s
  · split
    · exact setPort_linked s p _ rfl rfl rfl rfl
    · refine Linked.trans ?_ (bump_linked _ _ _ _ _)
      exact setPort_linked s p _ rfl rfl rfl rfl

theorem takeEcho_linked (s : State) (p : Fin 12) (f : Kft) : Linked s (takeEcho s p f) := by
  unfold takeEcho
  dsimp only
  split
  · exact Linked.refl s
  · split
    · exact (bump_linked _ _ _ _ _).trans (Linked.foldl _ (fun s c => echoClass_linked s p c) _ _)
    · split
      · exact (bump_linked _ _ _ _ _).trans (echoClass_linked _ _ _)
      · exact bump_linked _ _ _ _ _

theorem ackFrame_linked (s : State) (p : Fin 12) : Linked s (ackFrame s p) := by
  unfold ackFrame linkControl
  exact sendOn_linked _ _ _

theorem Linked.upd {s u : State} (h : Linked s u) (p : Fin 12) (f : Port → Port) (h1 : ∀ q, (f q).link = q.link)
    (h2 : ∀ q, (f q).rcd = q.rcd) (h3 : ∀ q, (f q).present = q.present) (h4 : ∀ q, (f q).lanes = q.lanes) :
    Linked s (updPort u p f) := h.trans (updPort_linked u p f h1 h2 h3 h4)

theorem Linked.ack {s u : State} (h : Linked s u) (p : Fin 12) : Linked s (ackFrame u p) := h.trans (ackFrame_linked u p)

theorem countFrame_linked (s : State) (x : Rx) : Linked s (countFrame s x) := by
  unfold countFrame countLanes
  exact (Linked.foldl _ (fun s l => (bump_linked _ _ _ _ _).trans (bump_linked _ _ _ _ _)) _ _).trans
    (bump_linked _ _ _ _ _)

theorem linkTaken_linked (s : State) (x : Rx) : Linked s (linkTaken s x) := by
  have hce : ∀ s : State, Linked s (if x.f.ce then updPort (bump s 0x0B0A x.port.val noTensor 1) x.port fun q =>
      { q with echoDue := Vector.ofFn fun i => q.echoDue[i] || decide (i.val = x.f.cls.toNat) } else s) := by
    intro s; split
    · exact (bump_linked _ _ _ _ _).trans
        (updPort_linked _ _ _ (fun _ => rfl) (fun _ => rfl) (fun _ => rfl) (fun _ => rfl))
    · exact Linked.refl s
  have hack : ∀ s : State, Linked s (if x.f.flags.getLsbD 1 then takeAck s x.port x.f.ack else s) := by
    intro s; split
    · exact takeAck_linked _ _ _
    · exact Linked.refl s
  have hgrant : ∀ s : State,
      Linked s (if x.f.credit.getLsbD 3 then takeGrant s x.port (x.f.credit.toNat % 8) x.f.grant.toNat else s) := by
    intro s; split
    · exact updPort_linked _ _ _ (fun _ => rfl) (fun _ => rfl) (fun _ => rfl) (fun _ => rfl)
    · exact Linked.refl s
  exact (((hce s).trans (hack _)).trans (hgrant _)).trans (takeEcho_linked _ x.port x.f)

/-- The link layer by cases (R275, R279, R284, R285, R290). -/
theorem linkReceive_eq (s : State) (x : Rx) : linkReceive s x =
    if s.fabric.ports[x.port].link ≠ .up ∧ s.fabric.ports[x.port].link ≠ .retraining then (s, false)
    else if oversize s.fabric.ports[x.port].rcd x.f then (discard (countFrame s x) x.port.val 1 1, false)
    else if !x.fcsOk then
      (sendNak (discard (bump (countFrame s x) 0x0B05 x.port.val noTensor 1) x.port.val 1 1) x.port, false)
    else if !x.udpOk then (discard (countFrame s x) x.port.val 1 1, false)
    else if !x.crcOk || !x.poolOk then
      (sendNak (discard (bump (countFrame s x) 0x0B06 x.port.val noTensor 1) x.port.val 1 1) x.port, false)
    else if seqDist x.f.seq s.fabric.ports[x.port].expect = 0 then
      (if 16 ≤ s.fabric.ports[x.port].unacked + 1 then
        updPort (ackFrame (updPort (linkTaken (countFrame s x) x) x.port fun q => { q with
          expect := q.expect + 1, unacked := s.fabric.ports[x.port].unacked + 1, heard := true, nakSent := false })
          x.port) x.port fun q => { q with unacked := 0 }
      else updPort (linkTaken (countFrame s x) x) x.port fun q => { q with
        expect := q.expect + 1, unacked := s.fabric.ports[x.port].unacked + 1, heard := true, nakSent := false }, true)
    else if seqDist x.f.seq s.fabric.ports[x.port].expect < 2 ^ 23 then
      (if s.fabric.ports[x.port].nakSent then countFrame s x else sendNak (countFrame s x) x.port, false)
    else (updPort (countFrame s x) x.port fun q => { q with unacked := q.unacked + 1 }, false) := rfl

/-- The link layer keeps every link, record and lane, and touches nothing but ports, counts and held credits. -/
theorem linkReceive_linked (s : State) (x : Rx) : Linked s (linkReceive s x).1 := by
  have came := countFrame_linked s x
  have base := came.trans (linkTaken_linked _ x)
  rw [linkReceive_eq]
  generalize linkTaken (countFrame s x) x = u at base
  generalize countFrame s x = v at came
  have gone : Linked s (discard v x.port.val 1 1) := came.trans (discard_linked _ _ _ _)
  have bad : ∀ id, Linked s (sendNak (discard (bump v id x.port.val noTensor 1) x.port.val 1 1) x.port) := fun id =>
    ((came.trans (bump_linked _ _ _ _ _)).trans (discard_linked _ _ _ _)).trans (sendNak_linked _ _)
  split
  · exact Linked.refl s
  split
  · exact gone
  split
  · exact bad _
  split
  · exact gone
  split
  · exact bad _
  split
  · dsimp only
    split
    · apply Linked.upd
      · apply Linked.ack
        apply Linked.upd base <;> intro q <;> rfl
      all_goals intro q; rfl
    · apply Linked.upd base <;> intro q <;> rfl
  split
  · dsimp only
    split
    · exact came
    · exact came.trans (sendNak_linked _ _)
  · dsimp only
    apply Linked.upd came <;> intro q <;> rfl

theorem received_linked (s : State) (x : Rx) : Linked s (received s x) :=
  (linkReceive_linked s x).trans (oweCredits_linked _ _ _)

/-! ### A frame in sequence is received -/

theorem linkReceive_ok (s : State) (x : Rx) (h0 : oversize s.fabric.ports[x.port].rcd x.f = false) (h1 : x.fcsOk = true)
    (hu : x.udpOk = true) (h2 : x.crcOk = true) (hp : x.poolOk = true)
    (h3 : s.fabric.ports[x.port].link = .up ∨ s.fabric.ports[x.port].link = .retraining)
    (h4 : x.f.seq = s.fabric.ports[x.port].expect) : (linkReceive s x).2 = true := by
  have e : seqDist x.f.seq s.fabric.ports[x.port].expect = 0 := by simp [seqDist, h4]
  rw [linkReceive_eq, if_neg (fun h => h3.elim h.1 h.2), h0, h1, hu, h2, hp, if_neg (by decide), if_neg (by decide), if_neg (by decide),
    if_neg (by decide), if_pos e]

section
variable (s : State) (x : Rx)
@[simp] theorem received_pending : (received s x).pending = s.pending := by
  have h := congrArg State.pending (received_linked s x).rest
  exact h
@[simp] theorem received_freeIdx : (received s x).freeIdx = s.freeIdx := by
  have h := congrArg State.freeIdx (received_linked s x).rest
  exact h
@[simp] theorem received_timebase : (received s x).timebase = s.timebase := by
  have h := congrArg State.timebase (received_linked s x).rest
  exact h
@[simp] theorem received_power : (received s x).power = s.power := by
  have h := congrArg State.power (received_linked s x).rest
  exact h
@[simp] theorem received_flash : (received s x).flash = s.flash := by
  have h := congrArg State.flash (received_linked s x).rest
  exact h
@[simp] theorem received_fw : (received s x).fw = s.fw := by
  have h := congrArg State.fw (received_linked s x).rest
  exact h
@[simp] theorem received_mbox : (received s x).mbox = s.mbox := by
  have h := congrArg State.mbox (received_linked s x).rest
  exact h
@[simp] theorem received_units : (received s x).units = s.units := by
  have h := congrArg State.units (received_linked s x).rest
  exact h
@[simp] theorem received_mem : (received s x).mem = s.mem := by
  have h := congrArg State.mem (received_linked s x).rest
  exact h
@[simp] theorem received_pstate : (received s x).pstate = s.pstate := by
  have h := congrArg State.pstate (received_linked s x).rest
  exact h
@[simp] theorem received_program : (received s x).program = s.program := by
  have h := congrArg State.program (received_linked s x).rest
  exact h
@[simp] theorem received_step : (received s x).step = s.step := by
  have h := congrArg State.step (received_linked s x).rest
  exact h
@[simp] theorem received_seqs : (received s x).seqs = s.seqs := by
  have h := congrArg State.seqs (received_linked s x).rest
  exact h
@[simp] theorem received_gates : (received s x).gates = s.gates := by
  have h := congrArg State.gates (received_linked s x).rest
  exact h
@[simp] theorem received_beat : (received s x).beat = s.beat := by
  have h := congrArg State.beat (received_linked s x).rest
  exact h
@[simp] theorem received_scales : (received s x).scales = s.scales := by
  have h := congrArg State.scales (received_linked s x).rest
  exact h
@[simp] theorem received_versions : (received s x).versions = s.versions := by
  have h := congrArg State.versions (received_linked s x).rest
  exact h
@[simp] theorem received_reduce : (received s x).reduce = s.reduce := by
  have h := congrArg State.reduce (received_linked s x).rest
  exact h
@[simp] theorem received_side : (received s x).side = s.side := by
  have h := congrArg State.side (received_linked s x).rest
  exact h
@[simp] theorem received_ingest : (received s x).ingest = s.ingest := by
  have h := congrArg State.ingest (received_linked s x).rest
  exact h
@[simp] theorem received_journal : (received s x).journal = s.journal := by
  have h := congrArg State.journal (received_linked s x).rest
  exact h
@[simp] theorem received_spdm : (received s x).spdm = s.spdm := by
  have h := congrArg State.spdm (received_linked s x).rest
  exact h
@[simp] theorem received_out : (received s x).out = s.out := by
  have h := congrArg State.out (received_linked s x).rest
  exact h
@[simp] theorem received_rcd : (received s x).fabric.rcd = s.fabric.rcd := by
  have h := congrArg (fun u => u.fabric.rcd) (received_linked s x).rest
  exact h
@[simp] theorem received_routes : (received s x).fabric.routes = s.fabric.routes := by
  have h := congrArg (fun u => u.fabric.routes) (received_linked s x).rest
  exact h
@[simp] theorem received_nextTid : (received s x).fabric.nextTid = s.fabric.nextTid := by
  have h := congrArg (fun u => u.fabric.nextTid) (received_linked s x).rest
  exact h
@[simp] theorem received_txns : (received s x).fabric.txns = s.fabric.txns := by
  have h := congrArg (fun u => u.fabric.txns) (received_linked s x).rest
  exact h
@[simp] theorem received_bulks : (received s x).fabric.bulks = s.fabric.bulks := by
  have h := congrArg (fun u => u.fabric.bulks) (received_linked s x).rest
  exact h
@[simp] theorem received_arrivals : (received s x).fabric.arrivals = s.fabric.arrivals := by
  have h := congrArg (fun u => u.fabric.arrivals) (received_linked s x).rest
  exact h
@[simp] theorem received_bulkIn : (received s x).fabric.bulkIn = s.fabric.bulkIn := by
  have h := congrArg (fun u => u.fabric.bulkIn) (received_linked s x).rest
  exact h
@[simp] theorem received_waiting : (received s x).fabric.waiting = s.fabric.waiting := by
  have h := congrArg (fun u => u.fabric.waiting) (received_linked s x).rest
  exact h
@[simp] theorem received_ptp : (received s x).fabric.ptp = s.fabric.ptp := by
  have h := congrArg (fun u => u.fabric.ptp) (received_linked s x).rest
  exact h
end

/-- A frame that arrives for this module is delivered in the state the link layer leaves. -/
theorem arrive_delivers {s : State} {x : Rx} {typ : Nat} (h : Arrives s x typ) (k : State → Kft → State) :
    arrive s x typ k = k (received s x) x.f := by
  obtain ⟨⟨h1, h2, ⟨ha, hb, hc, hd, he⟩, h5, h6⟩, h7, h8, h9⟩ := h
  have ok := linkReceive_ok s x ha hb hc hd he h5 h6
  unfold arrive
  rw [if_neg (by simp [h1])]
  have e : linkReceive s x = ((linkReceive s x).1, true) := Prod.ext rfl ok
  rw [e]
  dsimp only
  rw [if_neg (by simp)]
  have r : oweCredits (linkReceive s x).1 x.port x.f = received s x := rfl
  rw [r, if_neg (by simp [knownFrame, h1, h2]), if_neg (by simp [h7]), if_neg (by simp [h8]),
    if_pos (Or.inr (by simp [h9]))]

/-- A link-control frame in order is delivered whatever its destination (R291). -/
theorem control_delivers {s : State} {x : Rx} (h : InOrder s x 0x0F) (k : State → Kft → State) :
    arrive s x 0x0F k = k (received s x) x.f := by
  obtain ⟨h1, h2, ⟨ha, hb, hc, hd, he⟩, h5, h6⟩ := h
  have ok := linkReceive_ok s x ha hb hc hd he h5 h6
  unfold arrive
  rw [if_neg (by simp [h1])]
  have e : linkReceive s x = ((linkReceive s x).1, true) := Prod.ext rfl ok
  rw [e]
  dsimp only
  rw [if_neg (by simp)]
  have r : oweCredits (linkReceive s x).1 x.port x.f = received s x := rfl
  rw [r, if_neg (by simp [knownFrame, h1, h2]), if_neg (by simp), if_neg (by simp), if_pos (Or.inl rfl)]

end Sys2Proof.Machine
end

