-- ==== Sys2Proof/Laws/Keeps.lean ====
section
/-! SUPPORT. The canonical form of memory and the queue of waiting commands through the shared operations: what each keeps. -/

namespace Sys2Proof.Machine

open Sys2Proof

/-- The queue is as it was, and memory that was canonical is canonical. -/
def Keeps (s t : State) : Prop := t.pending = s.pending ∧ (MemOk s → MemOk t)

theorem Keeps.refl (s : State) : Keeps s s := ⟨rfl, id⟩

theorem Keeps.trans {s t u : State} (h : Keeps s t) (k : Keeps t u) : Keeps s u :=
  ⟨k.1.trans h.1, fun m => k.2 (h.2 m)⟩

/-- Whatever leaves the queue and the three stores as they are keeps them. -/
theorem Keeps.of_mem {s t : State} (hp : t.pending = s.pending) (hm : t.mem = s.mem) : Keeps s t :=
  ⟨hp, fun m => by unfold MemOk at *; rw [hm]; exact m⟩

theorem Keeps.of_stores {s t : State} (hp : t.pending = s.pending) (h0 : t.mem.sram = s.mem.sram)
    (h1 : t.mem.dram = s.mem.dram) (h2 : t.mem.buffers = s.mem.buffers) : Keeps s t :=
  ⟨hp, fun m => by unfold MemOk at *; rw [h0, h1, h2]; exact m⟩

theorem Posts.keeps {s t : State} (h : Posts s t) : Keeps s t := Keeps.of_mem h.pending h.mem

theorem Flushes.keeps {s t : State} (h : Flushes s t) : Keeps s t := Keeps.of_stores h.pending h.sram h.dram h.buffers

theorem Linked.keeps {s t : State} (h : Linked s t) : Keeps s t := by
  have hp := congrArg State.pending h.rest
  have hm := congrArg State.mem h.rest
  exact Keeps.of_mem hp hm

theorem Keeps.foldl {α : Type} (f : State → α → State) (h : ∀ s a, Keeps s (f s a)) :
    ∀ (l : List α) (s : State), Keeps s (l.foldl f s)
  | [], s => Keeps.refl s
  | a :: l, s => (h s a).trans (Keeps.foldl f h l (f s a))

/-- A fold whose items carry more than the state. -/
theorem Keeps.foldl_fst {α β : Type} (f : State × β → α → State × β) (h : ∀ x a, Keeps x.1 (f x a).1) :
    ∀ (l : List α) (x : State × β), Keeps x.1 (l.foldl f x).1
  | [], x => Keeps.refl x.1
  | a :: l, x => (h x a).trans (Keeps.foldl_fst f h l (f x a))

/-! ### Memory (R13, R191, R300) -/

theorem writeLocal_keeps (s : State) (space off : Nat) (data : List Byte) : Keeps s (writeLocal s space off data).2 := by
  rcases writeLocal_cases (s := s) (t := (writeLocal s space off data).2) (st := (writeLocal s space off data).1) rfl with
    h | h | h | h
  · rw [h.2]; exact Keeps.refl s
  · rw [h.2.2.2.2.2]; exact ⟨rfl, fun m => ⟨wf_writeBytes _ _ m.1, m.2.1, m.2.2⟩⟩
  · refine Keeps.trans (t := { s with mem := { s.mem with dram := writeBytes s.mem.dram off data } }) ?_ h.2.2.2.2.keeps
    exact ⟨rfl, fun m => ⟨m.1, wf_writeBytes _ _ m.2.1, m.2.2⟩⟩
  · rw [h.2.2.2.2.2]; exact ⟨rfl, fun m => ⟨m.1, m.2.1, wf_writeBytes _ _ m.2.2⟩⟩

theorem addWaiting_keeps (s : State) (w : Who) (n : Nat) : Keeps s (addWaiting s w n) := Keeps.of_mem rfl rfl
theorem lessWaiting_keeps (s : State) (w : Who) : Keeps s (lessWaiting s w) := Keeps.of_mem rfl rfl
theorem addArrival_keeps (s : State) (k a : Nat) (d : List Byte) : Keeps s (addArrival s k a d) := Keeps.of_mem rfl rfl
theorem dropArrivals_keeps (s : State) (k : Nat) : Keeps s (dropArrivals s k) := Keeps.of_mem rfl rfl
theorem setPort_keeps (s : State) (p : Fin 12) (q : Port) : Keeps s (setPort s p q) := Keeps.of_mem rfl rfl
theorem updPort_keeps (s : State) (p : Fin 12) (f : Port → Port) : Keeps s (updPort s p f) := Keeps.of_mem rfl rfl
theorem post_keeps (s : State) (code : Nat) (b : List Byte) : Keeps s (post s code b) := (post_posts s code b).keeps
theorem done_keeps (s : State) (c : Cmd) (st : Nat) : Keeps s (done s c st) :=
  Keeps.of_mem (done_pending s c st) (done_mem s c st)
theorem complete_keeps (s : State) (c : Cmd) (st r a b : Nat) : Keeps s (complete s c st r a b) :=
  Keeps.of_mem (complete_pending s c st r a b) (complete_mem s c st r a b)
theorem emit_keeps (s : State) (o : Output) : Keeps s (emit s o) := (emit_posts s o).keeps
theorem sendFrame_keeps (s : State) (f : Kft) : Keeps s (sendFrame s f) := (sendFrame_posts s f).keeps
theorem dropBulk_keeps (s : State) (b : Bulk) : Keeps s (dropBulk s b) := Keeps.of_mem rfl rfl

theorem deliverCompletion_keeps (s : State) (e : Event) : Keeps s (deliverCompletion s e) := by
  unfold deliverCompletion
  split
  · exact (writeEntry_posts s e).keeps
  · split
    · exact Keeps.of_mem rfl rfl
    · exact (keepEvent_posts s e).keeps

theorem memberUnreachable_keeps (s : State) (n : Word16) : Keeps s (memberUnreachable s n) := by
  unfold memberUnreachable
  split
  · dsimp only
    refine Keeps.trans ?_ (post_keeps _ _ _)
    refine Keeps.trans ?_ (Keeps.foldl (fun s (p : Proxied) => if p.discard then s else done s p.cmd 0x09) (fun s p => by
      split
      · exact Keeps.refl s
      · exact done_keeps s p.cmd 0x09) _ _)
    exact Keeps.of_mem rfl rfl
  · exact Keeps.refl s

theorem request_keeps (s : State) (typ : Nat) (addr : Word64) (len : Nat) (payload : List Byte) (o : Owner) :
    Keeps s (request s typ addr len payload o).2 := by
  unfold request
  dsimp only
  split
  · exact memberUnreachable_keeps _ _
  · exact Keeps.of_mem rfl rfl

/-- An access that fails leaves memory as it was (R300). -/
theorem accessFailed_keeps (s : State) (w : Who) (st a : Nat) : Keeps s (accessFailed s w st a) := by
  unfold accessFailed
  dsimp only
  split
  · exact post_keeps _ _ _
  · exact (post_keeps _ _ _).trans (Keeps.of_mem rfl rfl)

theorem addStripes_keeps (s : State) (w : Who) (ts : List Nat) : Keeps s (addStripes s w ts) := by
  unfold addStripes
  split
  · exact Keeps.refl s
  · exact Keeps.of_mem rfl rfl

theorem ownWrite_keeps (s : State) (unit addr : Nat) (data : List Byte) : Keeps s (ownWrite s unit addr data) := by
  unfold ownWrite
  exact Keeps.of_mem rfl rfl

theorem sendWrite_keeps (w : Who) (s : State) (x : Nat × Nat × List Byte) : Keeps s (sendWrite w s x) := by
  unfold sendWrite
  dsimp only
  split
  · exact (request_keeps _ _ _ _ _ _).trans (addWaiting_keeps _ _ _)
  · exact (request_keeps _ _ _ _ _ _).trans (accessFailed_keeps _ _ _ _)

/-- A write of an instance, local or remote, done or failed (R191, R300). -/
theorem writeGlobal_keeps (s : State) (w : Who) (addr : Nat) (data : List Byte) : Keeps s (writeGlobal s w addr data) := by
  unfold writeGlobal
  split
  · exact Keeps.refl s
  · split
    · dsimp only
      have h := writeLocal_keeps s (spaceOf addr) (offsetOf addr) data
      have k : Keeps s (if spaceOf addr = 0 ∧ (writeLocal s (spaceOf addr) (offsetOf addr) data).1 = 0 then
          { (writeLocal s (spaceOf addr) (offsetOf addr) data).2 with beat :=
            { (writeLocal s (spaceOf addr) (offsetOf addr) data).2.beat with writes :=
              (writeLocal s (spaceOf addr) (offsetOf addr) data).2.beat.writes ++
                [{ who := w, move := false, off := offsetOf addr, len := data.length, src := 0 }] } }
          else (writeLocal s (spaceOf addr) (offsetOf addr) data).2) := by
        split
        · exact h.trans (Keeps.of_mem rfl rfl)
        · exact h
      split
      · exact k.trans (addStripes_keeps _ _ _)
      · exact k.trans (accessFailed_keeps _ _ _ _)
    · split
      · exact Keeps.refl s
      · exact (ownWrite_keeps _ _ _ _).trans (Keeps.foldl _ (sendWrite_keeps w) _ _)

theorem pokeLocal_keeps (s : State) (addr : Nat) (data : List Byte) : Keeps s (pokeLocal s addr data) := by
  unfold pokeLocal
  dsimp only
  split
  · exact writeLocal_keeps _ _ _ _
  · exact Keeps.foldl _ (fun s l => writeLocal_keeps _ _ _ _) _ _

/-- A write of the monitors (R150, R153). -/
theorem poke_keeps (s : State) (addr : Nat) (data : List Byte) : Keeps s (poke s addr data) := by
  unfold poke
  split
  · exact Keeps.refl s
  · split
    · exact pokeLocal_keeps _ _ _
    · split
      · exact Keeps.refl s
      · exact Keeps.foldl _ (fun s x => request_keeps _ _ _ _ _ _) _ _

/-! ### How accesses end (R298, R300, R370, R396) -/

theorem windowError_keeps (s : State) (win cause addr : Nat) : Keeps s (windowError s win cause addr) := by
  unfold windowError
  split
  · exact Keeps.refl s
  · exact Keeps.trans (Keeps.of_mem rfl rfl) (post_keeps _ _ _)

theorem fetchFailed_keeps (s : State) (i e st a : Nat) : Keeps s (fetchFailed s i e st a) :=
  (post_keeps _ _ _).trans (Keeps.of_mem rfl rfl)

theorem dataWritten_keeps (s : State) (c : Cmd) : Keeps s (dataWritten s c) := by
  unfold dataWritten
  split
  · split
    · exact Keeps.refl s
    · exact Keeps.trans (Keeps.of_mem rfl rfl) (complete_keeps _ _ _ _ _ _)
  · exact Keeps.refl s

theorem dataFailed_keeps (s : State) (c : Cmd) : Keeps s (dataFailed s c) := by
  have h : Keeps s (dropArrivals { s with mbox := { s.mbox with
      awaiting := s.mbox.awaiting.filter (·.cmd != c) } } (cmdKey c)) := Keeps.of_mem rfl rfl
  unfold dataFailed
  dsimp only
  split
  · exact h.trans (done_keeps _ _ _)
  · exact h

theorem hostPartDone_keeps (s : State) (o : Owner) (addr n id : Nat) : Keeps s (hostPartDone s o addr n id) := by
  unfold hostPartDone
  split
  · exact Keeps.refl s
  · exact (dropArrivals_keeps _ _).trans (emit_keeps _ _)

theorem finishTxn_keeps (s : State) (t : Txn) (st : Nat) (data : List Byte) : Keeps s (finishTxn s t st data) := by
  have tail : ∀ u : State, Keeps s u → Keeps s (if st = 3 ∨ st = 6 then memberUnreachable u t.node else u) := by
    intro u h
    split
    · exact h.trans (memberUnreachable_keeps _ _)
    · exact h
  unfold finishTxn
  dsimp only
  apply tail
  refine Keeps.trans (t := { s with fabric := { s.fabric with txns := s.fabric.txns.filter (·.tid != t.tid) } })
    (Keeps.of_mem rfl rfl) ?_
  cases t.owner <;> dsimp only <;> repeat' split
  all_goals first
    | exact Keeps.refl _
    | exact emit_keeps _ _
    | exact windowError_keeps _ _ _ _
    | exact (windowError_keeps _ _ _ _).trans (emit_keeps _ _)
    | exact accessFailed_keeps _ _ _ _
    | exact addArrival_keeps _ _ _ _
    | exact lessWaiting_keeps _ _
    | exact (addArrival_keeps _ _ _ _).trans (hostPartDone_keeps _ _ _ _ _)
    | exact dataFailed_keeps _ _
    | exact dataWritten_keeps _ _
    | exact done_keeps _ _ _
    | exact fetchFailed_keeps _ _ _ _ _

/-! ### Bulk transfers (R301, R394) -/

theorem forwardFrom_keeps (n : Word16) (r : Nat) : ∀ (ps : List Proxied) (s : State), Keeps s (forwardFrom n r ps s)
  | [], s => Keeps.refl s
  | p :: ps, s => by
    unfold forwardFrom
    repeat' split
    · exact forwardFrom_keeps n r ps s
    · exact Keeps.refl s
    · refine Keeps.trans ?_ (forwardFrom_keeps n r ps _)
      exact Keeps.trans (Keeps.of_mem rfl rfl) (sendFrame_keeps _ _)
    · exact forwardFrom_keeps n r ps s

theorem returnCompletion_keeps (s : State) (c : Proxied) (e : Event) : Keeps s (returnCompletion s c e) := by
  unfold returnCompletion
  dsimp only
  refine Keeps.trans (t := { s with mbox := { s.mbox with proxied := s.mbox.proxied.filter (·.cmd != c.cmd) } })
    (Keeps.of_mem rfl rfl) ?_
  repeat' split
  · exact Keeps.refl _
  · exact emit_keeps _ _
  · exact deliverCompletion_keeps _ _

theorem proxyMoved_keeps (s : State) (c : Cmd) : Keeps s (proxyMoved s c) := by
  unfold proxyMoved
  repeat' split
  · exact Keeps.refl s
  · exact forwardFrom_keeps _ _ _ _
  · exact returnCompletion_keeps _ _ _
  · exact Keeps.refl s

theorem proxyFailed_keeps (s : State) (c : Cmd) : Keeps s (proxyFailed s c) := by
  unfold proxyFailed
  split
  · exact Keeps.refl s
  · dsimp only
    refine Keeps.trans ?_ (forwardFrom_keeps _ _ _ _)
    split
    · exact Keeps.of_mem rfl rfl
    · refine Keeps.trans ?_ (done_keeps _ _ _)
      exact Keeps.of_mem rfl rfl

theorem failBulk_keeps (s : State) (b : Bulk) (st : Nat) : Keeps s (failBulk s b st) := by
  have tail : ∀ u : State, Keeps s u → Keeps s (if st = 3 ∨ st = 6 then memberUnreachable u b.node else u) := by
    intro u h
    split
    · exact h.trans (memberUnreachable_keeps _ _)
    · exact h
  have late : ∀ u : State, Keeps u (if b.inward && !b.served && st != 3 then { u with fabric := { u.fabric with
      lateReads := u.fabric.lateReads ++ [(b.node, b.tid)] } } else u) := by
    intro u
    split
    · exact Keeps.of_mem rfl rfl
    · exact Keeps.refl u
  unfold failBulk
  dsimp only
  apply tail
  refine (dropBulk_keeps s b).trans ((late _).trans ?_)
  cases b.owner <;> dsimp only <;> repeat' split
  all_goals first
    | exact accessFailed_keeps _ _ _ _
    | exact Keeps.trans (Keeps.of_mem rfl rfl) (done_keeps _ _ _)
    | exact proxyFailed_keeps _ _
    | exact fetchFailed_keeps _ _ _ _ _
    | exact Keeps.refl _

theorem startBulkIn_keeps (s : State) (node src dst len : Nat) (o : Owner) : Keeps s (startBulkIn s node src dst len o) := by
  unfold startBulkIn
  dsimp only
  split
  · refine Keeps.trans ?_ (failBulk_keeps _ _ _)
    exact Keeps.of_mem rfl rfl
  · refine Keeps.trans ?_ (sendFrame_keeps _ _)
    exact Keeps.of_mem rfl rfl

theorem sendBulk_keeps (s : State) (node tid dst : Nat) (data : List Byte) (from_ : Option Nat) :
    Keeps s (sendBulk s node tid dst data from_) := by
  unfold sendBulk
  split
  · exact Keeps.refl s
  · refine Keeps.foldl _ (fun s x => ?_) _ _
    dsimp only
    split
    · exact (ackWhenVisible_flushes _ _ _ _ _).keeps
    · exact (enqueue_posts _ _ _).keeps

theorem startBulkOut_keeps (s : State) (node src dst : Nat) (data : List Byte) (o : Owner) (rest : Nat) :
    Keeps s (startBulkOut s node src dst data o rest) := by
  unfold startBulkOut
  dsimp only
  split
  · refine Keeps.trans ?_ (failBulk_keeps _ _ _)
    exact Keeps.of_mem rfl rfl
  · refine Keeps.trans ?_ (sendBulk_keeps _ _ _ _ _ _)
    exact Keeps.of_mem rfl rfl

theorem relayOn_keeps (s : State) (w : Who) (b : Bulk) : Keeps s (relayOn s w b) := by
  unfold relayOn
  dsimp only
  repeat' split
  · exact (dropArrivals_keeps _ _).trans (startBulkOut_keeps _ _ _ _ _ _ _)
  · exact startBulkIn_keeps _ _ _ _ _ _
  · exact lessWaiting_keeps _ _

theorem finishBulk_keeps (s : State) (b : Bulk) : Keeps s (finishBulk s b) := by
  unfold finishBulk
  dsimp only
  refine (dropBulk_keeps s b).trans ?_
  generalize dropBulk s b = u
  repeat' split
  all_goals first
    | exact relayOn_keeps _ _ _
    | exact startBulkIn_keeps _ _ _ _ _ _
    | exact lessWaiting_keeps _ _
    | exact Keeps.refl _
    | exact done_keeps _ _ _
    | exact proxyMoved_keeps _ _

theorem refuseRequest_keeps (s : State) (f : Kft) (st : Nat) : Keeps s (refuseRequest s f st) := by
  unfold refuseRequest
  dsimp only
  repeat' split
  all_goals first
    | exact finishTxn_keeps _ _ _ _
    | exact failBulk_keeps _ _ _
    | exact sendFrame_keeps _ _
    | exact Keeps.refl s

theorem routesLost_keeps (s : State) (p : Nat) : Keeps s (routesLost s p) := by
  unfold routesLost
  refine Keeps.foldl _ (fun s n => ?_) _ _
  split
  · exact memberUnreachable_keeps _ _
  · exact Keeps.refl s

theorem portDrops_keeps (s : State) (p : Fin 12) : Keeps s (portDrops s p) := by
  unfold portDrops
  dsimp only
  refine Keeps.trans ?_ (routesLost_keeps _ _)
  refine Keeps.trans ?_ (discard_posts _ _ _ _).keeps
  refine Keeps.trans ?_ (Keeps.foldl (fun s f => refuseRequest s f 3) (fun s f => refuseRequest_keeps s f 3) _ _)
  exact setPort_keeps _ _ _

theorem portDown_keeps (s : State) (p : Fin 12) (cause : Nat) : Keeps s (portDown s p cause) :=
  (post_keeps _ _ _).trans (portDrops_keeps _ _)

theorem forward_keeps (s : State) (x : Rx) : Keeps s (forward s x) := by
  have drop : ∀ (s : State) (r : Nat),
      Keeps s (if isRequest s x.f then refuseRequest s x.f 3 else discard s x.port.val r 1) := by
    intro s r
    split
    · exact refuseRequest_keeps _ _ _
    · exact (discard_posts _ _ _ _).keeps
  unfold forward
  dsimp only
  split
  · exact drop _ _
  · split
    · exact drop _ _
    · split
      · exact drop _ _
      · exact (enqueue_posts _ _ _).keeps

/-- A frame that arrives keeps what its delivery keeps. -/
theorem arrive_keeps (s : State) (x : Rx) (typ : Nat) (k : State → Kft → State) (h : ∀ s f, Keeps s (k s f)) :
    Keeps s (arrive s x typ k) := by
  have hl : Keeps s (linkReceive s x).1 := (linkReceive_linked s x).keeps
  unfold arrive
  split
  · exact Keeps.refl s
  · generalize linkReceive s x = r at hl
    obtain ⟨u, ok⟩ := r
    dsimp only at hl ⊢
    split
    · exact hl
    · have ho : Keeps s (oweCredits u x.port x.f) := hl.trans (oweCredits_linked _ _ _).keeps
      split
      · exact ho.trans (discard_posts _ _ _ _).keeps
      · split
        · exact ho.trans (discard_posts _ _ _ _).keeps
        · split
          · exact ho.trans (discard_posts _ _ _ _).keeps
          · split
            · exact ho.trans (h _ _)
            · exact ho.trans (forward_keeps _ _)

/-! ### Program states and faults (R83, R201, R213, R215) -/

theorem setPStateAt_keeps (s : State) (new : PState) (cause step : Nat) : Keeps s (setPStateAt s new cause step) :=
  Keeps.trans (Keeps.of_mem rfl rfl) (post_keeps _ _ _)

theorem setPState_keeps (s : State) (new : PState) (cause : Nat) : Keeps s (setPState s new cause) :=
  setPStateAt_keeps s new cause s.step.toNat

theorem dropWithheld_keeps (s : State) : Keeps s (dropWithheld s) := by
  unfold dropWithheld
  refine Keeps.trans (t := { s with reduce := { s.reduce with withheld := [] } }) (Keeps.of_mem rfl rfl)
    (Keeps.foldl _ (fun s x => ?_) _ _)
  exact Keeps.of_mem rfl rfl

theorem haltProgram_keeps (s : State) (cause : Nat) : Keeps s (haltProgram s cause) := by
  unfold haltProgram
  split
  · exact (dropWithheld_keeps s).trans (((post_keeps _ _ _).trans (setPState_keeps _ _ _)).trans (Keeps.of_mem rfl rfl))
  · exact Keeps.refl s

theorem raiseFault_keeps (s : State) (cause bit : Nat) : Keeps s (raiseFault s cause bit) := by
  unfold raiseFault
  split
  · exact Keeps.of_mem rfl rfl
  · exact Keeps.refl s

theorem blockFault_keeps (s : State) (u t b c e r : Nat) : Keeps s (blockFault s u t b c e r) :=
  (((bump_posts _ _ _ _ _).keeps.trans (post_keeps _ _ _)).trans (post_keeps _ _ _)).trans (raiseFault_keeps _ _ _)

theorem tokenFault_keeps (s : State) (u t c : Nat) : Keeps s (tokenFault s u t c) :=
  (post_keeps _ _ _).trans (raiseFault_keeps _ _ _)

theorem reductionFault_keeps (s : State) (c t g p e r : Nat) : Keeps s (reductionFault s c t g p e r) :=
  (post_keeps _ _ _).trans (raiseFault_keeps _ _ _)

theorem applySignal_keeps (s : State) (u tok mode n parity : Nat) : Keeps s (applySignal s u tok mode n parity) := by
  unfold applySignal
  split
  · exact Keeps.refl s
  · dsimp only
    split
    · exact Keeps.trans (Keeps.of_mem rfl rfl) (tokenFault_keeps _ _ _ _)
    · exact Keeps.of_mem rfl rfl

/-- A command that meets the checks of R384 keeps what its work keeps. -/
theorem gated_keeps (s : State) (c : Cmd) (ring : Nat) (compute memory : Bool) (states : List PState) (ok : Bool)
    (k : State → State) (h : Keeps s (k s)) : Keeps s (gated s c ring compute memory states ok k) := by
  unfold gated
  split
  · exact done_keeps _ _ _
  · split
    · exact done_keeps _ _ _
    · split
      · exact done_keeps _ _ _
      · split
        · exact done_keeps _ _ _
        · exact h

end Sys2Proof.Machine
end

