-- ==== Sys2Proof/Laws/Mailbox.lean ====
section
/-! SUPPORT. A fetched command that may run meets no refusal of R384; the refusals one by one. -/

namespace Sys2Proof.Machine

open Sys2Proof

theorem command_executes {s : State} {c : Cmd} {op : Nat} (h : Executes s c op) (k : State → State) :
    command s c op k = .next (k s) := by
  obtain ⟨h1, h2, h3, h4⟩ := h
  simp [command, h1, h2, h3, h4]

theorem command_runs {s : State} {c : Cmd} {op ring : Nat} {compute memory : Bool} {states : List PState}
    (h : Runs s c op ring compute memory states) (k : State → State) : command s c op k = .next (k s) := by
  exact command_executes h.1 k

theorem gated_runs {s : State} {c : Cmd} {op ring : Nat} {compute memory : Bool} {states : List PState}
    (h : Runs s c op ring compute memory states) (k : State → State) :
    gated s c ring compute memory states true k = k s := by
  obtain ⟨_, h4, h5, h6⟩ := h
  have h6' : (states.contains s.pstate) = true := h6
  unfold gated
  rw [if_neg (by simp [h4]), if_neg (by simp [h5]), if_neg (by simp), if_neg (by rw [h6']; decide)]

/-- A field that does not fit ends the command with status 0x02. -/
theorem gated_field {s : State} {c : Cmd} {op ring : Nat} {compute memory : Bool} {states : List PState}
    (h : Runs s c op ring compute memory states) (k : State → State) :
    gated s c ring compute memory states false k = done s c 0x02 := by
  obtain ⟨_, h4, h5, _⟩ := h
  unfold gated
  rw [if_neg (by simp [h4]), if_neg (by simp [h5]), if_pos (by simp)]

/-- A command that is not executing, another's, or one whose data are on their way changes nothing. -/
theorem command_other {s : State} {c : Cmd} {op : Nat} (h : ¬Executes s c op)
    (k : State → State) : command s c op k = .next s := by
  unfold command
  rw [if_neg]
  rintro ⟨h1, h2, h3, h4⟩
  exact h ⟨h1, h2, h3, by simpa using h4⟩

/-- What a command does with data that are at hand. -/
theorem withData_reads {s u : State} {c : Cmd} {kind addr n : Nat} {host : HostRead} {data : List Byte}
    (h : Reads s c kind addr n host data u) (k : State → List Byte → State) :
    withData s c kind addr n host k = k u data := by
  obtain ⟨v, hv, rfl⟩ := h
  simp [withData, hv]

end Sys2Proof.Machine
end

