-- ==== Sys2Proof/Laws/PerInstr.lean ====
section
/-! SUPPORT. The family `Operands`: a well-formed command names a command opcode, a frame type and a unit that the machine
knows. -/

namespace Sys2Proof.Laws

open Sys2Proof Sys2Proof.Machine

/-- The mailbox command that a row carries. -/
def cmdOf : Instr → Option Cmd
  | .load c _ _ => some c
  | .unload c => some c
  | .start c _ => some c
  | .pause c => some c
  | .resume c _ => some c
  | .save c => some c
  | .restore c _ => some c
  | .halt c => some c
  | .computeResetCommand c _ => some c
  | .benchEnter c => some c
  | .benchLeave c _ _ => some c
  | .watchSet c => some c
  | .watchClear c => some c
  | .layerBounds c => some c
  | .journalArm c => some c
  | .journalReplay c => some c
  | .fabricRecord c => some c
  | .portRecord c _ => some c
  | .routeWrite c _ => some c
  | .planWrite c => some c
  | .portRetrain c _ _ _ => some c
  | .squadSet c _ => some c
  | .readTable c => some c
  | .powerCap c => some c
  | .profileSelect c => some c
  | .profileWrite c _ => some c
  | .fwStage c _ => some c
  | .fwActivate c => some c
  | .fwConfirm c => some c
  | .dma c _ => some c
  | .abort c _ => some c
  | _ => none

/-- The frame of a row that one frame type serves. -/
def rxOf : Instr → Option Rx
  | .proxyCommandReceive x => some x
  | .proxyCompletionReceive x => some x
  | .whistleUpFrame x => some x
  | .whistleDownFrame x => some x
  | .huddleFrame x _ => some x
  | .reductionFrame x _ => some x
  | .readRequest x _ => some x
  | .readResponse x => some x
  | .writeRequest x => some x
  | .writeAck x => some x
  | .atomicRequest x => some x
  | .atomicResponse x => some x
  | .signalFrame x => some x
  | .bulkData x => some x
  | .bulkReadRequest x => some x
  | .bulkAck x => some x
  | .discoveryFrame x => some x
  | .linkControlAck x => some x
  | .linkControlNak x => some x
  | .creditGrant x => some x
  | .laneChangeRequest x => some x
  | .laneChangeConfirm x => some x
  | _ => none

/-- The unit whose program a row runs. -/
def unitOf : Instr → Option Nat
  | .wait unit => some unit
  | .signalAdd unit => some unit
  | .signalAcquire unit => some unit
  | .signalRelease unit => some unit
  | .pass unit _ _ => some unit
  | .fillGateWaitLimit unit _ _ => some unit
  | .fillGateFlushPoint unit _ _ => some unit
  | .blockRefetchComplete unit _ => some unit
  | .veOperation unit _ => some unit
  | .veFlagRead td ve => some (veUnit td ve)
  | .rowSoftmaxForward unit => some unit
  | .rowSoftmaxBackward unit _ => some unit
  | .rowLayerNormForward unit => some unit
  | .rowLayerNormBackward unit _ => some unit
  | .rowRmsNormForward unit => some unit
  | .rowRmsNormBackward unit _ => some unit
  | .rowCategoricalDraw unit => some unit
  | .move unit => some unit
  | .ckptStore unit => some unit
  | .ckptLoad unit _ => some unit
  | .updateMainPass unit _ => some unit
  | .updateCopyPass unit => some unit
  | .bucketFinish unit _ => some unit
  | .bucketNorm unit => some unit
  | .ingest unit => some unit
  | .instanceComplete unit _ _ _ _ => some unit
  | .unitResidueMismatch unit _ _ => some unit
  | _ => none

/-- What a well-formed command's operands name. -/
def Operands.Statement (i : Instr) : Prop :=
  i.wf = true →
    (∀ c, cmdOf i = some c → knownOpcode c.opcode = true ∧ c.ring < 4 ∧ c.payload.length = 48) ∧
    (∀ x, rxOf i = some x → (classOf x.f.typ.toNat).isSome = true ∧ x.f.payload.length ≤ 9134) ∧
    (∀ u s, unitOf i = some u → 24 ≤ providedTiles s .ft → 72 ≤ providedTiles s .bt → unitExists s u = true)

/-- A unit number of R190 is one that the load checks of a module accept which provides grade A's tiles. -/
theorem unitOk_exists (u : Nat) (s : State) (h : unitOk u = true) (hf : 24 ≤ providedTiles s .ft)
    (hb : 72 ≤ providedTiles s .bt) : unitExists s u = true := by
  unfold unitOk at h
  simp only [unitExists]
  split at h
  · have : u / 256 < 8 := by omega
    simp only [this, if_true]
    simp only [Bool.or_eq_true, Bool.and_eq_true, decide_eq_true_eq, beq_iff_eq] at h ⊢
    omega
  · simp only [List.contains_iff_mem, List.mem_cons, List.not_mem_nil, or_false] at h
    obtain rfl | rfl | rfl := h <;> simp

/-- A row with none of the three operands says nothing. -/
theorem operands_none {i : Instr} (hc : cmdOf i = none) (hx : rxOf i = none) (hu : unitOf i = none) :
    Operands.Statement i := by
  intro _
  simp [hc, hx, hu]

/-- A row that carries a mailbox command of a known opcode. -/
theorem operands_cmd {i : Instr} {c : Cmd} {op : Nat} (hc : cmdOf i = some c) (hx : rxOf i = none) (hu : unitOf i = none)
    (hop : knownOpcode op = true) (hw : i.wf = true → cmdOk op c = true) : Operands.Statement i := by
  intro h
  have hw := hw h
  simp only [cmdOk, Bool.and_eq_true, beq_iff_eq, decide_eq_true_eq] at hw
  refine ⟨fun d hd => ?_, by simp [hx], by simp [hu]⟩
  rw [hc] at hd
  cases hd
  exact ⟨by rw [hw.1.1]; exact hop, hw.1.2, hw.2⟩

/-- A row that carries a frame of a type of R283. -/
theorem operands_frame {i : Instr} {x : Rx} {typ : Nat} (hc : cmdOf i = none) (hx : rxOf i = some x) (hu : unitOf i = none)
    (ht : (classOf typ).isSome = true) (hw : i.wf = true → frameOk typ x = true) : Operands.Statement i := by
  intro h
  have hw := hw h
  simp only [frameOk, payloadOk, Bool.and_eq_true, beq_iff_eq, decide_eq_true_eq] at hw
  refine ⟨by simp [hc], fun d hd => ?_, by simp [hu]⟩
  rw [hx] at hd
  cases hd
  exact ⟨by rw [hw.1]; exact ht, hw.2⟩

/-- A row that a unit's program runs. -/
theorem operands_unit {i : Instr} {unit : Nat} (hc : cmdOf i = none) (hx : rxOf i = none) (hu : unitOf i = some unit)
    (hw : i.wf = true → unitOk unit = true) : Operands.Statement i := by
  intro h
  refine ⟨by simp [hc], by simp [hx], fun u s hd hf hb => ?_⟩
  rw [hu] at hd
  cases hd
  exact unitOk_exists unit s (hw h) hf hb

theorem Operands.powerOn (b : BootIn) : Operands.Statement (.powerOn b) :=
  operands_none rfl rfl rfl
theorem Operands.portLinkUp (p : Fin 12) (fkm : Bool) : Operands.Statement (.portLinkUp p fkm) :=
  operands_none rfl rfl rfl
theorem Operands.linkGateWindowEnd (p : Fin 12) (ratio : Byte) (codewords : Byte) (measured : List LaneTest) : Operands.Statement (.linkGateWindowEnd p ratio codewords measured) :=
  operands_none rfl rfl rfl
theorem Operands.portLinkTimeout (p : Fin 12) : Operands.Statement (.portLinkTimeout p) :=
  operands_none rfl rfl rfl
theorem Operands.supplyExcursion (mv : Nat) : Operands.Statement (.supplyExcursion mv) :=
  operands_none rfl rfl rfl
theorem Operands.supplyWarning (mv : Nat) : Operands.Statement (.supplyWarning mv) :=
  operands_none rfl rfl rfl
theorem Operands.supplyRecovery (mv : Nat) (us : Nat) : Operands.Statement (.supplyRecovery mv us) :=
  operands_none rfl rfl rfl
theorem Operands.supplyReset (mv : Nat) : Operands.Statement (.supplyReset mv) :=
  operands_none rfl rfl rfl
theorem Operands.overvoltageStop (mv : Nat) : Operands.Statement (.overvoltageStop mv) :=
  operands_none rfl rfl rfl
theorem Operands.resetInAssert : Operands.Statement .resetInAssert :=
  operands_none rfl rfl rfl
theorem Operands.resetInRelease (b : BootIn) : Operands.Statement (.resetInRelease b) :=
  operands_none rfl rfl rfl
theorem Operands.perstAssert : Operands.Statement .perstAssert :=
  operands_none rfl rfl rfl
theorem Operands.thermalThrottleStart (die : Nat) (celsius : Nat) : Operands.Statement (.thermalThrottleStart die celsius) :=
  operands_none rfl rfl rfl
theorem Operands.thermalClockLower (celsius : Nat) : Operands.Statement (.thermalClockLower celsius) :=
  operands_none rfl rfl rfl
theorem Operands.thermalClockRaise (die : Nat) (celsius : Nat) : Operands.Statement (.thermalClockRaise die celsius) :=
  operands_none rfl rfl rfl
theorem Operands.thermalFault (die : Nat) (celsius : Nat) : Operands.Statement (.thermalFault die celsius) :=
  operands_none rfl rfl rfl
theorem Operands.thermalFaultClear (celsius : Nat) : Operands.Statement (.thermalFaultClear celsius) :=
  operands_none rfl rfl rfl
theorem Operands.hardThermalTrip (die : Nat) (celsius : Nat) : Operands.Statement (.hardThermalTrip die celsius) :=
  operands_none rfl rfl rfl
theorem Operands.coolantInletWarning (inlet : Nat) (outlet : Nat) (watts : Nat) : Operands.Statement (.coolantInletWarning inlet outlet watts) :=
  operands_none rfl rfl rfl
theorem Operands.coolantFlowWarning (inlet : Nat) (outlet : Nat) (watts : Nat) : Operands.Statement (.coolantFlowWarning inlet outlet watts) :=
  operands_none rfl rfl rfl
theorem Operands.mr4Read (mpd : Fin 4) (celsius : List Nat) : Operands.Statement (.mr4Read mpd celsius) :=
  operands_none rfl rfl rfl
theorem Operands.avcLoopTick (watts : Nat) : Operands.Statement (.avcLoopTick watts) :=
  operands_none rfl rfl rfl
theorem Operands.capUnreachable (watts : Nat) : Operands.Statement (.capUnreachable watts) :=
  operands_none rfl rfl rfl
theorem Operands.heartbeatTick : Operands.Statement .heartbeatTick :=
  operands_none rfl rfl rfl
theorem Operands.managementRestart (reports : List UnitReport) : Operands.Statement (.managementRestart reports) :=
  operands_none rfl rfl rfl
theorem Operands.managementFault : Operands.Statement .managementFault :=
  operands_none rfl rfl rfl
theorem Operands.resetCtrlMboxReset (key : Word16) : Operands.Statement (.resetCtrlMboxReset key) :=
  operands_none rfl rfl rfl
theorem Operands.resetCtrlComputeReset (key : Word16) (failed : List TileId) : Operands.Statement (.resetCtrlComputeReset key failed) :=
  operands_none rfl rfl rfl
theorem Operands.sqTailDoorbell (r : Fin 4) (v : Word32) : Operands.Statement (.sqTailDoorbell r v) :=
  operands_none rfl rfl rfl
theorem Operands.eqHeadWrite (v : Word32) : Operands.Statement (.eqHeadWrite v) :=
  operands_none rfl rfl rfl
theorem Operands.ringCtrlWrite (r : Fin 5) (v : Word32) : Operands.Statement (.ringCtrlWrite r v) :=
  operands_none rfl rfl rfl
theorem Operands.ringBaseWrite (r : Fin 5) (h : Half) (v : Word64) : Operands.Statement (.ringBaseWrite r h v) :=
  operands_none rfl rfl rfl
theorem Operands.registerWrite (offset : Nat) (width : Nat) (v : Word64) : Operands.Statement (.registerWrite offset width v) :=
  operands_none rfl rfl rfl
theorem Operands.bar2Read (offset : Nat) (n : Nat) : Operands.Statement (.bar2Read offset n) :=
  operands_none rfl rfl rfl
theorem Operands.bar2Write (offset : Nat) (data : List Byte) : Operands.Statement (.bar2Write offset data) :=
  operands_none rfl rfl rfl
theorem Operands.functionLevelReset : Operands.Statement .functionLevelReset :=
  operands_none rfl rfl rfl
theorem Operands.pcieHotReset : Operands.Statement .pcieHotReset :=
  operands_none rfl rfl rfl
theorem Operands.pcieLinkLoss : Operands.Statement .pcieLinkLoss :=
  operands_none rfl rfl rfl
theorem Operands.commandFetch (entry : HostRead) (data : HostRead) : Operands.Statement (.commandFetch entry data) :=
  operands_none rfl rfl rfl
theorem Operands.eventCoalesceDelay (vec : Fin 64) : Operands.Statement (.eventCoalesceDelay vec) :=
  operands_none rfl rfl rfl
theorem Operands.eventCountInterrupt (vec : Fin 64) : Operands.Statement (.eventCountInterrupt vec) :=
  operands_none rfl rfl rfl
theorem Operands.load (c : Cmd) (host : HostRead) (h : LoadHints) : Operands.Statement (.load c host h) :=
  operands_cmd rfl rfl rfl rfl (fun h => h)
theorem Operands.unload (c : Cmd) : Operands.Statement (.unload c) :=
  operands_cmd rfl rfl rfl rfl (fun h => h)
theorem Operands.start (c : Cmd) (remote : List (Nat × List Byte)) : Operands.Statement (.start c remote) :=
  operands_cmd rfl rfl rfl rfl (fun h => h)
theorem Operands.fillPassComplete : Operands.Statement .fillPassComplete :=
  operands_none rfl rfl rfl
theorem Operands.pause (c : Cmd) : Operands.Statement (.pause c) :=
  operands_cmd rfl rfl rfl rfl (fun h => h)
theorem Operands.pauseTakesEffect : Operands.Statement .pauseTakesEffect :=
  operands_none rfl rfl rfl
theorem Operands.resume (c : Cmd) (remote : List (Nat × List Byte)) : Operands.Statement (.resume c remote) :=
  operands_cmd rfl rfl rfl rfl (fun h => h)
theorem Operands.save (c : Cmd) : Operands.Statement (.save c) :=
  operands_cmd rfl rfl rfl rfl (fun h => h)
theorem Operands.restore (c : Cmd) (host : HostRead) : Operands.Statement (.restore c host) :=
  operands_cmd rfl rfl rfl rfl (fun h => h)
theorem Operands.halt (c : Cmd) : Operands.Statement (.halt c) :=
  operands_cmd rfl rfl rfl rfl (fun h => h)
theorem Operands.computeResetCommand (c : Cmd) (failed : List TileId) : Operands.Statement (.computeResetCommand c failed) :=
  operands_cmd rfl rfl rfl rfl (fun h => by
    simp only [Instr.wf, Bool.and_eq_true] at h
    exact h.1)
theorem Operands.benchEnter (c : Cmd) : Operands.Statement (.benchEnter c) :=
  operands_cmd rfl rfl rfl rfl (fun h => h)
theorem Operands.benchLeave (c : Cmd) (celsius : List Nat) (untrained : List (Fin 20)) : Operands.Statement (.benchLeave c celsius untrained) :=
  operands_cmd rfl rfl rfl rfl (fun h => by
    simp only [Instr.wf, Bool.and_eq_true] at h
    exact h.1)
theorem Operands.watchSet (c : Cmd) : Operands.Statement (.watchSet c) :=
  operands_cmd rfl rfl rfl rfl (fun h => h)
theorem Operands.watchClear (c : Cmd) : Operands.Statement (.watchClear c) :=
  operands_cmd rfl rfl rfl rfl (fun h => h)
theorem Operands.layerBounds (c : Cmd) : Operands.Statement (.layerBounds c) :=
  operands_cmd rfl rfl rfl rfl (fun h => h)
theorem Operands.journalArm (c : Cmd) : Operands.Statement (.journalArm c) :=
  operands_cmd rfl rfl rfl rfl (fun h => h)
theorem Operands.journalReplay (c : Cmd) : Operands.Statement (.journalReplay c) :=
  operands_cmd rfl rfl rfl rfl (fun h => h)
theorem Operands.fabricRecord (c : Cmd) : Operands.Statement (.fabricRecord c) :=
  operands_cmd rfl rfl rfl rfl (fun h => h)
theorem Operands.portRecord (c : Cmd) (host : HostRead) : Operands.Statement (.portRecord c host) :=
  operands_cmd rfl rfl rfl rfl (fun h => h)
theorem Operands.routeWrite (c : Cmd) (host : HostRead) : Operands.Statement (.routeWrite c host) :=
  operands_cmd rfl rfl rfl rfl (fun h => h)
theorem Operands.planWrite (c : Cmd) : Operands.Statement (.planWrite c) :=
  operands_cmd rfl rfl rfl rfl (fun h => h)
theorem Operands.portRetrain (c : Cmd) (ratio : Byte) (codewords : Byte) (measured : List LaneTest) : Operands.Statement (.portRetrain c ratio codewords measured) :=
  operands_cmd rfl rfl rfl rfl (fun h => (Bool.and_eq_true_iff.1 h).1)
theorem Operands.squadSet (c : Cmd) (host : HostRead) : Operands.Statement (.squadSet c host) :=
  operands_cmd rfl rfl rfl rfl (fun h => h)
theorem Operands.readTable (c : Cmd) : Operands.Statement (.readTable c) :=
  operands_cmd rfl rfl rfl rfl (fun h => h)
theorem Operands.powerCap (c : Cmd) : Operands.Statement (.powerCap c) :=
  operands_cmd rfl rfl rfl rfl (fun h => h)
theorem Operands.profileSelect (c : Cmd) : Operands.Statement (.profileSelect c) :=
  operands_cmd rfl rfl rfl rfl (fun h => h)
theorem Operands.profileWrite (c : Cmd) (host : HostRead) : Operands.Statement (.profileWrite c host) :=
  operands_cmd rfl rfl rfl rfl (fun h => h)
theorem Operands.fwStage (c : Cmd) (host : HostRead) : Operands.Statement (.fwStage c host) :=
  operands_cmd rfl rfl rfl rfl (fun h => h)
theorem Operands.fwActivate (c : Cmd) : Operands.Statement (.fwActivate c) :=
  operands_cmd rfl rfl rfl rfl (fun h => h)
theorem Operands.activationEpoch (a : ActIn) : Operands.Statement (.activationEpoch a) :=
  operands_none rfl rfl rfl
theorem Operands.fwConfirm (c : Cmd) : Operands.Statement (.fwConfirm c) :=
  operands_cmd rfl rfl rfl rfl (fun h => h)
theorem Operands.trialConfirmTimeout (failed : List TileId) (settingsOk : Bool) : Operands.Statement (.trialConfirmTimeout failed settingsOk) :=
  operands_none rfl rfl rfl
theorem Operands.trialWatchdog (failed : List TileId) (settingsOk : Bool) : Operands.Statement (.trialWatchdog failed settingsOk) :=
  operands_none rfl rfl rfl
theorem Operands.dma (c : Cmd) (host : HostRead) : Operands.Statement (.dma c host) :=
  operands_cmd rfl rfl rfl rfl (fun h => h)
theorem Operands.abort (c : Cmd) (ring : HostRead) : Operands.Statement (.abort c ring) :=
  operands_cmd rfl rfl rfl rfl (fun h => h)
theorem Operands.proxyCommandReceive (x : Rx) : Operands.Statement (.proxyCommandReceive x) :=
  operands_frame rfl rfl rfl rfl (fun h => h)
theorem Operands.proxyCompletionReceive (x : Rx) : Operands.Statement (.proxyCompletionReceive x) :=
  operands_frame rfl rfl rfl rfl (fun h => h)
theorem Operands.smbusMctpCommand (msg : List Byte) (host : HostRead) : Operands.Statement (.smbusMctpCommand msg host) :=
  operands_none rfl rfl rfl
theorem Operands.spdmGetVersion (t : Transport) (req : List Byte) : Operands.Statement (.spdmGetVersion t req) :=
  operands_none rfl rfl rfl
theorem Operands.spdmGetCapabilities (t : Transport) (req : List Byte) : Operands.Statement (.spdmGetCapabilities t req) :=
  operands_none rfl rfl rfl
theorem Operands.spdmNegotiateAlgorithms (t : Transport) (req : List Byte) : Operands.Statement (.spdmNegotiateAlgorithms t req) :=
  operands_none rfl rfl rfl
theorem Operands.spdmGetDigests (t : Transport) (req : List Byte) : Operands.Statement (.spdmGetDigests t req) :=
  operands_none rfl rfl rfl
theorem Operands.spdmGetCertificate (t : Transport) (req : List Byte) : Operands.Statement (.spdmGetCertificate t req) :=
  operands_none rfl rfl rfl
theorem Operands.spdmChallenge (t : Transport) (req : List Byte) : Operands.Statement (.spdmChallenge t req) :=
  operands_none rfl rfl rfl
theorem Operands.spdmGetMeasurements (t : Transport) (req : List Byte) : Operands.Statement (.spdmGetMeasurements t req) :=
  operands_none rfl rfl rfl
theorem Operands.spdmRespondIfReady (t : Transport) (req : List Byte) : Operands.Statement (.spdmRespondIfReady t req) :=
  operands_none rfl rfl rfl
theorem Operands.periodBoundary : Operands.Statement .periodBoundary :=
  operands_none rfl rfl rfl
theorem Operands.headroomHalving (tensor : Nat) : Operands.Statement (.headroomHalving tensor) :=
  operands_none rfl rfl rfl
theorem Operands.stallAlarm (layer : Nat) : Operands.Statement (.stallAlarm layer) :=
  operands_none rfl rfl rfl
theorem Operands.holdPoint : Operands.Statement .holdPoint :=
  operands_none rfl rfl rfl
theorem Operands.holdLimit : Operands.Statement .holdLimit :=
  operands_none rfl rfl rfl
theorem Operands.whistleUpDeadline : Operands.Statement .whistleUpDeadline :=
  operands_none rfl rfl rfl
theorem Operands.whistleUpFrame (x : Rx) : Operands.Statement (.whistleUpFrame x) :=
  operands_frame rfl rfl rfl rfl (fun h => h)
theorem Operands.whistleDownFrame (x : Rx) : Operands.Statement (.whistleDownFrame x) :=
  operands_frame rfl rfl rfl rfl (fun h => h)
theorem Operands.huddleEnter : Operands.Statement .huddleEnter :=
  operands_none rfl rfl rfl
theorem Operands.huddleFrame (x : Rx) (h : Huddle) : Operands.Statement (.huddleFrame x h) :=
  operands_frame rfl rfl rfl rfl (fun h => h)
theorem Operands.wait (unit : Nat) : Operands.Statement (.wait unit) :=
  operands_unit rfl rfl rfl (fun h => h)
theorem Operands.signalAdd (unit : Nat) : Operands.Statement (.signalAdd unit) :=
  operands_unit rfl rfl rfl (fun h => h)
theorem Operands.signalAcquire (unit : Nat) : Operands.Statement (.signalAcquire unit) :=
  operands_unit rfl rfl rfl (fun h => h)
theorem Operands.signalRelease (unit : Nat) : Operands.Statement (.signalRelease unit) :=
  operands_unit rfl rfl rfl (fun h => h)
theorem Operands.pass (unit : Nat) (stale : List (Nat × Byte)) (time : PassTime) : Operands.Statement (.pass unit stale time) :=
  operands_unit rfl rfl rfl (fun h => h)
theorem Operands.fillGateWaitLimit (unit : Nat) (group : Nat) (time : PassTime) : Operands.Statement (.fillGateWaitLimit unit group time) :=
  operands_unit rfl rfl rfl (fun h => by
    simp only [Instr.wf, Bool.and_eq_true] at h
    exact h.1)
theorem Operands.fillGateFlushPoint (unit : Nat) (group : Nat) (time : PassTime) : Operands.Statement (.fillGateFlushPoint unit group time) :=
  operands_unit rfl rfl rfl (fun h => by
    simp only [Instr.wf, Bool.and_eq_true] at h
    exact h.1)
theorem Operands.blockRefetchComplete (unit : Nat) (time : PassTime) : Operands.Statement (.blockRefetchComplete unit time) :=
  operands_unit rfl rfl rfl (fun h => h)
theorem Operands.veOperation (unit : Nat) (stale : List (Nat × Byte)) : Operands.Statement (.veOperation unit stale) :=
  operands_unit rfl rfl rfl (fun h => h)
theorem Operands.veFlagRead (td : Fin 8) (ve : Fin 12) : Operands.Statement (.veFlagRead td ve) :=
  operands_unit rfl rfl rfl (fun h => h)
theorem Operands.rowSoftmaxForward (unit : Nat) : Operands.Statement (.rowSoftmaxForward unit) :=
  operands_unit rfl rfl rfl (fun h => h)
theorem Operands.rowSoftmaxBackward (unit : Nat) (lost : List Nat) : Operands.Statement (.rowSoftmaxBackward unit lost) :=
  operands_unit rfl rfl rfl (fun h => h)
theorem Operands.rowLayerNormForward (unit : Nat) : Operands.Statement (.rowLayerNormForward unit) :=
  operands_unit rfl rfl rfl (fun h => h)
theorem Operands.rowLayerNormBackward (unit : Nat) (lost : List Nat) : Operands.Statement (.rowLayerNormBackward unit lost) :=
  operands_unit rfl rfl rfl (fun h => h)
theorem Operands.rowRmsNormForward (unit : Nat) : Operands.Statement (.rowRmsNormForward unit) :=
  operands_unit rfl rfl rfl (fun h => h)
theorem Operands.rowRmsNormBackward (unit : Nat) (lost : List Nat) : Operands.Statement (.rowRmsNormBackward unit lost) :=
  operands_unit rfl rfl rfl (fun h => h)
theorem Operands.rowCategoricalDraw (unit : Nat) : Operands.Statement (.rowCategoricalDraw unit) :=
  operands_unit rfl rfl rfl (fun h => h)
theorem Operands.move (unit : Nat) : Operands.Statement (.move unit) :=
  operands_unit rfl rfl rfl (fun h => h)
theorem Operands.ckptStore (unit : Nat) : Operands.Statement (.ckptStore unit) :=
  operands_unit rfl rfl rfl (fun h => h)
theorem Operands.ckptLoad (unit : Nat) (stale : List (Nat × Byte)) : Operands.Statement (.ckptLoad unit stale) :=
  operands_unit rfl rfl rfl (fun h => h)
theorem Operands.updateMainPass (unit : Nat) (stale : List (Nat × Byte)) : Operands.Statement (.updateMainPass unit stale) :=
  operands_unit rfl rfl rfl (fun h => h)
theorem Operands.updateCopyPass (unit : Nat) : Operands.Statement (.updateCopyPass unit) :=
  operands_unit rfl rfl rfl (fun h => h)
theorem Operands.awaySlotWriteStart (slot : Nat) : Operands.Statement (.awaySlotWriteStart slot) :=
  operands_none rfl rfl rfl
theorem Operands.versionSlotSwap (slot : Nat) : Operands.Statement (.versionSlotSwap slot) :=
  operands_none rfl rfl rfl
theorem Operands.bucketSend (slips : List AdderSlip) : Operands.Statement (.bucketSend slips) :=
  operands_none rfl rfl rfl
theorem Operands.bucketFinish (unit : Nat) (stale : List (Nat × Byte)) : Operands.Statement (.bucketFinish unit stale) :=
  operands_unit rfl rfl rfl (fun h => h)
theorem Operands.bucketNorm (unit : Nat) : Operands.Statement (.bucketNorm unit) :=
  operands_unit rfl rfl rfl (fun h => h)
theorem Operands.ingest (unit : Nat) : Operands.Statement (.ingest unit) :=
  operands_unit rfl rfl rfl (fun h => h)
theorem Operands.instanceComplete (unit : Nat) (stream : Stream) (index : Nat) (inst : Nat) (time : PassTime) : Operands.Statement (.instanceComplete unit stream index inst time) :=
  operands_unit rfl rfl rfl (fun h => h)
theorem Operands.tileResidueMismatch (t : TileId) (dpu : Nat) (cycle : Nat) (lost : List Nat) : Operands.Statement (.tileResidueMismatch t dpu cycle lost) :=
  operands_none rfl rfl rfl
theorem Operands.tileReprobe (t : TileId) (passes : Bool) : Operands.Statement (.tileReprobe t passes) :=
  operands_none rfl rfl rfl
theorem Operands.capacityCompaction (td : Fin 8) (kind : TileKind) : Operands.Statement (.capacityCompaction td kind) :=
  operands_none rfl rfl rfl
theorem Operands.unitResidueMismatch (unit : Nat) (second : Bool) (reprobePasses : Bool) : Operands.Statement (.unitResidueMismatch unit second reprobePasses) :=
  operands_unit rfl rfl rfl (fun h => h)
theorem Operands.managementTelemetry (r : UnitReport) : Operands.Statement (.managementTelemetry r) :=
  operands_none rfl rfl rfl
theorem Operands.unitTableApply (u : PhysUnit) : Operands.Statement (.unitTableApply u) :=
  operands_none rfl rfl rfl
theorem Operands.reductionFrame (x : Rx) (slips : List AdderSlip) : Operands.Statement (.reductionFrame x slips) :=
  operands_frame rfl rfl rfl rfl (fun h => h)
theorem Operands.readRequest (x : Rx) (reads : List DevRead) : Operands.Statement (.readRequest x reads) :=
  operands_frame rfl rfl rfl (typ := 0x01) rfl (fun h => by
    simp only [Instr.wf, Bool.and_eq_true] at h
    exact h.1)
theorem Operands.readResponse (x : Rx) : Operands.Statement (.readResponse x) :=
  operands_frame rfl rfl rfl rfl (fun h => h)
theorem Operands.writeRequest (x : Rx) : Operands.Statement (.writeRequest x) :=
  operands_frame rfl rfl rfl rfl (fun h => h)
theorem Operands.writeAck (x : Rx) : Operands.Statement (.writeAck x) :=
  operands_frame rfl rfl rfl rfl (fun h => h)
theorem Operands.atomicRequest (x : Rx) : Operands.Statement (.atomicRequest x) :=
  operands_frame rfl rfl rfl rfl (fun h => h)
theorem Operands.atomicResponse (x : Rx) : Operands.Statement (.atomicResponse x) :=
  operands_frame rfl rfl rfl rfl (fun h => h)
theorem Operands.signalFrame (x : Rx) : Operands.Statement (.signalFrame x) :=
  operands_frame rfl rfl rfl rfl (fun h => h)
theorem Operands.bulkData (x : Rx) : Operands.Statement (.bulkData x) :=
  operands_frame rfl rfl rfl rfl (fun h => h)
theorem Operands.bulkReadRequest (x : Rx) : Operands.Statement (.bulkReadRequest x) :=
  operands_frame rfl rfl rfl rfl (fun h => h)
theorem Operands.bulkAck (x : Rx) : Operands.Statement (.bulkAck x) :=
  operands_frame rfl rfl rfl rfl (fun h => h)
theorem Operands.discoveryFrame (x : Rx) : Operands.Statement (.discoveryFrame x) :=
  operands_frame rfl rfl rfl rfl (fun h => h)
theorem Operands.linkControlAck (x : Rx) : Operands.Statement (.linkControlAck x) :=
  operands_frame rfl rfl rfl rfl (fun h => h)
theorem Operands.linkControlNak (x : Rx) : Operands.Statement (.linkControlNak x) :=
  operands_frame rfl rfl rfl rfl (fun h => h)
theorem Operands.creditGrant (x : Rx) : Operands.Statement (.creditGrant x) :=
  operands_frame rfl rfl rfl rfl (fun h => h)
theorem Operands.laneChangeRequest (x : Rx) : Operands.Statement (.laneChangeRequest x) :=
  operands_frame rfl rfl rfl rfl (fun h => h)
theorem Operands.laneChangeConfirm (x : Rx) : Operands.Statement (.laneChangeConfirm x) :=
  operands_frame rfl rfl rfl rfl (fun h => h)
theorem Operands.frameTransit (x : Rx) : Operands.Statement (.frameTransit x) :=
  operands_none rfl rfl rfl
theorem Operands.frameSend (p : Fin 12) : Operands.Statement (.frameSend p) :=
  operands_none rfl rfl rfl
theorem Operands.arpRequest (p : Fin 12) (target : Word32) (sender : List Byte) : Operands.Statement (.arpRequest p target sender) :=
  operands_none rfl rfl rfl
theorem Operands.neighbourSolicitation (p : Fin 12) (target : List Byte) (sender : List Byte) : Operands.Statement (.neighbourSolicitation p target sender) :=
  operands_none rfl rfl rfl
theorem Operands.icmpEchoRequest (p : Fin 12) (target : Word32) (sender : List Byte) (data : List Byte) : Operands.Statement (.icmpEchoRequest p target sender data) :=
  operands_none rfl rfl rfl
theorem Operands.icmpv6EchoRequest (p : Fin 12) (target : List Byte) (sender : List Byte) (data : List Byte) : Operands.Statement (.icmpv6EchoRequest p target sender data) :=
  operands_none rfl rfl rfl
theorem Operands.lldpFrame (p : Fin 12) (chassis : List Byte) (portId : Byte) : Operands.Statement (.lldpFrame p chassis portId) :=
  operands_none rfl rfl rfl
theorem Operands.pauseFrame (p : Fin 12) : Operands.Statement (.pauseFrame p) :=
  operands_none rfl rfl rfl
theorem Operands.nonKftFrame (p : Fin 12) : Operands.Statement (.nonKftFrame p) :=
  operands_none rfl rfl rfl
theorem Operands.ptpSync (p : Fin 12) (sequence : Word16) (rxTime : Nat) : Operands.Statement (.ptpSync p sequence rxTime) :=
  operands_none rfl rfl rfl
theorem Operands.ptpFollowUp (p : Fin 12) (sequence : Word16) (origin : Nat) : Operands.Statement (.ptpFollowUp p sequence origin) :=
  operands_none rfl rfl rfl
theorem Operands.ptpDelayReq (p : Fin 12) (sequence : Word16) (rxTime : Nat) : Operands.Statement (.ptpDelayReq p sequence rxTime) :=
  operands_none rfl rfl rfl
theorem Operands.ptpDelayResp (p : Fin 12) (sequence : Word16) (rxTime : Nat) : Operands.Statement (.ptpDelayResp p sequence rxTime) :=
  operands_none rfl rfl rfl
theorem Operands.ptpSyncInterval : Operands.Statement .ptpSyncInterval :=
  operands_none rfl rfl rfl
theorem Operands.ackInterval (p : Fin 12) : Operands.Statement (.ackInterval p) :=
  operands_none rfl rfl rfl
theorem Operands.retransmitTimeout (p : Fin 12) : Operands.Statement (.retransmitTimeout p) :=
  operands_none rfl rfl rfl
theorem Operands.retryExhausted (p : Fin 12) : Operands.Statement (.retryExhausted p) :=
  operands_none rfl rfl rfl
theorem Operands.responseTimeout (tid : Word32) : Operands.Statement (.responseTimeout tid) :=
  operands_none rfl rfl rfl
theorem Operands.ecnEchoTimeout (p : Fin 12) (cls : Fin 6) : Operands.Statement (.ecnEchoTimeout p cls) :=
  operands_none rfl rfl rfl
theorem Operands.rateAlphaInterval (p : Fin 12) (cls : Fin 6) : Operands.Statement (.rateAlphaInterval p cls) :=
  operands_none rfl rfl rfl
theorem Operands.rateRecoveryInterval (p : Fin 12) (cls : Fin 6) : Operands.Statement (.rateRecoveryInterval p cls) :=
  operands_none rfl rfl rfl
theorem Operands.discoveryInterval (p : Fin 12) : Operands.Statement (.discoveryInterval p) :=
  operands_none rfl rfl rfl
theorem Operands.lldpInterval : Operands.Statement .lldpInterval :=
  operands_none rfl rfl rfl
theorem Operands.laneLost (p : Fin 12) (lane : Fin 8) (bits : Nat) (codewords : Nat) : Operands.Statement (.laneLost p lane bits codewords) :=
  operands_none rfl rfl rfl
theorem Operands.laneRetrainComplete (p : Fin 12) (lanes : Byte) : Operands.Statement (.laneRetrainComplete p lanes) :=
  operands_none rfl rfl rfl
theorem Operands.laneRetrainTimeout (p : Fin 12) : Operands.Statement (.laneRetrainTimeout p) :=
  operands_none rfl rfl rfl
theorem Operands.stripeFlushTimeout (stripe : Nat) (reads : List DevRead) : Operands.Statement (.stripeFlushTimeout stripe reads) :=
  operands_none rfl rfl rfl
theorem Operands.reconstructionRateLimit (device : Fin 20) : Operands.Statement (.reconstructionRateLimit device) :=
  operands_none rfl rfl rfl
theorem Operands.deviceCommandTimeout (device : Fin 20) : Operands.Statement (.deviceCommandTimeout device) :=
  operands_none rfl rfl rfl
theorem Operands.dqsTracking (device : Fin 20) (retrainFailures : Nat) : Operands.Statement (.dqsTracking device retrainFailures) :=
  operands_none rfl rfl rfl
theorem Operands.refresh (mpd : Fin 4) (managed : List (Fin 5)) : Operands.Statement (.refresh mpd managed) :=
  operands_none rfl rfl rfl
theorem Operands.lpddr5xScrub (row : Nat) (group : Fin 4) (reads : List DevRead) (xorOk : Bool) (reader : ReadBy) : Operands.Statement (.lpddr5xScrub row group reads xorOk reader) :=
  operands_none rfl rfl rfl
theorem Operands.sramScrub (offset : Nat) (correctable : Bool) (uncorrectable : Bool) (reader : ReadBy) : Operands.Statement (.sramScrub offset correctable uncorrectable reader) :=
  operands_none rfl rfl rfl
theorem Operands.sampleDecodeStart (igd : Fin 2) : Operands.Statement (.sampleDecodeStart igd) :=
  operands_none rfl rfl rfl
theorem Operands.sampleComplete (igd : Fin 2) (engine : Fin 16) (busy : Nat) : Operands.Statement (.sampleComplete igd engine busy) :=
  operands_none rfl rfl rfl
theorem Operands.bitstreamFetchRetry (igd : Fin 2) (engine : Fin 16) : Operands.Statement (.bitstreamFetchRetry igd engine) :=
  operands_none rfl rfl rfl
theorem Operands.beatEpoch : Operands.Statement .beatEpoch :=
  operands_none rfl rfl rfl
theorem Operands.memorySpaceEnable (sizeLog2 : Option Nat) (cfg : ConfigWrite) : Operands.Statement (.memorySpaceEnable sizeLog2 cfg) :=
  operands_none rfl rfl rfl
theorem Operands.doeDiscovery (req : List Byte) : Operands.Statement (.doeDiscovery req) :=
  operands_none rfl rfl rfl

end Sys2Proof.Laws
end

