-- ==== Sys2Proof/Laws/Work.lean ====
section
/-! SUPPORT. What an instance's work begins with: its reads of LPDDR5X cost reconstructions on lost devices and nothing else
(R326, R327). -/

namespace Sys2Proof.Machine

open Sys2Proof

/-- A reconstruction is noted with its time and counted; nothing else changes. -/
theorem reconstruct_eq (s : State) (d n : Nat) : ∃ (r : Vector (List Nat) 20) (c : List CountRec),
    reconstruct s d n = { s with mem := { s.mem with reconTimes := r }, counts := c } := by
  unfold reconstruct
  split
  · exact ⟨s.mem.reconTimes, s.counts, rfl⟩
  · simp only [bump]
    split
    · exact ⟨_, s.counts, rfl⟩
    · exact ⟨_, _, rfl⟩

/-- What reads of space 0x1 can do: note and count reconstructions. -/
theorem chargeRead_eq (s : State) (off n : Nat) : ∃ (r : Vector (List Nat) 20) (c : List CountRec),
    chargeRead s off n = { s with mem := { s.mem with reconTimes := r }, counts := c } := by
  unfold chargeRead
  split
  · exact ⟨s.mem.reconTimes, s.counts, rfl⟩
  · generalize List.range 20 = ds
    induction ds generalizing s with
    | nil => exact ⟨s.mem.reconTimes, s.counts, rfl⟩
    | cons d ds ih =>
      rw [List.foldl_cons]
      split
      · obtain ⟨r, c, h⟩ := reconstruct_eq s d (unitsOn off n d)
        obtain ⟨r', c', h'⟩ := ih (reconstruct s d (unitsOn off n d))
        exact ⟨r', c', by rw [h', h]⟩
      · exact ih s

/-- What the reads of an instance can do: reconstructions, and the instance then waits for them (R327). -/
theorem chargeReads_eq (s : State) (w : Who) (rs : List (Nat × Nat)) :
    ∃ (r : Vector (List Nat) 20) (c : List CountRec) (b : List Who),
      chargeReads s w rs = { s with mem := { s.mem with reconTimes := r }, counts := c, beat := { s.beat with rebuilt := b } } := by
  have fold : ∀ (l : List (Nat × Nat)) (s : State), ∃ (r : Vector (List Nat) 20) (c : List CountRec),
      l.foldl (fun s x => chargeRead s (offsetOf x.1) x.2) s = { s with mem := { s.mem with reconTimes := r }, counts := c } := by
    intro l
    induction l with
    | nil => exact fun s => ⟨s.mem.reconTimes, s.counts, rfl⟩
    | cons x l ih =>
      intro s
      obtain ⟨r, c, h⟩ := chargeRead_eq s (offsetOf x.1) x.2
      obtain ⟨r', c', h'⟩ := ih (chargeRead s (offsetOf x.1) x.2)
      exact ⟨r', c', by rw [List.foldl_cons, h', h]⟩
  unfold chargeReads
  dsimp only
  split
  · obtain ⟨r, c, h⟩ := fold (rs.filter fun r => decide (0 < r.2) && isLocal s (nodeOf r.1) && spaceOf r.1 == 1) s
    rw [h]
    simp only [markRebuilt]
    split
    · exact ⟨r, c, s.beat.rebuilt, rfl⟩
    · exact ⟨r, c, _, rfl⟩
  · exact ⟨s.mem.reconTimes, s.counts, s.beat.rebuilt, rfl⟩

/-- While no device is lost, an instance's reads cost nothing. -/
theorem chargeReads_intact (s : State) (w : Who) (rs : List (Nat × Nat)) (h : ∀ d < 20, deviceLost s d = false) :
    chargeReads s w rs = s := by
  unfold chargeReads
  dsimp only
  rw [if_neg]
  simp only [List.any_eq_true, List.mem_range, Bool.and_eq_true, not_exists, not_and]
  intro x _ d hd hl
  rw [h d hd] at hl
  exact absurd hl (by decide)

/-- The state in which an instance works: it waits no more, and its reads are charged. -/
theorem workState_eq (s : State) (w : Who) (rs : List (Nat × Nat)) :
    ∃ (r : Vector (List Nat) 20) (c : List CountRec) (b : List Who),
      workState s w rs = { s with
        mem := { s.mem with reconTimes := r }, counts := c
        beat := { s.beat with deferred := s.beat.deferred.filter (·.who != w), rebuilt := b } } := by
  obtain ⟨r, c, b, h⟩ := chargeReads_eq { s with beat := { s.beat with deferred := s.beat.deferred.filter (·.who != w) } } w rs
  exact ⟨r, c, b, h⟩

/-! ### Its fields -/

@[simp] theorem workState_pending (s : State) (w : Who) (rs : List (Nat × Nat)) : (workState s w rs).pending = s.pending := by
  obtain ⟨_, _, _, h⟩ := workState_eq s w rs
  rw [h]
@[simp] theorem workState_freeIdx (s : State) (w : Who) (rs : List (Nat × Nat)) : (workState s w rs).freeIdx = s.freeIdx := by
  obtain ⟨_, _, _, h⟩ := workState_eq s w rs
  rw [h]
@[simp] theorem workState_timebase (s : State) (w : Who) (rs : List (Nat × Nat)) : (workState s w rs).timebase = s.timebase := by
  obtain ⟨_, _, _, h⟩ := workState_eq s w rs
  rw [h]
@[simp] theorem workState_power (s : State) (w : Who) (rs : List (Nat × Nat)) : (workState s w rs).power = s.power := by
  obtain ⟨_, _, _, h⟩ := workState_eq s w rs
  rw [h]
@[simp] theorem workState_flash (s : State) (w : Who) (rs : List (Nat × Nat)) : (workState s w rs).flash = s.flash := by
  obtain ⟨_, _, _, h⟩ := workState_eq s w rs
  rw [h]
@[simp] theorem workState_fw (s : State) (w : Who) (rs : List (Nat × Nat)) : (workState s w rs).fw = s.fw := by
  obtain ⟨_, _, _, h⟩ := workState_eq s w rs
  rw [h]
@[simp] theorem workState_mbox (s : State) (w : Who) (rs : List (Nat × Nat)) : (workState s w rs).mbox = s.mbox := by
  obtain ⟨_, _, _, h⟩ := workState_eq s w rs
  rw [h]
@[simp] theorem workState_units (s : State) (w : Who) (rs : List (Nat × Nat)) : (workState s w rs).units = s.units := by
  obtain ⟨_, _, _, h⟩ := workState_eq s w rs
  rw [h]
@[simp] theorem workState_pstate (s : State) (w : Who) (rs : List (Nat × Nat)) : (workState s w rs).pstate = s.pstate := by
  obtain ⟨_, _, _, h⟩ := workState_eq s w rs
  rw [h]
@[simp] theorem workState_program (s : State) (w : Who) (rs : List (Nat × Nat)) : (workState s w rs).program = s.program := by
  obtain ⟨_, _, _, h⟩ := workState_eq s w rs
  rw [h]
@[simp] theorem workState_step (s : State) (w : Who) (rs : List (Nat × Nat)) : (workState s w rs).step = s.step := by
  obtain ⟨_, _, _, h⟩ := workState_eq s w rs
  rw [h]
@[simp] theorem workState_seqs (s : State) (w : Who) (rs : List (Nat × Nat)) : (workState s w rs).seqs = s.seqs := by
  obtain ⟨_, _, _, h⟩ := workState_eq s w rs
  rw [h]
@[simp] theorem workState_gates (s : State) (w : Who) (rs : List (Nat × Nat)) : (workState s w rs).gates = s.gates := by
  obtain ⟨_, _, _, h⟩ := workState_eq s w rs
  rw [h]
@[simp] theorem workState_scales (s : State) (w : Who) (rs : List (Nat × Nat)) : (workState s w rs).scales = s.scales := by
  obtain ⟨_, _, _, h⟩ := workState_eq s w rs
  rw [h]
@[simp] theorem workState_versions (s : State) (w : Who) (rs : List (Nat × Nat)) : (workState s w rs).versions = s.versions := by
  obtain ⟨_, _, _, h⟩ := workState_eq s w rs
  rw [h]
@[simp] theorem workState_reduce (s : State) (w : Who) (rs : List (Nat × Nat)) : (workState s w rs).reduce = s.reduce := by
  obtain ⟨_, _, _, h⟩ := workState_eq s w rs
  rw [h]
@[simp] theorem workState_side (s : State) (w : Who) (rs : List (Nat × Nat)) : (workState s w rs).side = s.side := by
  obtain ⟨_, _, _, h⟩ := workState_eq s w rs
  rw [h]
@[simp] theorem workState_fabric (s : State) (w : Who) (rs : List (Nat × Nat)) : (workState s w rs).fabric = s.fabric := by
  obtain ⟨_, _, _, h⟩ := workState_eq s w rs
  rw [h]
@[simp] theorem workState_ingest (s : State) (w : Who) (rs : List (Nat × Nat)) : (workState s w rs).ingest = s.ingest := by
  obtain ⟨_, _, _, h⟩ := workState_eq s w rs
  rw [h]
@[simp] theorem workState_journal (s : State) (w : Who) (rs : List (Nat × Nat)) : (workState s w rs).journal = s.journal := by
  obtain ⟨_, _, _, h⟩ := workState_eq s w rs
  rw [h]
@[simp] theorem workState_spdm (s : State) (w : Who) (rs : List (Nat × Nat)) : (workState s w rs).spdm = s.spdm := by
  obtain ⟨_, _, _, h⟩ := workState_eq s w rs
  rw [h]
@[simp] theorem workState_out (s : State) (w : Who) (rs : List (Nat × Nat)) : (workState s w rs).out = s.out := by
  obtain ⟨_, _, _, h⟩ := workState_eq s w rs
  rw [h]
@[simp] theorem workState_sram (s : State) (w : Who) (rs : List (Nat × Nat)) : (workState s w rs).mem.sram = s.mem.sram := by
  obtain ⟨_, _, _, h⟩ := workState_eq s w rs
  rw [h]
@[simp] theorem workState_dram (s : State) (w : Who) (rs : List (Nat × Nat)) : (workState s w rs).mem.dram = s.mem.dram := by
  obtain ⟨_, _, _, h⟩ := workState_eq s w rs
  rw [h]
@[simp] theorem workState_buffers (s : State) (w : Who) (rs : List (Nat × Nat)) : (workState s w rs).mem.buffers = s.mem.buffers := by
  obtain ⟨_, _, _, h⟩ := workState_eq s w rs
  rw [h]
@[simp] theorem workState_devLost (s : State) (w : Who) (rs : List (Nat × Nat)) : (workState s w rs).mem.devLost = s.mem.devLost := by
  obtain ⟨_, _, _, h⟩ := workState_eq s w rs
  rw [h]
@[simp] theorem workState_groupGone (s : State) (w : Who) (rs : List (Nat × Nat)) : (workState s w rs).mem.groupGone = s.mem.groupGone := by
  obtain ⟨_, _, _, h⟩ := workState_eq s w rs
  rw [h]
@[simp] theorem workState_stripes (s : State) (w : Who) (rs : List (Nat × Nat)) : (workState s w rs).mem.stripes = s.mem.stripes := by
  obtain ⟨_, _, _, h⟩ := workState_eq s w rs
  rw [h]
@[simp] theorem workState_acks (s : State) (w : Who) (rs : List (Nat × Nat)) : (workState s w rs).mem.acks = s.mem.acks := by
  obtain ⟨_, _, _, h⟩ := workState_eq s w rs
  rw [h]

/-- As an instance issues, what is not its unit's own is that of the state before. -/
theorem atWork_eq (s : State) (w : Who) (p : PInstr) (rs : List (Nat × Nat)) :
    ∃ (r : Vector (List Nat) 20) (c : List CountRec) (b : List Who),
      atWork s w p rs = { issued s w p with
        mem := { s.mem with reconTimes := r }, counts := c
        beat := { s.beat with deferred := s.beat.deferred.filter (·.who != w), rebuilt := b } } :=
  workState_eq (issued s w p) w rs

end Sys2Proof.Machine
end

