-- ==== Sys2Proof/Tests/Slice0.lean ====
section
/-! SUPPORT. Tests: ill-formed commands that WellFormed refuses, results on small states taken from the spec's own
numbers, and for every clause of an obligation that has hypotheses a state and operands that meet all of them. -/

namespace Sys2Proof.Tests

open Sys2Proof Sys2Proof.Machine

set_option Elab.async false

/-! ### Small states -/

/-- A module that is powered and READY, with no program. -/
def up : State := { State.reset with
  power := { State.reset.power with mode := .active, computeStopped := false }
  mbox := { State.reset.mbox with module := .ready, mcpUp := true, memEnable := true } }

/-- The 48 payload bytes [63:16] of a command from fields (first byte, length, value). -/
def pay (fs : List (Nat × Nat × Nat)) : List Byte :=
  (List.range 48).map fun i => match fs.find? fun f => decide (f.1 ≤ i + 16) && decide (i + 16 < f.1 + f.2.1) with
    | some f => BitVec.ofNat 8 (f.2.2 / 256 ^ (i + 16 - f.1))
    | none => 0

/-- A command of the host on its ring. -/
def mk (op : Nat) (fs : List (Nat × Nat × Nat)) : Cmd :=
  { path := .pcie, ring := ringOf op, opcode := op, tag := 7, payload := pay fs }

/-- The command has been fetched and nothing else executes. -/
def on (s : State) (c : Cmd) : State := { s with mbox := { s.mbox with executing := [{ cmd := c, discard := false }] } }

/-- A program in a state, whatever it declares. -/
def within (s : State) (st : PState) (p : Program) : State := { s with pstate := st, program := some p }

/-- Node 1, every port up. -/
def wired : State := { up with fabric := { up.fabric with
  rcd := { up.fabric.rcd with node := 1 }, ports := up.fabric.ports.map fun q => { q with link := .up } } }

/-- The BAR2 windows of node 1 lie over space 0x1 of node 2. -/
def farWindows (routes : List (Nat × Nat)) : State := { wired with
  mbox := { wired.mbox with winBase := Vector.replicate 4 0x0002_1000_0000_0000#64 }, fabric := { wired.fabric with routes := routes } }

/-- A frame from node 2 to node 1, in its class, first in sequence. -/
def frame (typ : Nat) (arg : Nat) (len : Nat) (payload : List Byte) : Kft :=
  { mkFrame wired typ 1 0 len 9 (BitVec.ofNat 64 arg) payload with src := 2 }

/-- The frame as port 0 receives it. -/
def rx (typ : Nat) (arg : Nat) (len : Nat) (payload : List Byte) : Rx :=
  { port := 0, fcsOk := true, crcOk := true, f := frame typ arg len payload }

/-- The smallest header of R207: one working beat. -/
def hdr1 : Header :=
  { magic := 0x4752_504B, patch := 0, minor := 5, major := 2, seed := 0, digest := List.replicate 32 0, period := 0, working := 1,
    stoppage := 2, holdLimit := 1, holdMargin := 500, huddleBeat := 0, runAhead := 1, ftTiles := 0, btTiles := 0,
    gradeReserved := 0, sectionOffset := 128, sectionCount := 4, reserved := 0 }

/-- A program with no stage programs. -/
def prog0 : Program :=
  { hdr := hdr1, descs := [], kinds := [], layouts := [], peers := [], replicas := [], stages := [], persistent := [],
    ves := [], keep := [], recompute := [] }

theorem fst_eq {α β : Type} {x : α × β} {a : α} (h : x.1 = a) : x = (a, x.2) := by rw [← h]

theorem reads_of {s : State} {c : Cmd} {kind addr n : Nat} {host : HostRead} {data : List Byte}
    (h : (readData s c kind addr n host).1 = .bytes data) :
    Reads s c kind addr n host data (dropArrivals (readData s c kind addr n host).2 (cmdKey c)) := ⟨_, fst_eq h, rfl⟩

theorem readsImage_of {s : State} {c : Cmd} {kind addr : Nat} {host : HostRead} {data : List Byte}
    (h : (readImage s c kind addr host).1 = .bytes data) :
    ReadsImage s c kind addr host data (dropArrivals (readImage s c kind addr host).2 (cmdKey c)) := ⟨_, fst_eq h, rfl⟩

theorem gather_here {s : State} {c : Cmd} {reads : State → List (Nat × Nat)} (h : (gatherReads s c reads).1 = .bytes [])
    (none : firstFailure (asMcp s c) mcpUnit ((reads (asMcp s c)).filter fun r => decide (0 < r.2)) = none)
    (here : notYet (asMcp s c) mcpUnit ((reads (asMcp s c)).filter fun r => decide (0 < r.2)) = []) :
    gatherReads s c reads = (.bytes [], s) := Prod.ext h (by simp [gatherReads, none, here])

theorem toOption_get {α ε : Type} (x : Except ε α) (h : x.toOption.isSome = true) : x = .ok (x.toOption.get h) := by
  cases x with
  | ok a => rfl
  | error e => simp [Except.toOption] at h

/-- What the outside reports at a power-on that goes well. -/
def boot : BootIn :=
  { mv := 60000, profileSel := 0, bootRecordOk := true, configOk := true, seedOk := true, slotOk := true, settingsOk := true,
    failed := [], untrained := [] }

def noHints : LoadHints := { kinds := [], persistent := [], ve := [], keep := [], recompute := [] }

/-- A program object written out from R207 and R479: the header, four sections of length 0 and nothing else. -/
def object0 : List Byte :=
  leBytes 4 0x4752_504B ++ [0, 5, 2, 0] ++ List.replicate 40 0 ++ leBytes 2 0 ++ leBytes 2 1 ++ [2, 1] ++ leBytes 2 500 ++
    leBytes 2 0 ++ [1, 0, 0, 0, 0, 0] ++ leBytes 8 128 ++ leBytes 2 4 ++ List.replicate 54 0 ++
    ([1, 2, 3, 4].flatMap fun t => leBytes 8 t ++ leBytes 8 256 ++ List.replicate 16 0)

/-- The program that LOAD makes of it. -/
def program0 : Program := ((loadResult up object0 noHints).2).getD prog0

/-- An update engine's version slots. -/
def slots0 : VState :=
  { record := 0, unit := 0xA0, s0 := { tag := 0, fmt := 0, cond := .empty }, s1 := { tag := 0, fmt := 0, cond := .empty },
    spans := [], last := none }

/-- A program with one ingest descriptor whose digest is 0. -/
def progI : Program := { prog0 with descs := [List.replicate 64 0], kinds := [.ingest] }

def layout1 : Layout :=
  { tensor := 1, rank := 1, axis := 0, flags := 0, reserved := 0, sizes := [1, 0, 0, 0, 0, 0], order := [0, 0, 0, 0, 0, 0] }

/-- A program that declares the layout of tensor 1. -/
def progW : Program := { prog0 with layouts := [layout1] }

def withPower (p : Power) : State := { up with power := p }
def withMbox (m : Mbox) : State := { up with mbox := m }

/-- An excursion in progress. -/
def dip : Excursion := { lowMv := 43999, warned := false }
def dipped : State := withPower { up.power with excursion := some dip }

/-- Five rings of 16 entries, one command waiting on each. -/
def rings : State := withMbox { up.mbox with
  ringOn := Vector.replicate 5 true, ringSize := Vector.replicate 5 16, sqTail := Vector.replicate 4 1 }

/-- Event ring 4 off, with one event kept. -/
def keeping : State := withMbox { up.mbox with kept := [{ code := 0x0802, ring := 255, source := 0, seq := 0, lost := false, payload := [] }] }

/-- A stripe of space 0x1 that is still in the write buffer. -/
def stripe0 : Stripe := { number := 0, covered := 1 }
def gathering : State := { up with mem := { up.mem with stripes := [stripe0] } }
/-- View 0 of a Running program; its one sample is still to come. -/
def viewing : State :=
  { withMbox { up.mbox with winBase := Vector.replicate 4 (BitVec.ofNat 64 0xFFFF_2008_0000_0000) } with
    program := some { hdr := hdr1, descs := [(List.range 64).map fun i => if i = 30 ∨ i = 32 ∨ i = 34 ∨ i = 36 then 1 else 0]
                      kinds := [.ingest], layouts := [], peers := [], replicas := [], stages := [], persistent := []
                      ves := [], keep := [], recompute := [] } }
/-- Windows over another space than 0x1. -/
def windows (space : Nat) : State :=
  withMbox { up.mbox with winBase := Vector.replicate 4 (BitVec.ofNat 64 (0xFFFF * 2 ^ 48 + space * 2 ^ 44)) }

/-- In a compute reset, with a command started. -/
def inModule (m : ModState) (s : State) : State := { s with mbox := { s.mbox with module := m } }
def tooHot (s : State) : State := { s with power := { s.power with thermalFault := true } }
def onTrial (s : State) : State := { s with fw := { s.fw with trial := true } }
/-- The identity seed is there (R400); its value is none of the tests' concern. -/
def withSeed (s : State) : State := { s with fw := { s.fw with seed := some (List.replicate 32 1) } }
def oneDue : Vector Nat 64 := Vector.replicate 64 1
def gating0 : State := setPort up 0 { up.fabric.ports[0] with link := .gating }
def throttled (mhz : Nat) : State := withPower { up.power with throttling := true, thermalMhz := some mhz }
def standby : State := { State.reset with power := { State.reset.power with mode := .standby, resetInLow := true } }
def tripped : State := { State.reset with power := { State.reset.power with hardTrip := true } }

/-- A HALT command as host memory holds it. -/
def rawHalt : List Byte := leBytes 8 0x0108 ++ leBytes 8 0xFFFF ++ List.replicate 48 0

/-- The digest that the catalogue of `progI` has. -/
def gotI : Nat := ((catalogueMismatch (within up .loaded progI) []).map (·.2.2)).getD 0

/-- The context image of a program with nothing in it. -/
def image0 : List Byte := contextImage (within up .paused prog0) prog0

/-- A DMA of 64 bytes from the host to offset 64 of space 0x0. -/
def dmaIn0 : Cmd := mk 0x0601 [(24, 8, 0xFFFF_0000_0000_0040), (32, 8, 64)]

/-- What offset 0 of window 0 reaches at reset. -/
def winAddr : Nat := 0xFFFF_1000_0000_0000

/-- 64 bytes of a descriptor from fields (first byte, length, value). -/
def desc (fs : List (Nat × Nat × Nat)) : List Byte :=
  (List.range 64).map fun i => match fs.find? fun f => decide (f.1 ≤ i) && decide (i < f.1 + f.2.1) with
    | some f => BitVec.ofNat 8 (f.2.2 / 256 ^ (i - f.1))
    | none => 0

/-- A global address of this module. -/
def here (space off : Nat) : Nat := 0xFFFF * 2 ^ 48 + space * 2 ^ 44 + off

/-! ### Programs, units and instances -/

def layer5 : List Byte := desc [(0, 4, 5), (13, 1, 3)]
def progL : Program := { prog0 with descs := [layer5], kinds := [.layer] }

/-- An instruction of a class, in beat 0, that neither waits nor signals. -/
def ins (cls d operand : Nat) : PInstr :=
  { cls := cls, stream := 0, reserved := 0, waitToken := 0, signalToken := 0, waitMode := 0, signalMode := 0, waitInc := 0,
    waitTarget := 0, beat := 0, count := 1, stride := 0, desc := d, operand := operand }

/-- A Running program of one instruction on one unit, which a physical unit of a kind of R436 holds. -/
def at1 (unit kind : Nat) (p : PInstr) (ds : List (List Byte)) (ks : List DescKind) : State :=
  { within up .running { prog0 with descs := ds, kinds := ks, stages := [{ unit := unit, tokens := [], f := [p], b := [], u := [] }] }
    with units := [mkUnit kind (unit / 256) 0 (some unit) .inService 0], seqs := [{ unit := unit }]
         beat := { up.beat with started := true } }

def who1 (unit : Nat) : Who := { unit := unit, stream := .F, index := 0, inst := 0 }

/-- An address in the SRAM of tile 0x01 (R91). -/
def own (off : Nat) : Nat := here 0 (0x010_0020_0000 + off)

/-- A product of two K16 tensors of one element into a third. -/
def pass0 : PInstr := ins 2 0 0x10000
def product0 : List Byte :=
  desc [(0, 2, 1), (2, 2, 1), (4, 2, 2), (6, 2, 0xFFFF), (20, 4, 1), (24, 4, 1), (28, 4, 1)]
def passState : State :=
  at1 0x01 1 pass0 [product0, desc [(0, 8, own 0)], desc [(0, 8, own 64)]] [.product, .plain, .outStage]
def passRes : Except (Nat × Nat × Nat × Nat) PassEnv := passEnv (issued passState (who1 1) pass0) (who1 1) pass0

/-- The same product of operands in another tile's SRAM. -/
def strayState : State :=
  at1 0x01 1 pass0 [product0, desc [(0, 8, here 0 0)], desc [(0, 8, own 64)]] [.product, .plain, .outStage]
def strayV : PassEnv := (passEnv (issued strayState (who1 1) pass0) (who1 1) pass0).toOption.get (by decide +kernel)

/-- An add and a flag read of a vector engine (R48, R204). -/
def veDesc0 : VeDesc :=
  { a := { base := BitVec.ofNat 64 (here 0 0), fmt := .b32 }, b := { base := BitVec.ofNat 64 (here 0 4), fmt := .b32 }
    c := { base := 0, fmt := .b32 }, dst := { base := BitVec.ofNat 64 (here 0 8), fmt := .b32 }, count := 1, first := 0
    layA := 0xFFFF, lay := 0xFFFF, tensor := 1, slot := 0 }
def codeOf (f : VeFn) : Nat := (veFns.findIdx (· == f))
def veState (f : VeFn) : State :=
  let s := at1 0x83 3 (ins 3 0 (codeOf f)) [List.replicate 64 0] [.ve]
  { s with program := s.program.map fun p => { p with ves := [(0, veDesc0)] } }
def addOp : VeOp := { veDesc0 with fn := .add, rnd := .nearestEven, stream := 0 }

def row0 : List Byte := desc [(0, 8, here 0 0), (24, 8, here 0 64), (40, 4, 1), (44, 4, 2)]
def move0 : List Byte := desc [(0, 8, here 0 0), (8, 8, here 1 0), (16, 8, 64)]
def ckpt0 : List Byte := desc [(0, 8, here 0 0), (8, 8, here 0 4096), (16, 8, 64)]
def bucket0 : List Byte :=
  desc [(4, 2, 1), (8, 8, here 0 0), (16, 8, here 0 4096), (24, 8, here 0 8192), (32, 8, here 0 12288), (52, 4, 256)]
def ingest0 : List Byte := desc [(0, 8, here 1 0), (32, 1, 1), (33, 1, 1), (24, 4, 1)]
def progB : Program := { prog0 with descs := [bucket0], kinds := [.bucket] }

/-- The plan of bucket 0 takes no contribution of this module. -/
def quiet (s : State) : State := { s with reduce := { s.reduce with plans := Vector.replicate 64 (some 0x0000_0001_0000_FF00#64) } }

/-- Bucket 0's result has one segment of exponent 1. -/
def finishState : State :=
  { at1 0x83 3 (ins 8 0 1) [bucket0] [.bucket] with mem := { up.mem with sram := [(4096 + 1024 + 4, 1)] } }
def finished0 : Option (List Val) × State :=
  let b := parseBucket bucket0
  let t := atWork finishState (who1 0x83) (ins 8 0 1) [(b.result, 1040 * b.segments), (b.segTable, 32 * b.segments)]
  finishSegs (who1 0x83) b t.step.toNat [] (List.range b.segments) [] t
def normState : State := at1 0x83 3 (ins 8 0 0x10002) [bucket0] [.bucket]
def normProg : Program := normState.program.getD prog0

def flight1 : InFlight := { stream := .F, index := 0, inst := 0, finished := false, waiting := 0 }
def flying : SeqUnit := { unit := 0x83, posF := (1, 0), flight := [flight1] }
def inFlight1 (s : State) : State := { s with seqs := [flying] }

def passV : PassEnv := passRes.toOption.get (by decide +kernel)

/-- The same product over a block of K4 that has been refetched; its scale word 0 does not fit its parity, 1 does. -/
def blocks0 : List Byte := desc [(0, 8, own 0), (8, 8, own 1024), (16, 8, own 2048), (24, 8, own 3072), (32, 4, 1)]
def refetching (scale : Byte) : State :=
  let s := at1 0x01 1 pass0 [product0, blocks0, desc [(0, 8, own 64)]] [.product, .block, .outStage]
  { s with beat := { s.beat with refetch := [{ who := who1 1, stale := [], blocks := [(own 0, 0)] }] }
           mem := { s.mem with sram := writeBytes [] 0x010_0020_0400 [scale] } }
def badV : PassEnv := (passEnv (refetching 0) (who1 1) pass0).toOption.get (by decide +kernel)
def goodV : PassEnv := (passEnv (refetching 1) (who1 1) pass0).toOption.get (by decide +kernel)
def rects (v : PassEnv) : List Rect := (namedPasses v.p pass0).map (passRect v.p)
/-- The refetch has come back. -/
def tried (scale : Byte) : State :=
  let s := refetching scale
  { s with beat := { s.beat with refetch := [] } }
def retried (scale : Byte) (v : PassEnv) : State :=
  workState (tried scale) (who1 1) (rectReads (tried scale) 1 v (rects v))
def badFault : BlockDesc × Skew :=
  (rectFault (retried 0 badV) 1 badV (rects badV) (overlay [] (peek (retried 0 badV) 1))).get (by decide +kernel)

/-- The same instruction over a version record that has no state. -/
def faultState : State :=
  at1 0x01 1 pass0 [desc [(0, 2, 1), (2, 2, 1), (4, 2, 2), (6, 2, 0xFFFF)], desc [(4, 4, 9)]] [.product, .version]

/-- One row waits at a fill gate of group 7. -/
def gate1 : GateGroup := { unit := 1, group := 7, slot := 3, rows := [{ stream := .F, index := 0, inst := 0, row := 0, arrived := 0 }] }
def gated : State :=
  { within up .running { prog0 with descs := [[], [], [], desc [(8, 1, 7)]], kinds := [.unused, .unused, .unused, .fillGate] } with
    gates := [gate1] }

/-- An update whose two version records are writing the slot of step 1, and its schedule's entry at offset 0. -/
def updateDesc0 : List Byte := desc [(4, 2, 0xFFFF), (6, 2, 0xFFFF), (8, 2, 1), (10, 2, 2), (44, 8, here 0 0)]
def updateState (kind : Nat) : State :=
  let v (r : Nat) : VState := { record := r, unit := 0xA0, s0 := { tag := 0, fmt := 0, cond := .home }
                                s1 := { tag := 1, fmt := 0, cond := .writing }, spans := [], last := none }
  let s := at1 0xA0 5 (ins 7 0 (kind * 0x40000000)) [updateDesc0, desc [], desc []] [.update, .version, .version]
  { s with versions := [v 1, v 2], beat := { s.beat with committed := true } }
def updateProg (kind : Nat) : Program := (updateState kind).program.getD prog0

/-- An update of 32 elements whose first moment's scale word does not fit its parity. -/
def momentState : State :=
  let u := desc [(0, 2, 2), (2, 2, 3), (4, 2, 1), (6, 2, 0xFFFF), (8, 2, 0xFFFF), (10, 2, 0xFFFF), (18, 2, 1), (20, 4, 32),
                 (44, 8, here 0 0)]
  let m := desc [(0, 8, here 0 0x1000), (8, 8, here 0 0x2000), (16, 8, here 0 0x3000), (24, 8, here 0 0x4000), (32, 4, 1)]
  let s := at1 0xA0 5 (ins 7 0 0) [u, m, desc [(0, 8, here 0 0x5000)], desc [(0, 8, here 0 0x6000)]]
    [.update, .block, .plain, .plain]
  { s with beat := { s.beat with committed := true } }
/-- The main pass as the only instruction of a U-stream. -/
def uState : State := { updateState 0 with program := (updateState 0).program.map fun g =>
  { g with stages := g.stages.map fun x => { x with f := [], u := x.f } } }

def momentProg : Program := momentState.program.getD prog0

def versionProg : Program := { prog0 with descs := [desc [(0, 2, 1), (2, 2, 1), (4, 4, 9)], desc [(40, 1, 1)]], kinds := [.version, .block] }
def held1 : VState :=
  { record := 0, unit := 0xA0, s0 := { tag := 0, fmt := 1, cond := .home }, s1 := { tag := 0, fmt := 1, cond := .held }
    spans := [], last := none }
def writing1 : VState := { held1 with s1 := { tag := 1, fmt := 1, cond := .writing } }
def heldState : State :=
  { within up .running versionProg with versions := [held1], seqs := [{ unit := 0xA0 }], beat := { up.beat with committed := true } }
def writingState : State := { heldState with versions := [writing1] }

/-- A context whose persistent tensor has a block that does not fit its parity. -/
def badSaved : Program :=
  { prog0 with descs := [desc [(0, 8, here 0 0x1000), (8, 8, here 0 0x2000), (16, 8, here 0 0x3000), (24, 8, here 0 0x4000),
                               (32, 4, 1), (36, 4, 1)]], kinds := [.block], persistent := [1], layouts := [layout1] }

/-- A context whose persistent tensor lies in a hole of space 0x0. -/
def holed : Program :=
  { prog0 with descs := [desc [(0, 8, here 0 0x3_0000_0000), (8, 4, 1)]], kinds := [.plain], persistent := [1], layouts := [layout1] }
/-- Its image, with zeros for the tensor. -/
def imageH : List Byte := contextImage (within up .paused holed) holed

def track1 : List Byte := desc [(0, 4, 9), (6, 1, 2)]
def tracker1 : Tracker :=
  { freshTracker (parseTrack track1) with headroom := 2, adj := 14, last := { noStat 9 with written := true } }
def tracker15 : Tracker := { tracker1 with adj := 15 }
def tracking (t : Tracker) : State :=
  { within up .running { prog0 with descs := [track1], kinds := [.tracker] } with scales := { up.scales with trackers := [t] } }
def layerS : List Byte := desc [(0, 4, 5), (13, 1, 3), (15, 1, 1), (28, 2, 0x3C00), (30, 2, 2)]
def stallProg : Program := { prog0 with descs := [layerS], kinds := [.layer] }
def layer1 : LayerState := { freshLayer (parseLayer layerS) with stall := 2 }
def stallState : State := { within up .running stallProg with scales := { up.scales with layers := [layer1] } }

/-! ### Beats, whistles and huddles -/

/-- A program in beat 0 of its first step, the hold point passed. -/
def beating : State := { within up .running prog0 with beat := { up.beat with started := true, atHoldPoint := true } }
def noAbort : Decision := { hold := true, abort := false, causes := 0 }

/-- The period's decision is at hand. -/
def deciding (d : Decision) (number : Nat) (committed : Bool) : State := { beating with
  beat := { beating.beat with upSent := true, down := some d, stoppage := 2, number := number, committed := committed } }
def preEpoch : State := { beating with beat := { beating.beat with started := false, upSent := true, down := some { noAbort with hold := false } } }
def withChild : State :=
  { within wired .running prog0 with fabric := { wired.fabric with rcd := { wired.fabric.rcd with whistleChildren := 1 } }
                                     beat := { up.beat with started := true } }
def withParent : State :=
  { within wired .running prog0 with fabric := { wired.fabric with rcd := { wired.fabric.rcd with whistleParent := 0 } }
                                     beat := { up.beat with started := true } }
/-- The child's link is lost. -/
def childLost : State := { setPort withChild 0 { withChild.fabric.ports[0] with link := .down } with
  beat := { withChild.beat with atHoldPoint := true, committed := true } }
def aborting : State := { beating with beat := { beating.beat with abortFlags := 4 } }
def lastFrame (x : Rx) : Rx := { x with f := { x.f with flags := 4 } }
def noHuddle : Huddle :=
  { step := 0, stepCompl := 0, ready := 0, abortFlags := 0, abortNode := 0, members := 1, pause := 0, digests := [], tracks := []
    layers := [] }

/-! ### The unit table -/

def withUnits (us : List UnitEntry) : State := { up with units := us }
def tile3 : TileId := { td := 0, kind := .ft, index := 3 }
def unit3 (c : Cond) (l : Option Nat) : UnitEntry := mkUnit 1 0 3 l c 0
def spare24 : UnitEntry := mkUnit 1 0 24 none .spare 0
def tiles (c : Cond) (l : Option Nat) : State := withUnits [unit3 c l, spare24]
def ve3 : UnitEntry := mkUnit 3 0 3 (some 0x83) .inService 0
def osd0 : UnitEntry := mkUnit 8 0 0 none .inService 0
def pipe (i : Nat) (c : Cond) : UnitEntry := mkUnit 0xA 8 i none c 0

/-! ### Commands in other states -/

def started (cs : List Cmd) : State := withMbox { up.mbox with executing := cs.map fun c => { cmd := c, discard := false } }

/-- The first 512 bytes of a bundle whose body has 512 bytes. -/
def piece0 : List Byte := List.replicate 24 0 ++ leBytes 4 512 ++ List.replicate 484 0
def staged (s : State) : State := { s with flash := { s.flash with staging := piece0 } }
def stagedFully (s : State) : State := { s with flash := { s.flash with staging := piece0, stagingComplete := true } }
theorem leBytes_length (n v : Nat) : (leBytes n v).length = n := by
  induction n generalizing v with
  | zero => rfl
  | succ n ih => simp [leBytes, ih]

theorem sm3_length (msg : List Byte) : (sm3 msg).length = 32 := by
  simp [sm3, beBytes, leBytes_length]

/-- A bundle of one empty component table over a body of 4,096 zero bytes, with a body digest (R410). -/
def bundleOf (digest body : List Byte) : List Byte :=
  leBytes 4 0x4E44_4C42 ++ leBytes 2 1 ++ leBytes 2 0x3250 ++ [4, 0, 0, 0, 0, 0, 4, 0] ++ leBytes 4 1 ++ leBytes 2 3 ++ [0, 0] ++
    leBytes 4 4096 ++ [0, 0, 0, 0] ++ (digest ++ (List.replicate 448 0 ++ body))

theorem bundle_digest (d b : List Byte) (h : d.length = 32) : sub (bundleOf d b) 32 32 = d := by
  rw [sub, bundleOf, List.drop_left' (by simp [leBytes_length]), List.take_left' h]

theorem bundle_body (d b : List Byte) (h : d.length = 32) : (bundleOf d b).drop 512 = b := by
  rw [bundleOf, ← List.append_assoc, ← List.append_assoc, List.drop_left']
  rw [List.length_append, List.length_append, List.length_replicate, h]
  simp [leBytes_length]

set_option maxRecDepth 20000 in
theorem bundle_head (x d b : List Byte) (h : d.length = 32) (signed : ∀ k m s, Config.folaelSigned k m s = true) :
    headerCheck
      { up.flash with staging := x, stagingComplete := true } ((bundleOf d b).take 512) = 0 := by
  unfold headerCheck
  simp only [signed]
  match d, h with
  | [_, _, _, _, _, _, _, _, _, _, _, _, _, _, _, _, _, _, _, _, _, _, _, _, _, _, _, _, _, _, _, _], _ => with_unfolding_all rfl

def body0 : List Byte := List.replicate 4096 0
def bundle0 : List Byte := bundleOf (sm3 body0) body0
def installing : State := { up with flash := { up.flash with staging := bundle0, stagingComplete := true }
                                    fw := { up.fw with activation := some 5, seed := some (List.replicate 32 1) } }
def scheduled : State := { up with fw := { up.fw with activation := some 0 } }
def scheduledOn (s : State) : State := { s with fw := { s.fw with activation := some 5 } }
def confirmable (s : State) : State := { s with fw := { s.fw with trial := true, trialReady := true } }

/-- A port record with its reset values and 0 elsewhere (R292). -/
def portRec0 : List Byte :=
  [0xFF, 0xFF, 0x01, 0x01, 0, 0, 0xA6, 0xB8] ++ List.replicate 44 0 ++ [46, 40, 26, 26, 18, 10, 0, 1, 200, 0, 0, 0]
def portRec0Parsed : PortRec := { ownMac := 0 }

/-- The journal image of a program with nothing in it, laid into space 0x1. -/
def journal0 : List Byte :=
  let s := within up .loaded prog0
  let img := buildImage journalMagic 0 hdr1.digest (contextSections s prog0)
  buildImage journalMagic 0 hdr1.digest (journalSections { s with journal := { s.journal with image := img } } prog0)
def tail0 : Section × Section × Section := (journalTail journal0).get (by decide +kernel)
def inStore (s : State) (b : List Byte) : State :=
  { s with mem := { s.mem with dram := (b.zipIdx.filter fun x => x.1 != 0).map fun x => (x.2, x.1) } }

def talking (t : Spdm) : State := { up with spdm := #v[t, t] }
def talked : Spdm := { version := some 0x12, caps := true, algs := true }
/-- With an alias key; its value is none of the tests' concern (R401). -/
def signing : State := { talking talked with fw := { up.fw with aliasKey := some 1 } }

/-! ### Squads and the fabric -/

def member : State := { wired with fabric := { wired.fabric with rcd := { wired.fabric.rcd with captain := 2 } } }
def captain : State := { wired with mbox := { wired.mbox with squad := [2] } }
def proxying (c : Cmd) : State := withMbox { up.mbox with proxied := [{ node := 2, cmd := c, stage := .forwarded }] }
/-- A completion of tag 7 whose first value is 256. -/
def completion7 (op : Nat) : Event :=
  { code := 1, ring := 255, source := 2, seq := 0, lost := false
    payload := leBytes 8 (7 + op * 2 ^ 48) ++ leBytes 8 256 ++ List.replicate 8 0 }

def port0 (q : Port) : State := setPort wired 0 q
def laned (flags : Byte) : Port :=
  { wired.fabric.ports[0] with fkm := true, rcd := { wired.fabric.ports[0].rcd with flags := flags } }
/-- A frame that waits on port 0 under the record it was queued with. -/
def waiting0 : Queued := { f := frame 0x01 0 4 [], rcd := { ownMac := 0 } }
def queued : State := port0 { wired.fabric.ports[0] with queues := #v[[], [], [waiting0], [], [], []] }
def timed : State := { wired with fabric := { wired.fabric with rcd := { wired.fabric.rcd with timeParent := 0 } } }
def toward (node : Word16) (x : Rx) : Rx := { x with f := { x.f with dst := node } }
def failing (x : Rx) : Rx := { x with f := { x.f with status := 1 } }

/-- An add of 1 to the 8 bytes at offset 8 of space 0x0. -/
def atomic0 : Rx := rx 0x05 (here 0 8) 0 ([0, 8] ++ List.replicate 6 0 ++ leBytes 8 1 ++ List.replicate 8 0)
def atomicData : List Byte :=
  leBytes 8 (atomicNew (field atomic0.f.payload 0 1) 8 (leNat (List.replicate 8 (0 : Byte))) (field atomic0.f.payload 8 8)
    (field atomic0.f.payload 16 8))
def bulk0 : Rx := lastFrame (rx 0x08 (here 0 64) 0 [1, 2, 3, 4])
def zeroSeg : List Byte := segHdrBytes { tag := 1, kind := 2, down := false, number := 1, exponent := 0, flag := false, amax := 0,
                                         contributors := 1, residues := [0, 0, 0, 0] }
def zeroSeg0 : List Byte := segHdrBytes { tag := 1, kind := 2, down := false, number := 0, exponent := 0, flag := false, amax := 0,
                                          contributors := 1, residues := [0, 0, 0, 0] }
def zeroWire0 : WireSeg := (parseSegs 16 zeroSeg0).headD (wireSegment 0 0 0 false 0 0 false [])
def downSeg0 : List Byte := segHdrBytes { tag := 1, kind := 2, down := true, number := 0, exponent := 0, flag := false, amax := 0,
                                          contributors := 2, residues := [0, 0, 0, 0] }
def downWire0 : WireSeg := (parseSegs 16 downSeg0).headD (wireSegment 0 0 0 false 0 0 false [])
def zeroWire : WireSeg := (parseSegs 16 zeroSeg).headD (wireSegment 0 0 0 false 0 0 false [])

def txn (typ : Nat) (o : Owner) : Txn := { tid := 9, typ := typ, port := 0, node := 2, addr := 0, len := 4, owner := o }
def waitingFor (typ : Nat) (o : Owner) : State := { wired with fabric := { wired.fabric with txns := [txn typ o] } }
def bulk1 : Bulk := { tid := 9, node := 2, inward := false, src := 0, dst := 0x1000, len := 64, acked := 0, rest := 0,
                      served := false, owner := .dma (mk 0x0601 []) }
def bulkIn1 : Bulk := { bulk1 with inward := true, owner := .unit (who1 0xA2) }
def asking : State := { wired with fabric := { wired.fabric with bulks := [bulkIn1] } }
def bulking : State := { wired with fabric := { wired.fabric with bulks := [bulk1] } }

/-! ### Samples -/

def sample0 : Sample := { slot := 0, step := 0, b := 0 }
def ingestS : List Byte := desc [(0, 8, here 1 0), (24, 4, 1), (31, 1, 1), (32, 1, 1), (33, 1, 1)]
def progS : Program := { prog0 with descs := [ingestS], kinds := [.ingest] }
def sampling : State :=
  { within up .running progS with ingest := { up.ingest with queues := Vector.replicate 2 [sample0] }
                                  units := [mkUnit 0xC 10 0 none .inService 0] }

/-- Engine 0 decodes sample 0; its catalogue entry names an empty bitstream in space 0x1. -/
def decoding : State :=
  { within up .running progS with ingest := { up.ingest with engines := Vector.replicate 32 (some sample0) }
                                  mem := { up.mem with dram := [(5, 0x10), (6, 0xFF), (7, 0xFF)] } }


theorem passV_eq : passEnv (issued passState (who1 1) pass0) (who1 1) pass0 = .ok passV := toOption_get _ _
/-! ### Witnesses: states and operands that meet the hypotheses of every clause -/

theorem witness_stepRunsFront_1 :
    ∃ (s : State) (c : Instr) (rest : List Instr), s.pending = c :: rest :=
  ⟨{ up with pending := [.heartbeatTick] }, .heartbeatTick, [], by decide +kernel⟩

theorem witness_idleCountsOneNanosecond_1 :
    ∃ (s : State), s.pending = [] :=
  ⟨up, by decide +kernel⟩

theorem witness_stepsKeepMemoryCanonical_1 :
    ∃ (s : State) (t : State), MemOk s ∧ step s = .next t :=
  ⟨{ up with pending := [] }, { up with timebase := 1 }, by unfold MemOk; decide, rfl⟩

theorem witness_localWriteReadsBack_1 :
    ∃ (m : Memory), Memory.wf m = true :=
  ⟨[(3, 7)], by decide +kernel⟩

theorem witness_localWriteReadsBack_2 :
    ∃ (s : State) (t : State) (space : Nat) (off : Nat) (data : List Byte), MemOk s ∧ data ≠ [] ∧ writeLocal s space
    off data = (0, t) ∧ (space = 0 → ∀ l ∈ s.mem.lostLines, l < off + data.length → off < l + 64 → off ≤ l ∧ l + 64 ≤
    off + data.length) :=
  ⟨up, (writeLocal up 0 0x2_FFFF_FFFF [9]).2, 0, 0x2_FFFF_FFFF, [9],
    by unfold MemOk; decide, by decide, fst_eq (by decide +kernel), by decide⟩

theorem witness_localAccessErrors_1 :
    ∃ (space : Nat), 2 < space :=
  ⟨3, by decide +kernel⟩

theorem witness_localAccessErrors_2 :
    ∃ (off : Nat) (n : Nat), 0x80_0000_0000 < off + n :=
  ⟨0x7F_FFFF_FFFF, 2, by decide +kernel⟩

theorem witness_localAccessErrors_3 :
    ∃ (off : Nat) (data : List Byte), 0x80_0000_0000 < off + data.length :=
  ⟨0x80_0000_0000, [1], by decide +kernel⟩

theorem witness_localAccessErrors_4 :
    ∃ (s : State) (off : Nat) (n : Nat), inReset s = false ∧ sramPopulated s off n = false :=
  ⟨up, 0x3_0000_0000, 1, by decide +kernel⟩

theorem witness_localAccessErrors_5 :
    ∃ (s : State) (off : Nat) (data : List Byte), inReset s = false ∧ sramPopulated s off data.length = false :=
  ⟨up, 0x5FFF_FFFF, [1, 2], by decide +kernel⟩

theorem witness_localAccessErrors_6 :
    ∃ (s : State) (off : Nat) (n : Nat), inReset s = false ∧ bufferPopulated off n = false ∧ viewPlace s off n = none
    :=
  ⟨up, 0x1800_0000, 1, by decide +kernel⟩

theorem witness_localAccessErrors_7 :
    ∃ (s : State), s.mem.retention = false ∧ inReset s = true :=
  ⟨inModule .computeReset up, by decide +kernel⟩

theorem witness_stripeMapInjective_1 :
    ∃ (o : Nat) (p : Nat), o < 2 ^ 39 ∧ p < 2 ^ 39 :=
  ⟨2 ^ 39 - 1, 0, by decide +kernel⟩

theorem witness_supplyVoltage_1 :
    ∃ (s : State) (mv : Nat), isPowered s = true ∧ mv < 44000 ∧ s.power.excursion = none :=
  ⟨up, 43999, by decide +kernel⟩

theorem witness_supplyVoltage_2 :
    ∃ (s : State) (mv : Nat) (e : Excursion), isPowered s = true ∧ mv < 44000 ∧ s.power.excursion = some e :=
  ⟨dipped, 43998, dip, by decide +kernel⟩

theorem witness_supplyVoltage_3 :
    ∃ (s : State) (mv : Nat) (e : Excursion), isPowered s = true ∧ mv ≤ 42000 ∧ s.power.warning = false ∧
    s.power.excursion = some e ∧ e.ended = false :=
  ⟨dipped, 42000, dip, by decide +kernel⟩

theorem witness_supplyVoltage_4 :
    ∃ (s : State) (mv : Nat) (e : Excursion), isPowered s = true ∧ 44000 ≤ mv ∧ s.power.excursion = some e :=
  ⟨dipped, 44000, dip, by decide +kernel⟩

theorem witness_supplyVoltage_5 :
    ∃ (s : State) (mv : Nat), isPowered s = true ∧ mv ≤ 38000 :=
  ⟨up, 38000, by decide +kernel⟩

theorem witness_supplyVoltage_6 :
    ∃ (s : State) (mv : Nat), isPowered s = true ∧ 60000 < mv :=
  ⟨up, 60001, by decide +kernel⟩

theorem witness_powerOn_1 :
    ∃ (s : State) (b : BootIn) (img : Image), s.power.mode = .off ∧ 44000 ≤ b.mv ∧ b.mv ≤ 60000 ∧ s.power.hardTrip =
    false ∧ s.power.resetInLow = false ∧ Boots s b img :=
  ⟨State.reset, boot, factoryImage, by unfold Boots; decide +kernel⟩

theorem witness_powerLoss_1 :
    ∃ (s : State), isPowered s = true :=
  ⟨up, by decide +kernel⟩

theorem witness_powerOn_2 :
    ∃ (s : State) (b : BootIn) (img : Image), s.power.resetInLow = true ∧ isPowered s = false ∧ 44000 ≤ b.mv ∧ b.mv
    ≤ 60000 ∧ Boots s b img :=
  ⟨standby, boot, factoryImage, by unfold Boots; decide +kernel⟩

theorem witness_powerLoss_2 :
    ∃ (s : State) (die : Nat) (celsius : Nat), isPowered s = true ∧ (115 ≤ celsius ∨ (coolDies die = true ∧ 110 ≤
    celsius)) :=
  ⟨up, 8, 110, by decide +kernel⟩

theorem witness_powerOn_3 :
    ∃ (s : State), s.power.mode = .off ∧ s.power.hardTrip = true :=
  ⟨tripped, by decide +kernel⟩

theorem witness_portBringUp_1 :
    ∃ (s : State) (p : Fin 12), isPowered s = true ∧ s.mbox.mcpUp = true ∧ enabled s.fabric.ports[p] = true ∧
    s.fabric.ports[p].link = .training ∧ s.fabric.ports[p].lanes ≠ 0 ∧ s.fabric.ports[p].noGate = false :=
  ⟨up, 0, by decide +kernel⟩

theorem witness_portBringUp_2 :
    ∃ (s : State) (p : Fin 12) (ratio : Byte) (codewords : Byte) (ms : List LaneTest), s.fabric.ports[p].link = .gating
    ∧ (ratioLanes ratio.toNat ms ||| codewordLanes codewords.toNat ms) &&& s.fabric.ports[p].lanes.toNat = 0 :=
  ⟨gating0, 0, 0, 0, [{ lane := 7, bits := 1000000, errors := 1, codewords := 0 }], by decide +kernel⟩

theorem witness_portBringUp_3 :
    ∃ (s : State) (p : Fin 12) (ratio : Byte) (codewords : Byte) (ms : List LaneTest), s.fabric.ports[p].link = .gating
    ∧ (ratioLanes ratio.toNat ms ||| codewordLanes codewords.toNat ms) &&& s.fabric.ports[p].lanes.toNat ≠ 0 :=
  ⟨gating0, 0, 0, 0, [{ lane := 7, bits := 999999, errors := 1, codewords := 0 }], by decide +kernel⟩

theorem witness_portBringUp_4 :
    ∃ (s : State) (p : Fin 12), s.mbox.module = .bringUp ∧ enabled s.fabric.ports[p] = true ∧ s.fabric.ports[p].link
    = .training ∧ s.fabric.ports[p].gated = false :=
  ⟨inModule .bringUp up, 5, by decide +kernel⟩

theorem witness_thermalLimits_1 :
    ∃ (s : State) (celsius : Nat), isPowered s = true ∧ 100 ≤ celsius ∧ s.power.throttling = false :=
  ⟨up, 100, by decide +kernel⟩

theorem witness_thermalLimits_2 :
    ∃ (s : State) (celsius : Nat) (m : Nat), isPowered s = true ∧ 100 ≤ celsius ∧ s.power.throttling = true ∧
    s.power.thermalMhz = some m :=
  ⟨throttled 1000, 100, 1000, by decide +kernel⟩

theorem witness_thermalLimits_3 :
    ∃ (s : State) (celsius : Nat) (m : Nat), isPowered s = true ∧ celsius < 97 ∧ s.power.throttling = true ∧
    s.power.thermalMhz = some m ∧ m + 25 < tdClock { s.power with thermalMhz := none } :=
  ⟨throttled 1000, 96, 1000, by decide +kernel⟩

theorem witness_thermalLimits_4 :
    ∃ (s : State) (celsius : Nat) (m : Nat), isPowered s = true ∧ celsius < 97 ∧ s.power.throttling = true ∧
    s.power.thermalMhz = some m ∧ tdClock { s.power with thermalMhz := none } ≤ m + 25 :=
  ⟨throttled 1475, 96, 1475, by decide +kernel⟩

theorem witness_thermalLimits_5 :
    ∃ (s : State) (celsius : Nat), isPowered s = true ∧ 105 ≤ celsius ∧ s.power.thermalFault = false ∧ s.pstate =
    .running ∧ s.mbox.module ≠ .mgmtFault :=
  ⟨{ up with pstate := .running }, 105, by decide +kernel⟩

theorem witness_thermalLimits_6 :
    ∃ (s : State) (celsius : Nat), celsius < 90 ∧ s.power.thermalFault = true :=
  ⟨tooHot up, 89, by decide +kernel⟩

theorem witness_thermalLimits_7 :
    ∃ (s : State) (inlet : Nat) (outlet : Nat), isPowered s = true ∧ s.fw.profile.coolantC ≤ inlet ∧ inlet < outlet :=
  ⟨up, 45, 46, by decide +kernel⟩

theorem witness_thermalLimits_8 :
    ∃ (s : State) (inlet : Nat), isPowered s = true ∧ s.fw.profile.coolantC ≤ inlet :=
  ⟨up, 45, by decide +kernel⟩

theorem witness_thermalLimits_9 :
    ∃ (s : State) (inlet : Nat) (outlet : Nat) (watts : Nat), isPowered s = true ∧ inlet < outlet ∧ 600 ≤ watts ∧
    9500 * watts / (663 * (outlet - inlet)) < 1800 :=
  ⟨up, 30, 60, 600, by decide +kernel⟩

theorem witness_thermalLimits_10 :
    ∃ (s : State) (mpd : Fin 4) (a : Nat) (b : Nat) (c : Nat) (d : Nat) (e : Nat), isPowered s = true ∧ s.power.mode
    ≠ .bench ∧ a ≤ 105 ∧ b ≤ 105 ∧ c ≤ 105 ∧ d ≤ 105 ∧ e ≤ 105 ∧ (∀ k < 5, getAt s.mem.devLost (5 * mpd.val + k)
    false = false) :=
  ⟨up, 3, 105, 0, 0, 0, 0, by decide +kernel⟩

theorem witness_thermalLimits_11 :
    ∃ (s : State) (mpd : Fin 4) (a : Nat), isPowered s = true ∧ s.power.mode ≠ .bench ∧ s.power.thermalFault = false
    ∧ 105 < a ∧ getAt s.mem.devLost (5 * mpd.val) false = false :=
  ⟨up, 3, 106, by decide +kernel⟩

theorem witness_thermalLimits_negative :
    ∃ (s : State) (inlet : Nat) (outlet : Nat) (watts : Nat), isPowered s = true ∧ outlet < inlet ∧ 600 ≤ watts :=
  ⟨up, 1, 0, 600, by decide +kernel⟩

theorem witness_clockLoop_1 :
    ∃ (s : State) (watts : Nat), isPowered s = true ∧ s.power.computeStopped = false ∧ s.power.capW < watts ∧ 525 <
    s.power.loopMhz :=
  ⟨withPower { up.power with capW := 600, loopMhz := 526 }, 601, by decide +kernel⟩

theorem witness_clockLoop_2 :
    ∃ (s : State) (watts : Nat) (n : Nat), isPowered s = true ∧ s.power.computeStopped = false ∧ watts <
    s.power.capW - 50 ∧ s.power.msBelow = some n ∧ 9 ≤ n ∧ s.power.loopMhz + 25 ≤ s.power.ceilMhz :=
  ⟨withPower { up.power with capW := 651, loopMhz := 1000, msBelow := some 9 }, 600, 9, by decide +kernel⟩

theorem witness_clockLoop_3 :
    ∃ (s : State) (watts : Nat), isPowered s = true ∧ s.power.loopMhz = 500 ∧ 100 ≤ s.power.msAtFloor.getD 0 ∧
    s.power.capW < watts ∧ s.power.capReported = false :=
  ⟨withPower { up.power with loopMhz := 500, capW := 600, msAtFloor := some 100 }, 601, by decide +kernel⟩

theorem witness_clockLoop_4 :
    ∃ (s : State), 500 ≤ s.power.ceilMhz ∧ 500 ≤ s.power.loopMhz ∧ s.power.thermalMhz = none ∧ s.power.supplyMhz =
    none :=
  ⟨up, by decide +kernel⟩

theorem witness_management_1 :
    ∃ (s : State), s.mbox.mcpUp = true :=
  ⟨up, by decide +kernel⟩

theorem witness_management_2 :
    ∃ (s : State), isPowered s = true ∧ s.mbox.mcpUp = true ∧ (recentRestarts s).length < 3 ∧ isMember s = false :=
  ⟨up, by decide +kernel⟩

theorem witness_management_3 :
    ∃ (s : State), isPowered s = true ∧ s.mbox.mcpUp = true ∧ 3 ≤ (recentRestarts s).length :=
  ⟨withMbox { up.mbox with restarts := [0, 0, 0] }, by decide +kernel⟩

theorem witness_computeResetCauses_1 :
    ∃ (s : State), barsOpen s = true ∧ canReset s = true :=
  ⟨up, by decide +kernel⟩

theorem witness_computeResetCauses_2 :
    ∃ (s : State) (c : Cmd), Runs s c 0x0109 0 false false anyState ∧ restZero c [] = true ∧ canReset s = true :=
  ⟨on up (mk 0x0109 []), mk 0x0109 [], by unfold Runs Executes; decide +kernel⟩

theorem witness_computeResetCauses_3 :
    ∃ (s : State) (c : Cmd), Runs s c 0x0109 0 false false anyState ∧ restZero c [] = true ∧ canReset s = false :=
  ⟨tooHot (on up (mk 0x0109 [])), mk 0x0109 [], by unfold Runs Executes; decide +kernel⟩

theorem witness_ringRegisters_1 :
    ∃ (s : State) (r : Fin 4) (v : Word32), barsOpen s = true ∧ bitsOf v.toNat 0 12 < (getAt s.mbox.ringSize r.val
    0).toNat :=
  ⟨rings, 3, 15, by decide +kernel⟩

theorem witness_ringRegisters_2 :
    ∃ (s : State) (r : Fin 4) (v : Word32), barsOpen s = true ∧ (getAt s.mbox.ringSize r.val 0).toNat ≤ bitsOf v.toNat
    0 12 :=
  ⟨rings, 3, 16, by decide +kernel⟩

theorem witness_ringRegisters_3 :
    ∃ (s : State) (v : Word32), barsOpen s = true ∧ bitsOf v.toNat 0 12 < s.mbox.ringSize[4].toNat ∧ s.mbox.firstDue =
    none ∧ s.mbox.heldCompletions = [] ∧ s.mbox.lostCount = 0 ∧ s.mbox.kept = [] :=
  ⟨rings, 15, by decide +kernel⟩

theorem witness_ringRegisters_4 :
    ∃ (s : State) (r : Fin 5) (v : Word32), barsOpen s = true ∧ s.mbox.ringOn[r] = false ∧ bitAt v.toNat 16 = true ∧
    sizeOk (bitsOf v.toNat 0 13) = true ∧ r ≠ 4 :=
  ⟨up, 0, 0x11000, by decide +kernel⟩

theorem witness_ringRegisters_5 :
    ∃ (s : State) (r : Fin 5) (v : Word32), barsOpen s = true ∧ s.mbox.ringOn[r] = true ∧ bitAt v.toNat 16 = false ∧
    bitsOf v.toNat 0 13 = s.mbox.ringSize[r].toNat :=
  ⟨rings, 4, 16, by decide +kernel⟩

theorem witness_ringRegisters_6 :
    ∃ (s : State) (r : Fin 5), barsOpen s = true ∧ s.mbox.ringOn[r] = false :=
  ⟨up, 4, by decide +kernel⟩

theorem witness_ringRegisters_7 :
    ∃ (s : State) (r : Fin 5), barsOpen s = true ∧ s.mbox.ringOn[r] = true :=
  ⟨rings, 0, by decide +kernel⟩

theorem witness_ringRegisters_8 :
    ∃ (s : State) (v : Word32), barsOpen s = true ∧ s.mbox.ringSize[4].toNat ≤ bitsOf v.toNat 0 12 :=
  ⟨rings, 16, by decide +kernel⟩

theorem witness_ringRegisters_9 :
    ∃ (s : State) (r : Fin 5) (v : Word32), barsOpen s = true ∧ s.mbox.ringOn[r] = false ∧ sizeOk (bitsOf v.toNat 0
    13) = false ∧ (bitAt v.toNat 16 = true ∨ bitsOf v.toNat 0 13 ≠ s.mbox.ringSize[r].toNat) :=
  ⟨up, 0, 24, by decide +kernel⟩

theorem witness_ringRegisters_10 :
    ∃ (s : State) (v : Word32), barsOpen s = true ∧ s.mbox.ringOn[4] = false ∧ bitAt v.toNat 16 = true ∧ sizeOk
    (bitsOf v.toNat 0 13) = true ∧ s.mbox.ringHead[4] = 0 ∧ s.mbox.eqHead = 0 ∧ s.mbox.firstDue = none ∧
    s.mbox.heldCompletions = [] ∧ s.mbox.lostCount = 0 ∧ s.mbox.lostSources = [] ∧ (∀ e ∈ s.mbox.kept, masked s e.code
    = false) ∧ s.mbox.kept.length < bitsOf v.toNat 0 13 :=
  ⟨keeping, 0x10010, by decide +kernel⟩

theorem witness_ringRegisters_11 :
    ∃ (s : State) (r : Fin 5) (v : Word32), barsOpen s = true ∧ s.mbox.ringOn[r] = true ∧ bitsOf v.toNat 0 13 ≠
    s.mbox.ringSize[r].toNat :=
  ⟨rings, 0, 32, by decide +kernel⟩

theorem witness_registerAccess_1 :
    ∃ (off : Nat) (width : Nat), ¬(width ≠ 0 ∧ regWidth off = width) ∧ ¬(width = 4 ∧ regWidth off = 8) ∧ ¬(width = 4
    ∧ off % 8 = 4 ∧ regWidth (off - 4) = 8) :=
  ⟨0x3004, 8, by decide +kernel⟩

theorem witness_registerAccess_2 :
    ∃ (off : Nat), regWidth off = 8 ∧ off % 8 = 0 :=
  ⟨0x3018, by decide +kernel⟩

theorem witness_registerAccess_3 :
    ∃ (off : Nat), regWidth off = 8 ∧ off % 8 = 0 :=
  ⟨0x11000, by decide +kernel⟩

theorem witness_registerAccess_4 :
    ∃ (off : Nat) (width : Nat), width ≠ 0 ∧ regWidth off = width :=
  ⟨0x407F, 1, by decide +kernel⟩

theorem witness_registerAccess_5 :
    ∃ (off : Nat), regWidth off ≠ 0 :=
  ⟨0x407F, by decide +kernel⟩

theorem witness_controlRegisters_2 :
    ∃ (s : State) (c : Nat), barsOpen s = true ∧ c < 64 :=
  ⟨up, 63, by decide +kernel⟩

theorem witness_controlRegisters_5 :
    ∃ (off : Nat), off < 0x10 :=
  ⟨0xF, by decide +kernel⟩

theorem witness_controlRegisters_1 :
    ∃ (s : State), barsOpen s = true :=
  ⟨up, by decide +kernel⟩

theorem witness_memorySpaceEnable_1 :
    ∃ (s : State) (k : Nat) (cfg : ConfigWrite), cfg.enable = true ∧ s.mbox.memEnable = false ∧ 30 ≤ k ∧ k ≤ 39 :=
  ⟨withMbox { up.mbox with memEnable := false }, 39, {}, by decide +kernel⟩

theorem witness_memorySpaceEnable_2 :
    ∃ (s : State) (size : Option Nat) (cfg : ConfigWrite), cfg.enable = true ∧ (size = none ∨ s.mbox.memEnable = true) :=
  ⟨withMbox { up.mbox with memEnable := true }, some 39, {}, by decide +kernel⟩

theorem witness_memorySpaceEnable_3 :
    ∃ (cfg : ConfigWrite), cfg.enable = false :=
  ⟨{ enable := false }, by decide +kernel⟩

theorem witness_memorySpaceEnable_4 :
    ∃ (s : State), barsOpen s = false :=
  ⟨withMbox { up.mbox with memEnable := false }, by decide +kernel⟩

theorem witness_windowAddress_1 :
    ∃ (s : State) (o : Nat), 30 ≤ s.mbox.barLog2 ∧ s.mbox.barLog2 ≤ 39 ∧ o < 2 ^ s.mbox.barLog2 :=
  ⟨up, 2 ^ 30 - 1, by decide +kernel⟩

theorem witness_windowAccess_1 :
    ∃ (s : State) (off : Nat) (n : Nat) (win : Nat) (addr : Nat) (b : List Byte), barsOpen s = true ∧ bar2Place s off
    n = (win, true, addr) ∧ isLocal s (nodeOf addr) = true ∧ spaceOf addr ≠ 8 ∧ readLocal s (spaceOf addr) (offsetOf
    addr) n = .bytes b ∧ s.mem.stripes = [] :=
  ⟨up, 0, 4, 0, 0xFFFF_1000_0000_0000, [0, 0, 0, 0], by decide +kernel⟩

theorem witness_windowAccess_6 :
    ∃ (s : State) (off : Nat) (n : Nat) (win : Nat) (addr : Nat) (b : List Byte) (st : Stripe), barsOpen s = true ∧
    bar2Place s off n = (win, true, addr) ∧ isLocal s (nodeOf addr) = true ∧ spaceOf addr = 1 ∧ readLocal s 1
    (offsetOf addr) n = .bytes b ∧ 0 < n ∧ s.mem.stripes = [st] ∧ offsetOf addr / 1024 = st.number :=
  ⟨gathering, 0, 4, 0, 0xFFFF_1000_0000_0000, [0, 0, 0, 0], stripe0, by decide +kernel⟩

theorem witness_windowAccess_7 :
    ∃ (s : State) (off : Nat) (n : Nat) (win : Nat) (addr : Nat), barsOpen s = true ∧ bar2Place s off n = (win, true,
    addr) ∧ isLocal s (nodeOf addr) = true ∧ spaceOf addr ≠ 8 ∧ readLocal s (spaceOf addr) (offsetOf addr) n = .wait
    :=
  ⟨viewing, 0, 4, 0, 0xFFFF_2008_0000_0000, by decide +kernel⟩

theorem witness_windowAccess_2 :
    ∃ (s : State) (off : Nat) (n : Nat) (win : Nat) (addr : Nat) (st : Nat), barsOpen s = true ∧ bar2Place s off n =
    (win, true, addr) ∧ s.mbox.winErr = false ∧ isLocal s (nodeOf addr) = true ∧ spaceOf addr ≠ 8 ∧ readLocal s
    (spaceOf addr) (offsetOf addr) n = .fail st :=
  ⟨windows 3, 0, 4, 0, 0xFFFF_3000_0000_0000, 1, by decide +kernel⟩

theorem witness_windowAccess_3 :
    ∃ (s : State) (off : Nat) (n : Nat) (win : Nat) (addr : Nat), barsOpen s = true ∧ bar2Place s off n = (win, false,
    addr) ∧ s.mbox.winErr = false :=
  ⟨up, 0xFFF_FFFF, 2, 0, 0xFFFF_1000_0FFF_FFFF, by decide +kernel⟩

theorem witness_windowAccess_4 :
    ∃ (s : State) (t : State) (off : Nat) (win : Nat) (addr : Nat) (data : List Byte), barsOpen s = true ∧ bar2Place s
    off data.length = (win, true, addr) ∧ isLocal s (nodeOf addr) = true ∧ spaceOf addr ≠ 8 ∧ writeLocal s (spaceOf
    addr) (offsetOf addr) data = (0, t) :=
  ⟨up, (writeLocal up (spaceOf winAddr) (offsetOf winAddr) [1]).2, 0, 0, winAddr, [1],
    by decide +kernel, by decide +kernel, by decide +kernel, by decide +kernel, fst_eq (by decide +kernel)⟩

theorem witness_windowAccess_5 :
    ∃ (s : State) (off : Nat) (win : Nat) (addr : Nat) (data : List Byte), barsOpen s = true ∧ bar2Place s off
    data.length = (win, true, addr) ∧ isLocal s (nodeOf addr) = true ∧ spaceOf addr = 8 :=
  ⟨windows 8, 0, 0, 0xFFFF_8000_0000_0000, [1], by decide +kernel⟩

theorem witness_windowAccess_8 :
    ∃ (s : State) (off : Nat) (n : Nat) (win : Nat) (addr : Nat) (p : Fin 12), barsOpen s = true ∧ bar2Place s off n =
    (win, true, addr) ∧ isLocal s (nodeOf addr) = false ∧ s.fabric.rcd.node ≠ 0xFFFF#16 ∧ egress s (nodeOf addr) =
    some p ∧ n ≤ requestMax s (nodeOf addr) :=
  ⟨farWindows [(2, 3)], 0, 4, 0, 0x0002_1000_0000_0000, 3, by decide +kernel⟩

theorem witness_windowAccess_9 :
    ∃ (s : State) (off : Nat) (win : Nat) (addr : Nat) (p : Fin 12) (data : List Byte), barsOpen s = true ∧ bar2Place
    s off data.length = (win, true, addr) ∧ isLocal s (nodeOf addr) = false ∧ s.fabric.rcd.node ≠ 0xFFFF#16 ∧ egress s
    (nodeOf addr) = some p ∧ data ≠ [] ∧ data.length ≤ requestMax s (nodeOf addr) :=
  ⟨farWindows [(2, 3)], 0, 0, 0x0002_1000_0000_0000, 3, [1, 2, 3, 4], by decide +kernel⟩

theorem witness_windowAccess_10 :
    ∃ (s : State) (off : Nat) (n : Nat) (win : Nat) (addr : Nat), barsOpen s = true ∧ bar2Place s off n = (win, true,
    addr) ∧ isLocal s (nodeOf addr) = false ∧ egress s (nodeOf addr) = none ∧ n ≤ 1024 ∧ s.mbox.winErr = false :=
  ⟨farWindows [], 0, 4, 0, 0x0002_1000_0000_0000, by decide +kernel⟩

theorem witness_windowAccess_11 :
    ∃ (s : State) (x : Rx) (t : Txn) (win : Nat) (n : Nat), Arrives s x 0x02 ∧ s.fabric.txns = [t] ∧ t.tid = x.f.tid ∧
    t.typ = 1 ∧ t.owner = .hostRead win n ∧ x.f.status ≠ 0 ∧ s.mbox.winErr = false ∧ s.mbox.squad = [] :=
  ⟨waitingFor 1 (.hostRead 0 4), failing (rx 0x02 0 4 []), txn 1 (.hostRead 0 4), 0, 4,
    by unfold Arrives InOrder Sound; decide +kernel⟩

theorem witness_windowAccess_12 :
    ∃ (s : State) (x : Rx) (t : Txn) (win : Nat), Arrives s x 0x04 ∧ s.fabric.txns = [t] ∧ t.tid = x.f.tid ∧ t.typ = 3
    ∧ t.owner = .hostWrite win ∧ x.f.status ≠ 0 ∧ s.mbox.winErr = false ∧ s.mbox.squad = [] :=
  ⟨waitingFor 3 (.hostWrite 0), failing (rx 0x04 0 0 []), txn 3 (.hostWrite 0), 0,
    by unfold Arrives InOrder Sound; decide +kernel⟩

theorem witness_commandFetch_1 :
    ∃ (s : State) (i : Nat) (raw : List Byte), s.mbox.mcpUp = true ∧ s.mbox.heldCompletions = [] ∧ s.mbox.module ≠
    .activation ∧ nextRing s = some i ∧ s.mbox.killed = [] ∧ field raw 8 2 = 0xFFFF ∧ knownOpcode (field raw 0 2) =
    true ∧ headerOk raw = true :=
  ⟨rings, 0, rawHalt, by decide +kernel⟩

theorem witness_commandFetch_2 :
    ∃ (s : State) (i : Fin 4), s.mbox.mcpUp = true ∧ s.mbox.heldCompletions = [] ∧ s.mbox.module ≠ .activation ∧
    nextRing s = some i.val :=
  ⟨rings, 0, by decide +kernel⟩

theorem witness_interrupts_1 :
    ∃ (s : State) (vec : Fin 64), s.mbox.pcie.msixEnable = true ∧ s.mbox.pcie.msixMask = false ∧ 1 ≤
    s.mbox.sinceIrq[vec] ∧ (s.mbox.msix[vec]).getLsbD 96 = false :=
  ⟨withMbox { up.mbox with coalDelay := 1, sinceIrq := oneDue }, 63, by decide +kernel⟩

theorem witness_interrupts_2 :
    ∃ (s : State) (vec : Fin 64), s.mbox.pcie.msixEnable = true ∧ s.mbox.pcie.msixMask = false ∧ max 1
    s.mbox.coalCount.toNat ≤ s.mbox.sinceIrq[vec] ∧ (s.mbox.msix[vec]).getLsbD 96 = false :=
  ⟨withMbox { up.mbox with coalDelay := 1, sinceIrq := oneDue }, 63, by decide +kernel⟩

theorem witness_interrupts_3 :
    ∃ (s : State) (vec : Fin 64), s.mbox.pcie.msixEnable = true ∧ max 1 s.mbox.coalCount.toNat ≤ s.mbox.sinceIrq[vec]
    ∧ (s.mbox.pcie.msixMask = true ∨ (s.mbox.msix[vec]).getLsbD 96 = true) :=
  ⟨withMbox { up.mbox with sinceIrq := oneDue, msix := Vector.replicate 64 (1#128 <<< 96) }, 63, by decide +kernel⟩

theorem witness_completionWritten_1 :
    ∃ (s : State) (c : Cmd), c.path = .pcie ∧ s.mbox.ringOn[4] = true ∧ s.mbox.heldCompletions = [] ∧ ringFull s =
    false ∧ Kept s c :=
  ⟨on rings (mk 0x0109 []), mk 0x0109 [], by unfold Kept; decide +kernel⟩

theorem witness_commandRefusals_1 :
    ∃ (s : State) (c : Cmd), Executes s c 0x0501 ∧ c.ring ≠ 1 :=
  ⟨on up { mk 0x0501 [] with ring := 0 }, { mk 0x0501 [] with ring := 0 }, by unfold Executes; decide +kernel⟩

theorem witness_commandRefusals_2 :
    ∃ (s : State) (c : Cmd), Executes s c 0x0106 ∧ c.ring = 1 ∧ moduleOk s true true = false :=
  ⟨inModule .bench (on up (mk 0x0106 [])), mk 0x0106 [], by unfold Executes; decide +kernel⟩

theorem witness_commandRefusals_3 :
    ∃ (s : State) (c : Cmd), Runs s c 0x0501 1 false false anyState ∧ (arg c 16 2 < 600 ∨ 2400 < arg c 16 2) :=
  ⟨on up (mk 0x0501 [(16, 2, 599)]), mk 0x0501 [(16, 2, 599)], by unfold Runs Executes; decide +kernel⟩

theorem witness_commandRefusals_4 :
    ∃ (s : State) (c : Cmd), Executes s c 0x0108 ∧ c.ring = 0 ∧ moduleOk s false false = true ∧ restZero c [] = true ∧
    s.pstate ≠ .running ∧ s.pstate ≠ .paused :=
  ⟨on up (mk 0x0108 []), mk 0x0108 [], by unfold Executes; decide +kernel⟩

theorem witness_commandRefusals_5 :
    ∃ (c : Cmd), knownOpcode c.opcode = false :=
  ⟨mk 0x0603 [], by decide +kernel⟩

theorem witness_loadRefusedInTrial_1 :
    ∃ (s : State) (c : Cmd), Runs s c 0x0101 1 true true [.empty] ∧ arg c 24 1 ≤ 1 ∧ restZero c [(16, 9), (32, 8)] =
    true ∧ (s.fw.activation.isSome = true ∨ s.fw.trial = true) :=
  ⟨onTrial (on up (mk 0x0101 [(16, 8, 0x1000), (32, 8, 256)])), mk 0x0101 [(16, 8, 0x1000), (32, 8, 256)],
    by unfold Runs Executes; decide +kernel⟩

theorem witness_loadRefusedInTrial_2 :
    ∃ (s v : State) (c : Cmd) (host : HostRead) (data : List Byte) (e : Nat), Reads s c 0 (arg c 16 8) (arg c 28 4) host
    data v ∧ Runs s c 0x0504 2 false false anyState ∧ (s.mbox.executing.find? fun e => e.cmd.opcode == 0x0504).map
    (·.cmd) = some c ∧ arg c 24 1 = 0 ∧ arg c 25 1 ≤ 1 ∧ arg c 28 4 % 512 = 0 ∧ 0 < arg c 28 4 ∧ arg c 28 4 ≤
    0x400_0000 ∧ restZero c [(16, 10), (28, 12)] = true ∧ arg c 32 8 = 0 ∧ s.fw.activation = some e :=
  ⟨scheduledOn (on up (mk 0x0504 [(28, 4, 512)])), _, mk 0x0504 [(28, 4, 512)], some [], List.replicate 512 0, 5,
    reads_of (by decide +kernel), by unfold Runs Executes; decide +kernel⟩

theorem witness_loadAndUnload_1 :
    ∃ (s v : State) (c : Cmd) (host : HostRead) (h : LoadHints) (obj : List Byte) (p : Program), Reads s c (arg c 24 1)
    (arg c 16 8) (arg c 32 8) host obj v ∧ Runs s c 0x0101 1 true true [.empty] ∧ arg c 24 1 ≤ 1 ∧ restZero c [(16, 9),
    (32, 8)] = true ∧ s.fw.activation = none ∧ s.fw.trial = false ∧ loadResult v obj h = (0, some p) :=
  ⟨on up (mk 0x0101 [(16, 8, 0x1000), (32, 8, 256)]), _, mk 0x0101 [(16, 8, 0x1000), (32, 8, 256)], some object0,
    noHints, object0, program0, reads_of (by decide +kernel), by unfold Runs Executes; decide +kernel⟩

theorem witness_loadAndUnload_2 :
    ∃ (s : State) (c : Cmd), Runs s c 0x0102 1 true true [.loaded, .paused, .halted] ∧ restZero c [] = true :=
  ⟨on { up with pstate := .halted } (mk 0x0102 []), mk 0x0102 [], by unfold Runs Executes; decide +kernel⟩

theorem witness_runCommands_1 :
    ∃ (s : State) (c : Cmd) (remote : List (Nat × List Byte)) (p : Program), Runs s c 0x0103 1 true true [.loaded] ∧
    restZero c [(16, 8)] = true ∧ s.program = some p ∧ s.step ≠ lastStep ∧ s.timebase + 2000000 ≤ arg c 16 8 ∧ arg c
    16 8 ≤ s.timebase + 60000000000 ∧ catalogueMismatch (chargeCatalogues s) remote = none :=
  ⟨on (within up .loaded prog0) (mk 0x0103 [(16, 8, 2000000)]), mk 0x0103 [(16, 8, 2000000)], [], prog0,
    by unfold Runs Executes; decide +kernel⟩

theorem witness_runCommands_2 :
    ∃ (s : State) (c : Cmd) (remote : List (Nat × List Byte)) (p : Program), Runs s c 0x0105 1 true true [.paused] ∧
    restZero c [(16, 8)] = true ∧ s.program = some p ∧ s.step ≠ lastStep ∧ s.timebase + 2000000 ≤ arg c 16 8 ∧ arg c
    16 8 ≤ s.timebase + 60000000000 ∧ catalogueMismatch (chargeCatalogues s) remote = none :=
  ⟨on (within up .paused prog0) (mk 0x0105 [(16, 8, 2000000)]), mk 0x0105 [(16, 8, 2000000)], [], prog0,
    by unfold Runs Executes; decide +kernel⟩

theorem witness_runCommands_3 :
    ∃ (s : State) (c : Cmd), Runs s c 0x0104 1 true true [.running] ∧ restZero c [(16, 8), (24, 8)] = true ∧
    s.step.toNat ≤ arg c 16 8 ∧ arg c 24 8 = s.beat.epoch :=
  ⟨on (within up .running prog0) (mk 0x0104 []), mk 0x0104 [], by unfold Runs Executes; decide +kernel⟩

theorem witness_runCommands_4 :
    ∃ (s : State), s.beat.pauseDue = true ∧ s.pstate = .running :=
  ⟨{ within up .running prog0 with beat := { up.beat with pauseDue := true } }, by decide +kernel⟩

theorem witness_runCommands_5 :
    ∃ (s : State) (c : Cmd), Runs s c 0x0108 0 false false [.running, .paused] ∧ restZero c [] = true :=
  ⟨on (within up .paused prog0) (mk 0x0108 []), mk 0x0108 [], by unfold Runs Executes; decide +kernel⟩

theorem witness_runCommands_6 :
    ∃ (s : State) (p : Program) (v : VState), s.pstate = .running ∧ s.program = some p ∧ s.beat.fills = [v.record] ∧
    s.versions = [v] ∧ fillFailure s v.record = none :=
  ⟨{ within up .running prog0 with beat := { up.beat with fills := [0] }, versions := [slots0] }, prog0, slots0,
    by decide +kernel⟩

theorem witness_catalogueDiffers_1 :
    ∃ (s : State) (c : Cmd) (remote : List (Nat × List Byte)) (p : Program) (v : Nat) (want : Nat) (got : Nat), Runs
    s c 0x0103 1 true true [.loaded] ∧ restZero c [(16, 8)] = true ∧ s.program = some p ∧ s.step ≠ lastStep ∧
    s.timebase + 2000000 ≤ arg c 16 8 ∧ arg c 16 8 ≤ s.timebase + 60000000000 ∧ catalogueMismatch (chargeCatalogues s) remote = some
    (v, want, got) :=
  ⟨on (within up .loaded progI) (mk 0x0103 [(16, 8, 2000000)]), mk 0x0103 [(16, 8, 2000000)], [], progI, 0, 0,
    gotI, by unfold Runs Executes; decide +kernel⟩

theorem witness_catalogueDiffers_2 :
    ∃ (s : State) (c : Cmd) (remote : List (Nat × List Byte)) (p : Program) (v : Nat) (want : Nat) (got : Nat), Runs
    s c 0x0105 1 true true [.paused] ∧ restZero c [(16, 8)] = true ∧ s.program = some p ∧ s.step ≠ lastStep ∧
    s.timebase + 2000000 ≤ arg c 16 8 ∧ arg c 16 8 ≤ s.timebase + 60000000000 ∧ catalogueMismatch (chargeCatalogues s) remote = some
    (v, want, got) :=
  ⟨on (within up .paused progI) (mk 0x0105 [(16, 8, 2000000)]), mk 0x0105 [(16, 8, 2000000)], [], progI, 0, 0,
    gotI, by unfold Runs Executes; decide +kernel⟩

theorem witness_catalogueDiffers_3 :
    ∃ (s : State) (p : Program), s.program = some p :=
  ⟨within up .loaded prog0, prog0, by decide +kernel⟩

theorem witness_catalogueDiffers_4 :
    ∃ (s : State) (d : IngestDesc) (b : List Byte), isLocal s (nodeOf d.catalogue) = true ∧ readLocal s (spaceOf
    d.catalogue) (offsetOf d.catalogue) (32 * d.entries) = .bytes b :=
  ⟨up, parseIngest ingestS, List.replicate 32 0, by decide +kernel⟩

theorem witness_saveAndRestore_1 :
    ∃ (s : State) (c : Cmd) (p : Program), Runs s c 0x0106 1 true true [.paused] ∧ restZero c [(16, 9), (32, 8)] =
    true ∧ s.program = some p ∧ arg c 24 1 = 0 ∧ c.path ≠ .proxy ∧ Kept s c ∧ gatherReads s c (fun v => contextReads v
    p) = (.bytes [], s) ∧ (contextImage (asMcp s c) p).length ≤ arg c 32 8 ∧ contextFault (asMcp s c) p = none :=
  ⟨on (within up .paused prog0) (mk 0x0106 [(32, 8, 4096)]), mk 0x0106 [(32, 8, 4096)], prog0,
    by unfold Runs Executes; decide +kernel, by decide +kernel, by decide +kernel, by decide, by decide, by unfold Kept; decide +kernel,
    gather_here (by decide +kernel) (by decide +kernel) (by decide +kernel), by decide +kernel, by decide +kernel⟩

theorem witness_saveAndRestore_2 :
    ∃ (s : State) (c : Cmd) (p : Program) (n : Nat) (e : Skew), Runs s c 0x0106 1 true true [.paused] ∧ restZero c
    [(16, 9), (32, 8)] = true ∧ s.program = some p ∧ arg c 24 1 ≤ 1 ∧ gatherReads s c (fun v => contextReads v p) =
    (.bytes [], s) ∧ (contextImage (asMcp s c) p).length ≤ arg c 32 8 ∧ contextFault (asMcp s c) p = some (n, e) :=
  ⟨on (within up .paused badSaved) (mk 0x0106 [(32, 8, 4096)]), mk 0x0106 [(32, 8, 4096)], badSaved, 1,
    ((contextFault (within up .paused badSaved) badSaved).map (·.2)).getD ⟨0, 0, 0, 0⟩,
    by unfold Runs Executes; decide +kernel, by decide +kernel, by decide +kernel, by decide,
    gather_here (by decide +kernel) (by decide +kernel) (by decide +kernel), by decide +kernel, by decide +kernel⟩

theorem witness_saveAndRestore_3 :
    ∃ (s : State) (v : State) (c : Cmd) (host : HostRead) (p : Program) (img : List Byte), ReadsImage s c (arg c 24 1)
    (arg c 16 8) host img v ∧ Runs s c 0x0107 1 true true [.loaded, .paused, .halted] ∧ restZero c [(16, 9)] = true ∧
    s.program = some p ∧ arg c 24 1 ≤ 1 ∧ imageRefusal v p contextMagic img = 0 ∧ imagePlaceable v p img = true ∧
    imageFault p img = none :=
  ⟨on (within up .paused prog0) (mk 0x0107 []), _, mk 0x0107 [], some image0, prog0, image0,
    readsImage_of (by decide +kernel), by unfold Runs Executes; decide +kernel⟩

theorem witness_saveAndRestore_4 :
    ∃ (s : State) (v : State) (c : Cmd) (host : HostRead) (p : Program) (img : List Byte), ReadsImage s c (arg c 24 1)
    (arg c 16 8) host img v ∧ Runs s c 0x0107 1 true true [.loaded, .paused, .halted] ∧ restZero c [(16, 9)] = true ∧
    s.program = some p ∧ arg c 24 1 ≤ 1 ∧ imageRefusal v p contextMagic img ≠ 0 :=
  ⟨on (within up .halted prog0) (mk 0x0107 []), _, mk 0x0107 [], some (List.replicate 128 0), prog0, List.replicate 128 0,
    readsImage_of (by decide +kernel), by unfold Runs Executes; decide +kernel⟩

theorem witness_saveAndRestore_5 :
    ∃ (s : State) (c : Cmd) (p : Program), Runs s c 0x0106 1 true true [.paused] ∧ restZero c [(16, 9), (32, 8)] =
    true ∧ s.program = some p ∧ arg c 24 1 ≤ 1 ∧ (firstFailure (asMcp s c) mcpUnit ((contextReads (asMcp s c)
    p).filter fun r => decide (0 < r.2))).isSome = true :=
  ⟨on (within up .paused holed) (mk 0x0106 [(32, 8, 4096)]), mk 0x0106 [(32, 8, 4096)], holed,
    by unfold Runs Executes; decide +kernel⟩

theorem witness_saveAndRestore_6 :
    ∃ (s : State) (v : State) (c : Cmd) (host : HostRead) (p : Program) (img : List Byte), Runs s c 0x0107 1 true true
    [.loaded, .paused, .halted] ∧ restZero c [(16, 9)] = true ∧ s.program = some p ∧ arg c 24 1 ≤ 1 ∧ ReadsImage s c
    (arg c 24 1) (arg c 16 8) host img v ∧ imageRefusal v p contextMagic img = 0 ∧ imagePlaceable v p img = false :=
  ⟨on (within up .paused holed) (mk 0x0107 []), _, mk 0x0107 [], some imageH, holed, imageH,
    by unfold Runs Executes; decide +kernel, by decide +kernel, by decide +kernel, by decide +kernel,
    readsImage_of (by decide +kernel), by decide +kernel, by decide +kernel⟩

theorem witness_journals_1 :
    ∃ (s : State) (c : Cmd) (p : Program), Runs s c 0x0204 1 true true [.loaded, .running, .paused] ∧ restZero c
    [(16, 8), (24, 8), (32, 8)] = true ∧ s.program = some p ∧ isLocal s (nodeOf (arg c 24 8)) = true ∧ spaceOf (arg
    c 24 8) = 1 ∧ dramPopulated s (offsetOf (arg c 24 8)) (max 1 (arg c 32 8)) = true ∧ stepBegun s (arg c 16 8) =
    false ∧ journalEstimate s p ≤ arg c 32 8 ∧ journalOverlaps s p (arg c 24 8) (arg c 32 8) = false :=
  ⟨on (within up .loaded prog0) (mk 0x0204 [(24, 8, 0xFFFF_1000_0000_0000), (32, 8, 65536)]),
    mk 0x0204 [(24, 8, 0xFFFF_1000_0000_0000), (32, 8, 65536)], prog0, by unfold Runs Executes; decide +kernel⟩

theorem witness_journals_2 :
    ∃ (s : State) (v : State) (c : Cmd) (p : Program) (img : List Byte) (l : Section) (h : Section) (t : Section),
    ReadsImage s c 1 (arg c 16 8) none img v ∧ Runs s c 0x0205 1 true true [.loaded, .paused, .halted] ∧ restZero c
    [(16, 8)] = true ∧ s.program = some p ∧ s.journal.replay = none ∧ imageRefusal v p journalMagic img = 0 ∧
    imagePlaceable v p img = true ∧ imageFault p img = none ∧ BitVec.ofNat 64 (imageStep img) ≠ lastStep ∧ journalTail
    img = some (l, h, t) :=
  ⟨inStore (on (within up .loaded prog0) (mk 0x0205 [(16, 8, winAddr)])) journal0, _, mk 0x0205 [(16, 8, winAddr)],
    prog0, journal0, tail0.1, tail0.2.1, tail0.2.2, readsImage_of (by decide +kernel),
    by unfold Runs Executes; decide +kernel⟩

theorem witness_settingCommands_1 :
    ∃ (s : State) (c : Cmd), Runs s c 0x0201 1 false false [.loaded, .running, .paused, .halted] ∧ arg c 16 1 < 64 ∧
    restZero c [(16, 1), (32, 32)] = true ∧ watchOk s (sub c.payload 16 32) = true :=
  ⟨on (within up .loaded progW) (mk 0x0201 [(16, 1, 63), (32, 4, 1), (52, 2, 1)]),
    mk 0x0201 [(16, 1, 63), (32, 4, 1), (52, 2, 1)], by unfold Runs Executes; decide +kernel⟩

theorem witness_settingCommands_2 :
    ∃ (s : State) (c : Cmd), Runs s c 0x0202 1 false false [.loaded, .running, .paused, .halted] ∧ arg c 16 1 < 64 ∧
    restZero c [(16, 1)] = true :=
  ⟨on (within up .loaded prog0) (mk 0x0202 [(16, 1, 63)]), mk 0x0202 [(16, 1, 63)], by unfold Runs Executes; decide +kernel⟩

theorem witness_settingCommands_3 :
    ∃ (s : State) (c : Cmd) (p : Program) (d : LayerDesc), Runs s c 0x0203 1 false false [.loaded, .running,
    .paused] ∧ restZero c [(16, 4), (20, 1), (21, 1), (24, 8)] = true ∧ s.program = some p ∧ (layerDescs p).find?
    (fun d => d.layer == arg c 16 4) = some d ∧ arg c 20 1 ≤ arg c 21 1 ∧ arg c 21 1 ≤ d.ceil ∧ arg c 21 1 < 4 ∧
    stepBegun s (arg c 24 8) = false :=
  ⟨on (within up .loaded progL) (mk 0x0203 [(16, 4, 5), (20, 1, 1), (21, 1, 3), (24, 8, 9)]),
    mk 0x0203 [(16, 4, 5), (20, 1, 1), (21, 1, 3), (24, 8, 9)], progL, parseLayer layer5,
    by unfold Runs Executes; decide +kernel⟩

theorem witness_settingCommands_4 :
    ∃ (s : State) (c : Cmd), Runs s c 0x0501 1 false false anyState ∧ 600 ≤ arg c 16 2 ∧ arg c 16 2 ≤ 2400 ∧
    restZero c [(16, 2)] = true :=
  ⟨on up (mk 0x0501 [(16, 2, 2400)]), mk 0x0501 [(16, 2, 2400)], by unfold Runs Executes; decide +kernel⟩

theorem witness_settingCommands_5 :
    ∃ (s : State) (c : Cmd) (i : Fin 4), Runs s c 0x0502 1 false false anyState ∧ arg c 16 1 = i.val ∧ restZero c
    [(16, 1)] = true :=
  ⟨on up (mk 0x0502 [(16, 1, 3)]), mk 0x0502 [(16, 1, 3)], 3, by unfold Runs Executes; decide +kernel⟩

theorem witness_settingCommands_6 :
    ∃ (s v : State) (c : Cmd) (host : HostRead) (data : List Byte) (r : Profile), Reads s c (arg c 17 1) (arg c 24 8) 64
    host data v ∧ Runs s c 0x0503 1 false (arg c 17 1 == 1) anyState ∧ arg c 16 1 ≤ 3 ∧ restZero c [(16, 2), (24, 8)] =
    true ∧ parseProfile data = some r ∧ s.fw.image.settingsFormat = s.flash.boot.settingsFormat :=
  ⟨on up (mk 0x0503 [(16, 1, 3)]), _, mk 0x0503 [(16, 1, 3)], some (profileBytes defaultProfiles[3]),
    profileBytes defaultProfiles[3], defaultProfiles[3], reads_of (by decide +kernel),
    by unfold Runs Executes; decide +kernel⟩

theorem witness_fabricCommands_1 :
    ∃ (s : State) (c : Cmd) (r : FabricRec), Runs s c 0x0301 1 false false anyState ∧ s.pstate ≠ .running ∧
    parseFabricRec (sub c.payload 0 16) = some r ∧ restZero c [(16, 16)] = true ∧ r.node ≠ 0xFFFF#16 :=
  ⟨on up (mk 0x0301 [(16, 2, 1), (18, 2, 0xFFFF), (20, 2, 0xFFFF)]),
    mk 0x0301 [(16, 2, 1), (18, 2, 0xFFFF), (20, 2, 0xFFFF)], { node := 1 }, by unfold Runs Executes; decide +kernel⟩

theorem witness_fabricCommands_2 :
    ∃ (s v : State) (c : Cmd) (host : HostRead) (p : Fin 12) (data : List Byte) (r : PortRec), Reads s c (arg c 17 1)
    (arg c 24 8) 64 host data v ∧ Runs s c 0x0302 1 false (arg c 17 1 == 1) anyState ∧ arg c 16 1 = p.val ∧ restZero c
    [(16, 2), (24, 8)] = true ∧ parsePortRec data = some r ∧ r.flags.getLsbD 0 =
    s.fabric.ports[p].rcd.flags.getLsbD 0 ∧ s.mbox.module ≠ .bringUp :=
  ⟨on up (mk 0x0302 [(16, 1, 11)]), _, mk 0x0302 [(16, 1, 11)], some portRec0, 11, portRec0, portRec0Parsed,
    reads_of (by decide +kernel), by unfold Runs Executes; decide +kernel⟩

theorem witness_fabricCommands_3 :
    ∃ (s v : State) (c : Cmd) (host : HostRead) (e : Byte), Reads s c (arg c 20 1) (arg c 24 8) 1 host [e] v ∧ Runs s c
    0x0303 1 false (arg c 20 1 == 1) anyState ∧ arg c 18 2 = 1 ∧ arg c 16 2 < 0xFFFF ∧ restZero c [(16, 5), (24, 8)] =
    true ∧ (e.toNat ≤ 0xB ∨ e = 0xE ∨ e = 0xF) ∧ s.mbox.squad = [] ∧ s.mbox.unreachable = [] :=
  ⟨on up (mk 0x0303 [(16, 2, 0xFFFE), (18, 2, 1)]), _, mk 0x0303 [(16, 2, 0xFFFE), (18, 2, 1)], some [0xE], 0xE,
    reads_of (by decide +kernel), by unfold Runs Executes; decide +kernel⟩

theorem witness_fabricCommands_4 :
    ∃ (s : State) (c : Cmd), Runs s c 0x0304 1 false false anyState ∧ s.pstate ≠ .running ∧ planEntryOk (arg c 16 1)
    (arg c 24 8) = true ∧ restZero c [(16, 1), (24, 8)] = true :=
  ⟨on up (mk 0x0304 [(16, 1, 63), (24, 8, 0x0001_0000_0100_FF3F)]),
    mk 0x0304 [(16, 1, 63), (24, 8, 0x0001_0000_0100_FF3F)], by unfold Runs Executes; decide +kernel⟩

theorem witness_fabricCommands_5 :
    ∃ (s v : State) (c : Cmd) (host : HostRead) (data : List Byte), Reads s c (arg c 17 1) (arg c 24 8) (2 * arg c 16 1)
    host data v ∧ Runs s c 0x0306 1 false (arg c 17 1 == 1) anyState ∧ arg c 16 1 ≤ 63 ∧ restZero c [(16, 2), (24, 8)] =
    true ∧ s.fabric.rcd.node ≠ 0xFFFF#16 ∧ ((chunks 2 (arg c 16 1) data).map fun b => (BitVec.ofNat 16
    (leNat b) : Word16)).Nodup ∧ s.fabric.rcd.node ∉ ((chunks 2 (arg c 16 1) data).map fun b => (BitVec.ofNat 16
    (leNat b) : Word16)) :=
  ⟨on wired (mk 0x0306 [(16, 1, 2)]), _, mk 0x0306 [(16, 1, 2)], some [2, 0, 3, 0], [2, 0, 3, 0],
    reads_of (by decide +kernel), by unfold Runs Executes; decide +kernel⟩

theorem witness_fabricCommands_6 :
    ∃ (s : State) (c : Cmd) (p : Fin 12), Runs s c 0x0305 1 false false anyState ∧ s.mbox.module = .ready ∧ arg c 16 1
    = p.val ∧ restZero c [(16, 1)] = true ∧ enabled s.fabric.ports[p] = true ∧ s.fabric.ports[p].fkm = false ∧
    (usableLanes s.units p.val (portLanes s p)) ≠ 0 :=
  ⟨on up (mk 0x0305 [(16, 1, 5)]), mk 0x0305 [(16, 1, 5)], 5, by unfold Runs Executes; decide +kernel⟩

theorem witness_fabricCommands_7 :
    ∃ (l : List (Nat × Nat)) (n : Nat) (k : Nat), l.Pairwise (fun a b => a.1 < b.1) ∧ k ≠ n :=
  ⟨[(1, 2), (5, 0)], 5, 1, by decide +kernel⟩

theorem witness_tablesAndDma_1 :
    ∃ (s : State) (c : Cmd), Runs s c 0x0401 3 false false anyState ∧ arg c 16 1 ≤ 5 ∧ arg c 17 1 = 0 ∧ restZero c
    [(16, 2), (24, 12)] = true ∧ c.path ≠ .proxy ∧ Kept s c :=
  ⟨on up (mk 0x0401 [(16, 1, 5), (32, 4, 16)]), mk 0x0401 [(16, 1, 5), (32, 4, 16)],
    by unfold Runs Executes Kept; decide +kernel⟩

theorem witness_tablesAndDma_2 :
    ∃ (c : Cmd), c.path ≠ .proxy :=
  ⟨mk 0x0401 [], by decide +kernel⟩

theorem witness_tablesAndDma_3 :
    ∃ (s : State) (c : Cmd) (b : List Byte), Runs s c 0x0601 2 (spaceOf (arg c 24 8) != 1) true anyState ∧ restZero c
    [(16, 25)] = true ∧ isLocal s (nodeOf (arg c 24 8)) = true ∧ spaceOf (arg c 24 8) ≤ 2 ∧ arg c 40 1 = 1 ∧ arg c 32
    8 = 64 ∧ arg c 16 8 % 4 = 0 ∧ offsetOf (arg c 24 8) % 64 = 0 ∧ arg c 24 8 % 4 = 0 ∧ c.path ≠ .proxy ∧
    s.mem.stripes = [] ∧ s.mem.ends = [] ∧ s.fabric.waiting = [] ∧ readLocal s (spaceOf (arg c 24 8)) (offsetOf (arg c
    24 8)) 64 = .bytes b :=
  ⟨on up (mk 0x0601 [(24, 8, winAddr), (32, 8, 64), (40, 1, 1)]),
    mk 0x0601 [(24, 8, winAddr), (32, 8, 64), (40, 1, 1)], List.replicate 64 0, by unfold Runs Executes; decide +kernel⟩

theorem witness_tablesAndDma_4 :
    ∃ (s : State) (c : Cmd), Runs s c 0x0602 0 false false anyState ∧ arg c 20 1 = 2 ∧ restZero c [(16, 5)] = true ∧
    pendingIdx s 2 = [] ∧ ((∀ e ∈ s.mbox.executing, e.cmd.ring = 2 → e.cmd.tag ≠ BitVec.ofNat 32 (arg c 16 4))) :=
  ⟨on up (mk 0x0602 [(16, 4, 9), (20, 1, 2)]), mk 0x0602 [(16, 4, 9), (20, 1, 2)], by unfold Runs Executes; decide +kernel⟩

theorem witness_tablesAndDma_5 :
    ∃ (s : State) (c : Cmd) (d : Cmd), Runs s c 0x0602 0 false false anyState ∧ arg c 20 1 = 2 ∧ restZero c [(16, 5)]
    = true ∧ pendingIdx s 2 = [] ∧ d.ring = 2 ∧ d.tag = BitVec.ofNat 32 (arg c 16 4) ∧ d ≠ c ∧ s.mbox.executing = [{
    cmd := d, discard := false }, { cmd := c, discard := false }] ∧ s.fabric.bulks = [] ∧ s.fabric.txns = [] ∧
    s.fabric.arrivals = [] ∧ s.fabric.waiting = [] ∧ s.mem.ends = [] ∧ s.mem.acks = [] ∧ s.mbox.awaiting = [] :=
  ⟨started [mk 0x0601 [], mk 0x0602 [(16, 4, 7), (20, 1, 2)]], mk 0x0602 [(16, 4, 7), (20, 1, 2)], mk 0x0601 [],
    by unfold Runs Executes; decide +kernel⟩

theorem witness_tablesAndDma_6 :
    ∃ (s : State) (t : State) (c : Cmd) (b : List Byte), Runs s c 0x0601 2 true true anyState ∧ restZero c [(16, 25)]
    = true ∧ isLocal s (nodeOf (arg c 24 8)) = true ∧ (spaceOf (arg c 24 8) = 0 ∨ spaceOf (arg c 24 8) = 2) ∧ arg c 40
    1 = 0 ∧ arg c 32 8 = 64 ∧ arg c 16 8 % 4 = 0 ∧ offsetOf (arg c 24 8) % 64 = 0 ∧ arg c 24 8 % 4 = 0 ∧ c.path ≠
    .proxy ∧ s.mem.ends = [] ∧ writeLocal (emit s (.hostRead (BitVec.ofNat 64 (arg c 16 8)) 64)) (spaceOf (arg c 24
    8)) (offsetOf (arg c 24 8)) (padTo 64 b) = (0, t) :=
  ⟨on up dmaIn0, (writeLocal (emit (on up dmaIn0) (.hostRead (BitVec.ofNat 64 (arg dmaIn0 16 8)) 64)) (spaceOf (arg dmaIn0 24 8))
      (offsetOf (arg dmaIn0 24 8)) (padTo 64 [1])).2, dmaIn0, [1], by unfold Runs Executes; decide +kernel, by decide +kernel,
    by decide +kernel, by decide +kernel, by decide +kernel, by decide +kernel, by decide +kernel, by decide +kernel,
    by decide +kernel, by decide +kernel, by decide +kernel, fst_eq (by decide +kernel)⟩

theorem witness_tablesAndDma_7 :
    ∃ (s : State) (c : Cmd), Runs s c 0x0601 2 false true anyState ∧ MemOk s ∧ restZero c [(16, 25)] = true ∧ isLocal
    s (nodeOf (arg c 24 8)) = true ∧ spaceOf (arg c 24 8) = 1 ∧ arg c 40 1 = 0 ∧ arg c 32 8 = 64 ∧ arg c 16 8 % 4 = 0
    ∧ offsetOf (arg c 24 8) % 64 = 0 ∧ arg c 24 8 % 4 = 0 ∧ c.path ≠ .proxy ∧ s.mem.stripes = [] ∧ s.mem.ends = [] ∧
    s.mem.retention = false ∧ dramPopulated s (offsetOf (arg c 24 8)) 64 = true :=
  ⟨on up (mk 0x0601 [(24, 8, winAddr), (32, 8, 64)]), mk 0x0601 [(24, 8, winAddr), (32, 8, 64)],
    by unfold Runs Executes; decide +kernel, by unfold MemOk; decide, by decide +kernel⟩

theorem witness_tablesAndDma_8 :
    ∃ (s : State) (c : Cmd), Runs s c 0x0601 2 false false anyState ∧ restZero c [(16, 25)] = true ∧ isLocal s (nodeOf
    (arg c 24 8)) = false ∧ s.mbox.squad.contains (BitVec.ofNat 16 (nodeOf (arg c 24 8))) = true ∧ spaceOf (arg c 24
    8) ≤ 2 ∧ offsetOf (arg c 24 8) + arg c 32 8 ≤ 2 ^ 44 ∧ arg c 32 8 % 4 = 0 ∧ 4 ≤ arg c 32 8 ∧ arg c 32 8 ≤ 2 ^ 40 ∧
    arg c 16 8 % 4 = 0 ∧ arg c 24 8 % 4 = 0 ∧ c.path ≠ .proxy :=
  ⟨on captain (mk 0x0601 [(24, 8, 0x0002_1000_0000_0000), (32, 8, 64)]),
    mk 0x0601 [(24, 8, 0x0002_1000_0000_0000), (32, 8, 64)], by unfold Runs Executes; decide +kernel⟩

/-- A DMA out of space 0x0 has no stripes to wait for and asks for the compute units (R385). -/
theorem witness_tablesAndDma_nested :
    Runs (on up { dmaIn0 with payload := pay [(24, 8, here 0 64), (32, 8, 64), (40, 1, 1)] })
        { dmaIn0 with payload := pay [(24, 8, here 0 64), (32, 8, 64), (40, 1, 1)] } 0x0601 2 true true anyState ∧
      readLocal up 0 64 64 = .bytes (List.replicate 64 0) ∧ readLocal up 2 64 64 = .bytes (List.replicate 64 0) := by
  unfold Runs Executes; decide +kernel

theorem witness_bench_1 :
    ∃ (s : State) (c : Cmd), Runs s c 0x010A 1 true false [.empty, .loaded, .paused, .halted] ∧ arg c 16 1 = 1 ∧
    restZero c [(16, 1)] = true :=
  ⟨on up (mk 0x010A [(16, 1, 1)]), mk 0x010A [(16, 1, 1)], by unfold Runs Executes; decide +kernel⟩

theorem witness_bench_2 :
    ∃ (s : State) (c : Cmd), Executes s c 0x010A ∧ c.ring = 1 ∧ s.power.mode = .bench ∧ arg c 16 1 = 0 ∧ restZero c
    [(16, 1)] = true :=
  ⟨on { inModule .bench up with power := { up.power with mode := .bench } } (mk 0x010A []), mk 0x010A [],
    by unfold Executes; decide +kernel⟩

theorem witness_firmware_1 :
    ∃ (s : State) (v : State) (c : Cmd) (host : HostRead) (data : List Byte), Reads s c (arg c 24 1) (arg c 16 8) (arg
    c 28 4) host data v ∧ Runs s c 0x0504 2 false (arg c 24 1 == 1) anyState ∧ (s.mbox.executing.find? fun e =>
    e.cmd.opcode == 0x0504).map (·.cmd) = some c ∧ arg c 25 1 = 0 ∧ arg c 28 4 % 512 = 0 ∧ 0 < arg c 28 4 ∧ arg c 28 4
    ≤ 0x400_0000 ∧ restZero c [(16, 10), (28, 12)] = true ∧ s.flash.staging ≠ [] ∧ arg c 32 8 = s.flash.staging.length
    ∧ arg c 32 8 ≠ 0 ∧ s.flash.staging.length + data.length ≤ 512 + bodyLength (s.flash.staging ++ data) ∧
    s.flash.staging.length + data.length ≤ stagingSize :=
  ⟨staged (on up (mk 0x0504 [(28, 4, 512), (32, 8, 512)])), _, mk 0x0504 [(28, 4, 512), (32, 8, 512)],
    some (List.replicate 512 0), List.replicate 512 0, reads_of (by decide +kernel),
    by unfold Runs Executes; decide +kernel⟩

theorem witness_firmware_2 :
    ∃ (s : State) (c : Cmd), Runs s c 0x0505 1 false false anyState ∧ restZero c [(16, 8)] = true ∧
    s.flash.stagingComplete = true ∧ s.pstate = .empty ∧ s.timebase + 10 ^ 9 ≤ arg c 16 8 ∧ arg c 16 8 ≤ s.timebase
    + 3600 * 10 ^ 9 ∧ s.fw.trial = false ∧ s.fw.identity = true :=
  ⟨stagedFully (on up (mk 0x0505 [(16, 8, 1000000000)])), mk 0x0505 [(16, 8, 1000000000)],
    by unfold Runs Executes; decide +kernel⟩

theorem witness_firmware_3 :
    ∃ (s : State) (a : ActIn) (e : Nat) (img : Image), s.fw.activation = some e ∧ s.power.thermalFault = false ∧ 2 ≤
    a.upTo ∧ a.headerOk = false ∧ bootable s.flash s.flash.boot.activeSlot = some img :=
  ⟨scheduled, { headerOk := false, copyOk := true, settingsOk := true, failed := [] }, 0, factoryImage,
    by decide +kernel⟩

theorem witness_firmware_8 :
    ∃ (s : State) (a : ActIn) (e : Nat), s.fw.activation = some e ∧ s.power.thermalFault = false ∧ a.upTo = 1 :=
  ⟨scheduled, { headerOk := true, copyOk := true, settingsOk := true, failed := [], upTo := 1 }, 0, by decide +kernel⟩

/-- The signature check is opaque (log 9), so that one hypothesis stays a premise here. -/
theorem witness_firmware_4 (signed : ∀ k m s, Config.folaelSigned k m s = true) :
    ∃ (s : State) (a : ActIn) (e : Nat), s.fw.activation = some e ∧ s.power.thermalFault = false ∧ 6 ≤ a.upTo ∧ s.fw.seed.isSome = true ∧ a.headerOk =
    true ∧ a.copyOk = true ∧ headerCheck s.flash (s.flash.staging.take 512) = 0 ∧ sm3 (s.flash.staging.drop 512) = sub
    s.flash.staging 32 32 :=
  ⟨installing, { headerOk := true, copyOk := true, settingsOk := true, failed := [] }, 5, by decide, by decide, by decide, by decide,
    rfl, rfl, bundle_head _ _ _ (sm3_length _) signed,
    (congrArg sm3 (bundle_body _ _ (sm3_length _))).trans (bundle_digest _ _ (sm3_length _)).symm⟩

theorem witness_firmware_5 :
    ∃ (s : State) (c : Cmd), Runs s c 0x0506 1 false false anyState ∧ restZero c [] = true ∧ s.fw.trial = true ∧
    s.fw.trialReady = true ∧ s.timebase ≤ s.fw.trialStart + 600 * 10 ^ 9 ∧ s.fw.seed.isSome = true :=
  ⟨withSeed (confirmable (on up (mk 0x0506 []))), mk 0x0506 [], by unfold Runs Executes; decide +kernel⟩

theorem witness_firmware_9 :
    ∃ (s : State) (c : Cmd), Runs s c 0x0506 1 false false anyState ∧ restZero c [] = true ∧ s.fw.trial = false :=
  ⟨on up (mk 0x0506 []), mk 0x0506 [], by unfold Runs Executes; decide +kernel⟩

theorem witness_firmware_6 :
    ∃ (s : State) (img : Image), s.fw.trial = true ∧ s.fw.seed.isSome = true ∧ s.power.thermalFault = false ∧ bootable
    s.flash s.flash.boot.activeSlot = some img :=
  ⟨onTrial (withSeed up), factoryImage, by decide +kernel⟩

theorem witness_firmware_7 :
    ∃ (s : State) (img : Image), s.fw.trial = true ∧ s.fw.seed.isSome = true ∧ s.power.thermalFault = false ∧ bootable
    s.flash s.flash.boot.activeSlot = some img :=
  ⟨onTrial (withSeed up), factoryImage, by decide +kernel⟩

theorem witness_firmware_10 :
    ∃ (s : State) (v : State) (c : Cmd) (host : HostRead) (data : List Byte), Runs s c 0x0504 2 false (arg c 24 1 ==
    1) anyState ∧ (s.mbox.executing.find? fun e => e.cmd.opcode == 0x0504).map (·.cmd) = some c ∧ arg c 25 1 = 1 ∧ arg
    c 28 4 % 512 = 0 ∧ 0 < arg c 28 4 ∧ arg c 28 4 ≤ 0x400_0000 ∧ restZero c [(16, 10), (28, 12)] = true ∧ Reads s c
    (arg c 24 1) (arg c 16 8) (arg c 28 4) host data v ∧ s.flash.staging ≠ [] ∧ arg c 32 8 = s.flash.staging.length ∧
    arg c 32 8 ≠ 0 ∧ (s.flash.staging ++ data).length = 512 + bodyLength (s.flash.staging ++ data) ∧ (s.flash.staging
    ++ data).length ≤ stagingSize :=
  ⟨staged (on up (mk 0x0504 [(25, 1, 1), (28, 4, 512), (32, 8, 512)])), _, mk 0x0504 [(25, 1, 1), (28, 4, 512), (32, 8, 512)],
    some (List.replicate 512 0), List.replicate 512 0, by unfold Runs Executes; decide +kernel, by decide +kernel,
    by decide +kernel, by decide +kernel, by decide +kernel, by decide +kernel, by decide +kernel,
    reads_of (by decide +kernel), by decide +kernel⟩

theorem witness_squadAndSmbus_1 :
    ∃ (s : State) (x : Rx), Arrives s x 0x10 ∧ proxyDirection x.f = 0 ∧ isMember (received s x) = true ∧ x.f.src =
    (received s x).fabric.rcd.captain ∧ (received s x).mbox.mcpUp = true :=
  ⟨member, rx 0x10 0 64 rawHalt, by unfold Arrives InOrder Sound; decide +kernel⟩

theorem witness_squadAndSmbus_2 :
    ∃ (s : State) (x : Rx), Arrives s x 0x10 ∧ proxyDirection x.f = 0 ∧ (isMember (received s x) = false ∨ x.f.src ≠
    (received s x).fabric.rcd.captain) :=
  ⟨wired, rx 0x10 0 64 rawHalt, by unfold Arrives InOrder Sound; decide +kernel⟩

theorem witness_squadAndSmbus_3 :
    ∃ (s : State) (x : Rx), Arrives s x 0x10 ∧ proxyDirection x.f = 1 ∧ (received s x).mbox.squad.contains x.f.src =
    true ∧ (received s x).mbox.mcpUp = true ∧ (received s x).mbox.unreachable = [] ∧ x.f.payload.length = 32 :=
  ⟨captain, rx 0x10 1 32 (List.replicate 32 0), by unfold Arrives InOrder Sound; decide +kernel⟩

theorem witness_squadAndSmbus_4 :
    ∃ (s : State) (e : Event) (c : Cmd) (node : Word16), s.mbox.proxied = [{ node := node, cmd := c, stage :=
    .forwarded }] ∧ s.mbox.orphans = [] ∧ c.path = .pcie ∧ e.code = 0x0001 ∧ field e.payload 0 4 = c.tag.toNat ∧ field
    e.payload 6 2 = c.opcode ∧ e.payload.length = 24 ∧ e.ring < 256 ∧ (hostData c).map (·.1) ≠ some true :=
  ⟨proxying (mk 0x0501 []), completion7 0x0501, mk 0x0501 [], 2, by decide +kernel⟩

theorem witness_squadAndSmbus_7 :
    ∃ (s : State) (e : Event) (c : Cmd) (node : Word16) (addr k : Nat),
    s.mbox.proxied = [{ node := node, cmd := c, stage := .forwarded }] ∧ c.path = .pcie ∧ e.code = 0x0001 ∧ field e.payload 0 4 = c.tag.toNat ∧ field e.payload 6 2 =
    c.opcode ∧ e.payload.length = 24 ∧ e.ring < 256 ∧ hostData c = some (true, addr, some k) ∧ field e.payload 4 1 = 0 ∧
    c.opcode ≠ 0x0601 ∧ 0 < min k (field e.payload 8 8) :=
  ⟨proxying (mk 0x0401 [(32, 4, 16)]), completion7 0x0401, mk 0x0401 [(32, 4, 16)], 2, 0, 16, by decide +kernel⟩

theorem witness_squadAndSmbus_5 :
    ∃ (s : State) (raw : List Byte), raw.length = 64 ∧ s.mbox.mcpUp = true ∧ s.mbox.module ≠ .activation ∧
    smbusAllows (numbered (notePath s .smbus) (parseCmd .smbus (ringOf (field raw 0 2)) raw)).2
    (numbered (notePath s .smbus) (parseCmd .smbus (ringOf (field raw 0 2)) raw)).1 = false :=
  ⟨up, rawHalt, by decide +kernel⟩

theorem witness_squadAndSmbus_6 :
    ∃ (s : State) (raw : List Byte), raw.length = 64 ∧ s.mbox.mcpUp = true ∧ s.mbox.module = .ready ∧ s.pstate =
    .empty ∧ s.mbox.lastPath = Vector.replicate 3 none ∧ s.mbox.executing = [] ∧ s.mbox.awaiting = [] ∧
    s.fabric.txns = [] ∧ s.fabric.bulks = [] ∧ s.mem.ends = [] ∧ field raw 8 2 = 0xFFFF ∧ field raw 0 2 = 0x0502 ∧ headerOk
    raw = true ∧ restZero (parseCmd .smbus 1 raw) [(16, 1)] = true ∧ arg (parseCmd .smbus 1 raw) 16 1 ≤ 3 :=
  ⟨up, leBytes 8 0x0502 ++ leBytes 8 0xFFFF ++ [3] ++ List.replicate 47 0, by decide +kernel⟩

theorem witness_spdm_1 :
    ∃ (s : State) (req : List Byte), isPowered s = true ∧ field req 1 1 = 0x84 ∧ s.mbox.module ≠ .activation ∧
    s.mbox.module ≠ .computeReset :=
  ⟨up, [0x10, 0x84, 0, 0], by decide +kernel⟩

theorem witness_spdm_2 :
    ∃ (s : State) (t : Transport) (req : List Byte), isPowered s = true ∧ field req 1 1 = 0xE1 ∧ s.mbox.module ≠
    .activation ∧ s.mbox.module ≠ .computeReset ∧ (spdmOf s t).transcript ≠ [] ∧ (spdmOf s t).version = none ∧
    (field req 0 1 = 0x12 ∨ field req 0 1 = 0x13) :=
  ⟨talking ({ transcript := [0] }), .mctp, [0x13, 0xE1, 0, 0], by decide +kernel⟩

theorem witness_spdm_3 :
    ∃ (s : State) (t : Transport) (req : List Byte), isPowered s = true ∧ field req 1 1 = 0xE3 ∧ s.mbox.module ≠
    .activation ∧ s.mbox.module ≠ .computeReset ∧ (spdmOf s t).caps = true ∧ (spdmOf s t).version = some
    (BitVec.ofNat 8 (field req 0 1)) :=
  ⟨talking ({ caps := true, version := some 0x12 }), .mctp, [0x12, 0xE3, 0, 0], by decide +kernel⟩

theorem witness_spdm_4 :
    ∃ (s : State) (t : Transport) (req : List Byte), isPowered s = true ∧ field req 1 1 = 0x81 ∧ s.mbox.module ≠
    .activation ∧ s.mbox.module ≠ .computeReset ∧ s.fw.identity = true ∧ s.fw.aliasKey.isSome = true ∧ (spdmOf s t).algs = true ∧ (spdmOf s
    t).version = some (BitVec.ofNat 8 (field req 0 1)) :=
  ⟨signing, .doe, [0x12, 0x81, 0, 0], by decide +kernel⟩

theorem witness_spdm_5 :
    ∃ (s : State) (t : Transport) (req : List Byte), isPowered s = true ∧ field req 1 1 = 0x82 ∧ s.mbox.module ≠
    .activation ∧ s.mbox.module ≠ .computeReset ∧ s.fw.identity = true ∧ s.fw.aliasKey.isSome = true ∧ (spdmOf s t).algs = true ∧ (spdmOf s
    t).version = some (BitVec.ofNat 8 (field req 0 1)) ∧ field req 2 1 = 0 ∧ field req 4 2 < (certChain s).length :=
  ⟨signing, .doe, [0x12, 0x82, 0, 0, 0, 0, 4, 0],
    by decide +kernel, by decide +kernel, by decide +kernel, by decide +kernel, by decide +kernel, by decide +kernel, by decide +kernel, by decide +kernel, by simp [certChain, field, sub, leNat]⟩

theorem witness_spdm_6 :
    ∃ (s : State) (t : Transport) (req : List Byte), isPowered s = true ∧ field req 1 1 = 0x83 ∧ s.mbox.module ≠
    .activation ∧ s.mbox.module ≠ .computeReset ∧ s.fw.identity = true ∧ s.fw.aliasKey.isSome = true ∧ (spdmOf s t).algs = true ∧ (spdmOf s
    t).version = some (BitVec.ofNat 8 (field req 0 1)) ∧ field req 2 1 = 0 :=
  ⟨signing, .doe, [0x12, 0x83, 0, 0], by decide +kernel⟩

theorem witness_spdm_7 :
    ∃ (s : State) (t : Transport) (req : List Byte), isPowered s = true ∧ field req 1 1 = 0xE0 ∧ s.mbox.module ≠
    .activation ∧ s.mbox.module ≠ .computeReset ∧ s.fw.identity = true ∧ s.fw.aliasKey.isSome = true ∧ (spdmOf s t).algs = true ∧ (spdmOf s
    t).version = some (BitVec.ofNat 8 (field req 0 1)) ∧ field req 3 1 = 0xFF ∧ bitAt (field req 2 1) 0 = false :=
  ⟨signing, .doe, [0x12, 0xE0, 0, 0xFF], by decide +kernel⟩

theorem witness_spdm_8 :
    ∃ (s : State) (req : List Byte), isPowered s = true ∧ field req 1 1 = 0xFF ∧ s.mbox.module ≠ .activation ∧
    s.mbox.module ≠ .computeReset ∧ s.fw.identity = true ∧ s.fw.aliasKey.isSome = true :=
  ⟨signing, [0x12, 0xFF, 0, 0], by decide +kernel⟩

theorem witness_spdm_9 :
    ∃ (s : State) (req : List Byte), isPowered s = true ∧ field req 1 1 = 0xE0 ∧ (s.mbox.module = .activation ∨
    s.mbox.module = .computeReset) :=
  ⟨inModule .activation up, [0x12, 0xE0, 0, 0xFF], by decide +kernel⟩

theorem witness_spdm_10 :
    ∃ (s : State) (req : List Byte), isPowered s = true ∧ field req 1 1 = 0xE0 ∧ s.mbox.module = .ready ∧
    s.fw.identity = false :=
  ⟨{ up with fw := { up.fw with identity := false } }, [0x12, 0xE0, 0, 0xFF], by decide +kernel⟩

theorem witness_spdm_11 :
    ∃ (s : State) (req : List Byte), isPowered s = true ∧ field req 0 2 = 1 ∧ field req 2 1 = 0 ∧ field req 8 1 = 1 :=
  ⟨up, [1, 0, 0, 0, 3, 0, 0, 0, 1, 0, 0, 0], by decide +kernel⟩

theorem witness_numberCodes_6 :
    ∃ (f : BFmt), f = .bk8f ∨ f = .bk8b :=
  ⟨.bk8b, by decide +kernel⟩

theorem witness_tokensWaitsAndSignals_1 :
    ∃ (t : Token) (parity : Nat), t.mode = 1 ∧ parity < 2 :=
  ⟨{ mode := 1, v0 := 0xFFFF, v1 := 0 }, 1, by decide +kernel⟩

theorem witness_tokensWaitsAndSignals_2 :
    ∃ (t : Token) (n : Nat), t.mode ≠ 1 ∧ t.v0 + n ≤ 0xFFFF :=
  ⟨{ mode := 0, v0 := 0xFFFE, v1 := 0 }, 1, by decide +kernel⟩

theorem witness_tokensWaitsAndSignals_3 :
    ∃ (t : Token) (n : Nat), t.mode ≠ 1 ∧ 0xFFFF < t.v0 + n :=
  ⟨{ mode := 0, v0 := 0xFFFF, v1 := 0 }, 1, by decide +kernel⟩

theorem witness_tokensWaitsAndSignals_4 :
    ∃ (t : Token), t.v0 < 0xFFFF :=
  ⟨{ mode := 2, v0 := 0xFFFE, v1 := 0 }, by decide +kernel⟩

theorem witness_tokensWaitsAndSignals_5 :
    ∃ (t : Token), t.v0 ≠ 0 :=
  ⟨{ mode := 2, v0 := 1, v1 := 0 }, by decide +kernel⟩

theorem witness_tokensWaitsAndSignals_6 :
    ∃ (t : Token), t.v0 = 0 :=
  ⟨{ mode := 2, v0 := 0, v1 := 0 }, by decide +kernel⟩

theorem witness_tokensWaitsAndSignals_7 :
    ∃ (s : State) (w : Who) (p : PInstr), Issues s w p ∧ ((∀ q ∈ s.seqs, q.unit = w.unit → q.flight = [])) :=
  ⟨at1 0x83 3 (ins 0 0xFFFF 0) [] [], who1 0x83, ins 0 0xFFFF 0, by unfold Issues; decide +kernel⟩

theorem witness_tilePasses_1 :
    ∃ (s : State) (w : Who) (p : PInstr) (stale : List (Nat × Byte)) (v : PassEnv), Issues s w p ∧ p.cls = 2 ∧ passEnv
    (issued s w p) w p = .ok v ∧ (v.p.gate = 0xFFFF ∨ v.p.rows % 32 = 0) ∧ FeedsOwn (issued s w p) w.unit v
    ((namedPasses v.p p).map (passRect v.p)) ∧ Here (issued s w p) w.unit (rectReads (issued s w p) w.unit v
    ((namedPasses v.p p).map (passRect v.p))) ∧ rectFault (atWork s w p (rectReads (issued s w p) w.unit v
    ((namedPasses v.p p).map (passRect v.p)))) w.unit v ((namedPasses v.p p).map (passRect v.p)) (overlay stale (peek
    (atWork s w p (rectReads (issued s w p) w.unit v ((namedPasses v.p p).map (passRect v.p)))) w.unit)) = none ∧
    carryFault (overlay stale (peek (atWork s w p (rectReads (issued s w p) w.unit v ((namedPasses v.p p).map
    (passRect v.p)))) w.unit)) v ((namedPasses v.p p).map (passRect v.p)) = none :=
  ⟨passState, who1 1, pass0, [], passV,
    by unfold Issues; decide +kernel, by decide, passV_eq, by decide +kernel, by unfold FeedsOwn; decide +kernel, by unfold Here; decide +kernel, by decide +kernel, by decide +kernel⟩

theorem witness_tilePasses_2 :
    ∃ (s : State) (w : Who) (p : PInstr) (t : Nat) (e : Nat) (tag : Nat) (cond : Nat), Issues s w p ∧ p.cls = 2 ∧
    passEnv (issued s w p) w p = .error (t, e, tag, cond) :=
  ⟨faultState, who1 1, pass0, 9, 0, 0, 0, by unfold Issues; decide +kernel, by decide, rfl⟩

theorem witness_tilePasses_3 :
    ∃ (s : State) (w : Who) (p : PInstr) (v : PassEnv) (r : Nat × Nat), Issues s w p ∧ p.cls = 2 ∧ passEnv (issued s w
    p) w p = .ok v ∧ ((feederRanges (peek (issued s w p) w.unit) v ((namedPasses v.p p).map (passRect v.p))).find? fun
    r => !inOwnTile (issued s w p) w.unit r.1 r.2) = some r :=
  ⟨strayState, who1 1, pass0, strayV, (here 0 0, 2),
    by unfold Issues; decide +kernel, by decide, toOption_get _ _, by decide +kernel⟩

theorem witness_tilePasses_4 :
    ∃ (s : State) (unit : Nat) (group : Nat) (g : GateGroup), openGate s unit group = some g :=
  ⟨gated, 1, 7, gate1, by decide +kernel⟩

theorem witness_tilePasses_5 :
    ∃ (s : State) (unit : Nat) (group : Nat) (g : GateGroup), s.gates = [g] ∧ g.unit = unit ∧ g.group = group ∧ g.waits =
    false ∧ g.rows ≠ [] :=
  ⟨gated, 1, 7, gate1, by decide +kernel⟩

theorem witness_tilePasses_6 :
    ∃ (s : State) (w : Who) (p : PInstr) (v : PassEnv) (stale : List (Nat × Byte)) (tried : List (Nat × Nat)) (d :
    BlockDesc) (e : Skew) (i : WorkIn), s.beat.refetch = [{ who := w, stale := stale, blocks := tried, input := i }] ∧
    s.beat.stopped = [] ∧ instrOf s w = some p ∧ p.cls = 2 ∧ passEnv s w p = .ok v ∧ FeedsOwn ({ s with beat := {
    s.beat with refetch := [] } }) w.unit v ((namedPasses v.p p).map (passRect v.p)) ∧ Here ({ s with beat := { s.beat
    with refetch := [] } }) w.unit (rectReads ({ s with beat := { s.beat with refetch := [] } }) w.unit v
    ((namedPasses v.p p).map (passRect v.p))) ∧ rectFault (workState ({ s with beat := { s.beat with refetch := [] }
    }) w (rectReads ({ s with beat := { s.beat with refetch := [] } }) w.unit v ((namedPasses v.p p).map (passRect
    v.p)))) w.unit v ((namedPasses v.p p).map (passRect v.p)) (overlay stale (peek (workState ({ s with beat := {
    s.beat with refetch := [] } }) w (rectReads ({ s with beat := { s.beat with refetch := [] } }) w.unit v
    ((namedPasses v.p p).map (passRect v.p)))) w.unit)) = some (d, e) ∧ (d.data, e.b) ∈ tried :=
  ⟨refetching 0, who1 1, pass0, badV, [], [(own 0, 0)], badFault.1, badFault.2, {},
    by decide, by decide, by decide +kernel, by decide, toOption_get _ _, by unfold FeedsOwn; decide +kernel, by unfold Here; decide +kernel, by decide +kernel, by decide +kernel⟩

theorem witness_tilePasses_7 :
    ∃ (s : State) (w : Who) (p : PInstr) (v : PassEnv) (stale : List (Nat × Byte)) (tried : List (Nat × Nat)) (i :
    WorkIn), s.beat.refetch = [{ who := w, stale := stale, blocks := tried, input := i }] ∧ tried ≠ [] ∧
    s.beat.stopped = [] ∧ instrOf s w = some p ∧ p.cls = 2 ∧ passEnv s w p = .ok v ∧ (v.p.gate = 0xFFFF ∨ v.p.rows %
    32 = 0) ∧ FeedsOwn ({ s with beat := { s.beat with refetch := [] } }) w.unit v ((namedPasses v.p p).map (passRect
    v.p)) ∧ Here ({ s with beat := { s.beat with refetch := [] } }) w.unit (rectReads ({ s with beat := { s.beat with
    refetch := [] } }) w.unit v ((namedPasses v.p p).map (passRect v.p))) ∧ rectFault (workState ({ s with beat := {
    s.beat with refetch := [] } }) w (rectReads ({ s with beat := { s.beat with refetch := [] } }) w.unit v
    ((namedPasses v.p p).map (passRect v.p)))) w.unit v ((namedPasses v.p p).map (passRect v.p)) (overlay stale (peek
    (workState ({ s with beat := { s.beat with refetch := [] } }) w (rectReads ({ s with beat := { s.beat with refetch
    := [] } }) w.unit v ((namedPasses v.p p).map (passRect v.p)))) w.unit)) = none ∧ carryFault (overlay stale (peek
    (workState ({ s with beat := { s.beat with refetch := [] } }) w (rectReads ({ s with beat := { s.beat with refetch
    := [] } }) w.unit v ((namedPasses v.p p).map (passRect v.p)))) w.unit)) v ((namedPasses v.p p).map (passRect v.p))
    = none :=
  ⟨refetching 1, who1 1, pass0, goodV, [], [(own 0, 0)], {},
    by decide, by decide, by decide, by decide +kernel, by decide, toOption_get _ _, by decide +kernel, by unfold FeedsOwn; decide +kernel, by unfold Here; decide +kernel, by decide +kernel, by decide +kernel⟩

theorem witness_vectorAndRows_1 :
    ∃ (s : State) (w : Who) (p : PInstr) (op : VeOp) (stale : List (Nat × Byte)), Issues s w p ∧ p.cls = 3 ∧ veOpIn s
    p = some op ∧ op.fn ≠ .flagRead ∧ Here (issued s w p) w.unit (veSources (issued s w p) w op) ∧ veFault (atWork s w
    p (veSources (issued s w p) w op)) w op (overlay stale (peek (atWork s w p (veSources (issued s w p) w op))
    w.unit)) = none :=
  ⟨veState .add, who1 0x83, ins 3 0 0, addOp, [], by unfold Issues; unfold Here; decide +kernel⟩

theorem witness_vectorAndRows_2 :
    ∃ (s : State) (w : Who) (p : PInstr) (op : VeOp) (td : Fin 8) (ve : Fin 12) (q : SeqUnit), Issues s w p ∧ p.cls = 3 ∧
    veOpIn s p = some op ∧ op.fn = .flagRead ∧ w.unit = veUnit td ve ∧ seqOf s w.unit = some q :=
  ⟨veState .flagRead, who1 0x83, ins 3 0 (codeOf .flagRead), { addOp with fn := .flagRead }, 0, 3,
    (seqOf (veState .flagRead) 0x83).get (by decide +kernel), by unfold Issues; decide +kernel⟩

theorem witness_vectorAndRows_3 :
    ∃ (s : State) (w : Who) (p : PInstr), Issues s w p ∧ p.cls = 4 ∧ Here (issued s w p) w.unit (rowReads (issued s w p)
    w (rowDescOf s p)) ∧ rowFault (atWork s w p (rowReads (issued s w p) w (rowDescOf s p))) w (rowDescOf s p) (overlay
    [] (peek (atWork s w p (rowReads (issued s w p) w (rowDescOf s p))) w.unit)) = none :=
  ⟨at1 0x90 4 (ins 4 0 0) [row0] [.rowOp], who1 0x90, ins 4 0 0, by unfold Issues; unfold Here; decide +kernel⟩

theorem witness_movesAndBuckets_1 :
    ∃ (s : State) (w : Who) (p : PInstr), Issues s w p ∧ p.cls = 5 ∧ isRemote s (moveDescOf s p).src = false ∧
    isRemote s (moveDescOf s p).dst = false ∧ Here (issued s w p) w.unit ([((moveDescOf s p).src, (moveDescOf s
    p).len)]) :=
  ⟨at1 0xA2 7 (ins 5 0 0) [move0] [.move], who1 0xA2, ins 5 0 0, by unfold Issues; unfold Here; decide +kernel⟩

theorem witness_movesAndBuckets_2 :
    ∃ (s : State) (w : Who) (p : PInstr), Issues s w p ∧ p.cls = 6 ∧ bitAt p.operand 0 = false ∧ Here (issued s w p)
    w.unit ([((ckptDescOf s p).src, (ckptDescOf s p).count * ckptBytes (ckptDescOf s p).k16)]) :=
  ⟨at1 0xA1 6 (ins 6 0 0) [ckpt0] [.ckpt], who1 0xA1, ins 6 0 0, by unfold Issues; unfold Here; decide +kernel⟩

theorem witness_movesAndBuckets_3 :
    ∃ (s : State) (w : Who) (p : PInstr), Issues s w p ∧ p.cls = 6 ∧ bitAt p.operand 0 = true ∧ Here (issued s w p)
    w.unit (ckptSources (peek (issued s w p) w.unit) true (ckptDescOf s p)) :=
  ⟨at1 0xA1 6 (ins 6 0 1) [ckpt0] [.ckpt], who1 0xA1, ins 6 0 1, by unfold Issues; unfold Here; decide +kernel⟩

theorem witness_movesAndBuckets_4 :
    ∃ (s : State) (w : Who) (p : PInstr) (b : BucketDesc), Issues s w p ∧ w.unit = 0x800 ∧ p.cls = 8 ∧ p.bucketKind
    = 0 ∧ bucketDescOf s p = b ∧ Here (issued s w p) w.unit (if ((planOf s b.plan).contributes) then [(b.staging,
    520 * b.segments), (b.segTable, 32 * b.segments)] else []) :=
  ⟨quiet (at1 0x800 8 (ins 8 0 0) [bucket0] [.bucket]), who1 0x800, ins 8 0 0, parseBucket bucket0,
    by unfold Issues; unfold Here; decide +kernel⟩

theorem witness_movesAndBuckets_5 :
    ∃ (s : State) (w : Who) (p : PInstr) (b : BucketDesc) (vs : List Val) (stale : List (Nat × Byte)) (u : State),
    Issues s w p ∧ p.cls = 8 ∧ p.bucketKind = 1 ∧ bucketDescOf s p = b ∧ Here (issued s w p) w.unit ([(b.result,
    1040 * b.segments), (b.segTable, 32 * b.segments)]) ∧ flaggedSegs (atWork s w p ([(b.result, 1040 * b.segments),
    (b.segTable, 32 * b.segments)])) w b = [] ∧ finishSegs w b (atWork s w p ([(b.result, 1040 * b.segments),
    (b.segTable, 32 * b.segments)])).step.toNat stale (List.range b.segments) [] (atWork s w p ([(b.result, 1040 *
    b.segments), (b.segTable, 32 * b.segments)])) = (some vs, u) :=
  ⟨finishState, who1 0x83, ins 8 0 1, parseBucket bucket0, finished0.1.getD [], [], finished0.2,
    by unfold Issues; decide +kernel, by decide, by decide, by decide +kernel, by unfold Here; decide +kernel, by decide +kernel, fst_eq (by decide +kernel)⟩

theorem witness_movesAndBuckets_6 :
    ∃ (s : State) (w : Who) (p : PInstr) (g : Program) (b : BucketDesc) (x : Acc), Issues s w p ∧ p.cls = 8 ∧
    p.bucketKind = 2 ∧ s.program = some g ∧ normBuckets g p = [b] ∧ Here (issued s w p) w.unit ([(carryAddrOf b,
    8)]) ∧ carryParse (leNat (peek (atWork s w p ([(carryAddrOf b, 8)])) w.unit (carryAddrOf b) 8)) = some x :=
  ⟨normState, who1 0x83, ins 8 0 0x10002, normProg, parseBucket bucket0, Acc.zero,
    by unfold Issues; unfold Here; decide +kernel⟩

theorem witness_movesAndBuckets_7 :
    ∃ (s : State) (w : Who) (p : PInstr), Issues s w p ∧ p.cls = 9 ∧ s.journal.replay = none ∧ (∀ q ∈ s.seqs, q.unit =
    w.unit → q.flight = []) ∧ p.signalMode = 0 :=
  ⟨at1 0x900 0xC (ins 9 0 0) [ingest0] [.ingest], who1 0x900, ins 9 0 0, by unfold Issues; decide +kernel⟩

theorem witness_movesAndBuckets_8 :
    ∃ (s : State) (q : SeqUnit) (f : InFlight) (p : PInstr), s.pstate = .running ∧ s.journal.replay = none ∧
    s.beat.deferred = [] ∧ s.beat.stuck = [] ∧ s.beat.refetch = [] ∧ s.beat.stopped = [] ∧ s.beat.reexec = [] ∧
    unitStopped s q.unit = false ∧ s.seqs = [q] ∧ q.flight = [f] ∧ f.waiting = 0 ∧ f.stripes = [] ∧
    instrOf s ({ unit := q.unit, stream := f.stream, index := f.index, inst := f.inst }) = some p :=
  ⟨inFlight1 (at1 0x83 3 (ins 3 0 0) [] []), flying, flight1, ins 3 0 0, by decide +kernel⟩

theorem witness_movesAndBuckets_9 :
    ∃ (s : State) (w : Who), live s = true ∧ flightOf s w = none ∧ carryPending s w = false :=
  ⟨at1 0x83 3 (ins 3 0 0) [] [], who1 0x83, by decide +kernel⟩

/-- Two passes of one chain that both run again: the second reads the carry words that the first writes. -/
def chained : State :=
  let product (out : Nat) : List Byte := desc [(0, 2, 2), (2, 2, 2), (4, 2, out), (6, 2, 0xFFFF), (20, 4, 1), (24, 4, 1), (28, 4, 1)]
  let s := at1 0x01 1 pass0
    [product 3, product 4, desc [(0, 8, own 0)], desc [(0, 8, own 64), (40, 1, 6)], desc [(0, 8, own 128), (24, 8, own 64)]]
    [.product, .product, .plain, .outStage, .outStage]
  { s with program := s.program.map fun g => { g with stages :=
             [{ unit := 1, tokens := [], f := [pass0, { pass0 with desc := 1 }], b := [], u := [] }] }
           beat := { s.beat with reexec := [who1 1, { who1 1 with index := 1 }] } }

theorem witness_movesAndBuckets_10 :
    ∃ (s : State) (w : Who), live s = true ∧ flightOf s w = none ∧ carryPending s w = true :=
  ⟨chained, { who1 1 with index := 1 }, by decide +kernel⟩

/-- What an instance of a main pass reads, and from which state. -/
def mainState (s : State) (w : Who) (p : PInstr) (g : Program) : State :=
  if (parseUpdate (descOf g p.desc)).fwd = 0xFFFF then issued s w p
  else startAway (issued s w p) (parseUpdate (descOf g p.desc)).fwd
def mainIndices (s : State) (w : Who) (p : PInstr) (g : Program) : List Nat :=
  (mainBlocks (mainState s w p g) g (parseUpdate (descOf g p.desc)) (instSpans w p)).flatMap fun x => x.2.filterMap id
def mainReads (s : State) (w : Who) (p : PInstr) (g : Program) : List (Nat × Nat) :=
  mainRanges (peek (mainState s w p g) w.unit) (mainState s w p g) g (parseUpdate (descOf g p.desc)) (mainIndices s w p g) ++
    copyBumps (mainState s w p g) g (parseUpdate (descOf g p.desc)).fwd (instSpans w p)

theorem witness_updatesAndSlots_1 :
    ∃ (s : State) (w : Who) (p : PInstr) (g : Program), Issues s w p ∧ p.cls = 7 ∧ p.passKind = 0 ∧ updateReady 0 s
    p = true ∧ s.program = some g ∧ Here (mainState s w p g) w.unit (mainReads s w p g) ∧ momentFault (workState
    (mainState s w p g) w (mainReads s w p g)) w.unit g (parseUpdate (descOf g p.desc)) (mainIndices s w p g) (overlay []
    (peek (workState (mainState s w p g) w (mainReads s w p g)) w.unit)) = none :=
  ⟨updateState 0, who1 0xA0, ins 7 0 0, updateProg 0, by unfold Issues; unfold Here; decide +kernel⟩

theorem witness_updatesAndSlots_9 :
    ∃ (s : State) (w : Who) (p : PInstr) (g : Program), Issues s w p ∧ p.cls = 7 ∧ p.passKind = 0 ∧ updateReady 0 s
    p = true ∧ s.program = some g ∧ Here (mainState s w p g) w.unit (mainReads s w p g) ∧ (momentFault (workState
    (mainState s w p g) w (mainReads s w p g)) w.unit g (parseUpdate (descOf g p.desc)) (mainIndices s w p g) (overlay []
    (peek (workState (mainState s w p g) w (mainReads s w p g)) w.unit))).map (·.2.cause) = some 3 :=
  ⟨momentState, who1 0xA0, ins 7 0 0, momentProg, by unfold Issues; unfold Here; decide +kernel⟩

theorem witness_updatesAndSlots_2 :
    ∃ (s : State) (w : Who) (p : PInstr) (g : Program), Issues s w p ∧ p.cls = 7 ∧ p.passKind = 1 ∧ updateReady 1 s
    p = true ∧ s.program = some g ∧ (parseUpdate (descOf g p.desc)).trans ≠ 0xFFFF ∧ Here (startAway (issued s w p)
    (parseUpdate (descOf g p.desc)).trans) w.unit (copyRanges g (parseUpdate (descOf g p.desc)).trans (s.step.toNat
    + 1) (instSpans w p) ++ copyBumps s g (parseUpdate (descOf g p.desc)).trans (instSpans w p)) :=
  ⟨updateState 1, who1 0xA0, ins 7 0 0x40000000, updateProg 1, by unfold Issues; unfold Here; decide +kernel⟩

theorem witness_updatesAndSlots_3 :
    ∃ (s : State) (g : Program) (v : VState), s.pstate = .running ∧ s.beat.committed = true ∧ s.program = some g ∧
    s.versions = [v] ∧ ((v.slot (s.step.toNat + 1)).cond = .held ∨ (v.slot (s.step.toNat + 1)).cond = .empty) ∧
    tokenValue s v.unit ((parseVersion (descOf g v.record)).refToken (s.step.toNat + 1)) = 0 :=
  ⟨heldState, versionProg, held1, by decide +kernel⟩

theorem witness_updatesAndSlots_4 :
    ∃ (s : State) (g : Program) (v : VState), s.pstate = .running ∧ s.journal.replay = none ∧ s.program = some g ∧
    s.versions = [v] ∧ (v.slot (s.step.toNat + 1)).cond = .writing ∧ v.last = none ∧ (List.range (ceilDiv (parseBlock
    (descOf g ((parseVersion (descOf g v.record)).slotDesc (s.step.toNat + 1)))).n 256)).all v.spans.contains = true ∧
    tokenValue s v.unit ((parseVersion (descOf g v.record)).refToken (s.step.toNat + 2)) = 0 :=
  ⟨writingState, versionProg, writing1, by decide +kernel⟩

theorem witness_updatesAndSlots_5 :
    ∃ (s : State) (d : TrackDesc) (t : Tracker), trackDescOf s d.tensor = some d ∧ s.scales.trackers = [t] ∧
    t.tensor = d.tensor ∧ t.last.written = true ∧ d.headSteps ≤ t.headroom ∧ t.adj < 15 :=
  ⟨tracking tracker1, parseTrack track1, tracker1, by decide +kernel⟩

theorem witness_updatesAndSlots_6 :
    ∃ (s : State) (d : TrackDesc) (t : Tracker), trackDescOf s d.tensor = some d ∧ s.scales.trackers = [t] ∧
    t.tensor = d.tensor ∧ t.last.written = true ∧ d.headSteps ≤ t.headroom ∧ 15 ≤ t.adj :=
  ⟨tracking tracker15, parseTrack track1, tracker15, by decide +kernel⟩

theorem witness_updatesAndSlots_7 :
    ∃ (s : State) (g : Program) (d : LayerDesc) (l : LayerState), s.program = some g ∧ (layerDescs g).find? (fun x
    => x.layer == d.layer) = some d ∧ s.scales.layers = [l] ∧ l.layer = d.layer ∧ stallOn d = true ∧ l.alarm = false
    ∧ d.stallSteps ≤ l.stall ∧ (decode .b32 l.ratio.toNat).lt (decode .k16 d.stallFloor) = true :=
  ⟨stallState, stallProg, parseLayer layerS, layer1, by decide +kernel⟩

theorem witness_updatesAndSlots_8 :
    ∃ (s : State) (w : Who) (p : PInstr), Issues s w p ∧ w.stream = .U :=
  ⟨uState, { who1 0xA0 with stream := .U }, ins 7 0 0, by unfold Issues; decide +kernel, rfl⟩

theorem witness_updatesAndSlots_10 :
    ∃ (s : State) (g : Program) (v : VState), s.pstate = .running ∧ s.beat.committed = true ∧ s.program = some g ∧
    s.versions = [v] ∧ ((v.slot (s.step.toNat + 1)).cond = .held ∨ (v.slot (s.step.toNat + 1)).cond = .empty) ∧
    tokenValue s v.unit ((parseVersion (descOf g v.record)).refToken (s.step.toNat + 1)) = 0 :=
  ⟨{ heldState with versions := [{ held1 with s1 := { tag := 0, fmt := 1, cond := .empty } }] }, versionProg,
    { held1 with s1 := { tag := 0, fmt := 1, cond := .empty } }, by decide +kernel⟩

theorem witness_beatsAndHolds_1 :
    ∃ (s : State), s.pstate = .running ∧ s.beat.pauseDue = false ∧ s.beat.atHoldPoint = false ∧ s.beat.upSent =
    false ∧ s.beat.halting = false ∧ s.beat.ups = [] ∧ s.journal.replay = none ∧ huddleOpen s = false ∧ childPorts s
    = [] ∧ parentPort s = none :=
  ⟨within up .running prog0, by decide +kernel⟩

theorem witness_beatsAndHolds_2 :
    ∃ (s : State), s.pstate = .running ∧ s.beat.started = true ∧ s.beat.atHoldPoint = true ∧ s.beat.reasons ≠ [] ∧
    holdLimitOf s < s.beat.holdRun + 1 ∧ s.beat.abortFlags.getLsbD 2 = false :=
  ⟨{ beating with beat := { beating.beat with holdRun := 1, reasons := [(1, 1)] } }, by decide +kernel⟩

theorem witness_beatsAndHolds_3 :
    ∃ (s : State) (d : Decision), Decided s d ∧ s.beat.started = true ∧ d.hold = false ∧ huddleOpen s = false ∧
    s.beat.number + 1 < ((headerOf s).map (·.working)).getD 0 + s.beat.stoppage :=
  ⟨deciding { noAbort with hold := false } 0 true, { noAbort with hold := false },
    by unfold Decided; decide +kernel⟩

theorem witness_beatsAndHolds_4 :
    ∃ (s : State) (d : Decision), Decided s d ∧ s.beat.started = true ∧ d.hold = true ∧ d.abort = false :=
  ⟨deciding noAbort 0 false, noAbort, by unfold Decided; decide +kernel⟩

theorem witness_beatsAndHolds_5 :
    ∃ (s : State) (d : Decision), Decided s d ∧ s.beat.started = true ∧ d.hold = false ∧ huddleOpen s = false ∧
    s.beat.pauseAt = none ∧ s.journal.replay = none ∧ s.journal.armed = none ∧ s.reduce.withheld = [] ∧
    s.beat.number + 1 = ((headerOf s).map (·.working)).getD 0 + s.beat.stoppage :=
  ⟨deciding { noAbort with hold := false } 2 true, { noAbort with hold := false },
    by unfold Decided; decide +kernel⟩

theorem witness_beatsAndHolds_6 :
    ∃ (s : State) (d : Decision), Decided s d ∧ s.beat.started = false ∧ s.beat.heldNow = false ∧ d.hold = false :=
  ⟨preEpoch, { noAbort with hold := false }, by unfold Decided; decide +kernel⟩

theorem witness_whistleAndHuddle_1 :
    ∃ (s : State) (p : Fin 12), s.pstate = .running ∧ s.beat.pauseDue = false ∧ s.beat.atHoldPoint = true ∧
    s.beat.upSent = false ∧ s.journal.replay = none ∧ parentPort s = none ∧ p ∈ childPorts s ∧ s.beat.ups.any
    (·.port == p) = false ∧ (childStopped s p = false ∨ huddleOpen s = true) :=
  ⟨{ withChild with beat := { withChild.beat with atHoldPoint := true } }, 0, by decide +kernel⟩

theorem witness_whistleAndHuddle_2 :
    ∃ (s : State), s.pstate = .running ∧ s.beat.pauseDue = false ∧ s.beat.atHoldPoint = true ∧ s.beat.upSent = false
    ∧ s.journal.replay = none ∧ parentPort s = none ∧ huddleOpen s = false ∧ s.beat.reasons = [] ∧ (∀ u ∈
    s.beat.ups, u.hold = false) ∧ (∀ p ∈ absentChildren s, childStopped s p = true) ∧ s.beat.members ≤ membersBelow
    s :=
  ⟨childLost, by decide +kernel⟩

theorem witness_whistleAndHuddle_3 :
    ∃ (s : State) (x : Rx), Arrives s x 0x0C ∧ field x.f.payload 14 1 = 0 ∧ onBeat (received s x) = true ∧
    (childPorts (received s x)).contains x.port = true ∧ s.beat.upSent = false ∧ s.beat.atHoldPoint = false ∧ field
    x.f.payload 0 8 = wirePeriod (received s x) ∧ s.beat.ups.any (fun u => u.port == x.port) = false :=
  ⟨withChild, rx 0x0C 0 0 (List.replicate 32 0), by unfold Arrives InOrder Sound; decide +kernel⟩

theorem witness_whistleAndHuddle_4 :
    ∃ (s : State) (x : Rx), Arrives s x 0x0C ∧ field x.f.payload 14 1 = 1 ∧ parentPort s = some x.port ∧ childPorts
    s = [] ∧ onBeat (received s x) = true ∧ s.beat.down = none ∧ field x.f.payload 0 8 = wirePeriod s :=
  ⟨withParent, rx 0x0C 0 0 (List.replicate 14 0 ++ [1] ++ List.replicate 17 0),
    by unfold Arrives InOrder Sound; decide +kernel⟩

theorem witness_whistleAndHuddle_5 :
    ∃ (s : State) (x : Rx), Arrives s x 0x0C ∧ field x.f.payload 14 1 = 1 ∧ parentPort s ≠ some x.port :=
  ⟨wired, rx 0x0C 0 0 (List.replicate 14 0 ++ [1] ++ List.replicate 17 0),
    by unfold Arrives InOrder Sound; decide +kernel⟩

theorem witness_whistleAndHuddle_6 :
    ∃ (s : State) (p : Program), s.program = some p ∧ voteDue s = true ∧ s.journal.replay = none ∧ childPorts s = []
    ∧ parentPort s = none ∧ s.beat.combined = none ∧ s.beat.huddleParts = [] :=
  ⟨beating, prog0, by decide +kernel⟩

theorem witness_whistleAndHuddle_7 :
    ∃ (s : State) (p : Program), (voteFlags s ≠ 0 ∨ completeUpTo s p.hdr.huddleBeat = false) :=
  ⟨aborting, prog0, by decide +kernel⟩

theorem witness_whistleAndHuddle_8 :
    ∃ (s : State) (p : Program), voteFlags s = 0 ∧ completeUpTo s p.hdr.huddleBeat = true :=
  ⟨beating, prog0, by decide +kernel⟩

theorem witness_whistleAndHuddle_9 :
    ∃ (s : State) (x : Rx), Arrives s x 0x0D ∧ inReset s = false ∧ s.journal.replay = none ∧ x.f.flags.getLsbD 2 =
    true ∧ (childPorts s).contains x.port = true ∧ s.beat.huddleOwn = none ∧ s.beat.huddleParts.any (fun y => y.1 ==
    x.port) = false :=
  ⟨withChild, lastFrame (rx 0x0D 0 0 []), by unfold Arrives InOrder Sound; decide +kernel⟩

theorem witness_whistleAndHuddle_10 :
    ∃ (s : State) (x : Rx), Arrives s x 0x0D ∧ inReset s = false ∧ s.journal.replay = none ∧ x.f.flags.getLsbD 2 =
    false :=
  ⟨wired, rx 0x0D 0 0 [], by unfold Arrives InOrder Sound; decide +kernel⟩

theorem witness_whistleAndHuddle_11 :
    ∃ (s : State) (x : Rx), Arrives s x 0x0D ∧ inReset s = true :=
  ⟨inModule .computeReset wired, rx 0x0D 0 0 [], by unfold Arrives InOrder Sound; decide +kernel⟩

theorem witness_unitFaults_1 :
    ∃ (s : State) (t : TileId) (e : UnitEntry) (sub : UnitEntry) (unit : Nat), findUnit s (tilePhys t) = some e ∧
    e.cond = .inService ∧ e.logical = some unit ∧ lowestSpare s (kindCode t.kind) t.td.val = some sub ∧ sub.phys ≠
    tilePhys t :=
  ⟨tiles .inService (some 3), tile3, unit3 .inService (some 3), spare24, 3, by decide +kernel⟩

theorem witness_unitFaults_2 :
    ∃ (s : State) (t : TileId) (e : UnitEntry), findUnit s (tilePhys t) = some e ∧ e.cond ≠ .inService :=
  ⟨tiles .failed none, tile3, unit3 .failed none, by decide +kernel⟩

theorem witness_unitFaults_3 :
    ∃ (s : State) (t : TileId) (e : UnitEntry), findUnit s (tilePhys t) = some e ∧ e.cond = .suspect ∧ e.logical =
    none ∧ e.standsFor = [] ∧ recentMismatches s (tilePhys t) < 3 :=
  ⟨tiles .suspect none, tile3, unit3 .suspect none, by decide +kernel⟩

theorem witness_unitFaults_4 :
    ∃ (s : State) (t : TileId) (e : UnitEntry), findUnit s (tilePhys t) = some e ∧ e.cond = .suspect ∧ e.logical =
    none :=
  ⟨tiles .suspect none, tile3, unit3 .suspect none, by decide +kernel⟩

theorem witness_unitFaults_5 :
    ∃ (s : State) (td : Fin 8) (kind : TileKind) (x : PhysUnit × Nat), s.pstate ≠ .running ∧ s.journal.replay = none ∧
    awaiting s (kindCode kind) td.val = [x] ∧ (∀ k : Nat, 3 ≤ k → k ≤ 7 → awaiting s k td.val = []) :=
  ⟨tiles .failed (some 3), 0, .ft, ((unit3 .failed (some 3)).phys, 3), by decide, by decide, by decide +kernel,
    by intro k h₁ h₂; have : k = 3 ∨ k = 4 ∨ k = 5 ∨ k = 6 ∨ k = 7 := by omega
       rcases this with rfl | rfl | rfl | rfl | rfl <;> decide +kernel⟩

theorem witness_unitFaults_6 :
    ∃ (s : State), s.pstate = .running :=
  ⟨within up .running prog0, by decide +kernel⟩

theorem witness_unitFaults_7 :
    ∃ (s : State) (unit : Nat) (e : UnitEntry), runner s unit = some e ∧ 3 ≤ e.phys.kind ∧ e.phys.kind ≤ 5 ∧ e.cond
    = .inService :=
  ⟨withUnits [ve3], 0x83, ve3, by decide +kernel⟩

theorem witness_unitFaults_8 :
    ∃ (s : State) (r : UnitReport) (e : UnitEntry), findUnit s r.phys = some e ∧ (e.cond = .inService ∨ e.cond =
    .spare) ∧ e.logical = none ∧ r.phys.kind ≠ 0xA ∧ r.managementSound ≠ r.dataPathSound :=
  ⟨withUnits [osd0], { phys := osd0.phys, managementSound := false, dataPathSound := true }, osd0,
    by decide +kernel⟩

theorem witness_unitFaults_9 :
    ∃ (s : State) (r : UnitReport) (e : UnitEntry), findUnit s r.phys = some e ∧ e.cond ≠ .suspect ∧
    r.managementSound = r.dataPathSound :=
  ⟨withUnits [osd0], { phys := osd0.phys, managementSound := true, dataPathSound := true }, osd0,
    by decide +kernel⟩

theorem witness_unitFaults_10 :
    ∃ (s : State) (u : PhysUnit) (e : UnitEntry) (unit : Nat) (q : SeqUnit), findUnit s u = some e ∧ e.cond =
    .failed ∧ e.logical = some unit ∧ s.seqs = [q] ∧ q.unit = unit :=
  ⟨{ tiles .failed (some 3) with seqs := [{ unit := 3 }] }, tilePhys tile3, unit3 .failed (some 3), 3,
    { unit := 3 }, by decide +kernel⟩

theorem witness_unitFaults_11 :
    ∃ (s : State) (w : Who) (p : PInstr), Issues s w p ∧ w.unit / 256 < 8 :=
  ⟨at1 0x83 3 (ins 0 0xFFFF 0) [] [], who1 0x83, ins 0 0xFFFF 0, by unfold Issues; decide +kernel⟩

theorem witness_unitFaults_12 :
    ∃ (s : State) (w : Who), unitStopped s w.unit = true ∧ s.beat.deferred = [] ∧ flightOf s w ≠ none :=
  ⟨{ inFlight1 up with units := [{ ve3 with cond := .suspect }] }, who1 0x83, by decide +kernel⟩

theorem witness_unitFaults_13 :
    ∃ (s : State) (t : TileId) (e : UnitEntry), findUnit s (tilePhys t) = some e ∧ e.cond = .suspect ∧ e.logical =
    none ∧ e.standsFor = [] ∧ 3 ≤ recentMismatches s (tilePhys t) :=
  ⟨withUnits [{ unit3 .suspect none with recent := [0, 0, 0] }], tile3, { unit3 .suspect none with recent := [0, 0, 0] },
    by decide +kernel⟩

theorem witness_unitFaults_14 :
    ∃ (s : State) (unit : Nat) (e : UnitEntry), runner s unit = some e ∧ 3 ≤ e.phys.kind ∧ e.phys.kind ≤ 5 ∧ e.cond =
    .inService ∧ 2 ≤ recentMismatches s e.phys :=
  ⟨withUnits [{ ve3 with recent := [0, 0] }], 0x83, { ve3 with recent := [0, 0] }, by decide +kernel⟩

theorem witness_unitFaults_15 :
    ∃ (s : State) (r : UnitReport) (e : UnitEntry) (o : UnitEntry), findUnit s r.phys = some e ∧ e.cond = .inService ∧
    e.logical = none ∧ r.phys.kind = 0xA ∧ r.phys.index < 12 ∧ (getAt s.reduce.pipes (r.phys.index / 2) 0).val =
    r.phys.index % 2 ∧ findUnit s { r.phys with index := 2 * (r.phys.index / 2) + (1 - r.phys.index % 2) } = some o ∧
    o.cond ≠ .failed ∧ r.managementSound ≠ r.dataPathSound :=
  ⟨withUnits [pipe 0 .inService, pipe 1 .spare], { phys := (pipe 0 .inService).phys, managementSound := false, dataPathSound := true },
    pipe 0 .inService, pipe 1 .spare, by decide +kernel⟩

theorem witness_servedRequests_1 :
    ∃ (s : State) (x : Rx) (space : Nat) (off : Nat) (b : List Byte), Arrives s x 0x01 ∧ requestPlace (received s x)
    x.f x.f.len.toNat = some (space, off) ∧ space ≠ 8 ∧ space ≠ 1 ∧ rangeOk x.f x.f.len.toNat (maxPayload (received
    s x).fabric.ports[x.port]) = true ∧ readLocal (received s x) space off x.f.len.toNat = .bytes b :=
  ⟨wired, rx 0x01 (here 0 0x2_FFFF_FFFC) 4 [], 0, 0x2_FFFF_FFFC, [0, 0, 0, 0],
    by unfold Arrives InOrder Sound; decide +kernel⟩

theorem witness_servedRequests_2 :
    ∃ (s : State) (x : Rx) (space : Nat) (off : Nat) (st : Nat), Arrives s x 0x01 ∧ requestPlace (received s x) x.f
    x.f.len.toNat = some (space, off) ∧ space ≠ 8 ∧ rangeOk x.f x.f.len.toNat (maxPayload (received s
    x).fabric.ports[x.port]) = true ∧ readLocal (received s x) space off x.f.len.toNat = .fail st :=
  ⟨wired, rx 0x01 (here 3 0) 4 [], 3, 0, 1, by unfold Arrives InOrder Sound; decide +kernel⟩

theorem witness_servedRequests_3 :
    ∃ (s : State) (x : Rx) (off : Nat), Arrives s x 0x01 ∧ requestPlace (received s x) x.f x.f.len.toNat = some (8,
    off) ∧ fromCaptain (received s x) x.f = false :=
  ⟨wired, rx 0x01 (here 8 0) 4 [], 0, by unfold Arrives InOrder Sound; decide +kernel⟩

theorem witness_servedRequests_4 :
    ∃ (s : State) (t : State) (x : Rx) (off : Nat), Arrives s x 0x03 ∧ requestPlace (received s x) x.f
    x.f.payload.length = some (0, off) ∧ rangeOk x.f x.f.payload.length (maxPayload (received s
    x).fabric.ports[x.port]) = true ∧ writeLocal (received s x) 0 off x.f.payload = (0, t) ∧ s.journal.recording =
    false :=
  ⟨wired,
    (writeLocal (received wired (rx 0x03 (here 0 8) 0 [1, 2, 3, 4])) 0 8 (rx 0x03 (here 0 8) 0 [1, 2, 3, 4]).f.payload).2,
    rx 0x03 (here 0 8) 0 [1, 2, 3, 4], 8,
    by unfold Arrives InOrder Sound; decide +kernel, by decide +kernel, by decide +kernel, fst_eq (by decide +kernel), by decide⟩

theorem witness_servedRequests_5 :
    ∃ (s : State) (x : Rx) (off : Nat), Arrives s x 0x03 ∧ requestPlace (received s x) x.f x.f.payload.length = some
    (8, off) ∧ fromCaptain (received s x) x.f = true ∧ (x.f.payload.length = 4 ∨ x.f.payload.length = 8) ∧ off %
    x.f.payload.length = 0 ∧ ((0x1000 ≤ off ∧ off < 0x1014) ∨ (0x2000 ≤ off ∧ off < 0x20A0) ∨ (0x10000 ≤ off ∧ off <
    0x11008)) :=
  ⟨member, rx 0x03 (here 8 0x11004) 0 [0, 0, 0, 0], 0x11004, by unfold Arrives InOrder Sound; decide +kernel⟩

theorem witness_servedRequests_6 :
    ∃ (s : State) (t : State) (x : Rx) (off : Nat) (w : Nat) (b : List Byte), Arrives s x 0x05 ∧ field x.f.payload 1
    1 = w ∧ requestPlace (received s x) x.f w = some (0, off) ∧ x.f.payload.length = 24 ∧ field x.f.payload 0 1 ≤ 5
    ∧ (w = 4 ∨ w = 8) ∧ zeros x.f.payload 2 6 = true ∧ x.f.arg.toNat % w = 0 ∧ readLocal (received s x) 0 off w =
    .bytes b ∧ s.journal.recording = false ∧ writeLocal (received s x) 0 off (leBytes w (atomicNew (field
    x.f.payload 0 1) w (leNat b) (field x.f.payload 8 8) (field x.f.payload 16 8))) = (0, t) :=
  ⟨wired, (writeLocal (received wired atomic0) 0 8 atomicData).2, atomic0, 8, 8, List.replicate 8 0,
    by unfold Arrives InOrder Sound; decide +kernel, by decide +kernel, by decide +kernel, by decide, by decide, by decide, by decide, by decide, by decide +kernel, by decide, fst_eq (by decide +kernel)⟩

theorem witness_servedRequests_7 :
    ∃ (w : Nat) (old : Nat), old < 2 ^ (8 * w) :=
  ⟨8, 2 ^ 64 - 1, by decide +kernel⟩

theorem witness_servedRequests_8 :
    ∃ (s : State) (x : Rx), Arrives s x 0x07 ∧ s.pstate = .running ∧ inReset s = false ∧ s.journal.recording = false
    :=
  ⟨within wired .running prog0, rx 0x07 0 0 (List.replicate 8 0), by unfold Arrives InOrder Sound; decide +kernel⟩

theorem witness_servedRequests_9 :
    ∃ (s : State) (x : Rx), Arrives s x 0x07 ∧ s.pstate ≠ .running :=
  ⟨wired, rx 0x07 0 0 (List.replicate 8 0), by unfold Arrives InOrder Sound; decide +kernel⟩

theorem witness_servedRequests_10 :
    ∃ (s : State) (x : Rx) (space : Nat) (off : Nat) (b : List Byte), Arrives s x 0x09 ∧ requestPlace (received s x)
    x.f x.f.len.toNat = some (space, off) ∧ space ≠ 8 ∧ space ≠ 1 ∧ readLocal (received s x) space off x.f.len.toNat
    = .bytes b :=
  ⟨wired, rx 0x09 (here 0 0) 64 (List.replicate 8 0), 0, 0, List.replicate 64 0,
    by unfold Arrives InOrder Sound; decide +kernel⟩

theorem witness_servedRequests_11 :
    ∃ (s : State) (x : Rx) (off st : Nat) (b : List Byte), Arrives s x 0x09 ∧ requestPlace (received s x) x.f x.f.len.toNat
    = some (8, off) ∧ controlRead (received s x) x.f off x.f.len.toNat = (st, b) ∧ fromCaptain (received s x) x.f = false ∧
    st ≠ 0 :=
  ⟨wired, rx 0x09 (here 8 0) 64 (List.replicate 8 0), 0, 4, [], by unfold Arrives InOrder Sound; decide +kernel⟩

theorem witness_servedRequests_16 :
    ∃ (s : State) (x : Rx) (off st : Nat) (b : List Byte), Arrives s x 0x09 ∧ requestPlace (received s x) x.f x.f.len.toNat
    = some (8, off) ∧ controlRead (received s x) x.f off x.f.len.toNat = (st, b) ∧ st = 0 :=
  ⟨member, rx 0x09 (here 8 0x11000) 8 (List.replicate 8 0), 0x11000, 0, List.replicate 8 0,
    by unfold Arrives InOrder Sound; decide +kernel⟩

theorem witness_servedRequests_12 :
    ∃ (s : State) (t : State) (x : Rx), Arrives s x 0x08 ∧ s.fabric.bulks = [] ∧ s.fabric.bulkIn = [] ∧
    s.fabric.lateReads = [] ∧ s.mem.ends = [] ∧ s.journal.recording = false ∧ isLocal (received s x) (nodeOf x.f.arg.toNat) = true ∧ spaceOf x.f.arg.toNat = 0 ∧
    x.f.flags.getLsbD 2 = true ∧ writeLocal (received s x) 0 (offsetOf x.f.arg.toNat) x.f.payload = (0, t) :=
  ⟨wired, (writeLocal (received wired bulk0) 0 (offsetOf bulk0.f.arg.toNat) bulk0.f.payload).2, bulk0,
    by unfold Arrives InOrder Sound; decide +kernel, by decide +kernel, by decide +kernel, by decide +kernel, by decide +kernel, by decide +kernel, by decide +kernel, by decide +kernel, by decide +kernel, fst_eq (by decide +kernel)⟩

theorem witness_servedRequests_13 :
    ∃ (s : State) (x : Rx), Arrives s x 0x0B ∧ ((parseSegs 16 x.f.payload).all residuesHold) = true ∧ (inReset s =
    true ∨ s.pstate = .halted) :=
  ⟨inModule .computeReset wired, rx 0x0B 0 0 zeroSeg, by unfold Arrives InOrder Sound; decide +kernel⟩

theorem witness_servedRequests_14 :
    ∃ (s : State) (x : Rx) (g : WireSeg) (b : BucketDesc), Arrives s x 0x0B ∧ parseSegs 16 x.f.payload = [g] ∧
    residuesHold g = true ∧ inReset s = false ∧ s.pstate ≠ .halted ∧ s.journal.replay = none ∧ admitted (received s x)
    g = true ∧ bucketOfTag s g.hdr.tag = some b ∧ g.hdr.number < b.segments ∧ g.hdr.kind ≠ 3 :=
  ⟨within wired .running progB, rx 0x0B 0 0 zeroSeg0, zeroWire0, parseBucket bucket0,
    by unfold Arrives InOrder Sound; decide +kernel⟩

theorem witness_servedRequests_15 :
    ∃ (s : State) (x : Rx) (g : WireSeg) (b : BucketDesc), Arrives s x 0x0B ∧ parseSegs 16 x.f.payload = [g] ∧
    residuesHold g = true ∧ inReset s = false ∧ s.pstate ≠ .halted ∧ s.journal.replay = none ∧ admitted (received s x)
    g = true ∧ s.reduce.withheld = [] ∧ bucketOfTag s g.hdr.tag = some b ∧ b.segments ≤ g.hdr.number :=
  ⟨within wired .running progB, rx 0x0B 0 0 zeroSeg, zeroWire, parseBucket bucket0,
    by unfold Arrives InOrder Sound; decide +kernel⟩

theorem witness_servedRequests_17 :
    ∃ (s : State) (x : Rx) (off : Nat) (b : List Byte), Arrives s x 0x01 ∧ requestPlace (received s x) x.f
    x.f.len.toNat = some (1, off) ∧ rangeOk x.f x.f.len.toNat (maxPayload (received s x).fabric.ports[x.port]) = true
    ∧ readLocal (received s x) 1 off x.f.len.toNat = .bytes b :=
  ⟨wired, rx 0x01 (here 1 64) 4 [], 64, [0, 0, 0, 0], by unfold Arrives InOrder Sound; decide +kernel⟩

theorem witness_servedRequests_18 :
    ∃ (s : State) (t : State) (x : Rx) (off : Nat), Arrives s x 0x03 ∧ requestPlace (received s x) x.f
    x.f.payload.length = some (1, off) ∧ rangeOk x.f x.f.payload.length (maxPayload (received s
    x).fabric.ports[x.port]) = true ∧ writeLocal (received s x) 1 off x.f.payload = (0, t) :=
  ⟨wired, (writeLocal (received wired (rx 0x03 (here 1 8) 0 [1, 2, 3, 4])) 1 8 (rx 0x03 (here 1 8) 0 [1, 2, 3, 4]).f.payload).2,
    rx 0x03 (here 1 8) 0 [1, 2, 3, 4], 8, by unfold Arrives InOrder Sound; decide +kernel, by decide +kernel, by decide +kernel,
    fst_eq (by decide +kernel)⟩

theorem witness_servedRequests_19 :
    ∃ (s : State) (t : State) (x : Rx) (space : Nat) (off : Nat) (st : Nat), Arrives s x 0x03 ∧ requestPlace (received
    s x) x.f x.f.payload.length = some (space, off) ∧ space ≠ 8 ∧ rangeOk x.f x.f.payload.length (maxPayload (received
    s x).fabric.ports[x.port]) = true ∧ writeLocal (received s x) space off x.f.payload = (st, t) ∧ st ≠ 0 :=
  ⟨wired, (writeLocal (received wired (rx 0x03 (here 3 8) 0 [1, 2, 3, 4])) 3 8 (rx 0x03 (here 3 8) 0 [1, 2, 3, 4]).f.payload).2,
    rx 0x03 (here 3 8) 0 [1, 2, 3, 4], 3, 8, 1, by unfold Arrives InOrder Sound; decide +kernel, by decide +kernel,
    by decide, by decide +kernel, fst_eq (by decide +kernel), by decide⟩

/-- A read of a stripe that is still in the write buffer waits for it, and a write of a whole stripe waits for none. -/
theorem witness_servedRequests_nested :
    stripesHeld (received { wired with mem := { wired.mem with stripes := [stripe0] } } (rx 0x01 (here 1 64) 4 [])) 1 64 4 ≠ [] ∧
      stripesHeld (writeLocal (received wired (rx 0x03 (here 1 0) 0 (List.replicate 1024 1))) 1 0 (List.replicate 1024 1)).2 1 0 1024 =
        [] := by decide +kernel

theorem witness_responses_1 :
    ∃ (s : State) (x : Rx) (t : Txn) (win : Nat) (n : Nat), Arrives s x 0x02 ∧ s.fabric.txns = [t] ∧ t.tid = x.f.tid
    ∧ t.typ = 1 ∧ t.owner = .hostRead win n ∧ x.f.status = 0 :=
  ⟨waitingFor 1 (.hostRead 0 4), rx 0x02 0 4 [1, 2, 3, 4], txn 1 (.hostRead 0 4), 0, 4,
    by unfold Arrives InOrder Sound; decide +kernel⟩

theorem witness_responses_2 :
    ∃ (s : State) (x : Rx), Arrives s x 0x02 ∧ s.fabric.txns = [] :=
  ⟨wired, rx 0x02 0 0 [], by unfold Arrives InOrder Sound; decide +kernel⟩

theorem witness_responses_3 :
    ∃ (s : State) (x : Rx) (t : Txn) (w : Who), Arrives s x 0x04 ∧ s.fabric.txns = [t] ∧ t.tid = x.f.tid ∧ t.typ = 3
    ∧ t.owner = .unit w ∧ x.f.status = 0 :=
  ⟨waitingFor 3 (.unit (who1 0xA2)), rx 0x04 0 0 [], txn 3 (.unit (who1 0xA2)), who1 0xA2,
    by unfold Arrives InOrder Sound; decide +kernel⟩

theorem witness_responses_4 :
    ∃ (s : State) (x : Rx), Arrives s x 0x04 ∧ s.fabric.txns = [] :=
  ⟨wired, rx 0x04 0 0 [], by unfold Arrives InOrder Sound; decide +kernel⟩

theorem witness_responses_5 :
    ∃ (s : State) (x : Rx) (t : Txn) (w : Who), Arrives s x 0x06 ∧ s.fabric.txns = [t] ∧ t.tid = x.f.tid ∧ t.typ = 5
    ∧ t.owner = .unit w ∧ x.f.status = 0 :=
  ⟨waitingFor 5 (.unit (who1 0xA2)), rx 0x06 0 8 (List.replicate 8 0), txn 5 (.unit (who1 0xA2)), who1 0xA2,
    by unfold Arrives InOrder Sound; decide +kernel⟩

theorem witness_responses_6 :
    ∃ (s : State) (x : Rx), Arrives s x 0x06 ∧ s.fabric.txns = [] :=
  ⟨wired, rx 0x06 0 8 (List.replicate 8 0), by unfold Arrives InOrder Sound; decide +kernel⟩

theorem witness_responses_7 :
    ∃ (s : State) (t : Txn) (w : Who), s.fabric.txns = [t] ∧ t.owner = .unit w ∧ s.mbox.squad = [] :=
  ⟨waitingFor 1 (.unit (who1 0xA2)), txn 1 (.unit (who1 0xA2)), who1 0xA2, by decide +kernel⟩

theorem witness_responses_8 :
    ∃ (s : State) (b : Bulk) (w : Who), s.fabric.txns = [] ∧ s.fabric.bulks = [b] ∧ b.served = false ∧ b.owner =
    .unit w ∧ s.mbox.squad = [] :=
  ⟨asking, bulkIn1, who1 0xA2, by decide +kernel⟩

theorem witness_responses_9 :
    ∃ (s : State) (x : Rx) (b : Bulk) (c : Cmd), Arrives s x 0x0A ∧ s.fabric.bulks = [b] ∧ b.tid = x.f.tid ∧ b.node
    = x.f.src ∧ b.inward = false ∧ b.rest = 0 ∧ b.owner = .dma c ∧ x.f.status = 0 ∧ b.len ≤ x.f.arg.toNat + 1 -
    b.dst.toNat :=
  ⟨bulking, rx 0x0A 0x103F 0 [], bulk1, mk 0x0601 [], by unfold Arrives InOrder Sound; decide +kernel⟩

theorem witness_responses_10 :
    ∃ (s : State) (x : Rx) (b : Bulk) (c : Cmd), Arrives s x 0x0A ∧ s.fabric.bulks = [b] ∧ b.tid = x.f.tid ∧ b.node
    = x.f.src ∧ b.inward = false ∧ b.owner = .dma c ∧ x.f.status ≠ 0 ∧ s.mbox.squad = [] :=
  ⟨bulking, failing (rx 0x0A 0 0 []), bulk1, mk 0x0601 [], by unfold Arrives InOrder Sound; decide +kernel⟩

theorem witness_responses_11 :
    ∃ (s : State) (x : Rx), Arrives s x 0x0A ∧ s.fabric.bulks = [] :=
  ⟨wired, rx 0x0A 0 0 [], by unfold Arrives InOrder Sound; decide +kernel⟩

theorem witness_linkLayer_1 :
    ∃ (s : State) (x : Rx), InOrder s x 0x0F ∧ lcSubtype x.f = 0 :=
  ⟨wired, rx 0x0F 0 0 (0 :: List.replicate 7 0), by unfold InOrder Sound; decide +kernel⟩

theorem witness_linkLayer_2 :
    ∃ (s : State) (x : Rx), InOrder s x 0x0F ∧ lcSubtype x.f = 1 :=
  ⟨wired, rx 0x0F 0 0 (1 :: List.replicate 7 0), by unfold InOrder Sound; decide +kernel⟩

/-- A credit grant for class 2. -/
def grant2 : Rx :=
  let x := rx 0x0F 0 0 (2 :: List.replicate 7 0)
  { x with f := { x.f with credit := 0x0A, grant := 3 } }

theorem witness_linkLayer_3 :
    ∃ (s : State) (x : Rx) (c : Fin 6), InOrder s x 0x0F ∧ lcSubtype x.f = 2 ∧ x.f.credit.getLsbD 3 = true ∧
    x.f.credit.toNat % 8 = c.val :=
  ⟨wired, grant2, 2, by unfold InOrder Sound; decide +kernel⟩

theorem witness_linkLayer_4 :
    ∃ (s : State) (x : Rx), InOrder s x 0x0F ∧ lcSubtype x.f = 2 :=
  ⟨wired, rx 0x0F 0 0 (2 :: List.replicate 7 0), by unfold InOrder Sound; decide +kernel⟩

theorem witness_linkLayer_5 :
    ∃ (s : State) (x : Rx), InOrder s x 0x0F ∧ lcSubtype x.f = 3 :=
  ⟨wired, rx 0x0F 0 0 (3 :: List.replicate 7 0), by unfold InOrder Sound; decide +kernel⟩

theorem witness_linkLayer_6 :
    ∃ (s : State) (x : Rx), InOrder s x 0x0F ∧ lcSubtype x.f = 4 :=
  ⟨wired, rx 0x0F 0 0 (4 :: List.replicate 7 0), by unfold InOrder Sound; decide +kernel⟩

theorem witness_linkLayer_7 :
    ∃ (s : State) (x : Rx) (e : Fin 12), InOrder s x x.f.typ.toNat ∧ x.f.typ ≠ 0x0E ∧ x.f.typ ≠ 0x0F ∧ s.power.mode ≠
    .bench ∧ s.fabric.rcd.node ≠ 0xFFFF#16 ∧ x.f.dst ≠ s.fabric.rcd.node ∧ x.f.hops ≠ 0 ∧ egress (received s x)
    x.f.dst.toNat = some e ∧ e ≠ x.port :=
  ⟨{ wired with fabric := { wired.fabric with routes := [(9, 3)] } }, toward 9 (rx 0x01 0 4 []), 3,
    by unfold InOrder Sound; decide +kernel⟩

/-- A response on its way to node 9 with hops left. -/
def passing (hops : Byte) : Rx :=
  let x := toward 9 (rx 0x02 0 0 [])
  { x with f := { x.f with hops := hops } }

theorem witness_linkLayer_8 :
    ∃ (s : State) (x : Rx), InOrder s x x.f.typ.toNat ∧ x.f.typ ≠ 0x0E ∧ x.f.typ ≠ 0x0F ∧ s.power.mode ≠ .bench ∧
    s.fabric.rcd.node ≠ 0xFFFF#16 ∧ x.f.dst ≠ s.fabric.rcd.node ∧ isRequest (received s x) x.f = false ∧ x.f.hops = 0 :=
  ⟨wired, passing 0, by unfold InOrder Sound; decide +kernel⟩

theorem witness_linkLayer_9 :
    ∃ (s : State) (x : Rx), InOrder s x x.f.typ.toNat ∧ x.f.typ ≠ 0x0E ∧ x.f.typ ≠ 0x0F ∧ s.power.mode ≠ .bench ∧
    s.fabric.rcd.node ≠ 0xFFFF#16 ∧ x.f.dst ≠ s.fabric.rcd.node ∧ isRequest (received s x) x.f = false ∧ x.f.hops ≠ 0 ∧
    (egress (received s x) x.f.dst.toNat = none ∨ egress (received s x) x.f.dst.toNat = some x.port) :=
  ⟨wired, passing 1, by unfold InOrder Sound; decide +kernel⟩

theorem witness_linkLayer_10 :
    ∃ (s : State) (x : Rx), InOrder s x x.f.typ.toNat ∧ x.f.typ ≠ 0x0E ∧ x.f.typ ≠ 0x0F ∧ s.power.mode ≠ .bench ∧
    s.fabric.rcd.node ≠ 0xFFFF#16 ∧ x.f.dst ≠ s.fabric.rcd.node ∧ x.f.src ≠ s.fabric.rcd.node ∧ (x.f.hops = 0 ∨ egress
    (received s x) x.f.dst.toNat = none ∨ egress (received s x) x.f.dst.toNat = some x.port) :=
  ⟨wired, toward 9 (rx 0x01 0 4 []), by unfold InOrder Sound; decide +kernel⟩

theorem witness_linkLayer_nested : InOrder wired (toward 9 (rx 0x09 0 64 (List.replicate 8 0))) 0x09 ∧
    InOrder wired (toward 9 (rx 0x08 0 0 [1])) 0x08 ∧ (toward 9 (rx 0x08 0 0 [1])).f.src ≠ wired.fabric.rcd.node := by
  unfold InOrder Sound; decide +kernel

theorem witness_portsAndLanes_1 :
    ∃ (s : State) (p : Fin 12) (c : Nat) (w : Vector Nat 4) (f : Queued) (rest : List Queued),
    s.fabric.ports[p].link = .up ∧ nextClass s p = some (c, w) ∧ s.fabric.ports[p].queues.toList.getD c [] = f ::
    rest :=
  ⟨queued, 0, 2, #v[36, 0, 0, 0], waiting0, [], by decide +kernel⟩

theorem witness_portsAndLanes_2 :
    ∃ (s : State) (p : Fin 12), 0 < s.fabric.ports[p].unacked ∧ s.fabric.ports[p].link = .up :=
  ⟨port0 { wired.fabric.ports[0] with unacked := 1 }, 0, by decide +kernel⟩

theorem witness_portsAndLanes_3 :
    ∃ (s : State) (p : Fin 12) (f : Queued) (rest : List Queued), s.fabric.ports[p].retry = f :: rest ∧
    s.fabric.ports[p].link = .up ∧ s.fabric.ports[p].retries < 16 :=
  ⟨port0 { wired.fabric.ports[0] with retry := [{ waiting0 with sent := 15 }] }, 0, { waiting0 with sent := 15 }, [], by decide +kernel⟩

theorem witness_portsAndLanes_4 :
    ∃ (s : State) (p : Fin 12), s.fabric.ports[p].link = .up ∧ 16 ≤ s.fabric.ports[p].retries ∧
    s.fabric.ports[p].retry ≠ [] :=
  ⟨port0 { wired.fabric.ports[0] with retry := [{ waiting0 with sent := 16 }] }, 0, by decide +kernel⟩

theorem witness_portsAndLanes_5 :
    ∃ (s : State) (p : Fin 12) (cls : Fin 6), s.fabric.ports[p].echoDue[cls] = true :=
  ⟨port0 { wired.fabric.ports[0] with echoDue := Vector.replicate 6 true }, 0, 5, by decide +kernel⟩

theorem witness_portsAndLanes_6 :
    ∃ (cls : Fin 6), 2 ≤ cls.val :=
  ⟨2, by decide +kernel⟩

theorem witness_portsAndLanes_7 :
    ∃ (s : State) (p : Fin 12) (cls : Fin 6), 2 ≤ cls.val ∧ s.fabric.ports[p].limiters[cls].echoIn = false :=
  ⟨wired, 11, 5, by decide +kernel⟩

theorem witness_portsAndLanes_8 :
    ∃ (s : State) (p : Fin 12) (lane : Fin 8), (s.fabric.ports[p].link = .up ∨ s.fabric.ports[p].link = .retraining) ∧
    s.fabric.ports[p].lanes.getLsbD lane.val = true ∧ s.fabric.ports[p].fkm = true ∧ s.fabric.ports[p].rcd.flags.getLsbD 3 = true ∧
    (survivors (portLanes s p)
    (s.fabric.ports[p].lost ||| (1#8 <<< lane.val)).toNat).isSome = true :=
  ⟨port0 (laned 0x0D), 0, 7, by decide +kernel⟩

theorem witness_portsAndLanes_9 :
    ∃ (s : State) (p : Fin 12) (lane : Fin 8), (s.fabric.ports[p].link = .up ∨ s.fabric.ports[p].link = .retraining) ∧
    s.fabric.ports[p].lanes.getLsbD lane.val = true ∧ s.fabric.ports[p].fkm = true ∧ s.fabric.ports[p].rcd.flags.getLsbD 3 = false :=
  ⟨port0 (laned 0x05), 0, 0, by decide +kernel⟩

theorem witness_portsAndLanes_10 :
    ∃ (s : State) (p : Fin 12) (lane : Fin 8), (s.fabric.ports[p].link = .up ∨ s.fabric.ports[p].link = .retraining) ∧
    s.fabric.ports[p].lanes.getLsbD lane.val = true ∧ s.fabric.ports[p].fkm = true ∧ survivors (portLanes s p)
    (s.fabric.ports[p].lost ||| (1#8 <<< lane.val)).toNat = none :=
  ⟨port0 { laned 0x0D with lost := 0x0F }, 0, 7, by decide +kernel⟩

theorem witness_portsAndLanes_11 :
    ∃ (s : State) (p : Fin 12) (lane : Fin 8), (s.fabric.ports[p].link = .up ∨ s.fabric.ports[p].link = .retraining) ∧
    s.fabric.ports[p].lanes.getLsbD lane.val = true ∧ s.fabric.ports[p].fkm = false :=
  ⟨wired, 0, 7, by decide +kernel⟩

theorem witness_portsAndLanes_12 :
    ∃ (s : State) (p : Fin 12), s.fabric.ports[p].link = .retraining ∧ s.fabric.ports[p].lost &&& s.fabric.ports[p].lanes =
    0 :=
  ⟨port0 { wired.fabric.ports[0] with link := .retraining }, 0, by decide +kernel⟩

theorem witness_portsAndLanes_13 :
    ∃ (s : State) (p : Fin 12), s.fabric.ports[p].link = .retraining :=
  ⟨port0 { wired.fabric.ports[0] with link := .retraining }, 0, by decide +kernel⟩

theorem witness_otherProtocols_1 :
    ∃ (s : State) (x : Rx), s.fabric.ports[x.port].link = .up ∧ x.f.typ = 0x0E ∧ x.f.cls = 1 ∧ x.fcsOk = true ∧ x.udpOk =
    true ∧ x.crcOk = true :=
  ⟨wired, rx 0x0E 0 0 (List.replicate 64 0), by decide +kernel⟩

theorem witness_otherProtocols_2 :
    ∃ (s : State) (x : Rx), s.fabric.ports[x.port].link = .up ∧ x.f.typ = 0x0E ∧ x.fcsOk = true ∧ x.udpOk = false :=
  ⟨wired, { rx 0x0E 0 0 (List.replicate 64 0) with udpOk := false }, by decide +kernel⟩

theorem witness_otherProtocols_3 :
    ∃ (s : State) (p : Fin 12), enabled s.fabric.ports[p] = true ∧ s.fabric.ports[p].link = .up :=
  ⟨wired, 5, by decide +kernel⟩

theorem witness_otherProtocols_4 :
    ∃ (s : State) (p : Fin 12), s.fabric.ports[p].link = .up :=
  ⟨wired, 11, by decide +kernel⟩

theorem witness_otherProtocols_5 :
    ∃ (s : State) (p : Fin 12), answers s p true = true :=
  ⟨port0 (laned 0x03), 0, by decide +kernel⟩

theorem witness_otherProtocols_6 :
    ∃ (s : State) (p : Fin 12), answers s p false = true :=
  ⟨wired, 0, by decide +kernel⟩

theorem witness_otherProtocols_7 :
    ∃ (s : State) (p : Fin 12) (target : Word32), answers s p true = false ∨ target ≠ ownIp4 s.fabric.ports[p] :=
  ⟨wired, 0, 5, by decide +kernel⟩

theorem witness_otherProtocols_8 :
    ∃ (s : State) (p : Fin 12) (target : List Byte), answers s p false = false ∨ target ≠ leBytes 16
    s.fabric.ports[p].rcd.ownIp.toNat :=
  ⟨wired, 0, [1], by decide +kernel⟩

theorem witness_otherProtocols_9 :
    ∃ (s : State) (p : Fin 12), s.fabric.ports[p].link = .up :=
  ⟨wired, 0, by decide +kernel⟩

theorem witness_otherProtocols_10 :
    ∃ (s : State) (p : Fin 12), isTimeParent s p = true ∧ s.fabric.ports[p].link = .up :=
  ⟨timed, 0, by decide +kernel⟩

theorem witness_otherProtocols_11 :
    ∃ (s : State) (p : Fin 12), isTimeParent s p = true ∧ s.fabric.ports[p].link = .up :=
  ⟨timed, 0, by decide +kernel⟩

theorem witness_otherProtocols_12 :
    ∃ (s : State) (p : Fin 12), isTimeParent s p = false ∧ enabled s.fabric.ports[p] = true ∧ s.fabric.ports[p].link
    = .up ∧ s.fabric.rcd.node ≠ 0xFFFF#16 :=
  ⟨wired, 0, by decide +kernel⟩

theorem witness_otherProtocols_13 :
    ∃ (s : State) (p : Fin 12), isTimeParent s p = true ∧ s.fabric.ports[p].link = .up :=
  ⟨timed, 0, by decide +kernel⟩

theorem witness_otherProtocols_14 :
    ∃ (s : State), s.fabric.rcd.node ≠ 0xFFFF#16 :=
  ⟨wired, by decide +kernel⟩

theorem witness_memoryDevices_1 :
    ∃ (s : State) (n : Nat), (∀ st ∈ s.mem.stripes, st.number ≠ n) ∧ (∀ st ∈ s.mem.leftEarly, st.number ≠ n) ∧ (∀ e ∈
    s.mem.ends, e.stripes ≠ []) :=
  ⟨up, 0, by decide +kernel⟩

theorem witness_memoryDevices_2 :
    ∃ (s : State) (st : Stripe), s.mem.stripes = [st] ∧ s.mem.acks = [] ∧ s.mem.ends = [] ∧ s.mem.leftEarly = [] :=
  ⟨{ up with mem := { up.mem with stripes := [{ number := 4, covered := 2 ^ 1024 - 1 }] } },
    { number := 4, covered := 2 ^ 1024 - 1 }, by decide +kernel⟩

theorem witness_memoryDevices_3 :
    ∃ (s : State) (d : Fin 20), dramLive s = true ∧ 64 < (s.mem.reconTimes[d].filter fun t => decide (s.timebase < t
    + 10 ^ 9)).length :=
  ⟨{ up with mem := { up.mem with reconTimes := Vector.replicate 20 (List.replicate 65 0) } }, 19,
    by decide +kernel⟩

theorem witness_memoryDevices_4 :
    ∃ (s : State) (n : Nat), dramLive s = true ∧ 3 ≤ n :=
  ⟨up, 3, by decide +kernel⟩

theorem witness_memoryDevices_5 :
    ∃ (s : State), dramLive s = true :=
  ⟨up, by decide +kernel⟩

theorem witness_memoryDevices_6 :
    ∃ (s : State) (d : Fin 20), s.mem.devLost[d] = false ∧ lostInGroup s (d.val / 5) = [] :=
  ⟨up, 0, by decide +kernel⟩

theorem witness_memoryDevices_7 :
    ∃ (s : State), dramLive s = true :=
  ⟨up, by decide +kernel⟩

theorem witness_memoryDevices_8 :
    ∃ (s : State) (row : Nat) (g : Fin 4), dramLive s = true ∧ s.mem.groupGone[g] = false ∧ row + 1 < scrubRows :=
  ⟨up, 0, 3, by decide +kernel⟩

theorem witness_memoryDevices_9 :
    ∃ (s : State) (row : Nat) (g : Fin 4), dramLive s = true ∧ s.mem.groupGone[g] = false ∧ row + 1 < scrubRows ∧ (∀
    k < 5, getAt s.mem.devLost (5 * g.val + k) false = false) :=
  ⟨up, 2 ^ 27 - 2, 0, by decide +kernel⟩

theorem witness_memoryDevices_10 :
    ∃ (s : State) (off : Nat), isPowered s = true ∧ s.mem.retention = false ∧ inReset s = false ∧ sramPopulated s (off
    / 64 * 64) 64 = true ∧ off / 64 * 64 ≠ lastLine s (sramPlace (off / 64 * 64)).1 :=
  ⟨up, 64, by decide +kernel⟩

theorem witness_memoryDevices_11 :
    ∃ (s : State) (off : Nat), isPowered s = true ∧ s.mem.retention = false ∧ inReset s = false ∧ sramPopulated s (off
    / 64 * 64) 64 = true ∧ s.beat.writes = [] ∧ s.pstate = .running :=
  ⟨within up .running prog0, 0, by decide +kernel⟩

theorem witness_memoryDevices_12 :
    ∃ (s : State) (st : Stripe), s.mem.leftEarly = [st] :=
  ⟨{ up with mem := { up.mem with leftEarly := [stripe0] } }, stripe0, by decide +kernel⟩

theorem witness_samples_1 :
    ∃ (s : State) (igd : Fin 2) (e : Nat) (x : Sample) (rest : List Sample), s.pstate = .running ∧ (List.range
    16).find? (fun e => engineServes s igd.val e && (getAt s.ingest.engines (16 * igd.val + e) none).isNone) = some e ∧
    s.ingest.queues[igd] = x :: rest :=
  ⟨sampling, 1, 0, sample0, [], by decide +kernel⟩

theorem witness_samples_2 :
    ∃ (s : State) (igd : Fin 2) (e : Fin 16) (x : Sample) (p : Program) (d : IngestDesc) (b : List Byte) (bits :
    List Byte), getAt s.ingest.engines (16 * igd.val + e.val) none = some x ∧ sampleDesc s x = some (p, d) ∧
    s.ingest.fetching.contains (16 * igd.val + e.val) = false ∧ fetched s igd.val e.val (entryAddr p d x) 32 = some
    b ∧ entryBad (parseCat b) = false ∧ fetched s igd.val e.val (parseCat b).addr (parseCat b).len = some bits :=
  ⟨decoding, 0, 0, sample0, progS, parseIngest ingestS, [0, 0, 0, 0, 0, 0x10, 0xFF, 0xFF] ++ List.replicate 24 0,
    [], by decide +kernel⟩

theorem witness_samples_5 :
    ∃ (s : State) (igd : Fin 2) (e : Fin 16) (x : Sample) (p : Program) (d : IngestDesc) (b : List Byte), getAt
    s.ingest.engines (16 * igd.val + e.val) none = some x ∧ sampleDesc s x = some (p, d) ∧ s.ingest.fetching.contains
    (16 * igd.val + e.val) = false ∧ fetched s igd.val e.val (entryAddr p d x) 32 = some b ∧ entryBad (parseCat b) =
    true :=
  ⟨{ decoding with mem := up.mem }, 0, 0, sample0, progS, parseIngest ingestS, List.replicate 32 0, by decide +kernel⟩

theorem witness_samples_3 :
    ∃ (s : State), s.fabric.waiting = [] :=
  ⟨up, by decide +kernel⟩

theorem witness_samples_4 :
    ∃ (s : State) (igd : Fin 2) (e : Fin 16), s.ingest.fetching = [16 * igd.val + e.val] :=
  ⟨{ up with ingest := { up.ingest with fetching := [31] } }, 1, 15, by decide +kernel⟩

theorem witness_signals_nested :
    ∀ k < 4, k ≠ 0 → pick (at1 0x83 3 { ins 1 0xFFFF 0 with signalMode := k } [] []) 0x83 =
      some (who1 0x83, { ins 1 0xFFFF 0 with signalMode := k }) := by decide +kernel

/-- A Row Engine instruction of operation `k` over one row of two elements. -/
def rowState (k : Nat) : State := at1 0x90 4 (ins 4 0 0)
  [desc [(0, 8, here 0 0), (8, 8, here 0 128), (24, 8, here 0 64), (40, 4, 1), (44, 4, 2), (62, 1, k)]] [.rowOp]

/-- What a row instruction reads. -/
def rowRanges0 (k : Nat) : List (Nat × Nat) :=
  rowReads (issued (rowState k) (who1 0x90) (ins 4 0 0)) (who1 0x90) (rowDescOf (rowState k) (ins 4 0 0))

theorem witness_rows_nested : ∀ k < 7, (rowDescOf (rowState k) (ins 4 0 0)).op = k ∧
    pick (rowState k) 0x90 = some (who1 0x90, ins 4 0 0) ∧
    firstFailure (issued (rowState k) (who1 0x90) (ins 4 0 0)) 0x90 (rowRanges0 k) = none ∧
    notYet (issued (rowState k) (who1 0x90) (ins 4 0 0)) 0x90 (rowRanges0 k) = [] ∧
    rowFault (atWork (rowState k) (who1 0x90) (ins 4 0 0) (rowRanges0 k)) (who1 0x90) (rowDescOf (rowState k) (ins 4 0 0))
      (overlay [] (peek (atWork (rowState k) (who1 0x90) (ins 4 0 0) (rowRanges0 k)) 0x90)) = none := by
  decide +kernel

/-- A checkpoint of 256 zeros at offset 4,096 in a mode: the codes, one segment of 10 bits, or eight blocks of scale 0. -/
def loading (mode : Nat) : State :=
  { at1 0xA1 6 (ins 6 0 1) [desc [(0, 8, here 0 0), (8, 8, here 0 4096), (16, 8, 256), (29, 1, mode)]] [.ckpt] with
    mem := { up.mem with sram := if mode = 1 then [(4096, 10), (4160, 28)] else if mode = 2 then
      [(4224, 1), (4226, 16), (4228, 32), (4230, 49), (4232, 64), (4234, 81), (4236, 97), (4238, 112)] else [] } }
def ckptD (mode : Nat) : CkptDesc := ckptDescOf (loading mode) (ins 6 0 1)
def ckptT (mode : Nat) : State := atWork (loading mode) (who1 0xA1) (ins 6 0 1)
  (ckptSources (peek (issued (loading mode) (who1 0xA1) (ins 6 0 1)) 0xA1) true (ckptD mode))

theorem witness_ckptLoad_nested :
    (ckptD 1).mode = 1 ∧ segmentFault (ckptD 1) (overlay [] (peek (ckptT 1) 0xA1)) = none ∧ 1 < (ckptD 2).mode ∧
      narrowedFault (ckptT 2) 0xA1 (ckptD 2) (overlay [] (peek (ckptT 2) 0xA1)) = none := by decide +kernel

theorem witness_ckptLoad_here : ∀ m < 3, pick (loading m) 0xA1 = some (who1 0xA1, ins 6 0 1) ∧
    firstFailure (issued (loading m) (who1 0xA1) (ins 6 0 1)) 0xA1
      (ckptSources (peek (issued (loading m) (who1 0xA1) (ins 6 0 1)) 0xA1) true (ckptD m)) = none ∧
    notYet (issued (loading m) (who1 0xA1) (ins 6 0 1)) 0xA1
      (ckptSources (peek (issued (loading m) (who1 0xA1) (ins 6 0 1)) 0xA1) true (ckptD m)) = [] := by decide +kernel

/-- Bucket 0's plan: port 0 is a child, or the parent. -/
def planned (entry : Word64) : State :=
  let s := within wired .running progB
  { s with reduce := { s.reduce with plans := Vector.replicate 64 (some entry) } }

theorem witness_reduction_nested :
    (0 : Fin 12) ∈ planChildren (planOf (planned 0x0000_0002_0101_FF00) (parseBucket bucket0).plan) ∧
      (segmentOf (tagOf (planned 0x0000_0002_0101_FF00) 1) 0).done = false ∧
      (0 : Nat) ∉ (segmentOf (tagOf (planned 0x0000_0002_0101_FF00) 1) 0).seen ∧ zeroWire0.hdr.down = false ∧
      (planOf (planned 0x0000_0002_0100_0000) (parseBucket bucket0).plan).parent = 0 ∧ downWire0.hdr.down = true := by
  decide +kernel

/-! ### WellFormed refuses an ill-formed command, one for each check -/

theorem wf_unit : (Instr.wait 0x18).wf = false ∧ (Instr.wait 0x17).wf = true ∧ (Instr.wait 0x801).wf = false := by decide
theorem wf_gate : (Instr.fillGateWaitLimit 0 64).wf = false ∧ (Instr.fillGateWaitLimit 0 63).wf = true := by decide
theorem wf_tile : (Instr.tileReprobe { td := 0, kind := .ft, index := 26 } true).wf = false ∧
    (Instr.tileReprobe { td := 0, kind := .bt, index := 75 } true).wf = true := by decide
theorem wf_phys : (Instr.unitTableApply { kind := 0xE, die := 0, index := 0 }).wf = false ∧
    (Instr.unitTableApply { kind := 0xD, die := 0xF, index := 0 }).wf = true := by decide
theorem wf_opcode : (Instr.halt (mk 0x0109 [])).wf = false ∧ (Instr.halt (mk 0x0108 [])).wf = true := by decide +kernel
theorem wf_ring : (Instr.halt { mk 0x0108 [] with ring := 4 }).wf = false := by decide +kernel
theorem wf_payload : (Instr.halt { mk 0x0108 [] with payload := [] }).wf = false := by decide +kernel
theorem wf_type : (Instr.readRequest (rx 0x03 0 0 []) []).wf = false ∧ (Instr.readRequest (rx 0x01 0 0 []) []).wf = true := by
  decide +kernel
theorem wf_frame : (Instr.frameTransit (rx 0x08 0 0 (List.replicate 16641 0))).wf = false := by decide +kernel
theorem wf_readings : (Instr.mr4Read 0 [1, 2, 3, 4, 5, 6]).wf = false ∧ (Instr.mr4Read 0 [1, 2, 3, 4, 5]).wf = true := by decide
theorem wf_entry : (Instr.commandFetch (some [0])).wf = false ∧ (Instr.commandFetch none).wf = true := by decide
theorem wf_boot : (Instr.powerOn { boot with failed := [{ td := 0, kind := .bt, index := 76 }] }).wf = false ∧
    (Instr.powerOn boot).wf = true := by decide
theorem wf_reset : (Instr.trialWatchdog [{ td := 7, kind := .ft, index := 26 }]).wf = false := by decide
theorem wf_bar : (Instr.memorySpaceEnable (some 40)).wf = false ∧ (Instr.memorySpaceEnable (some 39)).wf = true := by decide
theorem wf_lane : (Instr.linkGateWindowEnd 0 0 0 [{ lane := 0, bits := 1, errors := 2, codewords := 0 }]).wf = false := by decide
theorem wf_config : (Instr.memorySpaceEnable none { maxPayload := some 1024 }).wf = false ∧
    (Instr.memorySpaceEnable none { maxRead := some 4096 }).wf = true := by decide
theorem wf_mac : (Instr.arpRequest 0 0 [1]).wf = false ∧ (Instr.lldpFrame 0 [1, 2, 3, 4, 5, 6] 0).wf = true := by decide
theorem wf_ip : (Instr.neighbourSolicitation 0 [1] [1, 2, 3, 4, 5, 6]).wf = false := by decide
theorem wf_spdm : (Instr.spdmGetVersion .doe [0x10]).wf = false := by decide
theorem wf_doe : (Instr.doeDiscovery []).wf = false := by decide
theorem wf_mctp : (Instr.smbusMctpCommand [0x7E]).wf = false := by decide
theorem wf_access : (Instr.bar2Read 0 0).wf = false ∧ (Instr.bar2Write 0 []).wf = false ∧ (Instr.registerWrite 0 2 0).wf = false := by
  decide

/-! ### Results on small states -/

/-- SM3 of the three bytes of abc, from the standard that R406 and R410 name. -/
theorem test_sm3 : (sm3 [0x61, 0x62, 0x63]).take 8 = [0x66, 0xC7, 0xF0, 0xF4, 0x62, 0xEE, 0xED, 0xD9] := by decide +kernel

/-- CRC-32C of the digits 1 to 9, the polynomial's check value (R282). -/
theorem test_crc32c : crc32c [0x31, 0x32, 0x33, 0x34, 0x35, 0x36, 0x37, 0x38, 0x39] = 0xE306_9283#32 := by decide +kernel

/-- 42 V is a supply warning that halves the TD clock, in 25 MHz steps and not below 500 MHz (R455). -/
theorem test_supplyWarning :
    (match exec (.supplyWarning 42000) dipped with | .next t => t.power.supplyMhz | _ => none) = some 750 := by decide +kernel

/-- The power cap's range ends at 2,400 W (R384). -/
theorem test_powerCap : (match exec (.powerCap (mk 0x0501 [(16, 2, 601)])) (on up (mk 0x0501 [(16, 2, 601)])) with
    | .next t => t.power.capW | _ => 0) = 601 := by decide +kernel

/-- A read of offset 8 reads MODULE in bits [3:0] and PROGRAM in bits [7:4]: READY is 2 and Running is 2 (R361). -/
theorem test_state : regRead (within up .running prog0) 8 4 = 0x22 := by decide +kernel

/-- Offset 1,024 of space 0x1 lies in the second group (R322). -/
theorem test_stripe : groupOf 1024 = 1 ∧ groupOf 4096 = 0 := by decide

/-- LOAD of the smallest object completes with the program Loaded (R209, R215). -/
theorem test_load : (match exec (.load (mk 0x0101 [(16, 8, 4096), (32, 8, 256)]) (some object0) noHints)
    (on up (mk 0x0101 [(16, 8, 4096), (32, 8, 256)])) with | .next t => t.pstate | _ => .empty) = .loaded := by decide +kernel

/-- A VE add of two binary32 numbers: 1 + 1 = 2 (R48). -/
theorem test_veAdd : (match exec (.veOperation 0x83 []) { veState .add with
      mem := { up.mem with sram := [(2, 0x80), (3, 0x3F), (6, 0x80), (7, 0x3F)] } } with
    | .next t => readBytes t.mem.sram 8 4 | _ => []) = leBytes 4 0x4000_0000 := by decide +kernel

/-- A TD of a grade B module has 21 logical FTs, 2 FT spares, 63 logical BTs and 4 BT spares (R2). -/
theorem test_gradeB :
    let us := (bootUnits { State.reset.flash with grade := .b } boot).filter fun u => u.phys.die == 3
    (us.filter fun u => u.phys.kind == 1 && u.cond == .inService).length = 21 ∧
      (us.filter fun u => u.phys.kind == 1 && u.cond == .spare).length = 2 ∧
      (us.filter fun u => u.phys.kind == 2 && u.cond == .inService).length = 63 ∧
      (us.filter fun u => u.phys.kind == 2 && u.cond == .spare).length = 4 := by decide +kernel

/-- A U-stream waits for the step's commit (R25). -/
theorem test_uStream_waits : pick { uState with beat := { uState.beat with committed := false } } 0xA0 = none := by decide +kernel
end Sys2Proof.Tests
end

section
/-! SUPPORT. Combinators of `Keeps` and `Answers`: how what operations keep composes through branches, updates and folds. -/

namespace Sys2Proof.Machine

open Sys2Proof

/-! ### Composition -/

/-- The last operation first, as the model's definitions nest. -/
theorem Keeps.after {s t u : State} (k : Keeps t u) (h : Keeps s t) : Keeps s u := h.trans k

theorem Keeps.ite {c : Prop} [Decidable c] {s t u : State} (h : Keeps s t) (k : Keeps s u) : Keeps s (if c then t else u) := by
  split
  · exact h
  · exact k

theorem Keeps.when {c : Prop} [Decidable c] {s t : State} (h : Keeps s t) : Keeps s (if c then t else s) := h.ite (Keeps.refl s)

theorem Keeps.unless {c : Prop} [Decidable c] {s t : State} (h : Keeps s t) : Keeps s (if c then s else t) :=
  (Keeps.refl s).ite h

theorem Keeps.dite {c : Prop} [Decidable c] {s : State} {t : c → State} {u : ¬c → State} (h : ∀ x, Keeps s (t x))
    (k : ∀ x, Keeps s (u x)) : Keeps s (if x : c then t x else u x) := by
  split
  · exact h _
  · exact k _

/-- An update that leaves the queue and the memory of what it updates. -/
theorem Keeps.update {s u : State} (h : Keeps s u) {freeIdx timebase power flash fw mbox units pstate program step seqs gates beat
    scales versions reduce side fabric ingest journal spdm counts out} :
    Keeps s ⟨u.pending, freeIdx, timebase, power, flash, fw, mbox, units, u.mem, pstate, program, step, seqs, gates, beat, scales,
      versions, reduce, side, fabric, ingest, journal, spdm, counts, out⟩ := h

theorem Keeps.updated {s : State} {freeIdx timebase power flash fw mbox units pstate program step seqs gates beat scales versions
    reduce side fabric ingest journal spdm counts out} :
    Keeps s ⟨s.pending, freeIdx, timebase, power, flash, fw, mbox, units, s.mem, pstate, program, step, seqs, gates, beat, scales,
      versions, reduce, side, fabric, ingest, journal, spdm, counts, out⟩ := Keeps.refl s

/-- An update of the memory system that leaves its three stores. -/
theorem Keeps.updateMem {s u : State} (h : Keeps s u) {freeIdx timebase power flash fw mbox units pstate program step seqs gates beat
    scales versions reduce side fabric ingest journal spdm counts out devLost groupGone mr4 benchMr4 refreshed reconTimes stripes acks
    ends leftEarly lostLines scrubRow scrubLine retention} :
    Keeps s ⟨u.pending, freeIdx, timebase, power, flash, fw, mbox, units,
      ⟨u.mem.sram, u.mem.dram, u.mem.buffers, devLost, groupGone, mr4, benchMr4, refreshed, reconTimes, stripes, acks, ends,
        leftEarly, lostLines, scrubRow, scrubLine, retention⟩, pstate, program, step, seqs, gates, beat, scales, versions, reduce,
      side, fabric, ingest, journal, spdm, counts, out⟩ := h

theorem Keeps.updatedMem {s : State} {freeIdx timebase power flash fw mbox units pstate program step seqs gates beat scales versions
    reduce side fabric ingest journal spdm counts out devLost groupGone mr4 benchMr4 refreshed reconTimes stripes acks ends leftEarly
    lostLines scrubRow scrubLine retention} :
    Keeps s ⟨s.pending, freeIdx, timebase, power, flash, fw, mbox, units,
      ⟨s.mem.sram, s.mem.dram, s.mem.buffers, devLost, groupGone, mr4, benchMr4, refreshed, reconTimes, stripes, acks, ends,
        leftEarly, lostLines, scrubRow, scrubLine, retention⟩, pstate, program, step, seqs, gates, beat, scales, versions, reduce,
      side, fabric, ingest, journal, spdm, counts, out⟩ := Keeps.refl s

/-- An update that puts stores in the place of the three, canonical where the three were. -/
theorem Keeps.stores {s u : State} {freeIdx timebase power flash fw mbox units pstate program step seqs gates beat scales versions
    reduce side fabric ingest journal spdm counts out sram dram buffers devLost groupGone mr4 benchMr4 refreshed reconTimes stripes
    acks ends leftEarly lostLines scrubRow scrubLine retention}
    (hs : MemOk u → Memory.wf sram = true) (hd : MemOk u → Memory.wf dram = true) (hb : MemOk u → Memory.wf buffers = true)
    (h : Keeps s u) :
    Keeps s ⟨u.pending, freeIdx, timebase, power, flash, fw, mbox, units,
      ⟨sram, dram, buffers, devLost, groupGone, mr4, benchMr4, refreshed, reconTimes, stripes, acks, ends, leftEarly, lostLines,
        scrubRow, scrubLine, retention⟩, pstate, program, step, seqs, gates, beat, scales, versions, reduce, side, fabric, ingest,
      journal, spdm, counts, out⟩ :=
  ⟨h.1, fun m => ⟨hs (h.2 m), hd (h.2 m), hb (h.2 m)⟩⟩

theorem Keeps.of_fst {α : Type} {s t : State} {r : State × α} {x : α} (h : Keeps s r.1) (e : r = (t, x)) : Keeps s t := by
  rwa [e] at h

theorem Keeps.of_snd {α : Type} {s t : State} {r : α × State} {x : α} (h : Keeps s r.2) (e : r = (x, t)) : Keeps s t := by
  rwa [e] at h

theorem Keeps.foldl_snd {α β : Type} (f : β × State → α → β × State) (h : ∀ x a, Keeps x.2 (f x a).2) :
    ∀ (l : List α) (x : β × State), Keeps x.2 (l.foldl f x).2
  | [], x => Keeps.refl x.2
  | a :: l, x => (h x a).trans (Keeps.foldl_snd f h l (f x a))

/-! ### Answers -/

/-- The outcome is a next state, which keeps the queue and the canonical form. -/
def Answers (s : State) (o : Host.Outcome State Fault Refusal) : Prop := ∃ t, o = .next t ∧ Keeps s t

theorem Answers.next {s t : State} (h : Keeps s t) : Answers s (.next t) := ⟨t, rfl, h⟩

theorem Answers.same {s : State} : Answers s (.next s) := .next (Keeps.refl s)

theorem Answers.ite {c : Prop} [Decidable c] {s : State} {o q : Host.Outcome State Fault Refusal} (h : Answers s o)
    (k : Answers s q) : Answers s (if c then o else q) := by
  split
  · exact h
  · exact k

theorem Answers.when {c : Prop} [Decidable c] {s : State} {o : Host.Outcome State Fault Refusal} (h : Answers s o) :
    Answers s (if c then o else .next s) := h.ite .same

theorem Answers.unless {c : Prop} [Decidable c] {s : State} {o : Host.Outcome State Fault Refusal} (h : Answers s o) :
    Answers s (if c then .next s else o) := Answers.same.ite h

theorem Answers.after {s t : State} {o : Host.Outcome State Fault Refusal} (k : Answers t o) (h : Keeps s t) : Answers s o := by
  obtain ⟨u, e, k⟩ := k
  exact ⟨u, e, h.trans k⟩

/-- A fold of commands that each answer. -/
theorem Answers.foldl {α : Type} (f : Host.Outcome State Fault Refusal → α → Host.Outcome State Fault Refusal)
    (h : ∀ s a, Answers s (f (.next s) a)) : ∀ (l : List α) (s : State), Answers s (l.foldl f (.next s))
  | [], s => .next (Keeps.refl s)
  | a :: l, s => by
    obtain ⟨t, e, k⟩ := h s a
    rw [List.foldl_cons, e]
    exact (Answers.foldl f h l t).after k

theorem command_answers (s : State) (c : Cmd) (op : Nat) (k : State → State) (h : Keeps s (k s)) :
    Answers s (command s c op k) := by
  unfold command
  exact (Answers.next h).when

/-! ### Operations whose relation is stronger -/

theorem bump_keeps (s : State) (id inst tensor n : Nat) : Keeps s (bump s id inst tensor n) := (bump_posts ..).keeps
theorem discard_keeps (s : State) (p reason n : Nat) : Keeps s (discard s p reason n) := (discard_posts ..).keeps
theorem enqueue_keeps (s : State) (p : Fin 12) (f : Kft) : Keeps s (enqueue s p f) := (enqueue_posts ..).keeps
theorem sendOn_keeps (s : State) (p : Fin 12) (f : Kft) : Keeps s (sendOn s p f) := (sendOn_posts ..).keeps
theorem writeEntry_keeps (s : State) (e : Event) : Keeps s (writeEntry s e) := (writeEntry_posts ..).keeps
theorem takeAck_keeps (s : State) (p : Fin 12) (a : BitVec 24) : Keeps s (takeAck s p a) := (takeAck_linked ..).keeps
theorem sendNak_keeps (s : State) (p : Fin 12) : Keeps s (sendNak s p) := (sendNak_linked ..).keeps
theorem countFrame_keeps (s : State) (x : Rx) : Keeps s (countFrame s x) := (countFrame_linked ..).keeps
theorem oweCredits_keeps (s : State) (p : Fin 12) (f : Kft) : Keeps s (oweCredits s p f) := (oweCredits_linked ..).keeps
theorem reconstruct_keeps (s : State) (d n : Nat) : Keeps s (reconstruct s d n) := (reconstruct_flushes ..).keeps
theorem chargeRead_keeps (s : State) (off n : Nat) : Keeps s (chargeRead s off n) := (chargeRead_flushes ..).keeps
theorem flushStripe_keeps (s : State) (t : Nat) : Keeps s (flushStripe s t) := (flushStripe_flushes ..).keeps
theorem flushEarly_keeps (s : State) (st : Stripe) : Keeps s (flushEarly s st) := (flushEarly_flushes ..).keeps
theorem ackWhenVisible_keeps (s : State) (space off n : Nat) (f : Kft) : Keeps s (ackWhenVisible s space off n f) :=
  (ackWhenVisible_flushes ..).keeps

end Sys2Proof.Machine
end

section
/-! SUPPORT. What every operation of the state keeps: the queue of waiting commands and the canonical form of memory, in the
order of the model's files. -/

namespace Sys2Proof.Machine

open Sys2Proof

/-! ### Shared operations -/

theorem drawFree_keeps (s : State) : Keeps s (drawFree s).2 := Keeps.updated

theorem interrupt_keeps (s : State) (v left : Nat) : Keeps s (interrupt s v left) :=
  Keeps.after (Keeps.unless (Keeps.ite Keeps.updated (emit_keeps ..))) <| Keeps.updated

theorem writeLost_keeps (s : State) : Keeps s (writeLost s) := Keeps.after (Keeps.unless (writeEntry_keeps ..)) <| Keeps.updated

theorem flushHeld_keeps : ∀ (n : Nat) (s : State), Keeps s (flushHeld n s)
  | 0, s => Keeps.refl s
  | n + 1, s => by
    have written (u : State) (e : Event) (h : Keeps s u) : Keeps s (if masked u e.code then u else writeEntry u e) :=
      Keeps.ite h ((writeEntry_keeps ..).after h)
    unfold flushHeld
    split
    · exact Keeps.refl s
    split
    · exact (flushHeld_keeps n _).after <| written _ _ <| Keeps.of_mem rfl rfl
    split
    · exact (flushHeld_keeps n _).after <| writeLost_keeps ..
    split
    · exact (flushHeld_keeps n _).after <| (writeEntry_keeps ..).after Keeps.updated
    · exact (flushHeld_keeps n _).after <| written _ _ <| Keeps.of_mem rfl rfl
    · exact Keeps.refl s

theorem deviceReads_keeps (s : State) (units : Nat → Nat) (rs : List DevRead) : Keeps s (deviceReads s units rs) :=
  Keeps.foldl _ (fun _ _ => Keeps.after (Keeps.unless (reconstruct_keeps ..)) <| (bump_keeps ..).after <| bump_keeps ..) _ _

theorem chargeAt_keeps (s : State) (addr n : Nat) : Keeps s (chargeAt s addr n) := Keeps.when (chargeRead_keeps ..)

theorem markRebuilt_keeps (s : State) (w : Who) : Keeps s (markRebuilt s w) := Keeps.unless Keeps.updated

theorem outputWhenVisible_keeps (s : State) (space off n win addr : Nat) (o : Output) :
    Keeps s (outputWhenVisible s space off n win addr o) :=
  Keeps.ite (emit_keeps ..) Keeps.updatedMem

theorem toHostWhenVisible_keeps (s : State) (c : Cmd) (space off n haddr : Nat) (data : List Byte) :
    Keeps s (toHostWhenVisible s c space off n haddr data) :=
  Keeps.ite (emit_keeps ..) Keeps.updatedMem

theorem endWhenVisible_keeps (s : State) (space off n : Nat) (e : List Nat → Ending) :
    Keeps s (endWhenVisible s space off n e) :=
  Keeps.updatedMem

/-! ### Flags -/

theorem updSeq_keeps (s : State) (unit : Nat) (f : SeqUnit → SeqUnit) : Keeps s (updSeq s unit f) := Keeps.updated

/-! ### The block codec -/

theorem noteRead_keeps (s : State) (unit : Nat) (d : BlockDesc) (bs : List Nat) : Keeps s (noteRead s unit d bs) :=
  Keeps.unless Keeps.updated

theorem noteWatch_keeps (s : State) (tensor : Nat) (f : WatchCount → WatchCount) : Keeps s (noteWatch s tensor f) :=
  Keeps.unless Keeps.updated

theorem noteTrack_keeps (s : State) (d : BlockDesc) (b : Nat) (e : Encoded) : Keeps s (noteTrack s d b e) := by
  unfold noteTrack
  split
  · exact Keeps.refl _
  · exact Keeps.updated

theorem noteBlock_keeps (s : State) (d : BlockDesc) (b : Nat) (e : Encoded) : Keeps s (noteBlock s d b e) :=
  Keeps.after (Keeps.when (noteTrack_keeps ..)) <| (noteWatch_keeps ..).after <| (bump_keeps ..).after <|
    (bump_keeps ..).after <| (bump_keeps ..).after <| (bump_keeps ..).after <| (bump_keeps ..).after <| (bump_keeps ..).after <|
    (bump_keeps ..).after <| (bump_keeps ..).after <| (bump_keeps ..).after <| bump_keeps ..

theorem writeBlock_keeps (s : State) (w : Who) (d : BlockDesc) (rnd : Rnd) (b used : Nat) (xs : List Src) :
    Keeps s (writeBlock s w d rnd b used xs).2.2 := by
  unfold writeBlock
  extract_lets f e c span start s1 s2 s3 s4
  have h2 : Keeps s1 s2 := Keeps.unless (writeGlobal_keeps ..)
  have h3 : Keeps s2 s3 := Keeps.unless (writeGlobal_keeps ..)
  have h4 : Keeps s3 s4 := Keeps.unless (writeGlobal_keeps ..)
  exact (noteBlock_keeps ..).after <| h4.after <| h3.after <| h2.after <| writeGlobal_keeps ..

theorem writeBlocksFull_keeps (w : Who) (d : BlockDesc) (rnd : Rnd) : ∀ (bs : List (Nat × List Src)) (last : Option (Nat × Nat))
    (es : List Encoded) (s : State), Keeps s (writeBlocksFull w d rnd bs last es s).2
  | [], _, _, s => Keeps.refl s
  | (b, xs) :: rest, last, es, s => by
    unfold writeBlocksFull
    exact (writeBlocksFull_keeps w d rnd rest _ _ _).after <| writeBlock_keeps ..

theorem writeBlocks_keeps (w : Who) (d : BlockDesc) (rnd : Rnd) (bs : List (Nat × List Src)) (s : State) :
    Keeps s (writeBlocks w d rnd bs s) :=
  writeBlocksFull_keeps ..

/-! ### The unit table -/

theorem updUnit_keeps (s : State) (u : PhysUnit) (f : UnitEntry → UnitEntry) : Keeps s (updUnit s u f) := Keeps.updated

theorem setCond_keeps (s : State) (u : PhysUnit) (c : Cond) (cause : Nat) : Keeps s (setCond s u c cause) := updUnit_keeps ..

theorem unitEvent_keeps (s : State) (code : Nat) (u : PhysUnit) (cause : Option Nat) : Keeps s (unitEvent s code u cause) :=
  post_keeps ..

theorem noteMismatch_keeps (s : State) (u : PhysUnit) : Keeps s (noteMismatch s u) := updUnit_keeps ..

theorem countMismatch_keeps (s : State) (u : PhysUnit) : Keeps s (countMismatch s u) :=
  (bump_keeps ..).after <| noteMismatch_keeps ..

theorem leaveNumber_keeps (s : State) (u : PhysUnit) (n : Nat) : Keeps s (leaveNumber s u n) :=
  Keeps.after (Keeps.when Keeps.updated) <| updUnit_keeps ..

theorem rerunThose_keeps (s : State) (unit : Nat) (again : InFlight → Bool) : Keeps s (rerunThose s unit again) := by
  unfold rerunThose
  split
  · exact Keeps.refl _
  · exact (bump_keeps ..).after Keeps.updated

theorem rerun_keeps (s : State) (unit : Nat) : Keeps s (rerun s unit) := rerunThose_keeps ..

theorem substitute_keeps (s : State) (u : PhysUnit) (unit cause : Nat) (sub : PhysUnit) :
    Keeps s (substitute s u unit cause sub) :=
  (rerun_keeps ..).after <| (post_keeps ..).after <| (bump_keeps ..).after <| (updUnit_keeps ..).after <| leaveNumber_keeps ..

theorem compactOne_keeps (s : State) (x : PhysUnit × Nat) : Keeps s (compactOne s x) := by
  unfold compactOne
  refine (post_keeps ..).after ?_
  split
  · split
    · exact (updUnit_keeps ..).after <| leaveNumber_keeps ..
    · exact leaveNumber_keeps ..
  · exact leaveNumber_keeps ..

theorem compact_keeps (s : State) (kind die : Nat) : Keeps s (compact s kind die) :=
  Keeps.unless (Keeps.foldl _ (fun _ _ => compactOne_keeps ..) _ _)

theorem execCapacityCompaction_answers (td : Fin 8) (kind : TileKind) (s : State) :
    Answers s (execCapacityCompaction td kind s) :=
  Answers.next (Keeps.foldl _ (fun _ _ => compact_keeps ..) _ _)

theorem reexecute_keeps (s : State) (ws : List Who) : Keeps s (reexecute s ws) := Keeps.updated

theorem rerunAll_keeps (s : State) (units : List Nat) : Keeps s (rerunAll s units) :=
  (Keeps.foldl _ (fun _ _ => bump_keeps ..) _ _).after <| (reexecute_keeps ..).after Keeps.updated

theorem sramLost_keeps (s : State) (off : Nat) (reader : Option Who) : Keeps s (sramLost s off reader) := by
  unfold sramLost
  dsimp only
  split
  · exact Keeps.ite (reexecute_keeps ..) (reexecute_keeps ..)
  · refine (raiseFault_keeps ..).after <| (post_keeps ..).after ?_
    split
    · exact (accessFailed_keeps ..).after Keeps.updatedMem
    · exact Keeps.updatedMem

theorem suspect_keeps (s : State) (u : PhysUnit) (cause : Nat) : Keeps s (suspect s u cause) :=
  (unitEvent_keeps ..).after <| setCond_keeps ..

theorem replacePipe_keeps (s : State) (u : PhysUnit) : Keeps s (replacePipe s u) := by
  unfold replacePipe
  dsimp only
  split
  · exact Keeps.refl _
  · split
    · exact Keeps.refl _
    · exact Keeps.refl _
    · exact Keeps.after (Keeps.when (setCond_keeps ..)) <| Keeps.updated

theorem replaceOrKeep_keeps (s : State) (u : PhysUnit) (cause : Nat) : Keeps s (replaceOrKeep s u cause) := by
  unfold replaceOrKeep
  dsimp only
  split
  · exact replacePipe_keeps ..
  · split
    · exact (substitute_keeps ..).after <| replacePipe_keeps ..
    · exact replacePipe_keeps ..

theorem execTileResidueMismatch_answers (t : TileId) (s : State) (dpu cycle : Nat) (lost : List Nat) :
    Answers s (execTileResidueMismatch t s dpu cycle lost) := by
  unfold execTileResidueMismatch
  dsimp only
  split
  · exact Answers.same
  · split
    · refine Answers.next (Keeps.after (Keeps.unless (Keeps.foldl _ (fun _ _ => sramLost_keeps ..) _ _)) <|
        (replaceOrKeep_keeps ..).after <| (suspect_keeps ..).after ?_)
      split
      · exact (updSeq_keeps ..).after <| (bump_keeps ..).after <| countMismatch_keeps ..
      · exact countMismatch_keeps ..
    · exact Answers.same

theorem reprobe_keeps (s : State) (u : PhysUnit) (e : UnitEntry) (passes : Bool) : Keeps s (reprobe s u e passes) :=
  Keeps.after (Keeps.ite ((unitEvent_keeps ..).after <| setCond_keeps ..) ((unitEvent_keeps ..).after <| setCond_keeps ..)) <|
    Keeps.when (Keeps.foldl _ (fun _ _ => rerun_keeps ..) _ _)

theorem abandon_keeps (s : State) (unit : Nat) : Keeps s (abandon s unit) := by
  unfold abandon
  split
  · exact Keeps.refl _
  · exact Keeps.updated

theorem execTileReprobe_answers (t : TileId) (passes : Bool) (s : State) : Answers s (execTileReprobe t passes s) := by
  unfold execTileReprobe
  dsimp only
  split
  · exact Answers.same
  · split
    · split
      · exact Answers.next ((compact_keeps ..).after <| Keeps.after (Keeps.unless (abandon_keeps ..)) <| reprobe_keeps ..)
      · exact Answers.next (reprobe_keeps ..)
    · exact Answers.same

theorem standIn_keeps (s : State) (u : PhysUnit) (unit : Nat) : Keeps s (standIn s u unit) := by
  unfold standIn
  dsimp only
  split
  · exact (rerun_keeps ..).after <| (post_keeps ..).after <| (updUnit_keeps ..).after <| leaveNumber_keeps ..
  · exact (compact_keeps ..).after <| abandon_keeps ..

theorem reprobeUnit_keeps (s : State) (e : UnitEntry) (passes : Bool) : Keeps s (reprobeUnit s e passes) := by
  unfold reprobeUnit
  dsimp only
  split
  · exact (Keeps.foldl _ (fun _ _ => standIn_keeps ..) _ _).after <| (replacePipe_keeps ..).after <| reprobe_keeps ..
  · exact reprobe_keeps ..

theorem execUnitResidueMismatch_answers (unit : Nat) (second reprobePasses : Bool) (s : State) :
    Answers s (execUnitResidueMismatch unit second reprobePasses s) := by
  unfold execUnitResidueMismatch
  split
  · exact Answers.same
  · exact Answers.when (Answers.ite (Answers.next ((reprobeUnit_keeps ..).after <| (suspect_keeps ..).after <|
      countMismatch_keeps ..)) (Answers.next ((Keeps.foldl _ (fun _ _ => rerun_keeps ..) _ _).after <| countMismatch_keeps ..)))

theorem execManagementTelemetry_answers (r : UnitReport) (s : State) : Answers s (execManagementTelemetry r s) := by
  unfold execManagementTelemetry
  split
  · exact Answers.same
  · exact Answers.ite (Answers.next (reprobeUnit_keeps ..)) (Answers.unless (Answers.next ((replaceOrKeep_keeps ..).after <|
      suspect_keeps ..)))

theorem execUnitTableApply_answers (u : PhysUnit) (s : State) : Answers s (execUnitTableApply u s) := by
  unfold execUnitTableApply
  split
  · exact Answers.same
  · exact Answers.when (Answers.next (rerunAll_keeps ..))

/-! ### How accesses end -/

theorem logInbound_keeps (s : State) (source kind addr : Nat) (data : List Byte) :
    Keeps s (logInbound s source kind addr data) :=
  Keeps.when Keeps.updated

theorem dropFetches_keeps (s : State) : Keeps s (dropFetches s) := Keeps.updated

/-- A transfer outward, whatever part of this module's memory its bytes come from (R301). -/
theorem startBulkOut_from_keeps (s : State) (node src dst : Nat) (data : List Byte) (o : Owner) (rest : Nat)
    (from_ : Option Nat) : Keeps s (startBulkOut s node src dst data o rest from_) := by
  unfold startBulkOut
  dsimp only
  split
  · exact (failBulk_keeps ..).after Keeps.updated
  · exact (sendBulk_keeps ..).after Keeps.updated

theorem settleEnds_keeps (s : State) : Keeps s (settleEnds s) := by
  unfold settleEnds
  refine (Keeps.foldl _ (fun _ _ => ?_) _ _).after Keeps.updatedMem
  split
  · split
    · exact (complete_keeps ..).after Keeps.updated
    · exact done_keeps ..
  · split
    · exact finishBulk_keeps ..
    · exact Keeps.refl _

/-! ### The wire -/

theorem transmit_keeps (s : State) (p : Fin 12) (x : Queued) : Keeps s (transmit s p x) :=
  (emit_keeps ..).after <| (bump_keeps ..).after <| setPort_keeps ..

theorem resend_keeps (s : State) (p : Fin 12) (x : Queued) : Keeps s (resend s p x) :=
  (emit_keeps ..).after <| (bump_keeps ..).after <| updPort_keeps ..

theorem transmitNow_keeps (s : State) (p : Fin 12) (f : Kft) : Keeps s (transmitNow s p f) :=
  Keeps.ite (transmit_keeps ..) (enqueue_keeps ..)

theorem returnHeld_keeps : ∀ (n : Nat) (s : State), Keeps s (returnHeld n s)
  | 0, s => Keeps.refl s
  | n + 1, s => by
    unfold returnHeld
    split
    · exact Keeps.refl s
    · exact Keeps.when ((returnHeld_keeps n _).after <| (updPort_keeps ..).after Keeps.updated)

theorem sendNext_keeps (s : State) (p : Fin 12) : Keeps s (sendNext s p) := by
  unfold sendNext
  dsimp only
  split
  · exact Keeps.refl _
  · split
    · exact Keeps.refl _
    · split
      · exact Keeps.refl _
      · exact (returnHeld_keeps ..).after <| (transmit_keeps ..).after <| setPort_keeps ..

theorem haltingUp_keeps (s : State) : Keeps s (haltingUp s) := by
  unfold haltingUp
  split
  · exact Keeps.refl _
  · exact Keeps.unless (transmitNow_keeps ..)

theorem takeGrant_keeps (s : State) (p : Fin 12) (c n : Nat) : Keeps s (takeGrant s p c n) := updPort_keeps ..

theorem countLanes_keeps (s : State) (p : Fin 12) (ls : List (Fin 8 × Nat × Nat)) : Keeps s (countLanes s p ls) :=
  Keeps.foldl _ (fun _ _ => (bump_keeps ..).after <| bump_keeps ..) _ _

/-! ### Resets and profiles -/

theorem settleClock_keeps (s : State) : Keeps s (settleClock s) := Keeps.updated

theorem applyProfile_keeps (s : State) : Keeps s (applyProfile s) :=
  (settleClock_keeps ..).after <| Keeps.update <| (Keeps.foldl _ (fun _ _ => emit_keeps ..) _ _).after <|
    Keeps.foldl _ (fun _ _ => Keeps.when (portDrops_keeps ..)) _ _

theorem readyEvent_keeps (s : State) (cause : Nat) : Keeps s (readyEvent s cause) := post_keeps ..

theorem bootReports_keeps (s : State) : Keeps s (bootReports s) := by
  unfold bootReports
  extract_lets _ a b c _ d
  have hb : Keeps a b := Keeps.foldl _ (fun _ _ => Keeps.when (post_keeps ..)) _ _
  have hc : Keeps b c := by
    refine Keeps.foldl _ (fun u g => ?_) _ _
    split
    · exact post_keeps ..
    · exact Keeps.refl _
  have hd : Keeps c d := by
    unfold d
    split
    · split
      · exact (post_keeps ..).after Keeps.updated
      · exact Keeps.refl _
    · exact Keeps.refl _
  have h : Keeps s d := hd.after <| hc.after <| hb.after Keeps.updated
  exact Keeps.ite ((post_keeps ..).after <| Keeps.update h) h

theorem checkReady_keeps (s : State) : Keeps s (checkReady s) :=
  Keeps.when ((bootReports_keeps ..).after <| (readyEvent_keeps ..).after Keeps.updated)

theorem sendDiscovery_keeps (s : State) (p : Fin 12) : Keeps s (sendDiscovery s p) := (emit_keeps ..).after <| bump_keeps ..

theorem lanesServe_keeps (s : State) (p lanes : Nat) : Keeps s (lanesServe s p lanes) :=
  Keeps.foldl _ (fun _ _ => Keeps.when (setCond_keeps ..)) _ _

theorem portUp_keeps (s : State) (p : Fin 12) (lanes : Nat) : Keeps s (portUp s p lanes) :=
  (sendDiscovery_keeps ..).after <| (post_keeps ..).after <| (lanesServe_keeps ..).after <| Keeps.update <| updPort_keeps ..

theorem dropTransfers_keeps (s : State) (cs : List Cmd) : Keeps s (dropTransfers s cs) := Keeps.updatedMem

theorem dueFirst_keeps (s : State) (code : Nat) (payload : List Byte) : Keeps s (dueFirst s code payload) :=
  Keeps.ite (post_keeps ..) Keeps.updated

theorem ringsReset_keeps (s : State) : Keeps s (ringsReset s) := Keeps.updateMem <| dropTransfers_keeps ..

theorem mailboxReset_keeps (s : State) (cause : Nat) : Keeps s (mailboxReset s cause) :=
  Keeps.after (Keeps.when (dueFirst_keeps ..)) <| ringsReset_keeps ..

theorem failTile_keeps (s : State) (u : PhysUnit) : Keeps s (failTile s u) := by
  unfold failTile
  split
  · exact Keeps.refl _
  · split
    · exact Keeps.refl _
    · dsimp only
      split
      · exact (unitEvent_keeps ..).after <| setCond_keeps ..
      · split
        · exact (substitute_keeps ..).after <| (unitEvent_keeps ..).after <| setCond_keeps ..
        · exact (compact_keeps ..).after <| (unitEvent_keeps ..).after <| setCond_keeps ..

theorem selfTest_keeps (s : State) (failed : List TileId) : Keeps s (selfTest s failed) :=
  Keeps.foldl _ (fun _ _ => failTile_keeps ..) _ _

/-- A compute reset lists no byte of spaces 0x0 and 0x2 (R434) and keeps space 0x1. -/
theorem computeStop_keeps (s : State) (cause : Nat) : Keeps s (computeStop s cause) := by
  unfold computeStop
  exact Keeps.stores (fun _ => rfl) (fun m => m.2.1) (fun _ => rfl) <| (dropWithheld_keeps ..).after <|
    (Keeps.foldl _ (fun _ _ => done_keeps ..) _ _).after <| (dropTransfers_keeps ..).after <| Keeps.update <| Keeps.update <|
      (haltProgram_keeps ..).after <| post_keeps ..

theorem computeServe_keeps (s : State) (failed : List TileId) : Keeps s (computeServe s failed) :=
  (selfTest_keeps ..).after <| (post_keeps ..).after <| applyProfile_keeps ..

theorem computeResetSteps_keeps (s : State) (cause : Nat) (failed : List TileId) : Keeps s (computeResetSteps s cause failed) :=
  (computeServe_keeps ..).after <| computeStop_keeps ..

theorem resetReady_keeps (s : State) (cause : Nat) : Keeps s (resetReady s cause) :=
  Keeps.after (Keeps.unless (bootReports_keeps ..)) <| (readyEvent_keeps ..).after Keeps.updated

theorem computeReset_keeps (s : State) (cause : Nat) (failed : List TileId) : Keeps s (computeReset s cause failed) :=
  (resetReady_keeps ..).after <| computeResetSteps_keeps ..

theorem writeBoot_keeps (s : State) (b : BootRecord) : Keeps s (writeBoot s b) := by
  unfold writeBoot
  split
  · exact Keeps.refl _
  · exact Keeps.updated

theorem bootImage_keeps (s : State) (i : Image) (settingsOk : Bool) : Keeps s (bootImage s i settingsOk) :=
  Keeps.after (Keeps.ite ((post_keeps ..).after Keeps.updated) (Keeps.when ((post_keeps ..).after Keeps.updated))) <|
    Keeps.updated

theorem bootStops_keeps (s : State) : Keeps s (bootStops s) := Keeps.updated

theorem bootActive_keeps (s : State) (settingsOk : Bool) (k : State → State) (hk : ∀ u, Keeps u (k u)) :
    Keeps s (bootActive s settingsOk k) := by
  unfold bootActive
  split
  · exact (hk ..).after <| bootImage_keeps ..
  · exact bootStops_keeps ..

theorem serveReady_keeps (s : State) (cause : Nat) (failed : List TileId) : Keeps s (serveReady s cause failed) :=
  Keeps.unless ((resetReady_keeps ..).after <| computeServe_keeps ..)

theorem fallback_keeps (s : State) (cause : Nat) (failed : List TileId) (settingsOk : Bool) :
    Keeps s (fallback s cause failed settingsOk) := by
  unfold fallback
  exact (bootActive_keeps _ _ _ (fun _ => (post_keeps ..).after <| serveReady_keeps ..)).after <| Keeps.update <|
    (writeBoot_keeps ..).after <| (computeStop_keeps ..).after Keeps.updated

/-! ### Power and bring-up -/

theorem railsDown_keeps (s : State) (mode : PowerMode) (cause low : Nat) : Keeps s (railsDown s mode cause low) :=
  Keeps.stores (fun _ => rfl) (fun _ => rfl) (fun _ => rfl) (Keeps.refl s)

theorem inputGone_keeps (s : State) : Keeps s (inputGone s) := Keeps.updated

theorem supplyDown_keeps (s : State) (cause mv : Nat) : Keeps s (supplyDown s cause mv) :=
  Keeps.after (Keeps.ite ((railsDown_keeps ..).after <| haltingUp_keeps ..) (inputGone_keeps ..)) <| Keeps.updated

/-- Bring-up lists no byte of space 0x1 (R330) and keeps the other stores. -/
theorem bringUp_keeps (s : State) (b : BootIn) : Keeps s (bringUp s b) := by
  unfold bringUp
  refine (checkReady_keeps ..).after <| (settleClock_keeps ..).after <| Keeps.update <| Keeps.update <|
    Keeps.after (Keeps.foldl _ (fun u x => ?_) _ _) <| Keeps.update <|
      Keeps.stores (fun m => m.1) (fun _ => rfl) (fun m => m.2.2) (Keeps.refl s)
  split
  · exact Keeps.when (standIn_keeps ..)
  · exact Keeps.refl _

theorem deriveIdentity_keeps (s : State) (b : BootIn) : Keeps s (deriveIdentity s b) := Keeps.updated

theorem powerOnSteps_keeps (s : State) (b : BootIn) : Keeps s (powerOnSteps s b) := by
  unfold powerOnSteps
  dsimp only
  split
  · exact (bootStops_keeps ..).after <| (deriveIdentity_keeps ..).after Keeps.updated
  · split
    · exact (bootStops_keeps ..).after <| (deriveIdentity_keeps ..).after Keeps.updated
    · exact (bringUp_keeps ..).after <| Keeps.after (Keeps.when ((post_keeps ..).after <| (post_keeps ..).after <|
        post_keeps ..)) <| (bootImage_keeps ..).after <| Keeps.after (Keeps.unless (post_keeps ..)) <| Keeps.update <|
        Keeps.after (Keeps.when (writeBoot_keeps ..)) <| (deriveIdentity_keeps ..).after Keeps.updated

theorem execPowerOn_answers (b : BootIn) (s : State) : Answers s (execPowerOn b s) :=
  Answers.when (Answers.ite (Answers.next Keeps.updated) (Answers.next (powerOnSteps_keeps ..)))

theorem execPortLinkUp_answers (p : Fin 12) (fkm : Bool) (s : State) : Answers s (execPortLinkUp p fkm s) :=
  Answers.when (Answers.ite (Answers.next ((portUp_keeps ..).after <| updPort_keeps ..)) (Answers.next (updPort_keeps ..)))

theorem gateVerdict_keeps (s : State) (p : Fin 12) (lanes ratio codewords : Nat) :
    Keeps s (gateVerdict s p lanes ratio codewords) :=
  Keeps.ite (portUp_keeps ..) ((portDrops_keeps ..).after <| (post_keeps ..).after <| updPort_keeps ..)

theorem execLinkGateWindowEnd_answers (p : Fin 12) (ratio codewords : Byte) (s : State) (measured : List LaneTest) :
    Answers s (execLinkGateWindowEnd p ratio codewords s measured) :=
  Answers.when (Answers.next ((checkReady_keeps ..).after <| gateVerdict_keeps ..))

theorem execPortLinkTimeout_answers (p : Fin 12) (s : State) : Answers s (execPortLinkTimeout p s) :=
  Answers.when (Answers.next ((checkReady_keeps ..).after <| (post_keeps ..).after <| (updPort_keeps ..).after Keeps.updated))

theorem noteExcursion_keeps (s : State) (mv : Nat) : Keeps s (noteExcursion s mv) := by
  unfold noteExcursion
  split
  · exact Keeps.after (Keeps.when (bump_keeps ..)) <| Keeps.updated
  · exact (bump_keeps ..).after Keeps.updated

theorem inputRemoved_keeps (s : State) (mv : Nat) : Keeps s (inputRemoved s mv) := (inputGone_keeps ..).after Keeps.updated

theorem execSupplyExcursion_answers (mv : Nat) (s : State) : Answers s (execSupplyExcursion mv s) := by
  unfold execSupplyExcursion
  split
  · split
    · exact Answers.next Keeps.updated
    · exact Answers.same
  · exact Answers.ite (Answers.next (noteExcursion_keeps ..)) (Answers.next (inputRemoved_keeps ..))

theorem execSupplyWarning_answers (mv : Nat) (s : State) : Answers s (execSupplyWarning mv s) :=
  Answers.unless (Answers.ite (Answers.next (inputRemoved_keeps ..))
    (Answers.ite (Answers.next (noteExcursion_keeps ..)) (Answers.next ((post_keeps ..).after <|
    (settleClock_keeps ..).after <| Keeps.update <| noteExcursion_keeps ..))))

theorem execSupplyRecovery_answers (mv us : Nat) (s : State) : Answers s (execSupplyRecovery mv us s) := by
  unfold execSupplyRecovery
  split
  · exact Answers.same
  · exact Answers.unless (Answers.next ((post_keeps ..).after <| (settleClock_keeps ..).after Keeps.updated))

theorem execSupplyReset_answers (mv : Nat) (s : State) : Answers s (execSupplyReset mv s) :=
  Answers.unless (Answers.ite (Answers.next (supplyDown_keeps ..)) (Answers.next (inputRemoved_keeps ..)))

theorem execOvervoltageStop_answers (mv : Nat) (s : State) : Answers s (execOvervoltageStop mv s) :=
  Answers.unless (Answers.next (supplyDown_keeps ..))

theorem execResetInAssert_answers (s : State) : Answers s (execResetInAssert s) :=
  Answers.ite (Answers.next ((railsDown_keeps ..).after Keeps.updated)) (Answers.ite (Answers.next (Keeps.update <|
    Keeps.updated)) (Answers.next Keeps.updated))

theorem execResetInRelease_answers (b : BootIn) (s : State) : Answers s (execResetInRelease b s) :=
  Answers.when (Answers.ite (Answers.next ((powerOnSteps_keeps ..).after Keeps.updated)) (Answers.next (Keeps.update <|
    Keeps.updated)))

theorem execPerstAssert_answers (s : State) : Answers s (execPerstAssert s) :=
  Answers.next (Keeps.update <| (mailboxReset_keeps ..).after Keeps.updated)

theorem execThermalThrottleStart_answers (die celsius : Nat) (s : State) : Answers s (execThermalThrottleStart die celsius s) :=
  Answers.when (Answers.next ((post_keeps ..).after Keeps.updated))

theorem execThermalClockLower_answers (celsius : Nat) (s : State) : Answers s (execThermalClockLower celsius s) := by
  unfold execThermalClockLower
  split
  · exact Answers.when (Answers.next ((settleClock_keeps ..).after Keeps.updated))
  · exact Answers.same

theorem execThermalClockRaise_answers (die celsius : Nat) (s : State) : Answers s (execThermalClockRaise die celsius s) := by
  unfold execThermalClockRaise
  split
  · exact Answers.when (Answers.ite (Answers.next ((post_keeps ..).after <|
      (settleClock_keeps ..).after Keeps.updated)) (Answers.next ((settleClock_keeps ..).after Keeps.updated)))
  · exact Answers.same

theorem thermalFault_keeps (s : State) (die celsius : Nat) : Keeps s (thermalFault s die celsius) :=
  Keeps.when (Keeps.update <| (post_keeps ..).after <| (haltProgram_keeps ..).after <| Keeps.update <| haltingUp_keeps ..)

theorem execThermalFault_answers (die celsius : Nat) (s : State) : Answers s (execThermalFault die celsius s) :=
  Answers.when (Answers.next (thermalFault_keeps ..))

theorem execThermalFaultClear_answers (celsius : Nat) (s : State) : Answers s (execThermalFaultClear celsius s) :=
  Answers.when (Answers.next Keeps.updated)

theorem execHardThermalTrip_answers (die celsius : Nat) (s : State) : Answers s (execHardThermalTrip die celsius s) :=
  Answers.when (Answers.next (Keeps.update <| railsDown_keeps ..))

theorem coolantWarning_keeps (s : State) (cause inlet : Nat) (flow : Option Int) :
    Keeps s (coolantWarning s cause inlet flow) := by
  unfold coolantWarning
  refine (post_keeps ..).after ?_
  split
  · exact Keeps.refl _
  · exact drawFree_keeps ..

theorem execCoolantInletWarning_answers (inlet outlet watts : Nat) (s : State) :
    Answers s (execCoolantInletWarning inlet outlet watts s) :=
  Answers.when (Answers.next (coolantWarning_keeps ..))

theorem execCoolantFlowWarning_answers (inlet outlet watts : Nat) (s : State) :
    Answers s (execCoolantFlowWarning inlet outlet watts s) :=
  Answers.when (Answers.next (coolantWarning_keeps ..))

theorem takeMr4_keeps (s : State) (d t : Nat) : Keeps s (takeMr4 s d t) :=
  Keeps.unless (Keeps.after (Keeps.when ((thermalFault_keeps ..).after <| post_keeps ..)) <| Keeps.updatedMem)

theorem execMr4Read_answers (mpd : Fin 4) (celsius : List Nat) (s : State) : Answers s (execMr4Read mpd celsius s) :=
  Answers.unless (Answers.next (Keeps.foldl _ (fun _ _ => takeMr4_keeps ..) _ _))

theorem execAvcLoopTick_answers (watts : Nat) (s : State) : Answers s (execAvcLoopTick watts s) :=
  Answers.unless (Answers.ite (Answers.next ((settleClock_keeps ..).after Keeps.updated))
    (Answers.ite (Answers.ite (Answers.next ((settleClock_keeps ..).after Keeps.updated)) (Answers.next Keeps.updated))
    (Answers.next Keeps.updated)))

theorem execCapUnreachable_answers (watts : Nat) (s : State) : Answers s (execCapUnreachable watts s) :=
  Answers.when (Answers.next ((post_keeps ..).after Keeps.updated))

theorem execHeartbeatTick_answers (s : State) : Answers s (execHeartbeatTick s) := Answers.when (Answers.next Keeps.updated)

theorem execManagementRestart_answers (reports : List UnitReport) (s : State) :
    Answers s (execManagementRestart reports s) := by
  unfold execManagementRestart
  split
  · refine (Answers.foldl _ (fun u r => execManagementTelemetry_answers r u) reports _).after ?_
    exact (dueFirst_keeps ..).after <| Keeps.update <| (ringsReset_keeps ..).after <| bump_keeps ..
  · exact .same

theorem execManagementFault_answers (s : State) : Answers s (execManagementFault s) := Answers.when (Answers.next Keeps.updated)

/-! ### Registers and windows -/

theorem ringError_keeps (s : State) (i : Fin 5) (bit : Nat) : Keeps s (ringError s i bit) :=
  Keeps.after (Keeps.when (post_keeps ..)) <| Keeps.updated

theorem drainEvents_keeps (s : State) : Keeps s (drainEvents s) := flushHeld_keeps ..

theorem writeRingCtrl_keeps (s : State) (i : Fin 5) (v : Nat) : Keeps s (writeRingCtrl s i v) :=
  Keeps.ite (Keeps.ite (ringError_keeps ..) Keeps.updated)
    (Keeps.after (Keeps.ite (ringError_keeps ..) (Keeps.unless (Keeps.after (Keeps.when (drainEvents_keeps ..)) <|
    Keeps.updated))) <| Keeps.updated)

theorem writeRingBase_keeps (s : State) (i : Fin 5) (h : Half) (v : Word64) : Keeps s (writeRingBase s i h v) :=
  Keeps.ite (ringError_keeps ..) Keeps.updated

theorem writeTail_keeps (s : State) (r : Fin 4) (v : Nat) : Keeps s (writeTail s r v) :=
  Keeps.after (Keeps.when (ringError_keeps ..)) <| Keeps.updated

theorem writeEqHead_keeps (s : State) (v : Nat) : Keeps s (writeEqHead s v) :=
  Keeps.after (Keeps.ite (ringError_keeps ..) (drainEvents_keeps ..)) <| Keeps.updated

theorem writeResetCtrl_keeps (s : State) (v : Nat) (failed : List TileId) : Keeps s (writeResetCtrl s v failed) :=
  Keeps.unless (Keeps.after (Keeps.when (computeReset_keeps ..)) <| Keeps.when (mailboxReset_keeps ..))

theorem sendPending_keeps (s : State) : Keeps s (sendPending s) :=
  Keeps.unless (Keeps.foldl _ (fun _ _ => (emit_keeps ..).after Keeps.updated) _ _)

theorem msixWrite_keeps (s : State) (off : Nat) (h : Half) (v : Word64) : Keeps s (msixWrite s off h v) :=
  (sendPending_keeps ..).after Keeps.updated

theorem regWrite_keeps (s : State) (off width : Nat) (v : Word64) : Keeps s (regWrite s off width v) := by
  unfold regWrite
  cases regAccess off width with
  | none => exact Keeps.refl _
  | some r =>
    refine Keeps.ite (writeResetCtrl_keeps ..) <| Keeps.dite (fun _ => writeTail_keeps ..) fun _ =>
      Keeps.ite (writeEqHead_keeps ..) <| Keeps.dite (fun _ => ?_) fun _ => Keeps.dite (fun _ => Keeps.updated) fun _ =>
      Keeps.ite (Keeps.when Keeps.updated) <| Keeps.ite Keeps.updated <| Keeps.ite Keeps.updated <|
      Keeps.ite Keeps.updated <| Keeps.when (msixWrite_keeps ..)
    dsimp only
    split
    · exact writeRingBase_keeps ..
    · exact writeRingCtrl_keeps ..
    · exact Keeps.of_mem rfl rfl
    · exact Keeps.refl _

theorem atBar_answers (s : State) (k : State → State) (hk : ∀ u, Keeps u (k u)) : Answers s (atBar s k) :=
  Answers.next (Keeps.when (hk ..))

theorem functionReset_keeps (s : State) (cause : Nat) : Keeps s (functionReset s cause) := Keeps.update <| mailboxReset_keeps ..

theorem execResetCtrlMboxReset_answers (key : Word16) (s : State) : Answers s (execResetCtrlMboxReset key s) :=
  atBar_answers _ _ (fun _ => writeResetCtrl_keeps ..)

theorem execResetCtrlComputeReset_answers (key : Word16) (failed : List TileId) (s : State) :
    Answers s (execResetCtrlComputeReset key failed s) :=
  atBar_answers _ _ (fun _ => writeResetCtrl_keeps ..)

theorem execSqTailDoorbell_answers (r : Fin 4) (v : Word32) (s : State) : Answers s (execSqTailDoorbell r v s) :=
  atBar_answers _ _ (fun _ => writeTail_keeps ..)

theorem execEqHeadWrite_answers (v : Word32) (s : State) : Answers s (execEqHeadWrite v s) :=
  atBar_answers _ _ (fun _ => writeEqHead_keeps ..)

theorem execRingCtrlWrite_answers (r : Fin 5) (v : Word32) (s : State) : Answers s (execRingCtrlWrite r v s) :=
  atBar_answers _ _ (fun _ => writeRingCtrl_keeps ..)

theorem execRingBaseWrite_answers (r : Fin 5) (h : Half) (v : Word64) (s : State) : Answers s (execRingBaseWrite r h v s) :=
  atBar_answers _ _ (fun _ => writeRingBase_keeps ..)

theorem execRegisterWrite_answers (offset width : Nat) (v : Word64) (s : State) :
    Answers s (execRegisterWrite offset width v s) :=
  atBar_answers _ _ (fun _ => regWrite_keeps ..)

theorem execFunctionLevelReset_answers (s : State) : Answers s (execFunctionLevelReset s) :=
  Answers.next (functionReset_keeps ..)

theorem execPcieHotReset_answers (s : State) : Answers s (execPcieHotReset s) := Answers.next (functionReset_keeps ..)

theorem execPcieLinkLoss_answers (s : State) : Answers s (execPcieLinkLoss s) :=
  Answers.next (Keeps.update <| functionReset_keeps ..)

theorem execMemorySpaceEnable_answers (sizeLog2 : Option Nat) (s : State) (cfg : ConfigWrite) :
    Answers s (execMemorySpaceEnable sizeLog2 s cfg) :=
  Answers.next ((sendPending_keeps ..).after Keeps.updated)

theorem execEventCoalesceDelay_answers (vec : Fin 64) (s : State) : Answers s (execEventCoalesceDelay vec s) :=
  Answers.when (Answers.next (interrupt_keeps ..))

theorem execEventCountInterrupt_answers (vec : Fin 64) (s : State) : Answers s (execEventCountInterrupt vec s) :=
  Answers.when (Answers.next (interrupt_keeps ..))

theorem remoteRead_keeps (s : State) (win addr n : Nat) : Keeps s (remoteRead s win addr n).2 := by
  unfold remoteRead
  dsimp only
  split
  · exact request_keeps ..
  · refine Keeps.foldl_snd _ (fun r i => ?_) _ (0, s)
    split
    · exact Keeps.refl _
    · exact request_keeps ..

theorem remoteWrite_keeps (s : State) (win addr : Nat) (data : List Byte) : Keeps s (remoteWrite s win addr data).2 := by
  unfold remoteWrite
  refine Keeps.foldl_snd _ (fun r x => ?_) _ (0, s)
  split
  · exact Keeps.refl _
  · exact request_keeps ..

theorem badRead_keeps (s : State) (win cause addr n : Nat) : Keeps s (badRead s win cause addr n) :=
  (emit_keeps ..).after <| windowError_keeps ..

theorem waitForView_keeps (s : State) (off : Nat) (r : ViewReader) : Keeps s (waitForView s off r) :=
  Keeps.update <| bump_keeps ..

theorem windowRead_keeps (s : State) (step : Word64) (win addr n : Nat) : Keeps s (windowRead s step win addr n) := by
  unfold windowRead
  dsimp only
  split
  · exact (outputWhenVisible_keeps ..).after <| Keeps.when (chargeRead_keeps ..)
  · exact badRead_keeps ..
  · exact waitForView_keeps ..

theorem execBar2Read_answers (offset n : Nat) (s : State) : Answers s (execBar2Read offset n s) := by
  unfold execBar2Read
  dsimp only
  refine Answers.ite (.next (emit_keeps ..)) <| Answers.ite (.next (badRead_keeps ..)) <|
    Answers.ite (.next (Keeps.ite (badRead_keeps ..) (windowRead_keeps ..))) (.next ?_)
  have h := remoteRead_keeps s (bar2Place s offset n).1 (bar2Place s offset n).2.2 n
  exact Keeps.ite h ((badRead_keeps ..).after h)

theorem execBar2Write_answers (offset : Nat) (data : List Byte) (s : State) : Answers s (execBar2Write offset data s) := by
  unfold execBar2Write
  dsimp only
  generalize bar2Place s offset data.length = place
  have hl := writeLocal_keeps s (spaceOf place.2.2) (offsetOf place.2.2) data
  have hr := remoteWrite_keeps s place.1 place.2.2 data
  exact Answers.unless <| Answers.ite (.next (windowError_keeps ..)) <|
    Answers.ite (Answers.ite (.next (windowError_keeps ..)) (.next (Keeps.ite hl ((windowError_keeps ..).after hl))))
      (.next (Keeps.ite hr ((windowError_keeps ..).after hr)))

/-! ### The mailbox -/

theorem hostFailed_keeps (s : State) : Keeps s (hostFailed s) := (emit_keeps ..).after <| Keeps.update <| Keeps.updated

theorem fromHost_keeps (s : State) (c : Cmd) (addr n : Nat) (host : HostRead) : Keeps s (fromHost s c addr n host).2 := by
  unfold fromHost
  split
  · split
    · exact chargeRead_keeps ..
    · exact Keeps.refl _
  · dsimp only
    split
    · exact emit_keeps ..
    · exact (hostFailed_keeps ..).after <| emit_keeps ..

theorem toHost_keeps (s : State) (c : Cmd) (addr : Nat) (data : List Byte) : Keeps s (toHost s c addr data).2 := by
  unfold toHost
  dsimp only
  split
  · split
    · exact writeLocal_keeps ..
    · exact Keeps.refl _
  · split
    · exact Keeps.refl _
    · exact emit_keeps ..

theorem viewRead_keeps (s : State) (c : Cmd) : Keeps s (viewRead s c) := Keeps.updated

theorem waitAsCommand_keeps (s : State) (c : Cmd) (addr n : Nat) : Keeps s (waitAsCommand s c addr n) :=
  Keeps.unless (waitForView_keeps ..)

theorem askData_keeps (s : State) (c : Cmd) (addr n : Nat) : Keeps s (askData s c addr n).2 := by
  unfold askData
  refine Keeps.foldl_snd _ (fun r i => ?_) _ (0, s)
  split
  · exact Keeps.refl _
  · exact request_keeps ..

theorem readData_keeps (s : State) (c : Cmd) (kind addr n : Nat) (host : HostRead) :
    Keeps s (readData s c kind addr n host).2 := by
  unfold readData
  dsimp only
  split
  · exact fromHost_keeps ..
  · split
    · split
      · split
        · exact (viewRead_keeps ..).after <| chargeAt_keeps ..
        · exact Keeps.refl _
      · exact viewRead_keeps ..
      · exact waitAsCommand_keeps ..
    · split
      · exact Keeps.refl _
      · split
        · exact Keeps.refl _
        · split
          · exact askData_keeps ..
          · exact askData_keeps ..
  · exact Keeps.refl _
  · exact Keeps.refl _

theorem withData_keeps (s : State) (c : Cmd) (kind addr n : Nat) (host : HostRead) (k : State → List Byte → State)
    (hk : ∀ u b, Keeps u (k u b)) : Keeps s (withData s c kind addr n host k) := by
  have h := readData_keeps s c kind addr n host
  unfold withData
  split
  · exact (hk _ _).after <| (dropArrivals_keeps ..).after <| h.of_snd ‹_›
  · exact (done_keeps ..).after <| (dropArrivals_keeps ..).after <| h.of_snd ‹_›
  · exact h.of_snd ‹_›

theorem awaits_keeps (s : State) (c : Cmd) (result v1 v2 : Nat) : Keeps s (awaits s c result v1 v2) := Keeps.updated

theorem finishData_keeps (s : State) (c : Cmd) (kind addr : Nat) (data : List Byte) (result v1 v2 : Nat) (told : State → State)
    (htold : ∀ u, Keeps u (told u)) : Keeps s (finishData s c kind addr data result v1 v2 told) := by
  unfold finishData
  dsimp only
  split
  · have h := toHost_keeps s c addr data
    exact Keeps.ite ((complete_keeps ..).after <| (htold _).after h) ((done_keeps ..).after h)
  · split
    · have h := writeLocal_keeps s (spaceOf addr) (offsetOf addr) data
      exact Keeps.ite (done_keeps ..) <| Keeps.ite ((complete_keeps ..).after <| (htold _).after h)
        ((endWhenVisible_keeps ..).after <| (awaits_keeps ..).after <| (htold _).after h)
    · generalize hr : List.foldl _ ((0, s) : Nat × State) _ = r
      have h : Keeps s r.2 := by
        rw [← hr]
        refine Keeps.foldl_snd _ (fun r x => ?_) _ (0, s)
        split
        · exact Keeps.refl _
        · exact request_keeps ..
      exact Keeps.ite ((done_keeps ..).after h) ((dataWritten_keeps ..).after <| (awaits_keeps ..).after <| (htold _).after h)
  · exact Keeps.ite ((emit_keeps ..).after <| (complete_keeps ..).after <| htold _) (done_keeps ..)
  · exact done_keeps ..

theorem notePath_keeps (s : State) (p : Path) : Keeps s (notePath s p) :=
  Keeps.after (Keeps.when (post_keeps ..)) <| Keeps.updated

theorem numbered_keeps (s : State) (c : Cmd) : Keeps s (numbered s c).2 := Keeps.updated

theorem startCmd_keeps (s : State) (c : Cmd) (reservedOk : Bool) : Keeps s (startCmd s c reservedOk) :=
  Keeps.ite (done_keeps ..) (Keeps.ite (done_keeps ..) Keeps.updated)

theorem proxyCmd_keeps (s : State) (c : Cmd) (node : Nat) (raw : List Byte) (data : HostRead) :
    Keeps s (proxyCmd s c node raw data) := by
  unfold proxyCmd
  dsimp only
  split
  · exact done_keeps ..
  · split
    · exact done_keeps ..
    · split
      · exact done_keeps ..
      · split
        · exact (done_keeps ..).after <| memberUnreachable_keeps ..
        · split
          · split
            · exact (done_keeps ..).after <| (hostFailed_keeps ..).after <| emit_keeps ..
            · exact Keeps.after (Keeps.ite (proxyMoved_keeps ..) (startBulkOut_keeps ..)) <| Keeps.update <| emit_keeps ..
          · exact (proxyMoved_keeps ..).after Keeps.updated

theorem execCommandFetch_answers (entry : HostRead) (s : State) (data : HostRead) :
    Answers s (execCommandFetch entry s data) := by
  unfold execCommandFetch
  split
  · exact Answers.same
  · split
    · exact Answers.same
    · dsimp only
      split
      · refine Answers.next ?_
        split
        · exact (ringError_keeps ..).after <| (hostFailed_keeps ..).after <| emit_keeps ..
        · exact emit_keeps ..
      · exact Answers.ite (Answers.next (Keeps.update <|
          emit_keeps ..)) (Answers.ite (Answers.next ((startCmd_keeps ..).after <| (numbered_keeps ..).after <|
          (notePath_keeps ..).after <| Keeps.update <| emit_keeps ..)) (Answers.next ((proxyCmd_keeps ..).after <|
          (numbered_keeps ..).after <| (notePath_keeps ..).after <| Keeps.update <| emit_keeps ..)))

theorem execProxyCommandReceive_answers (x : Rx) (s : State) : Answers s (execProxyCommandReceive x s) :=
  Answers.unless (Answers.next (arrive_keeps _ _ _ _
    (fun _ _ => Keeps.ite (discard_keeps ..) (Keeps.unless ((startCmd_keeps ..).after <|
    Keeps.update <| notePath_keeps ..)))))

theorem memberCompletes_keeps (s : State) (p : Proxied) (e : Event) : Keeps s (memberCompletes s p e) :=
  Keeps.ite (returnCompletion_keeps ..) ((startBulkIn_keeps ..).after Keeps.updated)

theorem memberEntry_keeps (s : State) (node : Word16) (b : List Byte) : Keeps s (memberEntry s node b) := by
  unfold memberEntry
  dsimp only
  split
  · split
    · exact Keeps.updated
    · split
      · exact memberCompletes_keeps ..
      · exact Keeps.refl _
  · exact (deliverEvent_posts ..).keeps

theorem execProxyCompletionReceive_answers (x : Rx) (s : State) : Answers s (execProxyCompletionReceive x s) :=
  Answers.unless (Answers.next (arrive_keeps _ _ _ _
    (fun _ _ => Keeps.ite (discard_keeps ..) (Keeps.unless
    ((Keeps.foldl _ (fun _ _ => memberEntry_keeps ..) _ _).after Keeps.updated)))))

theorem execSquadSet_answers (c : Cmd) (host : HostRead) (s : State) : Answers s (execSquadSet c host s) :=
  command_answers _ _ _ _ (gated_keeps _ _ _ _ _ _ _ _
    (Keeps.ite (done_keeps ..) (withData_keeps _ _ _ _ _ _ _ (fun _ _ => Keeps.ite (done_keeps ..) ((done_keeps ..).after <|
    (Keeps.foldl _ (fun _ _ => Keeps.when (memberUnreachable_keeps ..)) _ _).after Keeps.updated)))))

theorem execFabricRecord_answers (c : Cmd) (s : State) : Answers s (execFabricRecord c s) := by
  unfold execFabricRecord
  refine command_answers _ _ _ _ (gated_keeps _ _ _ _ _ _ _ _ ?_)
  split
  · exact Keeps.refl _
  · exact Keeps.ite (done_keeps ..) ((done_keeps ..).after Keeps.updated)

theorem applyEnable_keeps (s : State) (p : Fin 12) (was : Bool) : Keeps s (applyEnable s p was) :=
  Keeps.unless (Keeps.ite ((setPort_keeps ..).after <| portDrops_keeps ..) (setPort_keeps ..))

theorem execPortRecord_answers (c : Cmd) (host : HostRead) (s : State) : Answers s (execPortRecord c host s) := by
  unfold execPortRecord
  refine command_answers _ _ _ _ (gated_keeps _ _ _ _ _ _ _ _ (withData_keeps _ _ _ _ _ _ _ (fun _ _ => ?_)))
  split
  · exact done_keeps ..
  · split
    · exact (checkReady_keeps ..).after <| (done_keeps ..).after <| (applyEnable_keeps ..).after <| updPort_keeps ..
    · exact Keeps.refl _

theorem execRouteWrite_answers (c : Cmd) (host : HostRead) (s : State) : Answers s (execRouteWrite c host s) :=
  command_answers _ _ _ _ (gated_keeps _ _ _ _ _ _ _ _
    (withData_keeps _ _ _ _ _ _ _ (fun _ _ => Keeps.ite (done_keeps ..) ((done_keeps ..).after <|
    (Keeps.foldl _ (fun _ _ => Keeps.when (memberUnreachable_keeps ..)) _ _).after <| Keeps.update <| Keeps.updated))))

theorem execPortRetrain_answers (c : Cmd) (ratio codewords : Byte) (s : State) (measured : List LaneTest) :
    Answers s (execPortRetrain c ratio codewords s measured) := by
  unfold execPortRetrain
  refine command_answers _ _ _ _ (gated_keeps _ _ _ _ _ _ _ _ ?_)
  split
  · dsimp only
    split
    · exact done_keeps ..
    · split
      · exact done_keeps ..
      · exact (checkReady_keeps ..).after <| (complete_keeps ..).after <| (gateVerdict_keeps ..).after <|
          (emit_keeps ..).after <| updPort_keeps ..
  · exact Keeps.refl _

theorem execPowerCap_answers (c : Cmd) (s : State) : Answers s (execPowerCap c s) :=
  command_answers _ _ _ _ (gated_keeps _ _ _ _ _ _ _ _ ((done_keeps ..).after Keeps.updated))

theorem execProfileSelect_answers (c : Cmd) (s : State) : Answers s (execProfileSelect c s) := by
  unfold execProfileSelect
  refine command_answers _ _ _ _ (gated_keeps _ _ _ _ _ _ _ _ ?_)
  split
  · exact (done_keeps ..).after Keeps.updated
  · exact Keeps.refl _

theorem execProfileWrite_answers (c : Cmd) (host : HostRead) (s : State) : Answers s (execProfileWrite c host s) := by
  unfold execProfileWrite
  refine command_answers _ _ _ _ (gated_keeps _ _ _ _ _ _ _ _ (withData_keeps _ _ _ _ _ _ _ (fun _ _ => ?_)))
  split
  · exact done_keeps ..
  · exact Keeps.ite ((done_keeps ..).after Keeps.updated) ((done_keeps ..).after Keeps.updated)

theorem execAbort_answers (c : Cmd) (ring : HostRead) (s : State) : Answers s (execAbort c ring s) := by
  unfold execAbort
  refine command_answers _ _ _ _ (gated_keeps _ _ _ _ _ _ _ _ ?_)
  dsimp only
  split
  · exact (done_keeps ..).after <| (ringError_keeps ..).after <| (hostFailed_keeps ..).after <|
      Keeps.foldl _ (fun _ _ => emit_keeps ..) _ _
  · exact (complete_keeps ..).after <| (Keeps.foldl _ (fun _ _ => done_keeps ..) _ _).after <|
      (Keeps.foldl _ (fun _ _ => done_keeps ..) _ _).after <| (dropTransfers_keeps ..).after <| Keeps.update <|
      Keeps.foldl _ (fun _ _ => emit_keeps ..) _ _

/-! ### LPDDR5X devices and the bench state -/

theorem failHeld_keeps (s : State) (a : HeldAck) : Keeps s (failHeld s a) := by
  unfold failHeld
  split
  · split
    · dsimp only
      split
      · exact (sendFrame_keeps ..).after Keeps.updated
      · split
        · exact failBulk_keeps ..
        · exact Keeps.refl _
    · exact sendFrame_keeps ..
  · exact badRead_keeps ..
  · exact Keeps.refl _
  · exact Keeps.refl _

theorem failFlights_keeps (s : State) (g : Nat) : Keeps s (failFlights s g) :=
  (Keeps.foldl _ (fun _ _ => accessFailed_keeps ..) _ _).after Keeps.updated

theorem failEnding_keeps (s : State) (e : Ending) : Keeps s (failEnding s e) := by
  unfold failEnding
  split
  · exact dataFailed_keeps ..
  · split
    · exact failBulk_keeps ..
    · exact Keeps.refl _

theorem loseGroup_keeps (s : State) (g : Nat) : Keeps s (loseGroup s g) := by
  unfold loseGroup
  split
  · exact Keeps.unless ((raiseFault_keeps ..).after <| (post_keeps ..).after <| (failFlights_keeps ..).after <|
      (Keeps.foldl _ (fun _ _ => failEnding_keeps ..) _ _).after <|
      (Keeps.foldl _ (fun _ _ => failHeld_keeps ..) _ _).after Keeps.updatedMem)
  · exact Keeps.refl _

theorem declareLost_keeps (s : State) (d : Fin 20) (cause : Nat) : Keeps s (declareLost s d cause) :=
  Keeps.unless ((loseGroup_keeps ..).after <| (post_keeps ..).after <| (setCond_keeps ..).after Keeps.updatedMem)

theorem execReconstructionRateLimit_answers (device : Fin 20) (s : State) : Answers s (execReconstructionRateLimit device s) :=
  Answers.when (Answers.next (declareLost_keeps ..))

theorem execDeviceCommandTimeout_answers (device : Fin 20) (s : State) : Answers s (execDeviceCommandTimeout device s) :=
  Answers.when (Answers.next (declareLost_keeps ..))

theorem execDqsTracking_answers (device : Fin 20) (retrainFailures : Nat) (s : State) :
    Answers s (execDqsTracking device retrainFailures s) :=
  Answers.when (Answers.next (declareLost_keeps ..))

theorem execRefresh_answers (mpd : Fin 4) (s : State) (managed : List (Fin 5)) : Answers s (execRefresh mpd s managed) :=
  Answers.when (Answers.next ((Keeps.foldl _ (fun _ _ => emit_keeps ..) _ _).after <| (emit_keeps ..).after Keeps.updatedMem))

theorem execStripeFlushTimeout_answers (stripe : Nat) (s : State) (reads : List DevRead) :
    Answers s (execStripeFlushTimeout stripe s reads) := by
  unfold execStripeFlushTimeout
  dsimp only
  split
  · exact Answers.next ((deviceReads_keeps ..).after Keeps.updatedMem)
  · refine Answers.next ((settleEnds_keeps ..).after <| (flushStripe_keeps ..).after ?_)
    split
    · exact Keeps.unless (deviceReads_keeps ..)
    · exact Keeps.refl _

theorem execLpddr5xScrub_answers (row : Nat) (group : Fin 4) (reads : List DevRead) (xorOk : Bool) (s : State)
    (reader : ReadBy) :
    Answers s (execLpddr5xScrub row group reads xorOk s reader) := by
  unfold execLpddr5xScrub
  split
  · exact Answers.same
  · dsimp only
    split
    · exact Answers.next (Keeps.after (Keeps.when (bump_keeps ..)) <| Keeps.updateMem <|
        Keeps.after (Keeps.when (post_keeps ..)) <| deviceReads_keeps ..)
    · refine Answers.next ?_
      split
      · exact Keeps.after (Keeps.when (markRebuilt_keeps ..)) <| deviceReads_keeps ..
      · exact deviceReads_keeps ..

theorem execSramScrub_answers (offset : Nat) (correctable uncorrectable : Bool) (s : State) (reader : ReadBy) :
    Answers s (execSramScrub offset correctable uncorrectable s reader) := by
  unfold execSramScrub
  dsimp only
  split
  · exact Answers.same
  · split
    · refine Answers.next (Keeps.after (Keeps.when (bump_keeps ..)) <| Keeps.updateMem <| ?_)
      split
      · exact bump_keeps ..
      · exact bump_keeps ..
      · exact sramLost_keeps ..
      · exact Keeps.refl _
    · refine Answers.next ?_
      split
      · exact bump_keeps ..
      · exact bump_keeps ..
      · exact sramLost_keeps ..
      · exact Keeps.refl _

/-- The bench state lists no byte of space 0x2 (R333) and keeps spaces 0x0 and 0x1. -/
theorem execBenchEnter_answers (c : Cmd) (s : State) : Answers s (execBenchEnter c s) := by
  unfold execBenchEnter
  refine Answers.unless <| command_answers _ _ _ _ <| gated_keeps _ _ _ _ _ _ _ _ ?_
  exact (done_keeps ..).after <| (post_keeps ..).after <| Keeps.stores (fun m => m.1) (fun m => m.2.1) (fun _ => rfl) <|
    (dropWithheld_keeps ..).after <| (dropFetches_keeps ..).after <| (settleEnds_keeps ..).after <|
      Keeps.foldl _ flushEarly_keeps _ _

theorem execBenchLeave_answers (c : Cmd) (celsius : List Nat) (untrained : List (Fin 20)) (s : State) :
    Answers s (execBenchLeave c celsius untrained s) :=
  Answers.unless (command_answers _ _ _ _ (Keeps.ite (done_keeps ..)
    (Keeps.ite (done_keeps ..) (Keeps.ite (done_keeps ..) ((done_keeps ..).after <|
    (post_keeps ..).after <| (Keeps.foldl _ (fun _ _ => declareLost_keeps ..) _ _).after <|
    (Keeps.foldl _ (fun _ _ => takeMr4_keeps ..) _ _).after Keeps.updatedMem)))))

/-! ### Tables -/

theorem execReadTable_answers (c : Cmd) (s : State) : Answers s (execReadTable c s) :=
  command_answers _ _ _ _ <| gated_keeps _ _ _ _ _ _ _ _ <| finishData_keeps _ _ _ _ _ _ _ _ _ Keeps.refl

/-! ### The fabric -/

theorem controlWrite_keeps (s : State) (f : Kft) (off : Nat) (data : List Byte) : Keeps s (controlWrite s f off data).2 := by
  unfold controlWrite
  dsimp only
  split
  · exact Keeps.refl _
  · split
    · exact Keeps.refl _
    · split
      · exact Keeps.refl _
      · split
        · exact Keeps.refl _
        · exact regWrite_keeps ..

theorem serveRead_keeps (s : State) (step : Word64) (x : Kft) (most : Nat) (reads : List DevRead) :
    Keeps s (serveRead s step x most reads) := by
  unfold serveRead
  dsimp only
  split
  · exact sendFrame_keeps ..
  · split
    · exact sendFrame_keeps ..
    · split
      · exact sendFrame_keeps ..
      · split
        · exact (ackWhenVisible_keeps ..).after <| Keeps.when ((deviceReads_keeps ..).after <| chargeRead_keeps ..)
        · exact sendFrame_keeps ..
        · exact waitForView_keeps ..

theorem execReadRequest_answers (x : Rx) (reads : List DevRead) (s : State) : Answers s (execReadRequest x reads s) :=
  Answers.next (arrive_keeps _ _ _ _ (fun _ _ => serveRead_keeps ..))

theorem execWriteRequest_answers (x : Rx) (s : State) : Answers s (execWriteRequest x s) := by
  unfold execWriteRequest
  refine Answers.next (arrive_keeps _ _ _ _ (fun _ _ => ?_))
  dsimp only
  split
  · exact sendFrame_keeps ..
  · exact Keeps.ite ((sendFrame_keeps ..).after <| Keeps.after (Keeps.when (logInbound_keeps ..)) <|
      controlWrite_keeps ..) (Keeps.ite (sendFrame_keeps ..) (Keeps.after (Keeps.ite ((ackWhenVisible_keeps ..).after <|
      logInbound_keeps ..) (sendFrame_keeps ..)) <| writeLocal_keeps ..))

theorem execAtomicRequest_answers (x : Rx) (s : State) : Answers s (execAtomicRequest x s) := by
  unfold execAtomicRequest
  refine Answers.next (arrive_keeps _ _ _ _ (fun _ _ => ?_))
  dsimp only
  split
  · exact sendFrame_keeps ..
  · split
    · exact sendFrame_keeps ..
    · split
      · exact sendFrame_keeps ..
      · split
        · exact sendFrame_keeps ..
        · split
          · exact Keeps.after (Keeps.ite ((ackWhenVisible_keeps ..).after <| logInbound_keeps ..) (sendFrame_keeps ..)) <|
              (writeLocal_keeps ..).after <| Keeps.when (chargeRead_keeps ..)
          · exact sendFrame_keeps ..
          · exact sendFrame_keeps ..

theorem takeResponse_keeps (s : State) (p : Fin 12) (f : Kft) : Keeps s (takeResponse s p f) := by
  unfold takeResponse
  split
  · exact finishTxn_keeps ..
  · exact bump_keeps ..

theorem execWriteAck_answers (x : Rx) (s : State) : Answers s (execWriteAck x s) :=
  Answers.next (arrive_keeps _ _ _ _ (fun _ _ => takeResponse_keeps ..))

theorem execAtomicResponse_answers (x : Rx) (s : State) : Answers s (execAtomicResponse x s) :=
  Answers.next (arrive_keeps _ _ _ _ (fun _ _ => takeResponse_keeps ..))

theorem execResponseTimeout_answers (tid : Word32) (s : State) : Answers s (execResponseTimeout tid s) := by
  unfold execResponseTimeout
  split
  · exact Answers.next (finishTxn_keeps ..)
  · exact Answers.next (failBulk_keeps ..)
  · exact Answers.same

theorem bulkStore_keeps (s : State) (f : Kft) : Keeps s (bulkStore s f).2 := by
  unfold bulkStore
  dsimp only
  split
  · split
    · exact emit_keeps ..
    · exact emit_keeps ..
    · exact Keeps.after (Keeps.when Keeps.updated) <| writeLocal_keeps ..
    · exact addArrival_keeps ..
    · exact addArrival_keeps ..
    · exact Keeps.refl _
  · split
    · exact Keeps.refl _
    split
    · exact controlWrite_keeps ..
    · exact writeLocal_keeps ..

theorem lateData_keeps (s : State) (p : Fin 12) (f : Kft) : Keeps s (lateData s p f) :=
  Keeps.after (Keeps.when Keeps.updated) <| bump_keeps ..

theorem takeBulk_keeps (s : State) (f : Kft) : Keeps s (takeBulk s f) := by
  unfold takeBulk
  dsimp only
  split
  · exact Keeps.after (Keeps.unless (Keeps.ite (ackWhenVisible_keeps ..) (sendFrame_keeps ..))) <| Keeps.update <|
      Keeps.after (Keeps.when (logInbound_keeps ..)) <| bulkStore_keeps ..
  · exact Keeps.after (Keeps.ite (failBulk_keeps ..)
      (Keeps.unless (Keeps.ite (endWhenVisible_keeps ..) (finishBulk_keeps ..)))) <|
      Keeps.after (Keeps.unless (Keeps.ite (ackWhenVisible_keeps ..) (sendFrame_keeps ..))) <| Keeps.update <|
      Keeps.after (Keeps.when (logInbound_keeps ..)) <| bulkStore_keeps ..

theorem execBulkData_answers (x : Rx) (s : State) : Answers s (execBulkData x s) :=
  Answers.next (arrive_keeps _ _ _ _ (fun _ _ => Keeps.ite (lateData_keeps ..) ((settleEnds_keeps ..).after <|
    takeBulk_keeps ..)))

theorem serveBulkRead_keeps (s : State) (step : Word64) (f : Kft) : Keeps s (serveBulkRead s step f) := by
  unfold serveBulkRead
  dsimp only
  split
  · exact sendFrame_keeps ..
  · split
    · exact Keeps.ite ((sendBulk_keeps ..).after <| Keeps.update <| dropBulk_keeps ..) (sendFrame_keeps ..)
    · split
      · exact Keeps.ite ((sendBulk_keeps ..).after <| Keeps.update <| (dropBulk_keeps ..).after <|
          chargeRead_keeps ..) ((sendBulk_keeps ..).after <| Keeps.update <| dropBulk_keeps ..)
      · exact sendFrame_keeps ..
      · exact waitForView_keeps ..

theorem execBulkReadRequest_answers (x : Rx) (s : State) : Answers s (execBulkReadRequest x s) :=
  Answers.next (arrive_keeps _ _ _ _ (fun _ _ => serveBulkRead_keeps ..))

theorem execBulkAck_answers (x : Rx) (s : State) : Answers s (execBulkAck x s) := by
  unfold execBulkAck
  refine Answers.next (arrive_keeps _ _ _ _ (fun _ _ => ?_))
  dsimp only
  split
  · exact bump_keeps ..
  · exact Keeps.ite (failBulk_keeps ..) (Keeps.ite (finishBulk_keeps ..) Keeps.updated)

theorem dmaOut_keeps (s : State) (c : Cmd) (haddr space off n : Nat) : Keeps s (dmaOut s c haddr space off n) := by
  unfold dmaOut
  dsimp only
  split
  · exact (done_keeps ..).after <| viewRead_keeps ..
  · split
    · exact waitAsCommand_keeps ..
    · exact Keeps.after (Keeps.ite ((done_keeps ..).after <| toHost_keeps ..) ((settleEnds_keeps ..).after <|
        (endWhenVisible_keeps ..).after <| toHostWhenVisible_keeps ..)) <| Keeps.after (Keeps.when (chargeRead_keeps ..)) <|
        viewRead_keeps ..

theorem dmaIn_keeps (s : State) (c : Cmd) (haddr space off n : Nat) (host : HostRead) :
    Keeps s (dmaIn s c haddr space off n host) := by
  have h := fromHost_keeps s c haddr n host
  unfold dmaIn
  dsimp only
  split
  · exact done_keeps ..
  split
  · exact (settleEnds_keeps ..).after <| (endWhenVisible_keeps ..).after <|
      (Keeps.foldl _ (fun _ _ => writeLocal_keeps ..) _ _).after <| h.of_snd ‹_›
  · exact (done_keeps ..).after <| h.of_snd ‹_›
  · exact h.of_snd ‹_›

theorem execDma_answers (c : Cmd) (host : HostRead) (s : State) : Answers s (execDma c host s) := by
  have h := fromHost_keeps s c (arg c 16 8) (arg c 32 8) host
  refine command_answers _ _ _ _ <| gated_keeps _ _ _ _ _ _ _ _ ?_
  refine Keeps.ite (done_keeps ..) <| Keeps.ite (Keeps.ite (dmaOut_keeps ..) (dmaIn_keeps ..)) <|
    Keeps.ite (startBulkIn_keeps ..) ?_
  split
  · exact (startBulkOut_keeps ..).after <| h.of_snd ‹_›
  · exact (done_keeps ..).after <| h.of_snd ‹_›
  · exact h.of_snd ‹_›

theorem execFrameTransit_answers (x : Rx) (s : State) : Answers s (execFrameTransit x s) :=
  Answers.unless (Answers.next (arrive_keeps _ _ _ _ (fun _ _ => Keeps.refl _)))

theorem execFrameSend_answers (p : Fin 12) (s : State) : Answers s (execFrameSend p s) := Answers.next (sendNext_keeps ..)

theorem execLinkControlAck_answers (x : Rx) (s : State) : Answers s (execLinkControlAck x s) :=
  Answers.unless (Answers.next (arrive_keeps _ _ _ _ (fun _ _ => takeAck_keeps ..)))

theorem resendFrom_keeps (s : State) (p : Fin 12) (a : BitVec 24) : Keeps s (resendFrom s p a) :=
  Keeps.foldl _ (fun _ _ => resend_keeps ..) _ _

theorem execLinkControlNak_answers (x : Rx) (s : State) : Answers s (execLinkControlNak x s) :=
  Answers.unless (Answers.next (arrive_keeps _ _ _ _ (fun _ _ => (resendFrom_keeps ..).after <| takeAck_keeps ..)))

theorem execCreditGrant_answers (x : Rx) (s : State) : Answers s (execCreditGrant x s) :=
  Answers.unless (Answers.next (arrive_keeps _ _ _ _ (fun _ _ => Keeps.refl _)))

theorem execAckInterval_answers (p : Fin 12) (s : State) : Answers s (execAckInterval p s) :=
  Answers.when (Answers.next ((updPort_keeps ..).after <| (ackFrame_linked ..).keeps))

theorem execRetransmitTimeout_answers (p : Fin 12) (s : State) : Answers s (execRetransmitTimeout p s) := by
  unfold execRetransmitTimeout
  dsimp only
  split
  · exact Answers.same
  · exact Answers.when (Answers.next (resendFrom_keeps ..))

theorem execRetryExhausted_answers (p : Fin 12) (s : State) : Answers s (execRetryExhausted p s) :=
  Answers.when (Answers.next (portDown_keeps ..))

theorem execEcnEchoTimeout_answers (p : Fin 12) (cls : Fin 6) (s : State) : Answers s (execEcnEchoTimeout p cls s) :=
  Answers.when (Answers.next (((linkControl_posts ..).keeps).after <| updPort_keeps ..))

theorem execRateAlphaInterval_answers (p : Fin 12) (cls : Fin 6) (s : State) : Answers s (execRateAlphaInterval p cls s) :=
  Answers.unless (Answers.next (updPort_keeps ..))

theorem execRateRecoveryInterval_answers (p : Fin 12) (cls : Fin 6) (s : State) :
    Answers s (execRateRecoveryInterval p cls s) :=
  Answers.unless (Answers.next (updPort_keeps ..))

theorem execLaneLost_answers (p : Fin 12) (lane : Fin 8) (s : State) (bits codewords : Nat) :
    Answers s (execLaneLost p lane s bits codewords) := by
  unfold execLaneLost
  dsimp only
  split
  · exact Answers.next (countLanes_keeps ..)
  · split
    · split
      · exact Answers.next ((updPort_keeps ..).after <| (transmitNow_keeps ..).after <| (setCond_keeps ..).after <|
          (updPort_keeps ..).after <| (bump_keeps ..).after <| countLanes_keeps ..)
      · exact Answers.next ((portDown_keeps ..).after <| (setCond_keeps ..).after <| (updPort_keeps ..).after <|
          (bump_keeps ..).after <| countLanes_keeps ..)
    · split
      · exact Answers.next ((updPort_keeps ..).after <| (portDown_keeps ..).after <| (setCond_keeps ..).after <|
          (updPort_keeps ..).after <| (bump_keeps ..).after <| countLanes_keeps ..)
      · exact Answers.next ((portDown_keeps ..).after <| (setCond_keeps ..).after <| (updPort_keeps ..).after <|
          (bump_keeps ..).after <| countLanes_keeps ..)

theorem execLaneChangeRequest_answers (x : Rx) (s : State) : Answers s (execLaneChangeRequest x s) :=
  Answers.unless (Answers.next (arrive_keeps _ _ _ _ (fun _ _ => (updPort_keeps ..).after <| transmitNow_keeps ..)))

theorem execLaneChangeConfirm_answers (x : Rx) (s : State) : Answers s (execLaneChangeConfirm x s) :=
  Answers.unless (Answers.next (arrive_keeps _ _ _ _ (fun _ _ => Keeps.refl _)))

theorem execLaneRetrainComplete_answers (p : Fin 12) (lanes : Byte) (s : State) :
    Answers s (execLaneRetrainComplete p lanes s) := by
  unfold execLaneRetrainComplete
  dsimp only
  split
  · exact .same
  · refine .next <| (post_keeps ..).after <| (updPort_keeps ..).after ?_
    split
    · exact drawFree_keeps ..
    · exact Keeps.refl _

theorem execLaneRetrainTimeout_answers (p : Fin 12) (s : State) : Answers s (execLaneRetrainTimeout p s) :=
  Answers.when (Answers.next (portDown_keeps ..))

theorem otherIn_keeps (s : State) (p : Fin 12) : Keeps s (otherIn s p) := Keeps.when (bump_keeps ..)

theorem otherOut_keeps (s : State) (p : Fin 12) (o : Output) : Keeps s (otherOut s p o) :=
  (emit_keeps ..).after <| bump_keeps ..

theorem notKft_keeps (s : State) (p : Fin 12) : Keeps s (notKft s p) := Keeps.when (discard_keeps ..)

theorem execArpRequest_answers (p : Fin 12) (target : Word32) (sender : List Byte) (s : State) :
    Answers s (execArpRequest p target sender s) :=
  Answers.ite (Answers.next ((otherOut_keeps ..).after <| otherIn_keeps ..)) (Answers.next ((notKft_keeps ..).after <|
    otherIn_keeps ..))

theorem execNeighbourSolicitation_answers (p : Fin 12) (target sender : List Byte) (s : State) :
    Answers s (execNeighbourSolicitation p target sender s) :=
  Answers.ite (Answers.next ((otherOut_keeps ..).after <| otherIn_keeps ..)) (Answers.next ((notKft_keeps ..).after <|
    otherIn_keeps ..))

theorem execIcmpEchoRequest_answers (p : Fin 12) (target : Word32) (sender data : List Byte) (s : State) :
    Answers s (execIcmpEchoRequest p target sender data s) :=
  Answers.ite (Answers.next ((otherOut_keeps ..).after <| otherIn_keeps ..)) (Answers.next ((notKft_keeps ..).after <|
    otherIn_keeps ..))

theorem execIcmpv6EchoRequest_answers (p : Fin 12) (target sender data : List Byte) (s : State) :
    Answers s (execIcmpv6EchoRequest p target sender data s) :=
  Answers.ite (Answers.next ((otherOut_keeps ..).after <| otherIn_keeps ..)) (Answers.next ((notKft_keeps ..).after <|
    otherIn_keeps ..))

theorem execPauseFrame_answers (p : Fin 12) (s : State) : Answers s (execPauseFrame p s) :=
  Answers.when (Answers.next ((discard_keeps ..).after <| otherIn_keeps ..))

theorem execNonKftFrame_answers (p : Fin 12) (s : State) : Answers s (execNonKftFrame p s) :=
  Answers.next ((notKft_keeps ..).after <| otherIn_keeps ..)

theorem execLldpFrame_answers (p : Fin 12) (chassis : List Byte) (portId : Byte) (s : State) :
    Answers s (execLldpFrame p chassis portId s) :=
  Answers.when (Answers.next ((updPort_keeps ..).after <| otherIn_keeps ..))

theorem execDiscoveryFrame_answers (x : Rx) (s : State) : Answers s (execDiscoveryFrame x s) :=
  Answers.unless (Answers.ite (Answers.next ((discard_keeps ..).after <| (bump_keeps ..).after <|
    countFrame_keeps ..)) (Answers.ite (Answers.next ((discard_keeps ..).after <|
    countFrame_keeps ..)) (Answers.ite (Answers.next ((discard_keeps ..).after <| (bump_keeps ..).after <|
    countFrame_keeps ..)) (Answers.ite (Answers.next ((discard_keeps ..).after <|
    countFrame_keeps ..)) (Answers.ite (Answers.next ((updPort_keeps ..).after <|
    countFrame_keeps ..)) (Answers.next ((post_keeps ..).after <| (updPort_keeps ..).after <| countFrame_keeps ..)))))))

theorem execDiscoveryInterval_answers (p : Fin 12) (s : State) : Answers s (execDiscoveryInterval p s) :=
  Answers.when (Answers.next (sendDiscovery_keeps ..))

theorem execLldpInterval_answers (s : State) : Answers s (execLldpInterval s) :=
  Answers.next (Keeps.foldl _ (fun _ _ => Keeps.when (otherOut_keeps ..)) _ _)

theorem updPtp_keeps (s : State) (f : Ptp → Ptp) : Keeps s (updPtp s f) := Keeps.updated

theorem settleTime_keeps (s : State) : Keeps s (settleTime s) :=
  Keeps.update <| Keeps.after (Keeps.when (post_keeps ..)) <| updPtp_keeps ..

theorem execPtpSync_answers (p : Fin 12) (sequence : Word16) (rxTime : Nat) (s : State) :
    Answers s (execPtpSync p sequence rxTime s) :=
  Answers.ite (Answers.next ((updPtp_keeps ..).after <| otherIn_keeps ..)) (Answers.next (otherIn_keeps ..))

theorem execPtpFollowUp_answers (p : Fin 12) (sequence : Word16) (origin : Nat) (s : State) :
    Answers s (execPtpFollowUp p sequence origin s) :=
  Answers.ite (Answers.next ((settleTime_keeps ..).after <| (updPtp_keeps ..).after <|
    otherIn_keeps ..)) (Answers.next (otherIn_keeps ..))

theorem execPtpDelayReq_answers (p : Fin 12) (sequence : Word16) (rxTime : Nat) (s : State) :
    Answers s (execPtpDelayReq p sequence rxTime s) :=
  Answers.ite (Answers.next ((otherOut_keeps ..).after <| otherIn_keeps ..)) (Answers.next (otherIn_keeps ..))

theorem execPtpDelayResp_answers (p : Fin 12) (sequence : Word16) (rxTime : Nat) (s : State) :
    Answers s (execPtpDelayResp p sequence rxTime s) :=
  Answers.ite (Answers.next ((updPtp_keeps ..).after <| otherIn_keeps ..)) (Answers.next (otherIn_keeps ..))

theorem execPtpSyncInterval_answers (s : State) : Answers s (execPtpSyncInterval s) :=
  Answers.unless (Answers.next ((Keeps.foldl _
    (fun _ _ => Keeps.when (Keeps.ite (otherOut_keeps ..) ((otherOut_keeps ..).after <|
    otherOut_keeps ..))) _ _).after <| updPtp_keeps ..))

/-! ### Play sequencers -/

theorem issued_keeps (s : State) (w : Who) (p : PInstr) : Keeps s (issued s w p) := updSeq_keeps ..

theorem issue_answers (s : State) (unit : Nat) (want : State → PInstr → Bool) (work : State → Who → PInstr → State)
    (hwork : ∀ u a1 a2, Keeps u (work u a1 a2)) :
    Answers s (issue s unit want work) := by
  unfold issue
  split
  · exact Answers.same
  · exact Answers.when (Answers.next ((hwork ..).after <| issued_keeps ..))

theorem updFlight_keeps (s : State) (w : Who) (f : InFlight → InFlight) : Keeps s (updFlight s w f) := updSeq_keeps ..

theorem markFinished_keeps (s : State) (w : Who) : Keeps s (markFinished s w) := updFlight_keeps ..

theorem stop_keeps (s : State) (w : Who) : Keeps s (stop s w) := Keeps.unless Keeps.updated

theorem stopStream_keeps (s : State) (w : Who) : Keeps s (stopStream s w) := Keeps.updated

theorem faultAt_keeps (s : State) (w : Who) (tensor : Nat) (e : Skew) : Keeps s (faultAt s w tensor e) :=
  (stopStream_keeps ..).after <| (stop_keeps ..).after <| blockFault_keeps ..

theorem signalNamed_keeps (s : State) (p : PInstr) : Keeps s (signalNamed s p) :=
  Keeps.ite (applySignal_keeps ..) (Keeps.after (Keeps.unless (sendFrame_keeps ..)) <| Keeps.updated)

theorem sendSignal_keeps (s : State) (unit : Nat) (p : PInstr) : Keeps s (sendSignal s unit p) :=
  Keeps.unless (Keeps.ite (signalNamed_keeps ..) (applySignal_keeps ..))

theorem deliverFrom_keeps : ∀ (n : Nat) (s : State) (unit : Nat) (t : Stream), Keeps s (deliverFrom n s unit t)
  | 0, s, _, _ => Keeps.refl s
  | n + 1, s, unit, t => by
    unfold deliverFrom
    split
    · exact Keeps.refl s
    split
    · exact Keeps.refl s
    refine Keeps.when ((deliverFrom_keeps n _ unit t).after ?_)
    split
    · exact (sendSignal_keeps ..).after <| updSeq_keeps ..
    · exact updSeq_keeps ..

theorem deliver_keeps (s : State) (unit : Nat) (t : Stream) : Keeps s (deliver s unit t) := deliverFrom_keeps ..

theorem finishNow_keeps (s : State) (w : Who) : Keeps s (finishNow s w) := (deliver_keeps ..).after <| markFinished_keeps ..

theorem versionFault_keeps (s : State) (w : Who) (tensor epoch tag cond : Nat) :
    Keeps s (versionFault s w tensor epoch tag cond) :=
  (stop_keeps ..).after <| (raiseFault_keeps ..).after <| post_keeps ..

/-! ### Sources of instances -/

theorem askFor_keeps (s : State) (w : Who) (r : Nat × Nat) : Keeps s (askFor s w r) := by
  unfold askFor
  refine Keeps.foldl _ (fun _ _ => Keeps.after (Keeps.unless (accessFailed_keeps ..)) <| ?_) _ _
  split
  · exact memberUnreachable_keeps ..
  · exact Keeps.update <| enqueue_keeps ..

theorem chargeReads_keeps (s : State) (w : Who) (rs : List (Nat × Nat)) : Keeps s (chargeReads s w rs) :=
  Keeps.when ((markRebuilt_keeps ..).after <| Keeps.foldl _ (fun _ _ => chargeRead_keeps ..) _ _)

theorem askRemote_keeps (s : State) (w : Who) (missing : List (Nat × Nat)) : Keeps s (askRemote s w missing) :=
  Keeps.unless (Keeps.foldl _ (fun _ _ => askFor_keeps ..) _ _)

theorem withSources_keeps (s : State) (w : Who) (rs : List (Nat × Nat)) (k : State → State) (input : WorkIn)
    (hk : ∀ u, Keeps u (k u)) :
    Keeps s (withSources s w rs k input) := by
  unfold withSources
  split
  · exact accessFailed_keeps ..
  · exact Keeps.ite (Keeps.after (Keeps.unless (dropArrivals_keeps ..)) <| (hk ..).after <|
      (chargeReads_keeps ..).after Keeps.updated) (Keeps.ite (Keeps.unless (askRemote_keeps ..)) ((askRemote_keeps ..).after <|
      (Keeps.foldl _ (fun _ _ => bump_keeps ..) _ _).after Keeps.updated))

theorem checked_keeps (s : State) (w : Who) (stale : List (Nat × Byte)) (tried : List (Nat × Nat))
    (bad : Reader → Option (BlockDesc × Skew)) (work : Reader → State → State)
    (drop : Reader → BlockDesc → Nat → List (Nat × Byte) → List (Nat × Byte)) (input : WorkIn)
    (hwork : ∀ a0 u, Keeps u (work a0 u)) :
    Keeps s (checked s w stale tried bad work drop input) := by
  unfold checked
  dsimp only
  split
  · exact (hwork ..).after <| Keeps.unless (bump_keeps ..)
  · exact Keeps.ite (faultAt_keeps ..) (Keeps.update <| Keeps.unless (bump_keeps ..))

/-! ### Moves and checkpoints -/

theorem writeLines_keeps (s : State) (addr : Nat) (data : List Byte) : Keeps s (writeLines s addr data).1 := by
  unfold writeLines
  refine Keeps.foldl_fst _ (fun x l => ?_) _ (s, none)
  dsimp only
  split
  · exact Keeps.refl _
  · exact writeLocal_keeps ..

theorem moveHere_keeps (s : State) (w : Who) (d : MoveDesc) : Keeps s (moveHere s w d) := by
  have h := writeLines_keeps s d.dst (peek s w.unit d.src d.len)
  unfold moveHere
  dsimp only
  split
  · exact (accessFailed_keeps ..).after h
  · exact Keeps.ite (Keeps.update h) h

theorem moveWork_keeps (w : Who) (d : MoveDesc) (s : State) : Keeps s (moveWork w d s) := by
  unfold moveWork
  exact Keeps.unless <| Keeps.ite ((startBulkIn_keeps ..).after <| addWaiting_keeps ..) <|
    withSources_keeps _ _ _ _ _ fun _ =>
      Keeps.ite ((startBulkOut_from_keeps ..).after <| addWaiting_keeps ..) (moveHere_keeps ..)

theorem execMove_answers (unit : Nat) (s : State) : Answers s (execMove unit s) :=
  issue_answers _ _ _ _ (fun _ _ _ => moveWork_keeps ..)

theorem noteStored_keeps (s : State) (d : CkptDesc) (cs : List Nat) : Keeps s (noteStored s d cs) := noteWatch_keeps ..

theorem storeSegment_keeps (rd : Reader) (w : Who) (d : CkptDesc) (s : State) (i : Nat) : Keeps s (storeSegment rd w d s i) :=
  (bump_keeps ..).after <| (writeGlobal_keeps ..).after <| (writeGlobal_keeps ..).after <| noteStored_keeps ..

theorem noteNarrowed_keeps (w : Who) (d : CkptDesc) (xs : List Src) (s : State) (x : Nat × Encoded) :
    Keeps s (noteNarrowed w d xs s x) :=
  Keeps.after (Keeps.when ((post_keeps ..).after <| bump_keeps ..)) <| (bump_keeps ..).after <| bump_keeps ..

theorem storeNarrowed_keeps (rd : Reader) (w : Who) (d : CkptDesc) (s : State) : Keeps s (storeNarrowed rd w d s) :=
  (bump_keeps ..).after <| (Keeps.foldl _ (fun _ _ => noteNarrowed_keeps ..) _ _).after <| writeBlocksFull_keeps ..

theorem storeRun_keeps (w : Who) (d : CkptDesc) (s : State) : Keeps s (storeRun w d s) := by
  unfold storeRun
  dsimp only
  split
  · exact (bump_keeps ..).after <| (writeGlobal_keeps ..).after <| (noteStored_keeps ..).after <| bump_keeps ..
  · exact (Keeps.foldl _ (fun _ _ => storeSegment_keeps ..) _ _).after <| bump_keeps ..
  · exact (storeNarrowed_keeps ..).after <| bump_keeps ..

theorem loadSegments_keeps (w : Who) (d : CkptDesc) (rd : Reader) (s : State) : Keeps s (loadSegments w d rd s) := by
  unfold loadSegments
  refine Keeps.foldl _ (fun _ _ => ?_) _ _
  split
  · exact writeGlobal_keeps ..
  · exact Keeps.refl _

theorem loadRun_keeps (w : Who) (d : CkptDesc) (stale : List (Nat × Byte)) (tried : List (Nat × Nat)) (s : State) :
    Keeps s (loadRun w d stale tried s) := by
  unfold loadRun
  split
  · exact writeGlobal_keeps ..
  · exact checked_keeps _ _ _ _ _ _ _ _ (fun _ _ => loadSegments_keeps ..)
  · exact checked_keeps _ _ _ _ _ _ _ _ (fun _ _ => writeGlobal_keeps ..)

theorem ckptWork_keeps (w : Who) (load : Bool) (d : CkptDesc) (stale : List (Nat × Byte)) (tried : List (Nat × Nat))
    (s : State) :
    Keeps s (ckptWork w load d stale tried s) :=
  withSources_keeps _ _ _ _ _ (fun _ => Keeps.ite (loadRun_keeps ..) (storeRun_keeps ..))

theorem execCkptStore_answers (unit : Nat) (s : State) : Answers s (execCkptStore unit s) :=
  issue_answers _ _ _ _ (fun _ _ _ => ckptWork_keeps ..)

theorem execCkptLoad_answers (unit : Nat) (s : State) (stale : List (Nat × Byte)) : Answers s (execCkptLoad unit s stale) :=
  issue_answers _ _ _ _ (fun _ _ _ => ckptWork_keeps ..)

/-! ### Ingest -/

theorem queueSample_keeps (s : State) (igd : Nat) (x : Sample) : Keeps s (queueSample s igd x) := Keeps.unless Keeps.updated

theorem queueStep_keeps (s : State) (slot : Nat) (d : IngestDesc) (step : Word64) : Keeps s (queueStep s slot d step) :=
  Keeps.foldl _ (fun _ _ => queueSample_keeps ..) _ _

theorem queueMissing_keeps (s : State) : Keeps s (queueMissing s) := by
  unfold queueMissing
  split
  · exact Keeps.refl _
  · exact Keeps.foldl _ (fun _ _ => Keeps.foldl _ (fun _ _ => queueStep_keeps ..) _ _) _ _

theorem releaseSlots_keeps (s : State) : Keeps s (releaseSlots s) := Keeps.updated

theorem ingestWork_keeps (s : State) (w : Who) (p : PInstr) : Keeps s (ingestWork s w p) :=
  (finishNow_keeps ..).after <| queueStep_keeps ..

theorem fetchRange_keeps (s : State) (igd e addr n : Nat) (bulk : Bool) : Keeps s (fetchRange s igd e addr n bulk) := by
  unfold fetchRange
  split
  · exact Keeps.refl _
  · exact fetchFailed_keeps ..
  · split
    · exact Keeps.refl _
    · split
      · exact startBulkIn_keeps ..
      · refine Keeps.after (Keeps.unless (fetchFailed_keeps ..)) <| ?_
        split
        · exact memberUnreachable_keeps ..
        · exact Keeps.update <| enqueue_keeps ..

theorem continueFetch_keeps (s : State) (igd e : Nat) : Keeps s (continueFetch s igd e) := by
  unfold continueFetch
  split
  · exact Keeps.refl _
  · split
    · exact Keeps.refl _
    · split
      · exact Keeps.refl _
      · dsimp only
        split
        · exact fetchRange_keeps ..
        · exact Keeps.unless (fetchRange_keeps ..)

theorem execReadResponse_answers (x : Rx) (s : State) : Answers s (execReadResponse x s) := by
  unfold execReadResponse
  refine Answers.next (arrive_keeps _ _ _ _ (fun _ _ => ?_))
  dsimp only
  split
  · exact (continueFetch_keeps ..).after <| takeResponse_keeps ..
  · exact takeResponse_keeps ..

theorem execSampleDecodeStart_answers (igd : Fin 2) (s : State) : Answers s (execSampleDecodeStart igd s) := by
  unfold execSampleDecodeStart
  dsimp only
  split
  · exact Answers.unless (Answers.next ((continueFetch_keeps ..).after Keeps.updated))
  · exact Answers.same

theorem execBitstreamFetchRetry_answers (igd : Fin 2) (engine : Fin 16) (s : State) :
    Answers s (execBitstreamFetchRetry igd engine s) :=
  Answers.when (Answers.next ((continueFetch_keeps ..).after <| (bump_keeps ..).after Keeps.updated))

theorem serveWaiting_keeps (s : State) : Keeps s (serveWaiting s) := by
  unfold serveWaiting
  refine (Keeps.foldl _ (fun _ _ => ?_) _ _).after Keeps.updated
  split
  · exact Keeps.ite (serveBulkRead_keeps ..) (serveRead_keeps ..)
  · exact windowRead_keeps ..
  · exact Keeps.refl _

theorem finishSample_keeps (s : State) (igd e : Nat) (p : Program) (d : IngestDesc) (x : Sample) (entry bits : List Byte) :
    Keeps s (finishSample s igd e p d x entry bits) := by
  unfold finishSample
  exact (serveWaiting_keeps ..).after <|
    Keeps.after (Keeps.ite (bump_keeps ..) ((post_keeps ..).after <| bump_keeps ..)) <| (bump_keeps ..).after <|
    (bump_keeps ..).after <| Keeps.after (Keeps.when (bump_keeps ..)) <| (dropArrivals_keeps ..).after <|
    Keeps.stores (fun m => m.1) (fun m => m.2.1) (fun m => wf_writeBytes _ _ (wf_writeBytes _ _ m.2.2)) <|
    (chargeAt_keeps ..).after <| chargeAt_keeps ..

theorem missedFetch_keeps (s : State) (igd e addr n : Nat) : Keeps s (missedFetch s igd e addr n) := by
  unfold missedFetch
  split
  · exact fetchFailed_keeps ..
  · exact Keeps.refl _

theorem execSampleComplete_answers (igd : Fin 2) (engine : Fin 16) (s : State) (busy : Nat) :
    Answers s (execSampleComplete igd engine s busy) := by
  unfold execSampleComplete
  dsimp only
  split
  · exact Answers.same
  · split
    · exact Answers.same
    · split
      · exact Answers.same
      · split
        · exact Answers.next (missedFetch_keeps ..)
        · split
          · exact Answers.next ((finishSample_keeps ..).after <| bump_keeps ..)
          · split
            · exact Answers.next (missedFetch_keeps ..)
            · exact Answers.next ((finishSample_keeps ..).after <| bump_keeps ..)

theorem chargeCatalogues_keeps (s : State) : Keeps s (chargeCatalogues s) := by
  unfold chargeCatalogues
  split
  · exact Keeps.refl _
  · exact Keeps.foldl _ (fun _ _ => chargeAt_keeps ..) _ _

/-! ### Forward and Backward Tiles -/

theorem raiseFlags_keeps (s : State) (unit : Nat) (f : BitVec 5) : Keeps s (raiseFlags s unit f) := updSeq_keeps ..

theorem writeScalar_keeps (s : State) (w : Who) (tensor : Nat) (f : Fmt) (rnd : Rnd) (addr : Nat) (x : Src) :
    Keeps s (writeScalar s w tensor f rnd addr x) :=
  (noteWatch_keeps ..).after <| (bump_keeps ..).after <| writeGlobal_keeps ..

theorem writeG16_keeps (s : State) (w : Who) (tensor index : Nat) (x : Src) : Keeps s (writeG16 s w tensor index x) := by
  unfold writeG16
  split
  · exact Keeps.refl _
  · exact (noteWatch_keeps ..).after <| (bump_keeps ..).after <| (writeGlobal_keeps ..).after <| writeGlobal_keeps ..

theorem encodeNow_keeps (s : State) (h : HeldBlock) : Keeps s (encodeNow s h) :=
  Keeps.update <| Keeps.after (Keeps.when (raiseFlags_keeps ..)) <| (noteBlock_keeps ..).after <|
    Keeps.after (Keeps.unless (writeGlobal_keeps ..)) <| Keeps.after (Keeps.unless (writeGlobal_keeps ..)) <|
    Keeps.after (Keeps.unless (writeGlobal_keeps ..)) <| writeGlobal_keeps ..

theorem drainHeld_keeps : ∀ (n : Nat) (s : State), Keeps s (drainHeld n s)
  | 0, s => Keeps.refl s
  | n + 1, s => by
    unfold drainHeld
    split
    · exact Keeps.refl s
    · exact (drainHeld_keeps n _).after <| (updFlight_keeps ..).after <| (encodeNow_keeps ..).after Keeps.updated

theorem putBlock_keeps (s : State) (h : HeldBlock) : Keeps s (putBlock s h) :=
  Keeps.ite ((drainHeld_keeps ..).after <| encodeNow_keeps ..) ((updFlight_keeps ..).after Keeps.updated)

theorem forceHeld_keeps (s : State) : Keeps s (forceHeld s) :=
  (Keeps.foldl _ (fun _ _ => (deliver_keeps ..).after <| (updFlight_keeps ..).after <|
    encodeNow_keeps ..) _ _).after Keeps.updated

theorem writeRects_keeps (s : State) (w : Who) (rd : Reader) (v : PassEnv) (rs : List Rect) :
    Keeps s (writeRects s w rd v rs) := by
  unfold writeRects
  dsimp only
  split
  · exact (Keeps.foldl _ (fun _ _ => writeGlobal_keeps ..) _ _).after <| (noteWatch_keeps ..).after <| bump_keeps ..
  · exact (Keeps.foldl _ (fun _ _ => putBlock_keeps ..) _ _).after <| (noteWatch_keeps ..).after <| bump_keeps ..
  · exact (Keeps.foldl _ (fun _ _ => writeG16_keeps ..) _ _).after <| (noteWatch_keeps ..).after <| bump_keeps ..
  · exact (Keeps.foldl _ (fun _ _ => writeScalar_keeps ..) _ _).after <| (noteWatch_keeps ..).after <| bump_keeps ..

theorem countPass_keeps (s : State) (unit : Nat) (rd : Reader) (vs : List (PassEnv × Rect)) (stall idle : Nat) :
    Keeps s (countPass s unit rd vs stall idle) :=
  (bump_keeps ..).after <| (bump_keeps ..).after <| (bump_keeps ..).after <| (bump_keeps ..).after <| (bump_keeps ..).after <|
    updSeq_keeps ..

theorem withOperands_keeps (s : State) (w : Who) (v : PassEnv) (rs : List Rect) (k : State → State) (input : WorkIn)
    (hk : ∀ u, Keeps u (k u)) :
    Keeps s (withOperands s w v rs k input) := by
  unfold withOperands
  split
  · exact accessFailed_keeps ..
  · exact withSources_keeps _ _ _ _ _ (fun _ => hk ..)

theorem releaseInst_keeps (s : State) (w : Who) (rows : List Nat) (left : Bool) : Keeps s (releaseInst s w rows left) := by
  unfold releaseInst
  split
  · exact Keeps.refl _
  · split
    · exact versionFault_keeps ..
    · split
      · exact Keeps.refl _
      · refine (updFlight_keeps ..).after ?_
        split
        · split
          · split
            · exact Keeps.refl _
            · split
              · exact accessFailed_keeps ..
              · exact writeRects_keeps ..
          · split
            · exact Keeps.refl _
            · split
              · exact accessFailed_keeps ..
              · exact writeRects_keeps ..
        · split
          · exact Keeps.refl _
          · split
            · exact accessFailed_keeps ..
            · exact writeRects_keeps ..

theorem countGated_keeps (s : State) (unit : Nat) (vs : List (PassEnv × Rect)) (stall idle : Nat) :
    Keeps s (countGated s unit vs stall idle) :=
  (bump_keeps ..).after <| (bump_keeps ..).after <| (bump_keeps ..).after <| countPass_keeps ..

theorem setGate_keeps (s : State) (unit group : Nat) (rows : List GateRow) : Keeps s (setGate s unit group rows) :=
  Keeps.updated

theorem releaseRows_keeps (s : State) (unit group : Nat) (rows : List GateRow) (time : PassTime) :
    Keeps s (releaseRows s unit group rows time).1 := by
  unfold releaseRows
  split
  · exact Keeps.refl _
  · exact (Keeps.foldl _ (fun _ _ => releaseInst_keeps ..) _ _).after <|
      (Keeps.foldl_fst _ (fun _ _ => countGated_keeps ..) _ _).after <| setGate_keeps ..

theorem joinGate_keeps (s : State) (unit group slot : Nat) (rows : List GateRow) :
    Keeps s (joinGate s unit group slot rows) := by
  unfold joinGate
  dsimp only
  split
  · exact setGate_keeps ..
  · exact Keeps.updated

theorem settleGates_keeps : ∀ (n unit : Nat) (all : Bool) (r : State × PassTime), Keeps r.1 (settleGates n unit all r).1
  | 0, _, _, r => Keeps.refl r.1
  | n + 1, unit, all, (s, time) => by
    unfold settleGates
    split
    · exact (settleGates_keeps n unit all _).after <| releaseRows_keeps ..
    split
    · exact (settleGates_keeps n unit all _).after <| (joinGate_keeps ..).after Keeps.updated
    · exact Keeps.refl _

theorem settleGate_keeps (s : State) (unit : Nat) (all : Bool) (time : PassTime) : Keeps s (settleGate s unit all time) := by
  have h := settleGates_keeps (gateRounds s unit) unit all (s, time)
  exact Keeps.ite ((dropArrivals_keeps ..).after h) h

theorem enterGate_keeps (s : State) (w : Who) (slot : Nat) (rows : List Nat) (time : PassTime) :
    Keeps s (enterGate s w slot rows time) :=
  (settleGate_keeps ..).after <| Keeps.after (Keeps.ite (joinGate_keeps ..) Keeps.updated) <| updFlight_keeps ..

theorem reach_keeps (s : State) (t : Nat) : Keeps s (reach s t) := Keeps.updated

theorem releaseGroup_keeps (s : State) (unit : Nat) (g : GateGroup) (time : PassTime) : Keeps s (releaseGroup s unit g time) :=
  (settleGate_keeps ..).after <| releaseRows_keeps ..

theorem execFillGateWaitLimit_answers (unit group : Nat) (s : State) (time : PassTime) :
    Answers s (execFillGateWaitLimit unit group s time) := by
  unfold execFillGateWaitLimit
  split
  · exact Answers.same
  · exact Answers.next ((releaseGroup_keeps ..).after <| reach_keeps ..)

theorem execFillGateFlushPoint_answers (unit : Nat) (s : State) (group : Nat) (time : PassTime) :
    Answers s (execFillGateFlushPoint unit s group time) := by
  unfold execFillGateFlushPoint
  split
  · exact Answers.same
  · exact Answers.next ((releaseGroup_keeps ..).after <| reach_keeps ..)

theorem flushAllGates_keeps (s : State) : Keeps s (flushAllGates s) := Keeps.foldl _ (fun _ _ => settleGate_keeps ..) _ _

theorem noteReads_keeps (s : State) (unit : Nat) (v : PassEnv) (rs : List Rect) : Keeps s (noteReads s unit v rs) :=
  Keeps.foldl _ (fun _ _ => noteRead_keeps ..) _ _

theorem runPasses_keeps (w : Who) (v : PassEnv) (i : PInstr) (time : PassTime) (rd : Reader) (s : State) :
    Keeps s (runPasses w v i time rd s) := by
  unfold runPasses
  dsimp only
  split
  · exact (stopStream_keeps ..).after <| (stop_keeps ..).after <| (blockFault_keeps ..).after <| noteReads_keeps ..
  · exact Keeps.after (Keeps.when (enterGate_keeps ..)) <| (writeRects_keeps ..).after <|
      (Keeps.foldl _ (fun _ _ => countPass_keeps ..) _ _).after <| noteReads_keeps ..

theorem passWork_keeps (s : State) (w : Who) (i : PInstr) (input : WorkIn) (tried : List (Nat × Nat)) :
    Keeps s (passWork s w i input tried) := by
  unfold passWork
  split
  · exact versionFault_keeps ..
  · exact withOperands_keeps _ _ _ _ _ _ (fun _ => checked_keeps _ _ _ _ _ _ _ _ (fun _ _ => runPasses_keeps ..))

theorem execPass_answers (unit : Nat) (stale : List (Nat × Byte)) (s : State) (time : PassTime) :
    Answers s (execPass unit stale s time) :=
  issue_answers _ _ _ _ (fun _ _ _ => passWork_keeps ..)

/-! ### Row Engines -/

theorem notePlace_keeps (s : State) (unit n : Nat) (x : BlockDesc × Nat) : Keeps s (notePlace s unit n x) := noteRead_keeps ..

theorem recordFor_keeps (s : State) (w : Who) (d : RowDesc) (lost : List Nat) (row : Nat) (rebuilt : Val × Val) :
    Keeps s (recordFor s w d lost row rebuilt).1 := by
  unfold recordFor
  split
  · exact bump_keeps ..
  · dsimp only
    split
    · exact Keeps.updated
    · exact (bump_keeps ..).after Keeps.updated

theorem releaseRecords_keeps (s : State) : Keeps s (releaseRecords s) := Keeps.updated

theorem keepRecord_keeps (s : State) (w : Who) (d : RowDesc) (row : Nat) (r : Val × Val) : Keeps s (keepRecord s w d row r) :=
  Keeps.when Keeps.updated

theorem writeRow_keeps (s : State) (w : Who) (d : RowDesc) (row : Nat) (vs : List Val) : Keeps s (writeRow s w d row vs) :=
  Keeps.foldl _ (fun _ _ => writeScalar_keeps ..) _ _

theorem fillRow_keeps (s : State) (w : Who) (d : RowDesc) (row : Nat) (v : Val) : Keeps s (fillRow s w d row v) :=
  writeRow_keeps ..

theorem softForward_keeps (rd : Reader) (w : Who) (d : RowDesc) (s : State) (row : Nat) : Keeps s (softForward rd w d s row) :=
  Keeps.after (Keeps.ite ((fillRow_keeps ..).after <| bump_keeps ..) (Keeps.ite ((fillRow_keeps ..).after <|
    bump_keeps ..) (writeRow_keeps ..))) <| (keepRecord_keeps ..).after <| bump_keeps ..

theorem noteBackward_keeps (s : State) (w : Who) (nan : Bool) (vs : List Val) : Keeps s (noteBackward s w nan vs) :=
  Keeps.when (bump_keeps ..)

theorem softBackward_keeps (lost : List Nat) (rd : Reader) (w : Who) (d : RowDesc) (s : State) (row : Nat) :
    Keeps s (softBackward lost rd w d s row) := by
  unfold softBackward
  extract_lets xs dy ms
  have h := (recordFor_keeps _ w d lost row (softRecord xs ms)).after <| bump_keeps s 0x0701 w.unit noTensor 1
  split
  next u m sum e =>
  have hu := (noteBackward_keeps u w m.isNan dy).after <| h.of_fst e
  exact Keeps.ite ((fillRow_keeps ..).after hu) <| Keeps.ite ((fillRow_keeps ..).after <| (bump_keeps ..).after hu)
    ((writeRow_keeps ..).after hu)

theorem normForward_keeps (rms : Bool) (rd : Reader) (w : Who) (d : RowDesc) (s : State) (row : Nat) :
    Keeps s (normForward rms rd w d s row) :=
  Keeps.after (Keeps.ite ((fillRow_keeps ..).after <| bump_keeps ..) (writeRow_keeps ..)) <| (keepRecord_keeps ..).after <|
    bump_keeps ..

theorem normBackward_keeps (rms : Bool) (lost : List Nat) (rd : Reader) (w : Who) (d : RowDesc) (st : State × List Acc)
    (row : Nat) :
    Keeps st.1 (normBackward rms lost rd w d st row).1 := by
  obtain ⟨s, accs⟩ := st
  unfold normBackward
  exact (writeRow_keeps ..).after <| (noteBackward_keeps ..).after <| (recordFor_keeps ..).after <| bump_keeps ..

theorem putDraw_keeps (s : State) (w : Who) (d : RowDesc) (row i : Nat) : Keeps s (putDraw s w d row i) :=
  (noteWatch_keeps ..).after <| writeGlobal_keeps ..

theorem drawOne_keeps (rd : Reader) (w : Who) (d : RowDesc) (s : State) (row : Nat) : Keeps s (drawOne rd w d s row) := by
  unfold drawOne
  dsimp only
  split
  · exact (putDraw_keeps ..).after <| bump_keeps ..
  · exact (putDraw_keeps ..).after <| (post_keeps ..).after <| (bump_keeps ..).after <| bump_keeps ..

theorem eachRow_keeps (f : Reader → Who → RowDesc → State → Nat → State) (rd : Reader) (w : Who) (d : RowDesc) (s : State)
    (hf : ∀ a0 a1 a2 u a4, Keeps u (f a0 a1 a2 u a4)) :
    Keeps s (eachRow f rd w d s) :=
  Keeps.foldl _ (fun _ _ => hf ..) _ _

theorem normBackwardAll_keeps (rms : Bool) (lost : List Nat) (rd : Reader) (w : Who) (d : RowDesc) (s : State) :
    Keeps s (normBackwardAll rms lost rd w d s) := by
  unfold normBackwardAll
  dsimp only
  split
  · exact (stopStream_keeps ..).after <| (stop_keeps ..).after <| blockFault_keeps ..
  · have h := Keeps.foldl_fst _ (normBackward_keeps rms lost rd w d) (List.range d.rows) (s, paramAcc rd d)
    exact Keeps.ite h ((writeGlobal_keeps ..).after h)

theorem rowRun_keeps (op : Nat) (lost : List Nat) (rd : Reader) (w : Who) (d : RowDesc) (s : State) :
    Keeps s (rowRun op lost rd w d s) := by
  unfold rowRun
  split
  · exact eachRow_keeps _ _ _ _ _ (fun _ _ _ _ _ => softForward_keeps ..)
  · exact eachRow_keeps _ _ _ _ _ (fun _ _ _ _ _ => softBackward_keeps ..)
  · exact eachRow_keeps _ _ _ _ _ (fun _ _ _ _ _ => normForward_keeps ..)
  · exact normBackwardAll_keeps ..
  · exact eachRow_keeps _ _ _ _ _ (fun _ _ _ _ _ => normForward_keeps ..)
  · exact normBackwardAll_keeps ..
  · exact eachRow_keeps _ _ _ _ _ (fun _ _ _ _ _ => drawOne_keeps ..)

theorem noteRowReads_keeps (s : State) (w : Who) (d : RowDesc) : Keeps s (noteRowReads s w d) := by
  unfold noteRowReads
  split
  · exact notePlace_keeps ..
  · exact Keeps.refl _

theorem rowWork_keeps (s : State) (w : Who) (d : RowDesc) (input : WorkIn) (tried : List (Nat × Nat)) :
    Keeps s (rowWork s w d input tried) :=
  withSources_keeps _ _ _ _ _ (fun _ => checked_keeps _ _ _ _ _ _ _ _ (fun _ _ => (rowRun_keeps ..).after <|
    noteRowReads_keeps ..))

theorem rowIssue_answers (op unit : Nat) (lost : List Nat) (s : State) : Answers s (rowIssue op unit lost s) :=
  issue_answers _ _ _ _ (fun _ _ _ => rowWork_keeps ..)

theorem execRowSoftmaxForward_answers (unit : Nat) (s : State) : Answers s (execRowSoftmaxForward unit s) := rowIssue_answers ..

theorem execRowSoftmaxBackward_answers (unit : Nat) (s : State) (lost : List Nat) :
    Answers s (execRowSoftmaxBackward unit s lost) :=
  rowIssue_answers ..

theorem execRowLayerNormForward_answers (unit : Nat) (s : State) : Answers s (execRowLayerNormForward unit s) :=
  rowIssue_answers ..

theorem execRowLayerNormBackward_answers (unit : Nat) (s : State) (lost : List Nat) :
    Answers s (execRowLayerNormBackward unit s lost) :=
  rowIssue_answers ..

theorem execRowRmsNormForward_answers (unit : Nat) (s : State) : Answers s (execRowRmsNormForward unit s) := rowIssue_answers ..

theorem execRowRmsNormBackward_answers (unit : Nat) (s : State) (lost : List Nat) :
    Answers s (execRowRmsNormBackward unit s lost) :=
  rowIssue_answers ..

theorem execRowCategoricalDraw_answers (unit : Nat) (s : State) : Answers s (execRowCategoricalDraw unit s) :=
  rowIssue_answers ..

/-! ### Scales, monitors and the coach -/

theorem updTracker_keeps (s : State) (tensor : Nat) (f : Tracker → Tracker) : Keeps s (updTracker s tensor f) := Keeps.updated

theorem halve_keeps (s : State) (d : TrackDesc) : Keeps s (halve s d) := by
  unfold halve
  split
  · exact Keeps.refl _
  · exact Keeps.when (Keeps.after (Keeps.when (post_keeps ..)) <| updTracker_keeps ..)

theorem execHeadroomHalving_answers (tensor : Nat) (s : State) : Answers s (execHeadroomHalving tensor s) := by
  unfold execHeadroomHalving
  split
  · exact Answers.same
  · exact Answers.next (halve_keeps ..)

theorem setBumps_keeps (s : State) (d : TrackDesc) (bs : List Byte) : Keeps s (setBumps s d bs) :=
  (updTracker_keeps ..).after <| poke_keeps ..

theorem trackStepEnd_keeps (s : State) (d : TrackDesc) : Keeps s (trackStepEnd s d) := by
  unfold trackStepEnd
  dsimp only
  split
  · exact halve_keeps ..
  · exact (updTracker_keeps ..).after <| Keeps.after (Keeps.when (setBumps_keeps ..)) <| halve_keeps ..

theorem updLayer_keeps (s : State) (layer : Nat) (f : LayerState → LayerState) : Keeps s (updLayer s layer f) := Keeps.updated

theorem raiseStall_keeps (s : State) (d : LayerDesc) : Keeps s (raiseStall s d) := by
  unfold raiseStall
  split
  · exact Keeps.refl _
  · exact Keeps.when ((post_keeps ..).after <| updLayer_keeps ..)

theorem execStallAlarm_answers (layer : Nat) (s : State) : Answers s (execStallAlarm layer s) := by
  unfold execStallAlarm
  split
  · exact Answers.same
  · exact Answers.next (raiseStall_keeps ..)

theorem applyBounds_keeps (s : State) (d : LayerDesc) : Keeps s (applyBounds s d) := by
  unfold applyBounds
  split
  · exact Keeps.refl _
  · split
    · exact Keeps.refl _
    · exact (post_keeps ..).after <| updLayer_keeps ..

theorem layerHuddle_keeps (s : State) (d : LayerDesc) (t : LayerStat) : Keeps s (layerHuddle s d t) := by
  unfold layerHuddle
  dsimp only
  split
  · exact applyBounds_keeps ..
  · exact (updLayer_keeps ..).after <| Keeps.after (Keeps.unless (poke_keeps ..)) <|
      Keeps.after (Keeps.unless (poke_keeps ..)) <| Keeps.after (Keeps.when (post_keeps ..)) <|
      Keeps.after (Keeps.when (post_keeps ..)) <| Keeps.after (Keeps.when (post_keeps ..)) <| applyBounds_keeps ..

theorem watchEntry_keeps (s : State) (w : Watch) : Keeps s (watchEntry s w) :=
  (Keeps.foldl _ (fun _ _ => post_keeps ..) _ _).after <| Keeps.unless (poke_keeps ..)

theorem watchHuddle_keeps (s : State) : Keeps s (watchHuddle s) :=
  Keeps.update <| Keeps.foldl _ (fun _ _ => watchEntry_keeps ..) _ _

theorem clearStepCounts_keeps (s : State) : Keeps s (clearStepCounts s) := Keeps.updated

theorem withShares_keeps (s : State) (f : LayerState → Nat × Nat → LayerState) : Keeps s (withShares s f) := by
  unfold withShares
  split
  · exact Keeps.refl _
  · exact Keeps.foldl _ (fun _ _ => updLayer_keeps ..) _ _

theorem statsTaken_keeps (s : State) : Keeps s (statsTaken s) := (withShares_keeps ..).after Keeps.updated

theorem lateShares_keeps (s : State) : Keeps s (lateShares s) := withShares_keeps ..

theorem scalesHuddle_keeps (s : State) (h : Huddle) : Keeps s (scalesHuddle s h) := by
  unfold scalesHuddle
  split
  · exact Keeps.refl _
  · refine (watchHuddle_keeps ..).after <| (Keeps.foldl _ (fun _ _ => layerHuddle_keeps ..) _ _).after <|
      Keeps.foldl _ (fun _ _ => ?_) _ _
    dsimp only
    split
    · exact Keeps.after (Keeps.when (post_keeps ..)) <| updTracker_keeps ..
    · exact updTracker_keeps ..

theorem scalesStepEnd_keeps (s : State) : Keeps s (scalesStepEnd s) := by
  unfold scalesStepEnd
  split
  · exact Keeps.refl _
  · exact (Keeps.foldl _ (fun _ _ => trackStepEnd_keeps ..) _ _).after <| Keeps.foldl _ (fun _ _ => raiseStall_keeps ..) _ _

/-! ### Vector Engines -/

theorem putElement_keeps (s : State) (w : Who) (op : VeOp) (addr : Nat) (c : Conv) (fl : BitVec 5) :
    Keeps s (putElement s w op addr c fl) :=
  (raiseFlags_keeps ..).after <| (noteWatch_keeps ..).after <| (bump_keeps ..).after <| writeGlobal_keeps ..

theorem veElementwise_keeps (rd : Reader) (w : Who) (op : VeOp) (s : State) : Keeps s (veElementwise rd w op s) :=
  Keeps.foldl _ (fun _ _ => putElement_keeps ..) _ _

theorem veToInt_keeps (rd : Reader) (w : Who) (op : VeOp) (s : State) : Keeps s (veToInt rd w op s) :=
  Keeps.foldl _ (fun _ _ => (raiseFlags_keeps ..).after <| (noteWatch_keeps ..).after <| writeGlobal_keeps ..) _ _

theorem veFromInt_keeps (rd : Reader) (w : Who) (op : VeOp) (s : State) : Keeps s (veFromInt rd w op s) :=
  Keeps.foldl _ (fun _ _ => putElement_keeps ..) _ _

theorem veToG16_keeps (rd : Reader) (w : Who) (op : VeOp) (s : State) : Keeps s (veToG16 rd w op s) :=
  Keeps.foldl _ (fun _ _ => (raiseFlags_keeps ..).after <| writeG16_keeps ..) _ _

theorem veFromBlock_keeps (rd : Reader) (w : Who) (op : VeOp) (s : State) : Keeps s (veFromBlock rd w op s) :=
  (Keeps.foldl _ (fun _ _ => putElement_keeps ..) _ _).after <| noteRead_keeps ..

theorem veToBlock_keeps (rd : Reader) (w : Who) (op : VeOp) (s : State) : Keeps s (veToBlock rd w op s) :=
  (Keeps.foldl _ (fun _ _ => putBlock_keeps ..) _ _).after <| raiseFlags_keeps ..

theorem putB32_keeps (s : State) (w : Who) (tensor addr code : Nat) : Keeps s (putB32 s w tensor addr code) :=
  (noteWatch_keeps ..).after <| writeGlobal_keeps ..

theorem veSum_keeps (rd : Reader) (w : Who) (op : VeOp) (s : State) : Keeps s (veSum rd w op s) :=
  (raiseFlags_keeps ..).after <| putB32_keeps ..

theorem veFromCarry_keeps (rd : Reader) (w : Who) (op : VeOp) (s : State) : Keeps s (veFromCarry rd w op s) := by
  unfold veFromCarry
  split
  · exact (stopStream_keeps ..).after <| (stop_keeps ..).after <| blockFault_keeps ..
  · exact Keeps.foldl _ (fun _ _ => (raiseFlags_keeps ..).after <| putB32_keeps ..) _ _

theorem veTieSum_keeps (rd : Reader) (w : Who) (op : VeOp) (s : State) : Keeps s (veTieSum rd w op s) := by
  unfold veTieSum
  split
  · exact Keeps.refl _
  · dsimp only
    split
    · exact Keeps.refl _
    · exact (raiseFlags_keeps ..).after <| (writeGlobal_keeps ..).after <|
        Keeps.foldl _ (fun _ _ => (raiseFlags_keeps ..).after <| putB32_keeps ..) _ _

theorem veReadFlags_keeps (w : Who) (op : VeOp) (s : State) : Keeps s (veReadFlags w op s) :=
  (updSeq_keeps ..).after <| writeGlobal_keeps ..

theorem notePlaces_keeps (w : Who) (op : VeOp) (s : State) : Keeps s (notePlaces w op s) :=
  Keeps.foldl _ (fun _ _ => notePlace_keeps ..) _ _

theorem veRun_keeps (w : Who) (op : VeOp) (rd : Reader) (s : State) : Keeps s (veRun w op rd s) := by
  unfold veRun
  dsimp only
  split
  · exact (veToInt_keeps ..).after <| notePlaces_keeps ..
  · exact (veFromInt_keeps ..).after <| notePlaces_keeps ..
  · exact (veToG16_keeps ..).after <| notePlaces_keeps ..
  · exact (veFromBlock_keeps ..).after <| notePlaces_keeps ..
  · exact (veToBlock_keeps ..).after <| notePlaces_keeps ..
  · exact (veSum_keeps ..).after <| notePlaces_keeps ..
  · exact (veTieSum_keeps ..).after <| notePlaces_keeps ..
  · exact (veFromCarry_keeps ..).after <| notePlaces_keeps ..
  · exact (veReadFlags_keeps ..).after <| notePlaces_keeps ..
  · exact (veElementwise_keeps ..).after <| notePlaces_keeps ..

theorem veWork_keeps (w : Who) (op : VeOp) (stale : List (Nat × Byte)) (tried : List (Nat × Nat)) (s : State) :
    Keeps s (veWork w op stale tried s) :=
  withSources_keeps _ _ _ _ _ (fun _ => checked_keeps _ _ _ _ _ _ _ _ (fun _ _ => veRun_keeps ..))

theorem veInstr_keeps (s : State) (w : Who) (i : PInstr) (stale : List (Nat × Byte)) (tried : List (Nat × Nat)) :
    Keeps s (veInstr s w i stale tried) := by
  unfold veInstr
  split
  · exact veWork_keeps ..
  · exact Keeps.refl _

theorem execVeOperation_answers (unit : Nat) (stale : List (Nat × Byte)) (s : State) :
    Answers s (execVeOperation unit stale s) :=
  issue_answers _ _ _ _ (fun _ _ _ => veInstr_keeps ..)

theorem execVeFlagRead_answers (td : Fin 8) (ve : Fin 12) (s : State) : Answers s (execVeFlagRead td ve s) :=
  issue_answers _ _ _ _ (fun _ _ _ => veInstr_keeps ..)

/-! ### Updates and versions -/

theorem updVersion_keeps (s : State) (record : Nat) (f : VState → VState) : Keeps s (updVersion s record f) := Keeps.updated

theorem startAway_keeps (s : State) (record : Nat) : Keeps s (startAway s record) := by
  unfold startAway
  split
  · exact Keeps.when (updVersion_keeps ..)
  · exact Keeps.refl _

theorem execAwaySlotWriteStart_answers (slot : Nat) (s : State) : Answers s (execAwaySlotWriteStart slot s) :=
  Answers.when (Answers.next (startAway_keeps ..))

theorem swapSlots_keeps (s : State) (record : Nat) : Keeps s (swapSlots s record) := by
  unfold swapSlots
  split
  · dsimp only
    split
    · split
      · exact (deliver_keeps ..).after <| (updFlight_keeps ..).after <| (applySignal_keeps ..).after <| updVersion_keeps ..
      · exact (applySignal_keeps ..).after <| updVersion_keeps ..
    · exact Keeps.refl _
  · exact Keeps.refl _

theorem noteSpans_keeps (s : State) (w : Who) (record : Nat) (spans : List Nat) : Keeps s (noteSpans s w record spans) := by
  unfold noteSpans
  split
  · exact Keeps.after (Keeps.when (updFlight_keeps ..)) <| updVersion_keeps ..
  · exact Keeps.refl _

theorem writeCopy_keeps (s : State) (w : Who) (p : Program) (record i fmt : Nat) (step : Word64) (spans : List Nat) :
    Keeps s (writeCopy s w p record i fmt step spans).2 := by
  unfold writeCopy
  split
  · exact Keeps.refl _
  · exact writeBlocksFull_keeps ..

theorem writeMoment_keeps (s : State) (w : Who) (rd : Reader) (p : Program) (u : UpdateDesc) (slot : Nat) (new : List NewElem)
    (pickV : NewElem → Val) :
    Keeps s (writeMoment s w rd p u slot new pickV) :=
  Keeps.unless (writeBlocks_keeps ..)

theorem noteMain_keeps (s : State) (p : Program) (u : UpdateDesc) (desc : Nat) (blocks : List (Nat × List (Option Nat)))
    (new : List NewElem) (enc : List Encoded) :
    Keeps s (noteMain s p u desc blocks new enc) := by
  unfold noteMain
  split
  · exact Keeps.refl _
  · exact updLayer_keeps ..

theorem writeMasters_keeps (s : State) (w : Who) (p : Program) (u : UpdateDesc) (new : List NewElem) :
    Keeps s (writeMasters s w p u new) :=
  Keeps.foldl _ (fun _ _ => (noteWatch_keeps ..).after <| (writeGlobal_keeps ..).after <| writeGlobal_keeps ..) _ _

theorem mainPass_keeps (w : Who) (i : PInstr) (p : Program) (u : UpdateDesc) (rd : Reader) (s : State) :
    Keeps s (mainPass w i p u rd s) := by
  unfold mainPass
  dsimp only
  split
  · exact (noteMain_keeps ..).after <| (bump_keeps ..).after <| (writeMoment_keeps ..).after <| (writeMoment_keeps ..).after <|
      (writeMasters_keeps ..).after <| Keeps.foldl _ (fun _ _ => noteRead_keeps ..) _ _
  · exact (noteSpans_keeps ..).after <| (noteMain_keeps ..).after <| (writeCopy_keeps ..).after <| (bump_keeps ..).after <|
      (writeMoment_keeps ..).after <| (writeMoment_keeps ..).after <| (writeMasters_keeps ..).after <|
      Keeps.foldl _ (fun _ _ => noteRead_keeps ..) _ _

theorem mainWork_keeps (s : State) (w : Who) (i : PInstr) (stale : List (Nat × Byte)) (tried : List (Nat × Nat)) :
    Keeps s (mainWork s w i stale tried) := by
  unfold mainWork
  split
  · exact Keeps.refl _
  · exact (withSources_keeps _ _ _ _ _ (fun _ => checked_keeps _ _ _ _ _ _ _ _ (fun _ _ => mainPass_keeps ..))).after <|
      Keeps.unless (startAway_keeps ..)

theorem execUpdateMainPass_answers (unit : Nat) (s : State) (stale : List (Nat × Byte)) :
    Answers s (execUpdateMainPass unit s stale) :=
  issue_answers _ _ _ _ (fun _ _ _ => mainWork_keeps ..)

theorem copyPass_keeps (w : Who) (p : Program) (u : UpdateDesc) (k : Nat) (spans : List Nat) (s : State) :
    Keeps s (copyPass w p u k spans s) :=
  (noteSpans_keeps ..).after <| (updLayer_keeps ..).after <| writeCopy_keeps ..

theorem copyWork_keeps (s : State) (w : Who) (i : PInstr) : Keeps s (copyWork s w i) := by
  unfold copyWork
  split
  · exact Keeps.refl _
  · exact Keeps.unless ((withSources_keeps _ _ _ _ _ (fun _ => copyPass_keeps ..)).after <| startAway_keeps ..)

theorem execUpdateCopyPass_answers (unit : Nat) (s : State) : Answers s (execUpdateCopyPass unit s) :=
  issue_answers _ _ _ _ (fun _ _ _ => copyWork_keeps ..)

theorem fillOne_keeps (s : State) (record : Nat) : Keeps s (fillOne s record) := by
  unfold fillOne
  split
  · exact (updVersion_keeps ..).after <| writeCopy_keeps ..
  · exact Keeps.refl _

theorem finishFill_keeps (s : State) (record : Nat) : Keeps s (finishFill s record) := by
  unfold finishFill
  split
  · exact accessFailed_keeps ..
  · exact Keeps.update <| fillOne_keeps ..

theorem execFillPassComplete_answers (s : State) : Answers s (execFillPassComplete s) :=
  Answers.when (Answers.next (Keeps.foldl _ (fun _ _ => finishFill_keeps ..) _ _))

/-! ### Gradient reduction -/

theorem execPlanWrite_answers (c : Cmd) (s : State) : Answers s (execPlanWrite c s) :=
  command_answers _ _ _ _ (gated_keeps _ _ _ _ _ _ _ _ (Keeps.ite (done_keeps ..) ((done_keeps ..).after Keeps.updated)))

theorem sendSegment_keeps (s : State) (p : Fin 12) (g : WireSeg) : Keeps s (sendSegment s p g) :=
  Keeps.after (Keeps.unless (sendOn_keeps ..)) <| Keeps.after (Keeps.when (bump_keeps ..)) <| Keeps.unless (bump_keeps ..)

theorem setTag_keeps (s : State) (t : TagState) : Keeps s (setTag s t) := Keeps.updated

theorem setSegment_keeps (s : State) (tag : Nat) (g : Segment) : Keeps s (setSegment s tag g) := setTag_keeps ..

theorem checkFinished_keeps (s : State) (b : BucketDesc) : Keeps s (checkFinished s b) := by
  unfold checkFinished
  dsimp only
  split
  · exact Keeps.refl _
  · split
    · exact (lessWaiting_keeps ..).after <| setTag_keeps ..
    · exact setTag_keeps ..

theorem takeResult_keeps (s : State) (b : BucketDesc) (g : WireSeg) : Keeps s (takeResult s b g) :=
  (checkFinished_keeps ..).after <| (setSegment_keeps ..).after <|
    (Keeps.foldl _ (fun _ _ => sendSegment_keeps ..) _ _).after <| Keeps.after (Keeps.when (bump_keeps ..)) <|
    (writeGlobal_keeps ..).after <| writeGlobal_keeps ..

theorem finishSegment_keeps (s : State) (b : BucketDesc) (g : Segment) (port : Nat) : Keeps s (finishSegment s b g port) := by
  unfold finishSegment
  dsimp only
  split
  · exact Keeps.refl _
  · split
    · exact reductionFault_keeps ..
    · split
      · exact (sendSegment_keeps ..).after <| setSegment_keeps ..
      · exact (takeResult_keeps ..).after <| Keeps.after (Keeps.unless (logInbound_keeps ..)) <| setSegment_keeps ..

theorem contribute_keeps (s : State) (b : BucketDesc) (n : Nat) (c : Contribution) : Keeps s (contribute s b n c) := by
  unfold contribute
  split
  · exact reductionFault_keeps ..
  · exact (finishSegment_keeps ..).after <| setSegment_keeps ..

theorem adderSlip_keeps (s : State) (p : Fin 12) (b : BucketDesc) (n predicted repeated : Nat) :
    Keeps s (adderSlip s p b n predicted repeated).1 := by
  unfold adderSlip
  dsimp only
  split
  · exact (post_keeps ..).after <| Keeps.update <| (setCond_keeps ..).after <| (suspect_keeps ..).after <|
      (noteMismatch_keeps ..).after <| bump_keeps ..
  · exact (reductionFault_keeps ..).after <| noteMismatch_keeps ..

theorem slipsHold_keeps (s : State) (p : Fin 12) (b : BucketDesc) (n : Nat) (residues : List Nat) (slips : List AdderSlip) :
    Keeps s (slipsHold s p b n residues slips).1 := by
  unfold slipsHold
  refine Keeps.foldl_fst _ (fun _ _ => ?_) _ _
  split
  · split
    · exact adderSlip_keeps ..
    · exact Keeps.refl _

theorem takeUp_keeps (s : State) (p : Fin 12) (b : BucketDesc) (g : WireSeg) (slips : List AdderSlip) :
    Keeps s (takeUp s p b g slips) := by
  unfold takeUp
  dsimp only
  split
  · exact bump_keeps ..
  · exact Keeps.after (Keeps.unless (contribute_keeps ..)) <| slipsHold_keeps ..

theorem takeSeg_keeps (s : State) (p : Fin 12) (src : Nat) (g : WireSeg) (slips : List AdderSlip) :
    Keeps s (takeSeg s p src g slips) := by
  unfold takeSeg
  dsimp only
  split
  · exact reductionFault_keeps ..
  · exact Keeps.ite (reductionFault_keeps ..)
      (Keeps.ite (reductionFault_keeps ..) (Keeps.ite
      (Keeps.ite (reductionFault_keeps ..) (Keeps.unless ((takeResult_keeps ..).after <|
      logInbound_keeps ..))) (Keeps.ite (reductionFault_keeps ..) (takeUp_keeps ..))))

theorem takeSegs_keeps (s : State) (p : Fin 12) (f : Kft) (slips : List AdderSlip) : Keeps s (takeSegs s p f slips) :=
  Keeps.foldl _ (fun _ _ => takeSeg_keeps ..) _ _

theorem sendOwn_keeps (w : Who) (b : BucketDesc) (slips : List AdderSlip) (s : State) (n : Nat) :
    Keeps s (sendOwn w b slips s n) := by
  unfold sendOwn
  refine Keeps.after (Keeps.when (contribute_keeps ..)) <| (Keeps.foldl_fst _ (fun _ _ => ?_) _ _).after <| writeGlobal_keeps ..
  split
  · split
    · exact adderSlip_keeps ..
    · exact Keeps.refl _

theorem sendOwnSegs_keeps (w : Who) (b : BucketDesc) (slips : List AdderSlip) : ∀ (ns : List Nat) (s : State),
    Keeps s (sendOwnSegs w b slips ns s)
  | [], s => Keeps.refl s
  | n :: ns, s => by
    unfold sendOwnSegs
    exact Keeps.when ((sendOwnSegs_keeps w b slips ns _).after <| (sendOwn_keeps ..).after <| setTag_keeps ..)

theorem drainOwn_keeps (s : State) : Keeps s (drainOwn s) := by
  unfold drainOwn
  refine Keeps.after (Keeps.when (dropArrivals_keeps ..)) <| Keeps.foldl _ (fun _ _ => ?_) _ _
  split
  · exact sendOwnSegs_keeps ..
  · exact Keeps.refl _

theorem countWaits_keeps (s : State) : Keeps s (countWaits s) := Keeps.update <| Keeps.unless (bump_keeps ..)

theorem drainWithheld_keeps : ∀ (n : Nat) (s : State), Keeps s (drainWithheld n s)
  | 0, s => Keeps.refl s
  | n + 1, s => by
    unfold drainWithheld
    split
    · exact Keeps.refl s
    · exact (drainWithheld_keeps n _).after <| (drainOwn_keeps ..).after <| (takeSegs_keeps ..).after <|
        (oweCredits_keeps ..).after <| Keeps.update <| countWaits_keeps ..

theorem drain_keeps (s : State) : Keeps s (drain s) := (drainWithheld_keeps ..).after <| drainOwn_keeps ..

theorem takeReduction_keeps (slips : List AdderSlip) (p : Fin 12) (s : State) (f : Kft) : Keeps s (takeReduction slips p s f) :=
  Keeps.ite (discard_keeps ..) (Keeps.ite ((drain_keeps ..).after <| takeSegs_keeps ..) (Keeps.update <|
    (updPort_keeps ..).after <| countWaits_keeps ..))

theorem execReductionFrame_answers (x : Rx) (slips : List AdderSlip) (s : State) : Answers s (execReductionFrame x slips s) :=
  Answers.ite (Answers.when (Answers.next ((sendNak_keeps ..).after <| (discard_keeps ..).after <|
    countFrame_keeps ..))) (Answers.next (arrive_keeps _ _ _ _ (fun _ _ => takeReduction_keeps ..)))

theorem bucketSendWork_keeps (w : Who) (b : BucketDesc) (slips : List AdderSlip) (s : State) :
    Keeps s (bucketSendWork w b slips s) := by
  unfold bucketSendWork
  exact withSources_keeps _ _ _ _ _ (fun _ => (drain_keeps ..).after <| (sendOwnSegs_keeps ..).after <|
    (setTag_keeps ..).after <| Keeps.unless (addWaiting_keeps ..))

theorem execBucketSend_answers (s : State) (slips : List AdderSlip) : Answers s (execBucketSend s slips) :=
  issue_answers _ _ _ _ (fun _ _ _ => bucketSendWork_keeps ..)

theorem writeFlag_keeps (s : State) (w : Who) (b : BucketDesc) (n : Nat) (flag : Bool) : Keeps s (writeFlag s w b n flag) :=
  Keeps.ite (writeGlobal_keeps ..) (Keeps.unless (sendWrite_keeps ..))

theorem raiseVe_keeps (s : State) (w : Who) (f : BitVec 5) : Keeps s (raiseVe s w f) := Keeps.when (raiseFlags_keeps ..)

theorem finishOne_keeps (w : Who) (b : BucketDesc) (step : Nat) (s : State) (n : Nat) (h : SegHdr) (es : List Int) :
    Keeps s (finishOne w b step s n h es).2 :=
  (writeGlobal_keeps ..).after <| (writeFlag_keeps ..).after <| (noteWatch_keeps ..).after <| (writeGlobal_keeps ..).after <|
    raiseVe_keeps ..

theorem finishSegs_keeps (w : Who) (b : BucketDesc) (step : Nat) (stale : List (Nat × Byte)) : ∀ (ns : List Nat) (vs : List Val)
    (s : State), Keeps s (finishSegs w b step stale ns vs s).2
  | [], _, s => Keeps.refl s
  | n :: ns, vs, s => by
    unfold finishSegs
    split
    · exact (stop_keeps ..).after <| reductionFault_keeps ..
    · exact (finishSegs_keeps w b step stale ns _ _).after <| (finishOne_keeps ..).after <| bump_keeps ..
    · exact (finishSegs_keeps w b step stale ns _ _).after <| finishOne_keeps ..

theorem bucketFinishWork_keeps (w : Who) (b : BucketDesc) (stale : List (Nat × Byte)) (s : State) :
    Keeps s (bucketFinishWork w b stale s) := by
  refine withSources_keeps _ _ _ _ _ fun u => ?_
  have h := finishSegs_keeps w b u.step.toNat stale (List.range b.segments) [] u
  dsimp only
  split
  · exact h.of_snd ‹_›
  · split
    · exact (writeGlobal_keeps ..).after <| h.of_snd ‹_›
    · exact (post_keeps ..).after <| (writeGlobal_keeps ..).after <| h.of_snd ‹_›

theorem execBucketFinish_answers (unit : Nat) (s : State) (stale : List (Nat × Byte)) :
    Answers s (execBucketFinish unit s stale) :=
  issue_answers _ _ _ _ (fun _ _ _ => bucketFinishWork_keeps ..)

theorem bucketNormWork_keeps (w : Who) (i : PInstr) (s : State) : Keeps s (bucketNormWork w i s) := by
  unfold bucketNormWork
  split
  · exact Keeps.refl _
  · refine withSources_keeps _ _ _ _ _ (fun _ => ?_)
    dsimp only
    split
    · exact (stop_keeps ..).after <| blockFault_keeps ..
    · split
      · exact Keeps.refl _
      · exact (writeGlobal_keeps ..).after <| raiseVe_keeps ..

theorem execBucketNorm_answers (unit : Nat) (s : State) : Answers s (execBucketNorm unit s) :=
  issue_answers _ _ _ _ (fun _ _ _ => bucketNormWork_keeps ..)

/-! ### Contexts -/

theorem placeBlocks_keeps (s : State) (d : BlockDesc) (l : Layout) (body : List Byte) : Keeps s (placeBlocks s d l body) :=
  Keeps.foldl _ (fun _ _ => Keeps.after (Keeps.unless (poke_keeps ..)) <| Keeps.foldl_fst _ (fun _ _ => (poke_keeps ..).after <|
    Keeps.after (Keeps.unless (poke_keeps ..)) <| poke_keeps ..) _ _) _ _

theorem restoreTracker_keeps (s : State) (d : TrackDesc) (ws : List Nat) : Keeps s (restoreTracker s d ws).1 :=
  (updTracker_keeps ..).after <| setBumps_keeps ..

theorem restoreLayer_keeps (s : State) (d : LayerDesc) (ws : List Nat) : Keeps s (restoreLayer s d ws).1 := updLayer_keeps ..

theorem restoreSegments_keeps (s : State) (bs : List BucketDesc) (step : Nat) (ws : List Nat) :
    Keeps s (restoreSegments s bs step ws) :=
  Keeps.foldl_fst _ (fun _ _ => Keeps.foldl_fst _ (fun _ _ => (poke_keeps ..).after <| poke_keeps ..) _ _) _ _

theorem restoreState_keeps (s : State) (p : Program) (step : Nat) (ws : List Nat) : Keeps s (restoreState s p step ws) :=
  (restoreSegments_keeps ..).after <| (Keeps.foldl_fst _ (fun _ _ => restoreLayer_keeps ..) _ _).after <|
    Keeps.foldl_fst _ (fun _ _ => restoreTracker_keeps ..) _ _

theorem freshTokens_keeps (s : State) (p : Program) (step : Nat) : Keeps s (freshTokens s p step) := Keeps.updated

theorem setEpoch_keeps (s : State) (x : Nat × Nat) (v : Nat) : Keeps s (setEpoch s x v) := updSeq_keeps ..

theorem restoreEpochs_keeps (s : State) (p : Program) (ws : List Nat) : Keeps s (restoreEpochs s p ws) := by
  unfold restoreEpochs
  refine (Keeps.foldl _ (fun _ _ => setEpoch_keeps ..) _ _).after <| Keeps.foldl _ (fun _ _ => ?_) _ _
  split
  · split
    · exact setEpoch_keeps ..
    · exact Keeps.refl _
  · exact Keeps.refl _

theorem restorePlain_keeps (s : State) (p : Program) (x : Section) : Keeps s (restorePlain s p x) := by
  unfold restorePlain
  split
  · exact Keeps.refl _
  · exact Keeps.after (Keeps.unless (poke_keeps ..)) <| Keeps.foldl _ (fun _ _ => poke_keeps ..) _ _

theorem restoreVersion_keeps (s : State) (p : Program) (v : VState) (x : Section) : Keeps s (restoreVersion s p v x) :=
  (updVersion_keeps ..).after <| placeBlocks_keeps ..

theorem restoreBlock_keeps (s : State) (p : Program) (x : Section) : Keeps s (restoreBlock s p x) := by
  unfold restoreBlock
  split
  · exact restoreVersion_keeps ..
  · split
    · exact Keeps.refl _
    · exact placeBlocks_keeps ..

theorem restoreSection_keeps (p : Program) (step : Nat) (s : State) (x : Section) : Keeps s (restoreSection p step s x) := by
  unfold restoreSection
  split
  · exact restorePlain_keeps ..
  · exact restoreBlock_keeps ..
  · exact restoreState_keeps ..
  · exact Keeps.refl _

theorem restoreImage_keeps (s : State) (p : Program) (img : List Byte) : Keeps s (restoreImage s p img) :=
  Keeps.update <| (dropWithheld_keeps ..).after <| (clearStepCounts_keeps ..).after <| (dropFetches_keeps ..).after <|
    (Keeps.foldl _ (fun _ _ => restoreSection_keeps ..) _ _).after <| (restoreEpochs_keeps ..).after <|
    (freshTokens_keeps ..).after Keeps.updated

theorem saveFault_keeps (s : State) (tensor : Nat) (e : Skew) : Keeps s (saveFault s tensor e) := blockFault_keeps ..

theorem chargeContext_keeps (s : State) (rs : List (Nat × Nat)) : Keeps s (chargeContext s rs) :=
  Keeps.foldl _ (fun _ _ => chargeAt_keeps ..) _ _

theorem asMcp_keeps (s : State) (c : Cmd) : Keeps s (asMcp s c) := Keeps.updated

theorem gatherReads_keeps (s : State) (c : Cmd) (reads : State → List (Nat × Nat)) : Keeps s (gatherReads s c reads).2 := by
  unfold gatherReads
  dsimp only
  split
  · exact Keeps.refl _
  split
  · exact Keeps.refl _
  split
  · exact Keeps.refl _
  · refine Keeps.foldl_snd _ (fun r x => ?_) _ (0, s)
    split
    · exact Keeps.refl _
    · exact askData_keeps ..

theorem execSave_answers (c : Cmd) (s : State) : Answers s (execSave c s) := by
  refine command_answers _ _ _ _ <| gated_keeps _ _ _ _ _ _ _ _ ?_
  split
  · exact done_keeps ..
  next p _ =>
  have h := gatherReads_keeps s c fun v => contextReads v p
  split
  · exact h.of_snd ‹_›
  · exact (done_keeps ..).after <| (dropArrivals_keeps ..).after <| h.of_snd ‹_›
  next u _ =>
  have hu : Keeps s (dropArrivals u (cmdKey c)) := (dropArrivals_keeps ..).after <| h.of_snd ‹_›
  dsimp only
  split
  · exact (done_keeps ..).after hu
  split
  · exact (done_keeps ..).after <| (saveFault_keeps ..).after hu
  · exact (finishData_keeps _ _ _ _ _ _ _ _ _ fun _ => post_keeps ..).after <| (chargeContext_keeps ..).after hu

theorem readImage_keeps (s : State) (c : Cmd) (kind addr : Nat) (host : HostRead) :
    Keeps s (readImage s c kind addr host).2 := by
  have h := readData_keeps s c kind addr 128 host
  unfold readImage
  split
  next head u e =>
    have hu := h.of_snd e
    have h' := readData_keeps u c kind addr (128 + 32 * field head 48 4) host
    split
    · exact (readData_keeps ..).after <| (h'.of_snd ‹_›).after hu
    · exact h'.after hu
  · exact h

theorem ownWrites_keeps (before : State) (c : Cmd) (s : State) : Keeps s (ownWrites before c s) := Keeps.of_mem rfl rfl

theorem restored_keeps (s : State) (c : Cmd) (p : Program) (img : List Byte) : Keeps s (restored s c p img) :=
  Keeps.after (Keeps.ite (awaits_keeps ..) (done_keeps ..)) <| Keeps.after (Keeps.when (setPState_keeps ..)) <|
    (ownWrites_keeps ..).after <| restoreImage_keeps ..

theorem execRestore_answers (c : Cmd) (host : HostRead) (s : State) : Answers s (execRestore c host s) := by
  refine command_answers _ _ _ _ <| gated_keeps _ _ _ _ _ _ _ _ ?_
  split
  · exact done_keeps ..
  have h := readImage_keeps s c (arg c 24 1) (arg c 16 8) host
  split
  · exact h.of_snd ‹_›
  · exact (done_keeps ..).after <| (dropArrivals_keeps ..).after <| h.of_snd ‹_›
  next u _ =>
  have hu : Keeps s (dropArrivals u (cmdKey c)) := (dropArrivals_keeps ..).after <| h.of_snd ‹_›
  dsimp only
  split
  · exact (complete_keeps ..).after <| (post_keeps ..).after hu
  split
  · exact (done_keeps ..).after hu
  split
  · exact (done_keeps ..).after <| (saveFault_keeps ..).after hu
  · exact (restored_keeps ..).after hu

/-! ### Signals -/

theorem takeSignal_keeps (s : State) (p : List Byte) : Keeps s (takeSignal s p) := by
  unfold takeSignal
  dsimp only
  split
  · exact Keeps.refl _
  · exact Keeps.ite (tokenFault_keeps ..) (applySignal_keeps ..)

theorem execSignalFrame_answers (x : Rx) (s : State) : Answers s (execSignalFrame x s) :=
  Answers.next (arrive_keeps _ _ _ _ (fun _ _ => Keeps.ite (discard_keeps ..) ((takeSignal_keeps ..).after <|
    logInbound_keeps ..)))

/-! ### The journal -/

theorem chargeDigests_keeps (s : State) (ts : List (Nat × Operand)) : Keeps s (chargeDigests s ts) :=
  Keeps.foldl _ (fun _ _ => chargeAt_keeps ..) _ _

theorem restorePatch_keeps (s : State) (p : Program) (x : Section) : Keeps s (restorePatch s p x) := by
  unfold restorePatch
  split
  · exact Keeps.refl _
  · exact Keeps.foldl _ (fun u _ => Keeps.stores (fun m => m.1) (fun m => m.2.1) (fun m => wf_writeBytes _ _ m.2.2)
      (Keeps.refl u)) _ _

theorem journalBegin_keeps (s : State) : Keeps s (journalBegin s) := by
  unfold journalBegin
  dsimp only
  split
  · split
    · split
      · exact (blockFault_keeps ..).after Keeps.updated
      · exact Keeps.update <| (chargeContext_keeps ..).after Keeps.updated
    · exact Keeps.updated
  · exact Keeps.updated

theorem disarm_keeps (s : State) : Keeps s (disarm s) := Keeps.updated

theorem journalEnd_keeps (s : State) : Keeps s (journalEnd s) := by
  unfold journalEnd
  split
  · split
    · exact (blockFault_keeps ..).after <| disarm_keeps ..
    · exact (post_keeps ..).after <| (disarm_keeps ..).after <| (poke_keeps ..).after <| chargeDigests_keeps ..
  · exact Keeps.refl _

theorem execJournalArm_answers (c : Cmd) (s : State) : Answers s (execJournalArm c s) := by
  unfold execJournalArm
  refine command_answers _ _ _ _ (gated_keeps _ _ _ _ _ _ _ _ ?_)
  split
  · exact done_keeps ..
  · exact Keeps.ite (done_keeps ..) (Keeps.ite (done_keeps ..) ((done_keeps ..).after Keeps.updated))

theorem applyEntry_keeps (s : State) (e : Inbound) : Keeps s (applyEntry s e) := by
  unfold applyEntry
  split
  · exact takeSignal_keeps ..
  · split
    · split
      · exact Keeps.unless (takeResult_keeps ..)
      · exact Keeps.refl _
    · exact Keeps.refl _
  · exact writeLocal_keeps ..

theorem applyInbound_keeps : ∀ (n : Nat) (s : State), Keeps s (applyInbound n s)
  | 0, s => Keeps.refl s
  | n + 1, s => by
    unfold applyInbound
    split
    · exact Keeps.refl s
    split
    · exact Keeps.refl s
    · exact Keeps.when ((applyInbound_keeps n _).after <| (applyEntry_keeps ..).after Keeps.updated)

theorem replayInbound_keeps (s : State) : Keeps s (replayInbound s) := applyInbound_keeps ..

theorem replayEnd_keeps (s : State) : Keeps s (replayEnd s) := by
  unfold replayEnd
  split
  · refine Keeps.update <| Keeps.after (Keeps.unless (setPState_keeps ..)) <| (done_keeps ..).after <| (post_keeps ..).after <|
      Keeps.update <| ?_
    split
    · exact blockFault_keeps ..
    · exact chargeDigests_keeps ..
  · exact Keeps.refl _

theorem replayStart_keeps (s : State) (c : Cmd) (p : Program) (img : List Byte) (l h t : Section) :
    Keeps s (replayStart s c p img l h t) :=
  (replayInbound_keeps ..).after <| Keeps.update <| (Keeps.foldl _ (fun _ _ => restorePatch_keeps ..) _ _).after <|
    (restoreImage_keeps ..).after Keeps.updated

theorem execJournalReplay_answers (c : Cmd) (s : State) : Answers s (execJournalReplay c s) := by
  refine command_answers _ _ _ _ <| gated_keeps _ _ _ _ _ _ _ _ ?_
  split
  · exact done_keeps ..
  split
  · exact Keeps.refl _
  have h := readImage_keeps s c 1 (arg c 16 8) none
  split
  · exact h.of_snd ‹_›
  · exact (done_keeps ..).after <| (dropArrivals_keeps ..).after <| h.of_snd ‹_›
  next u _ =>
  have hu : Keeps s (dropArrivals u (cmdKey c)) := (dropArrivals_keeps ..).after <| h.of_snd ‹_›
  dsimp only
  split
  · exact (done_keeps ..).after <| (post_keeps ..).after hu
  split
  · exact (done_keeps ..).after hu
  split
  · exact (done_keeps ..).after <| (saveFault_keeps ..).after hu
  · exact (replayStart_keeps ..).after hu

/-! ### The huddle -/

theorem sendHuddle_keeps (s : State) (p : Fin 12) (h : Huddle) : Keeps s (sendHuddle s p h) :=
  Keeps.foldl _ (fun _ _ => sendOn_keeps ..) _ _

theorem tryCombine_keeps (s : State) : Keeps s (tryCombine s) := by
  unfold tryCombine
  split
  · exact Keeps.refl _
  · split
    · exact Keeps.refl _
    · dsimp only
      split
      · exact sendHuddle_keeps ..
      · exact (Keeps.foldl _ (fun _ _ => sendHuddle_keeps ..) _ _).after Keeps.updated

theorem execHuddleEnter_answers (s : State) : Answers s (execHuddleEnter s) := by
  unfold execHuddleEnter
  split
  · exact Answers.same
  · split
    · exact Answers.same
    · dsimp only
      split
      · exact Answers.next (Keeps.update <| statsTaken_keeps ..)
      · exact Answers.next ((tryCombine_keeps ..).after <| Keeps.update <| statsTaken_keeps ..)

theorem setPieces_keeps (s : State) (p : Fin 12) (msg : List Byte) : Keeps s (setPieces s p msg) := Keeps.updated

theorem takeHuddle_keeps (h : Huddle) (p : Fin 12) (s : State) (f : Kft) : Keeps s (takeHuddle h p s f) :=
  Keeps.ite (discard_keeps ..) (Keeps.ite (setPieces_keeps ..)
    (Keeps.after (Keeps.ite (Keeps.unless ((tryCombine_keeps ..).after Keeps.updated))
    (Keeps.when (Keeps.unless ((Keeps.foldl _ (fun _ _ => sendHuddle_keeps ..) _ _).after Keeps.updated)))) <|
    setPieces_keeps ..))

theorem execHuddleFrame_answers (x : Rx) (h : Huddle) (s : State) : Answers s (execHuddleFrame x h s) :=
  Answers.next (arrive_keeps _ _ _ _ (fun _ _ => takeHuddle_keeps ..))

theorem stepMismatch_keeps (s : State) (h : Huddle) : Keeps s (stepMismatch s h) :=
  Keeps.unless ((post_keeps ..).after Keeps.updated)

theorem digestMismatch_keeps (s : State) (h : Huddle) : Keeps s (digestMismatch s h) := by
  unfold digestMismatch
  split
  · exact Keeps.refl _
  · exact post_keeps ..

theorem mismatchEvent_keeps (s : State) (h : Huddle) : Keeps s (mismatchEvent s h) :=
  (digestMismatch_keeps ..).after <| stepMismatch_keeps ..

theorem failHuddle_keeps (s : State) (reason : Nat) (flags : Word32) (node : Word16) :
    Keeps s (failHuddle s reason flags node) :=
  Keeps.update <| post_keeps ..

theorem decideHuddle_keeps (s : State) : Keeps s (decideHuddle s) := by
  unfold decideHuddle
  split
  · exact Keeps.refl _
  · exact Keeps.ite Keeps.updated ((failHuddle_keeps ..).after <| mismatchEvent_keeps ..)

theorem abortHuddle_keeps (s : State) : Keeps s (abortHuddle s) :=
  Keeps.ite (failHuddle_keeps ..) ((failHuddle_keeps ..).after Keeps.updated)

theorem stallPause_keeps (s : State) : Keeps s (stallPause s) := Keeps.update <| Keeps.foldl _ (fun _ _ => post_keeps ..) _ _

theorem commitHuddle_keeps (s : State) : Keeps s (commitHuddle s) := by
  unfold commitHuddle
  split
  · exact Keeps.refl _
  · exact Keeps.after (Keeps.when (stallPause_keeps ..)) <| Keeps.update <| scalesHuddle_keeps ..

/-! ### The beat -/

theorem clockTo_keeps (s : State) (t : Nat) : Keeps s (clockTo s t) := Keeps.updated

theorem limitHalt_keeps (s : State) : Keeps s (limitHalt s) :=
  Keeps.unless (Keeps.after (Keeps.when (failHuddle_keeps ..)) <| (raiseFault_keeps ..).after <| post_keeps ..)

theorem execHoldLimit_answers (s : State) : Answers s (execHoldLimit s) := Answers.next (limitHalt_keeps ..)

theorem sendDown_keeps (s : State) (payload : List Byte) : Keeps s (sendDown s payload) :=
  Keeps.foldl _ (fun _ _ => sendOn_keeps ..) _ _

theorem askMissing_keeps (s : State) (missing : Bool) : Keeps s (askMissing s missing) := Keeps.when Keeps.updated

theorem noteMissing_keeps (s : State) : Keeps s (noteMissing s) := askMissing_keeps ..

theorem noteShort_keeps (s : State) : Keeps s (noteShort s) := askMissing_keeps ..

theorem sendUp_keeps (s : State) : Keeps s (sendUp s) := by
  unfold sendUp
  split
  · exact Keeps.refl _
  · split
    · exact Keeps.updated
    · dsimp only
      split
      · exact (sendOn_keeps ..).after <| Keeps.update <| noteMissing_keeps ..
      · exact (sendDown_keeps ..).after <| Keeps.update <| noteMissing_keeps ..

theorem sendUpIfAll_keeps (s : State) : Keeps s (sendUpIfAll s) := Keeps.when (sendUp_keeps ..)

theorem holdPoint_keeps (s : State) : Keeps s (holdPoint s) :=
  Keeps.unless ((sendUpIfAll_keeps ..).after <| Keeps.update <| (replayInbound_keeps ..).after <|
    (decideHuddle_keeps ..).after <| clockTo_keeps ..)

theorem execHoldPoint_answers (s : State) : Answers s (execHoldPoint s) := Answers.next (Keeps.when (holdPoint_keeps ..))

theorem execWhistleUpDeadline_answers (s : State) : Answers s (execWhistleUpDeadline s) :=
  Answers.next (Keeps.when ((sendUp_keeps ..).after <| clockTo_keeps ..))

theorem takeUpFrame_keeps (p : Fin 12) (s : State) (f : Kft) : Keeps s (takeUpFrame p s f) :=
  Keeps.unless (Keeps.after (Keeps.when (sendUpIfAll_keeps ..)) <| Keeps.updated)

theorem execWhistleUpFrame_answers (x : Rx) (s : State) : Answers s (execWhistleUpFrame x s) :=
  Answers.unless (Answers.next (arrive_keeps _ _ _ _ (fun _ _ => takeUpFrame_keeps ..)))

theorem rollCounts_keeps (s : State) : Keeps s (rollCounts s) := Keeps.updated

theorem reportLate_keeps (s : State) : Keeps s (reportLate s) := Keeps.unless ((post_keeps ..).after <| bump_keeps ..)

theorem reportNonFinite_keeps (s : State) : Keeps s (reportNonFinite s) := Keeps.foldl _ (fun _ _ => post_keeps ..) _ _

theorem pauseTokens_keeps (s : State) : Keeps s (pauseTokens s) := Keeps.updated

theorem rewind_keeps (s : State) : Keeps s (rewind s) := Keeps.updated

theorem stepEnd_keeps (s : State) : Keeps s (stepEnd s) :=
  Keeps.after (Keeps.ite (replayEnd_keeps ..)
    (Keeps.after (Keeps.ite ((pauseTokens_keeps ..).after Keeps.updated) ((drain_keeps ..).after <|
    journalBegin_keeps ..)) <| (releaseSlots_keeps ..).after <| Keeps.update <| (rewind_keeps ..).after <|
    journalEnd_keeps ..)) <| (rollCounts_keeps ..).after <| (lateShares_keeps ..).after <| (reportNonFinite_keeps ..).after <|
    (scalesStepEnd_keeps ..).after <| reportLate_keeps ..

theorem heldPeriod_keeps (s : State) (rs : List (Nat × Nat)) (d : Decision) : Keeps s (heldPeriod s rs d) :=
  Keeps.ite Keeps.updated (Keeps.after (Keeps.unless ((Keeps.foldl _ (fun _ _ => post_keeps ..) _ _).after <|
    Keeps.foldl _ (fun _ _ => bump_keeps ..) _ _)) <| Keeps.update <| bump_keeps ..)

theorem advanceBeat_keeps (s : State) : Keeps s (advanceBeat s) :=
  Keeps.after (Keeps.ite ((journalBegin_keeps ..).after Keeps.updated)
    (Keeps.after (Keeps.ite (stepEnd_keeps ..) Keeps.updated) <|
    Keeps.when (commitHuddle_keeps ..))) <| Keeps.update <| (forceHeld_keeps ..).after <| releaseRecords_keeps ..

theorem haltBoundary_keeps (s : State) (cause : Nat) : Keeps s (haltBoundary s cause) :=
  Keeps.ite (replayEnd_keeps ..) (haltProgram_keeps ..)

theorem settle_keeps (s : State) (rs : List (Nat × Nat)) (d : Decision) : Keeps s (settle s rs d) := by
  unfold settle
  dsimp only
  split
  · exact (haltBoundary_keeps ..).after <| Keeps.after (Keeps.when (heldPeriod_keeps ..)) <| Keeps.when (abortHuddle_keeps ..)
  · exact Keeps.after (Keeps.ite (heldPeriod_keeps ..) (advanceBeat_keeps ..)) <| Keeps.when (abortHuddle_keeps ..)

theorem nextPeriod_keeps (s : State) : Keeps s (nextPeriod s) := Keeps.updated

theorem whistleLoss_keeps (s : State) : Keeps s (whistleLoss s) :=
  (haltBoundary_keeps ..).after <| Keeps.update <| post_keeps ..

theorem settleHalted_keeps (s : State) (d : Option Decision) : Keeps s (settleHalted s d) := Keeps.when (abortHuddle_keeps ..)

theorem boundary_keeps (s : State) : Keeps s (boundary s) := by
  unfold boundary
  dsimp only
  split
  · split
    · exact (settleHalted_keeps ..).after <| (nextPeriod_keeps ..).after <| (limitHalt_keeps ..).after <|
        (noteShort_keeps ..).after <| (sendUp_keeps ..).after <| (holdPoint_keeps ..).after <| (flushAllGates_keeps ..).after <|
        clockTo_keeps ..
    · split
      · exact (settle_keeps ..).after <| (nextPeriod_keeps ..).after <| (limitHalt_keeps ..).after <|
          (noteShort_keeps ..).after <| (sendUp_keeps ..).after <| (holdPoint_keeps ..).after <|
          (flushAllGates_keeps ..).after <| clockTo_keeps ..
      · exact Keeps.after (Keeps.ite (whistleLoss_keeps ..) (haltBoundary_keeps ..)) <| (nextPeriod_keeps ..).after <|
          (limitHalt_keeps ..).after <| (noteShort_keeps ..).after <| (sendUp_keeps ..).after <| (holdPoint_keeps ..).after <|
          (flushAllGates_keeps ..).after <| clockTo_keeps ..
      · exact Keeps.after (Keeps.ite (whistleLoss_keeps ..) Keeps.updated) <| (nextPeriod_keeps ..).after <|
          (limitHalt_keeps ..).after <| (noteShort_keeps ..).after <| (sendUp_keeps ..).after <| (holdPoint_keeps ..).after <|
          (flushAllGates_keeps ..).after <| clockTo_keeps ..
  · split
    · exact (settleHalted_keeps ..).after <| (nextPeriod_keeps ..).after <| (limitHalt_keeps ..).after <|
        (noteShort_keeps ..).after <| (sendUp_keeps ..).after <| (holdPoint_keeps ..).after <| clockTo_keeps ..
    · split
      · exact (settle_keeps ..).after <| (nextPeriod_keeps ..).after <| (limitHalt_keeps ..).after <|
          (noteShort_keeps ..).after <| (sendUp_keeps ..).after <| (holdPoint_keeps ..).after <| clockTo_keeps ..
      · exact Keeps.after (Keeps.ite (whistleLoss_keeps ..) (haltBoundary_keeps ..)) <| (nextPeriod_keeps ..).after <|
          (limitHalt_keeps ..).after <| (noteShort_keeps ..).after <| (sendUp_keeps ..).after <| (holdPoint_keeps ..).after <|
          clockTo_keeps ..
      · exact Keeps.after (Keeps.ite (whistleLoss_keeps ..) Keeps.updated) <| (nextPeriod_keeps ..).after <|
          (limitHalt_keeps ..).after <| (noteShort_keeps ..).after <| (sendUp_keeps ..).after <| (holdPoint_keeps ..).after <|
          clockTo_keeps ..

theorem execPeriodBoundary_answers (s : State) : Answers s (execPeriodBoundary s) :=
  Answers.next (Keeps.when (boundary_keeps ..))

theorem execBeatEpoch_answers (s : State) : Answers s (execBeatEpoch s) := Answers.next (Keeps.when (boundary_keeps ..))

theorem takeDownFrame_keeps (p : Fin 12) (s : State) (f : Kft) : Keeps s (takeDownFrame p s f) :=
  Keeps.unless (Keeps.after (Keeps.unless (Keeps.ite Keeps.updated (Keeps.when ((settle_keeps ..).after <| Keeps.update <|
    bump_keeps ..)))) <| sendDown_keeps ..)

theorem execWhistleDownFrame_answers (x : Rx) (s : State) : Answers s (execWhistleDownFrame x s) :=
  Answers.unless (Answers.next (arrive_keeps _ _ _ _ (fun _ _ => takeDownFrame_keeps ..)))

theorem execPauseTakesEffect_answers (s : State) : Answers s (execPauseTakesEffect s) :=
  Answers.when (Answers.next ((setPStateAt_keeps ..).after Keeps.updated))

/-! ### Completing instances -/

theorem execWait_answers (unit : Nat) (s : State) : Answers s (execWait unit s) :=
  issue_answers _ _ _ _ (fun _ _ _ => (replayInbound_keeps ..).after <| finishNow_keeps ..)

theorem execSignalAdd_answers (unit : Nat) (s : State) : Answers s (execSignalAdd unit s) :=
  issue_answers _ _ _ _ (fun _ _ _ => (replayInbound_keeps ..).after <| finishNow_keeps ..)

theorem execSignalAcquire_answers (unit : Nat) (s : State) : Answers s (execSignalAcquire unit s) :=
  issue_answers _ _ _ _ (fun _ _ _ => (replayInbound_keeps ..).after <| finishNow_keeps ..)

theorem execSignalRelease_answers (unit : Nat) (s : State) : Answers s (execSignalRelease unit s) :=
  issue_answers _ _ _ _ (fun _ _ _ => (replayInbound_keeps ..).after <| finishNow_keeps ..)

theorem execIngest_answers (unit : Nat) (s : State) : Answers s (execIngest unit s) :=
  issue_answers _ _ _ _ (fun _ _ _ => (replayInbound_keeps ..).after <| ingestWork_keeps ..)

theorem execVersionSlotSwap_answers (slot : Nat) (s : State) : Answers s (execVersionSlotSwap slot s) :=
  Answers.when (Answers.next ((replayInbound_keeps ..).after <| swapSlots_keeps ..))

theorem instWork_keeps (s : State) (w : Who) (p : PInstr) (input : WorkIn) (tried : List (Nat × Nat)) :
    Keeps s (instWork s w p input tried) := by
  unfold instWork
  split
  · exact passWork_keeps ..
  · exact veInstr_keeps ..
  · exact rowWork_keeps ..
  · exact moveWork_keeps ..
  · exact ckptWork_keeps ..
  · exact Keeps.ite (mainWork_keeps ..) (copyWork_keeps ..)
  · split
    · exact bucketSendWork_keeps ..
    · exact bucketFinishWork_keeps ..
    · exact bucketNormWork_keeps ..
  · exact Keeps.refl _

theorem retryDeferred_keeps (s : State) (w : Who) (time : PassTime) : Keeps s (retryDeferred s w time) := by
  unfold retryDeferred
  split
  · exact Keeps.unless (instWork_keeps ..)
  · exact Keeps.refl _

theorem execBlockRefetchComplete_answers (unit : Nat) (s : State) (time : PassTime) :
    Answers s (execBlockRefetchComplete unit s time) := by
  unfold execBlockRefetchComplete
  split
  · exact Answers.same
  · dsimp only
    split
    · exact Answers.next Keeps.updated
    · exact Answers.next (Keeps.after (Keeps.unless (instWork_keeps ..)) <| Keeps.updated)

theorem ranAgain_keeps (s : State) (w : Who) : Keeps s (ranAgain s w) := Keeps.updated

theorem rerunReaders_keeps (s : State) (w : Who) : Keeps s (rerunReaders s w) := Keeps.when (reexecute_keeps ..)

theorem countAgain_keeps (s : State) (w : Who) (time : PassTime) : Keeps s (countAgain s w time) := by
  unfold countAgain
  split
  · exact Keeps.refl _
  · split
    · exact Keeps.refl _
    · split
      · exact Keeps.refl _
      · split
        · exact Keeps.refl _
        · exact Keeps.foldl _ (fun _ _ => Keeps.ite (countGated_keeps ..) (countPass_keeps ..)) _ _

theorem execInstanceComplete_answers (unit : Nat) (stream : Stream) (index inst : Nat) (s : State) (time : PassTime) :
    Answers s (execInstanceComplete unit stream index inst s time) :=
  Answers.unless (Answers.ite (Answers.next ((ranAgain_keeps ..).after <| (rerunReaders_keeps ..).after <|
    countAgain_keeps ..)) (Answers.ite (Answers.next (retryDeferred_keeps ..)) (Answers.next ((replayInbound_keeps ..).after <|
    (deliver_keeps ..).after <| (markFinished_keeps ..).after <| (ranAgain_keeps ..).after <| (rerunReaders_keeps ..).after <|
    (countAgain_keeps ..).after <| retryDeferred_keeps ..))))

/-! ### Loading programs -/

theorem clearBucket_keeps (s : State) (b : BucketDesc) : Keeps s (clearBucket s b) :=
  (poke_keeps ..).after <| (poke_keeps ..).after <| poke_keeps ..

theorem dropProgram_keeps (s : State) : Keeps s (dropProgram s) :=
  Keeps.update <| (dropWithheld_keeps ..).after <| (clearStepCounts_keeps ..).after <| dropFetches_keeps ..

theorem install_keeps (s : State) (p : Program) : Keeps s (install s p) :=
  (Keeps.foldl _ (fun _ _ => clearBucket_keeps ..) _ _).after <| (Keeps.foldl _ (fun _ _ => setBumps_keeps ..) _ _).after <|
    Keeps.update <| dropProgram_keeps ..

theorem execLoad_answers (c : Cmd) (host : HostRead) (h : LoadHints) (s : State) : Answers s (execLoad c host h s) := by
  unfold execLoad
  refine command_answers _ _ _ _ (gated_keeps _ _ _ _ _ _ _ _ ?_)
  split
  · exact complete_keeps ..
  · refine withData_keeps _ _ _ _ _ _ _ (fun _ _ => ?_)
    split
    · exact (complete_keeps ..).after <| (setPState_keeps ..).after <| install_keeps ..
    · exact complete_keeps ..

theorem execUnload_answers (c : Cmd) (s : State) : Answers s (execUnload c s) :=
  command_answers _ _ _ _ (gated_keeps _ _ _ _ _ _ _ _ ((done_keeps ..).after <| (setPState_keeps ..).after <|
    dropProgram_keeps ..))

/-! ### Running programs -/

theorem startRun_keeps (s : State) (p : Program) (epoch : Nat) : Keeps s (startRun s p epoch) :=
  (queueMissing_keeps ..).after <| Keeps.update <| setPState_keeps ..

theorem startChecked_keeps (c : Cmd) (remote : List (Nat × List Byte)) (s : State) : Keeps s (startChecked c remote s) := by
  unfold startChecked
  split
  · exact done_keeps ..
  · dsimp only
    split
    · exact done_keeps ..
    · split
      · exact complete_keeps ..
      · split
        · exact (complete_keeps ..).after <| (post_keeps ..).after <| chargeCatalogues_keeps ..
        · exact (done_keeps ..).after <| (startRun_keeps ..).after <| chargeCatalogues_keeps ..

theorem execStart_answers (c : Cmd) (remote : List (Nat × List Byte)) (s : State) : Answers s (execStart c remote s) :=
  command_answers _ _ _ _ (gated_keeps _ _ _ _ _ _ _ _ (startChecked_keeps ..))

theorem execResume_answers (c : Cmd) (remote : List (Nat × List Byte)) (s : State) : Answers s (execResume c remote s) :=
  command_answers _ _ _ _ (gated_keeps _ _ _ _ _ _ _ _ (startChecked_keeps ..))

theorem execPause_answers (c : Cmd) (s : State) : Answers s (execPause c s) :=
  command_answers _ _ _ _ (gated_keeps _ _ _ _ _ _ _ _
    (Keeps.ite (complete_keeps ..) (Keeps.ite (complete_keeps ..) ((done_keeps ..).after Keeps.updated))))

theorem execHalt_answers (c : Cmd) (s : State) : Answers s (execHalt c s) :=
  command_answers _ _ _ _ (gated_keeps _ _ _ _ _ _ _ _ ((done_keeps ..).after <| haltProgram_keeps ..))

theorem execComputeResetCommand_answers (c : Cmd) (failed : List TileId) (s : State) :
    Answers s (execComputeResetCommand c failed s) :=
  command_answers _ _ _ _ (gated_keeps _ _ _ _ _ _ _ _ (Keeps.ite ((done_keeps ..).after <|
    computeReset_keeps ..) (done_keeps ..)))

theorem watchChange_keeps (s : State) (i : Nat) (w : Option Watch) : Keeps s (watchChange s i w) := Keeps.updated

theorem execWatchSet_answers (c : Cmd) (s : State) : Answers s (execWatchSet c s) :=
  command_answers _ _ _ _ (gated_keeps _ _ _ _ _ _ _ _ ((done_keeps ..).after <| watchChange_keeps ..))

theorem execWatchClear_answers (c : Cmd) (s : State) : Answers s (execWatchClear c s) :=
  command_answers _ _ _ _ (gated_keeps _ _ _ _ _ _ _ _ ((done_keeps ..).after <| watchChange_keeps ..))

theorem execLayerBounds_answers (c : Cmd) (s : State) : Answers s (execLayerBounds c s) := by
  unfold execLayerBounds
  refine command_answers _ _ _ _ (gated_keeps _ _ _ _ _ _ _ _ ?_)
  split
  · exact done_keeps ..
  · exact Keeps.ite (done_keeps ..) ((done_keeps ..).after <| updLayer_keeps ..)

/-! ### Firmware -/

theorem discardStaging_keeps (s : State) : Keeps s (discardStaging s) :=
  Keeps.after (Keeps.when ((post_keeps ..).after Keeps.updated)) <| Keeps.updated

theorem appendPiece_keeps (s : State) (c : Cmd) (data : List Byte) (last : Bool) : Keeps s (appendPiece s c data last) :=
  Keeps.ite (complete_keeps ..) (Keeps.ite ((done_keeps ..).after Keeps.updated) (Keeps.ite ((done_keeps ..).after <|
    (post_keeps ..).after Keeps.updated) ((complete_keeps ..).after Keeps.updated)))

theorem execFwStage_answers (c : Cmd) (host : HostRead) (s : State) : Answers s (execFwStage c host s) :=
  Answers.unless (command_answers _ _ _ _ (gated_keeps _ _ _ _ _ _ _ _
    (withData_keeps _ _ _ _ _ _ _ (fun _ _ => Keeps.ite (Keeps.after (Keeps.ite (complete_keeps ..) (appendPiece_keeps ..)) <|
    discardStaging_keeps ..) (Keeps.ite (complete_keeps ..) (appendPiece_keeps ..))))))

theorem execFwActivate_answers (c : Cmd) (s : State) : Answers s (execFwActivate c s) :=
  command_answers _ _ _ _ (gated_keeps _ _ _ _ _ _ _ _
    (Keeps.ite (complete_keeps ..) (Keeps.ite (complete_keeps ..)
    (Keeps.ite (complete_keeps ..) (Keeps.ite (complete_keeps ..)
    (Keeps.ite (complete_keeps ..) ((done_keeps ..).after Keeps.updated)))))))

theorem advanceTo_keeps (s : State) (t : Nat) : Keeps s (advanceTo s t) := Keeps.updated

theorem activationFails_keeps (s : State) (a : ActIn) : Keeps s (activationFails s a) :=
  (bootActive_keeps _ _ _ (fun _ => (post_keeps ..).after <| serveReady_keeps ..)).after Keeps.updated

theorem activationStep_keeps (a : ActIn) (s : State) (k : Nat) : Keeps s (activationStep a s k) := by
  unfold activationStep
  split
  · exact Keeps.refl _
  · dsimp only
    split
    · exact Keeps.update <| (ringsReset_keeps ..).after <| (computeStop_keeps ..).after Keeps.updated
    · exact Keeps.ite (activationFails_keeps ..) Keeps.updated
    · exact Keeps.ite Keeps.updated ((activationFails_keeps ..).after Keeps.updated)
    · exact Keeps.update <| writeBoot_keeps ..
    · exact Keeps.update <| (computeServe_keeps ..).after <| (bootImage_keeps ..).after Keeps.updated
    · exact (dueFirst_keeps ..).after <| (resetReady_keeps ..).after Keeps.updated

theorem execActivationEpoch_answers (a : ActIn) (s : State) : Answers s (execActivationEpoch a s) := by
  unfold execActivationEpoch
  dsimp only
  split
  · refine Answers.next ?_
    split
    · exact Keeps.update <| advanceTo_keeps ..
    · exact Keeps.refl _
  · refine Answers.next ((Keeps.foldl _ (fun _ _ => activationStep_keeps ..) _ _).after ?_)
    split
    · exact Keeps.update <| advanceTo_keeps ..
    · exact Keeps.refl _

theorem execFwConfirm_answers (c : Cmd) (s : State) : Answers s (execFwConfirm c s) :=
  command_answers _ _ _ _ (gated_keeps _ _ _ _ _ _ _ _
    (Keeps.ite (complete_keeps ..) (Keeps.ite (complete_keeps ..) ((done_keeps ..).after <|
    (post_keeps ..).after <| Keeps.update <| writeBoot_keeps ..))))

theorem execTrialConfirmTimeout_answers (failed : List TileId) (s : State) (settingsOk : Bool) :
    Answers s (execTrialConfirmTimeout failed s settingsOk) :=
  Answers.when (Answers.next ((fallback_keeps ..).after <| advanceTo_keeps ..))

theorem execTrialWatchdog_answers (failed : List TileId) (s : State) (settingsOk : Bool) :
    Answers s (execTrialWatchdog failed s settingsOk) :=
  Answers.when (Answers.next (fallback_keeps ..))

/-! ### SMBus -/

theorem smbusRun_answers (c : Cmd) (inl : HostRead) (s : State) : Answers s (smbusRun c inl s) := by
  unfold smbusRun
  split
  · exact execFabricRecord_answers ..
  · exact execPortRecord_answers ..
  · exact execRouteWrite_answers ..
  · exact execPlanWrite_answers ..
  · exact execReadTable_answers ..
  · exact execProfileSelect_answers ..
  · exact execProfileWrite_answers ..
  · exact Answers.same

theorem execSmbusMctpCommand_answers (msg : List Byte) (s : State) (host : HostRead) :
    Answers s (execSmbusMctpCommand msg s host) := by
  have h (c : Cmd) := (numbered_keeps (notePath s .smbus) c).after (notePath_keeps s .smbus)
  unfold execSmbusMctpCommand
  dsimp only
  generalize parseCmd .smbus _ _ = c
  exact Answers.unless <| Answers.ite (.next ((done_keeps ..).after (h c))) <|
    Answers.ite (.next ((proxyCmd_keeps ..).after (h c))) <| (smbusRun_answers ..).after <| (startCmd_keeps ..).after (h c)

/-! ### SPDM -/

theorem setSpdm_keeps (s : State) (t : Transport) (x : Spdm) : Keeps s (setSpdm s t x) := Keeps.updated

theorem respond_keeps (s : State) (t : Transport) (b : List Byte) : Keeps s (respond s t b) := emit_keeps ..

theorem spdmError_keeps (s : State) (t : Transport) (code : Nat) : Keeps s (spdmError s t code) := respond_keeps ..

theorem spdmRequest_keeps (s : State) (t : Transport) (req : List Byte) (code : Nat) (always : Bool) (needs : Spdm → Bool)
    (k : State → Spdm → State) (hk : ∀ u a1, Keeps u (k u a1)) :
    Keeps s (spdmRequest s t req code always needs k) :=
  Keeps.unless (Keeps.ite (spdmError_keeps ..)
    (Keeps.ite (spdmError_keeps ..) (Keeps.ite (spdmError_keeps ..) (Keeps.ite (spdmError_keeps ..) (hk ..)))))

theorem exchange_keeps (s : State) (t : Transport) (x : Spdm) (req resp : List Byte) : Keeps s (exchange s t x req resp) :=
  (respond_keeps ..).after <| setSpdm_keeps ..

theorem execSpdmGetVersion_answers (t : Transport) (req : List Byte) (s : State) : Answers s (execSpdmGetVersion t req s) :=
  Answers.next (spdmRequest_keeps _ _ _ _ _ _ _ (fun _ _ => exchange_keeps ..))

theorem execSpdmGetCapabilities_answers (t : Transport) (req : List Byte) (s : State) :
    Answers s (execSpdmGetCapabilities t req s) :=
  Answers.next (spdmRequest_keeps _ _ _ _ _ _ _ (fun _ _ => Keeps.ite (spdmError_keeps ..) ((exchange_keeps ..).after <|
    Keeps.update <| Keeps.updated)))

theorem execSpdmNegotiateAlgorithms_answers (t : Transport) (req : List Byte) (s : State) :
    Answers s (execSpdmNegotiateAlgorithms t req s) :=
  Answers.next (spdmRequest_keeps _ _ _ _ _ _ _ (fun _ _ => exchange_keeps ..))

theorem execSpdmGetDigests_answers (t : Transport) (req : List Byte) (s : State) : Answers s (execSpdmGetDigests t req s) :=
  Answers.next (spdmRequest_keeps _ _ _ _ _ _ _ (fun _ _ => exchange_keeps ..))

theorem execSpdmGetCertificate_answers (t : Transport) (req : List Byte) (s : State) :
    Answers s (execSpdmGetCertificate t req s) :=
  Answers.next (spdmRequest_keeps _ _ _ _ _ _ _ (fun _ _ => Keeps.ite (spdmError_keeps ..) (exchange_keeps ..)))

theorem execSpdmChallenge_answers (t : Transport) (req : List Byte) (s : State) : Answers s (execSpdmChallenge t req s) :=
  Answers.next (spdmRequest_keeps _ _ _ _ _ _ _ (fun _ _ => Keeps.ite (spdmError_keeps ..) (exchange_keeps ..)))

theorem execSpdmGetMeasurements_answers (t : Transport) (req : List Byte) (s : State) :
    Answers s (execSpdmGetMeasurements t req s) :=
  Answers.next (spdmRequest_keeps _ _ _ _ _ _ _ (fun _ _ => Keeps.ite (spdmError_keeps ..) (exchange_keeps ..)))

theorem execSpdmRespondIfReady_answers (t : Transport) (req : List Byte) (s : State) :
    Answers s (execSpdmRespondIfReady t req s) :=
  Answers.next (spdmRequest_keeps _ _ _ _ _ _ _ (fun _ _ => spdmError_keeps ..))

theorem execDoeDiscovery_answers (req : List Byte) (s : State) : Answers s (execDoeDiscovery req s) :=
  Answers.unless (Answers.next (emit_keeps ..))

/-! ### Every command -/

/-- Every command answers a next state that keeps the queue and the canonical form. -/
theorem exec_answers (s : State) : ∀ c : Instr, Answers s (exec c s)
  | .powerOn _ => execPowerOn_answers ..
  | .portLinkUp _ _ => execPortLinkUp_answers ..
  | .linkGateWindowEnd _ _ _ _ => execLinkGateWindowEnd_answers ..
  | .portLinkTimeout _ => execPortLinkTimeout_answers ..
  | .supplyExcursion _ => execSupplyExcursion_answers ..
  | .supplyWarning _ => execSupplyWarning_answers ..
  | .supplyRecovery _ _ => execSupplyRecovery_answers ..
  | .supplyReset _ => execSupplyReset_answers ..
  | .overvoltageStop _ => execOvervoltageStop_answers ..
  | .resetInAssert => execResetInAssert_answers ..
  | .resetInRelease _ => execResetInRelease_answers ..
  | .perstAssert => execPerstAssert_answers ..
  | .thermalThrottleStart _ _ => execThermalThrottleStart_answers ..
  | .thermalClockLower _ => execThermalClockLower_answers ..
  | .thermalClockRaise _ _ => execThermalClockRaise_answers ..
  | .thermalFault _ _ => execThermalFault_answers ..
  | .thermalFaultClear _ => execThermalFaultClear_answers ..
  | .hardThermalTrip _ _ => execHardThermalTrip_answers ..
  | .coolantInletWarning _ _ _ => execCoolantInletWarning_answers ..
  | .coolantFlowWarning _ _ _ => execCoolantFlowWarning_answers ..
  | .mr4Read _ _ => execMr4Read_answers ..
  | .avcLoopTick _ => execAvcLoopTick_answers ..
  | .capUnreachable _ => execCapUnreachable_answers ..
  | .heartbeatTick => execHeartbeatTick_answers ..
  | .managementRestart _ => execManagementRestart_answers ..
  | .managementFault => execManagementFault_answers ..
  | .resetCtrlMboxReset _ => execResetCtrlMboxReset_answers ..
  | .resetCtrlComputeReset _ _ => execResetCtrlComputeReset_answers ..
  | .sqTailDoorbell _ _ => execSqTailDoorbell_answers ..
  | .eqHeadWrite _ => execEqHeadWrite_answers ..
  | .ringCtrlWrite _ _ => execRingCtrlWrite_answers ..
  | .ringBaseWrite _ _ _ => execRingBaseWrite_answers ..
  | .registerWrite _ _ _ => execRegisterWrite_answers ..
  | .bar2Read _ _ => execBar2Read_answers ..
  | .bar2Write _ _ => execBar2Write_answers ..
  | .functionLevelReset => execFunctionLevelReset_answers ..
  | .pcieHotReset => execPcieHotReset_answers ..
  | .pcieLinkLoss => execPcieLinkLoss_answers ..
  | .commandFetch _ _ => execCommandFetch_answers ..
  | .eventCoalesceDelay _ => execEventCoalesceDelay_answers ..
  | .eventCountInterrupt _ => execEventCountInterrupt_answers ..
  | .load _ _ _ => execLoad_answers ..
  | .unload _ => execUnload_answers ..
  | .start _ _ => execStart_answers ..
  | .fillPassComplete => execFillPassComplete_answers ..
  | .pause _ => execPause_answers ..
  | .pauseTakesEffect => execPauseTakesEffect_answers ..
  | .resume _ _ => execResume_answers ..
  | .save _ => execSave_answers ..
  | .restore _ _ => execRestore_answers ..
  | .halt _ => execHalt_answers ..
  | .computeResetCommand _ _ => execComputeResetCommand_answers ..
  | .benchEnter _ => execBenchEnter_answers ..
  | .benchLeave _ _ _ => execBenchLeave_answers ..
  | .watchSet _ => execWatchSet_answers ..
  | .watchClear _ => execWatchClear_answers ..
  | .layerBounds _ => execLayerBounds_answers ..
  | .journalArm _ => execJournalArm_answers ..
  | .journalReplay _ => execJournalReplay_answers ..
  | .fabricRecord _ => execFabricRecord_answers ..
  | .portRecord _ _ => execPortRecord_answers ..
  | .routeWrite _ _ => execRouteWrite_answers ..
  | .planWrite _ => execPlanWrite_answers ..
  | .portRetrain _ _ _ _ => execPortRetrain_answers ..
  | .squadSet _ _ => execSquadSet_answers ..
  | .readTable _ => execReadTable_answers ..
  | .powerCap _ => execPowerCap_answers ..
  | .profileSelect _ => execProfileSelect_answers ..
  | .profileWrite _ _ => execProfileWrite_answers ..
  | .fwStage _ _ => execFwStage_answers ..
  | .fwActivate _ => execFwActivate_answers ..
  | .activationEpoch _ => execActivationEpoch_answers ..
  | .fwConfirm _ => execFwConfirm_answers ..
  | .trialConfirmTimeout _ _ => execTrialConfirmTimeout_answers ..
  | .trialWatchdog _ _ => execTrialWatchdog_answers ..
  | .dma _ _ => execDma_answers ..
  | .abort _ _ => execAbort_answers ..
  | .proxyCommandReceive _ => execProxyCommandReceive_answers ..
  | .proxyCompletionReceive _ => execProxyCompletionReceive_answers ..
  | .smbusMctpCommand _ _ => execSmbusMctpCommand_answers ..
  | .spdmGetVersion _ _ => execSpdmGetVersion_answers ..
  | .spdmGetCapabilities _ _ => execSpdmGetCapabilities_answers ..
  | .spdmNegotiateAlgorithms _ _ => execSpdmNegotiateAlgorithms_answers ..
  | .spdmGetDigests _ _ => execSpdmGetDigests_answers ..
  | .spdmGetCertificate _ _ => execSpdmGetCertificate_answers ..
  | .spdmChallenge _ _ => execSpdmChallenge_answers ..
  | .spdmGetMeasurements _ _ => execSpdmGetMeasurements_answers ..
  | .spdmRespondIfReady _ _ => execSpdmRespondIfReady_answers ..
  | .periodBoundary => execPeriodBoundary_answers ..
  | .headroomHalving _ => execHeadroomHalving_answers ..
  | .stallAlarm _ => execStallAlarm_answers ..
  | .holdPoint => execHoldPoint_answers ..
  | .holdLimit => execHoldLimit_answers ..
  | .whistleUpDeadline => execWhistleUpDeadline_answers ..
  | .whistleUpFrame _ => execWhistleUpFrame_answers ..
  | .whistleDownFrame _ => execWhistleDownFrame_answers ..
  | .huddleEnter => execHuddleEnter_answers ..
  | .huddleFrame _ _ => execHuddleFrame_answers ..
  | .wait _ => execWait_answers ..
  | .signalAdd _ => execSignalAdd_answers ..
  | .signalAcquire _ => execSignalAcquire_answers ..
  | .signalRelease _ => execSignalRelease_answers ..
  | .pass _ _ _ => execPass_answers ..
  | .fillGateWaitLimit _ _ _ => execFillGateWaitLimit_answers ..
  | .fillGateFlushPoint _ _ _ => execFillGateFlushPoint_answers ..
  | .blockRefetchComplete _ _ => execBlockRefetchComplete_answers ..
  | .veOperation _ _ => execVeOperation_answers ..
  | .veFlagRead _ _ => execVeFlagRead_answers ..
  | .rowSoftmaxForward _ => execRowSoftmaxForward_answers ..
  | .rowSoftmaxBackward _ _ => execRowSoftmaxBackward_answers ..
  | .rowLayerNormForward _ => execRowLayerNormForward_answers ..
  | .rowLayerNormBackward _ _ => execRowLayerNormBackward_answers ..
  | .rowRmsNormForward _ => execRowRmsNormForward_answers ..
  | .rowRmsNormBackward _ _ => execRowRmsNormBackward_answers ..
  | .rowCategoricalDraw _ => execRowCategoricalDraw_answers ..
  | .move _ => execMove_answers ..
  | .ckptStore _ => execCkptStore_answers ..
  | .ckptLoad _ _ => execCkptLoad_answers ..
  | .updateMainPass _ _ => execUpdateMainPass_answers ..
  | .updateCopyPass _ => execUpdateCopyPass_answers ..
  | .awaySlotWriteStart _ => execAwaySlotWriteStart_answers ..
  | .versionSlotSwap _ => execVersionSlotSwap_answers ..
  | .bucketSend _ => execBucketSend_answers ..
  | .bucketFinish _ _ => execBucketFinish_answers ..
  | .bucketNorm _ => execBucketNorm_answers ..
  | .ingest _ => execIngest_answers ..
  | .instanceComplete _ _ _ _ _ => execInstanceComplete_answers ..
  | .tileResidueMismatch _ _ _ _ => execTileResidueMismatch_answers ..
  | .tileReprobe _ _ => execTileReprobe_answers ..
  | .capacityCompaction _ _ => execCapacityCompaction_answers ..
  | .unitResidueMismatch _ _ _ => execUnitResidueMismatch_answers ..
  | .managementTelemetry _ => execManagementTelemetry_answers ..
  | .unitTableApply _ => execUnitTableApply_answers ..
  | .reductionFrame _ _ => execReductionFrame_answers ..
  | .readRequest _ _ => execReadRequest_answers ..
  | .readResponse _ => execReadResponse_answers ..
  | .writeRequest _ => execWriteRequest_answers ..
  | .writeAck _ => execWriteAck_answers ..
  | .atomicRequest _ => execAtomicRequest_answers ..
  | .atomicResponse _ => execAtomicResponse_answers ..
  | .signalFrame _ => execSignalFrame_answers ..
  | .bulkData _ => execBulkData_answers ..
  | .bulkReadRequest _ => execBulkReadRequest_answers ..
  | .bulkAck _ => execBulkAck_answers ..
  | .discoveryFrame _ => execDiscoveryFrame_answers ..
  | .linkControlAck _ => execLinkControlAck_answers ..
  | .linkControlNak _ => execLinkControlNak_answers ..
  | .creditGrant _ => execCreditGrant_answers ..
  | .laneChangeRequest _ => execLaneChangeRequest_answers ..
  | .laneChangeConfirm _ => execLaneChangeConfirm_answers ..
  | .frameTransit _ => execFrameTransit_answers ..
  | .frameSend _ => execFrameSend_answers ..
  | .arpRequest _ _ _ => execArpRequest_answers ..
  | .neighbourSolicitation _ _ _ => execNeighbourSolicitation_answers ..
  | .icmpEchoRequest _ _ _ _ => execIcmpEchoRequest_answers ..
  | .icmpv6EchoRequest _ _ _ _ => execIcmpv6EchoRequest_answers ..
  | .lldpFrame _ _ _ => execLldpFrame_answers ..
  | .pauseFrame _ => execPauseFrame_answers ..
  | .nonKftFrame _ => execNonKftFrame_answers ..
  | .ptpSync _ _ _ => execPtpSync_answers ..
  | .ptpFollowUp _ _ _ => execPtpFollowUp_answers ..
  | .ptpDelayReq _ _ _ => execPtpDelayReq_answers ..
  | .ptpDelayResp _ _ _ => execPtpDelayResp_answers ..
  | .ptpSyncInterval => execPtpSyncInterval_answers ..
  | .ackInterval _ => execAckInterval_answers ..
  | .retransmitTimeout _ => execRetransmitTimeout_answers ..
  | .retryExhausted _ => execRetryExhausted_answers ..
  | .responseTimeout _ => execResponseTimeout_answers ..
  | .ecnEchoTimeout _ _ => execEcnEchoTimeout_answers ..
  | .rateAlphaInterval _ _ => execRateAlphaInterval_answers ..
  | .rateRecoveryInterval _ _ => execRateRecoveryInterval_answers ..
  | .discoveryInterval _ => execDiscoveryInterval_answers ..
  | .lldpInterval => execLldpInterval_answers ..
  | .laneLost _ _ _ _ => execLaneLost_answers ..
  | .laneRetrainComplete _ _ => execLaneRetrainComplete_answers ..
  | .laneRetrainTimeout _ => execLaneRetrainTimeout_answers ..
  | .stripeFlushTimeout _ _ => execStripeFlushTimeout_answers ..
  | .reconstructionRateLimit _ => execReconstructionRateLimit_answers ..
  | .deviceCommandTimeout _ => execDeviceCommandTimeout_answers ..
  | .dqsTracking _ _ => execDqsTracking_answers ..
  | .refresh _ _ => execRefresh_answers ..
  | .lpddr5xScrub _ _ _ _ _ => execLpddr5xScrub_answers ..
  | .sramScrub _ _ _ _ => execSramScrub_answers ..
  | .sampleDecodeStart _ => execSampleDecodeStart_answers ..
  | .sampleComplete _ _ _ => execSampleComplete_answers ..
  | .bitstreamFetchRetry _ _ => execBitstreamFetchRetry_answers ..
  | .beatEpoch => execBeatEpoch_answers ..
  | .memorySpaceEnable _ _ => execMemorySpaceEnable_answers ..
  | .doeDiscovery _ => execDoeDiscovery_answers ..

end Sys2Proof.Machine
end

section
/-! The canonical form of memory at reset and along every step. -/

namespace Sys2Proof.Machine

open Sys2Proof

/-- A step takes the front of the queue off it, or counts a nanosecond, and keeps the canonical form. -/
theorem step_keeps_memOk {s t : State} (m : MemOk s) (h : step s = .next t) : MemOk t := by
  unfold step at h
  split at h
  · cases h
    exact m
  next c rest _ =>
    obtain ⟨u, e, -, k⟩ := exec_answers { s with pending := rest } c
    rw [e] at h
    cases h
    exact k m

/-- Settles O6: a reset lists no byte. -/
theorem resetMemoryCanonical : Obligations.ResetMemoryCanonical := ⟨wf_nil, wf_nil, wf_nil⟩

/-- Settles O7: every command keeps the canonical form, and an idle nanosecond leaves memory alone. -/
theorem stepsKeepMemoryCanonical : Obligations.StepsKeepMemoryCanonical := fun _ _ => step_keeps_memOk

end Sys2Proof.Machine
end

section
/-! SUPPORT. Reads of a store after a write of bytes, and this module's memory space by space. -/

namespace Sys2Proof.Machine

open Sys2Proof

/-! ### Bytes -/

theorem readByte_writeBytes_other : ∀ (bs : List Byte) {m : Memory} {a x : Nat}, Memory.wf m = true →
    x < a ∨ a + bs.length ≤ x → readByte (writeBytes m a bs) x = readByte m x
  | [], _, _, _, _, _ => rfl
  | b :: bs, m, a, x, h, hx => by
    rw [List.length_cons] at hx
    rw [writeBytes_cons, readByte_writeBytes_other bs (wf_writeByte h a b) (by omega),
      readByte_writeByte_other h b (by omega)]

theorem readBytes_writeBytes : ∀ (bs : List Byte) {m : Memory} {a : Nat}, Memory.wf m = true →
    readBytes (writeBytes m a bs) a bs.length = bs
  | [], _, _, _ => rfl
  | b :: bs, m, a, h => by
    have hb := wf_writeByte h a b
    rw [List.length_cons, writeBytes_cons, readBytes_succ, readBytes_writeBytes bs hb,
      readByte_writeBytes_other bs hb (by omega), readByte_writeByte h]

/-! ### Reads by space (R13, R309, R320, R351) -/

theorem readLocal_sram (s : State) (off n : Nat) : readLocal s 0 off n =
    if s.mem.retention then .fail 1 else if inReset s then .fail 2
    else if sramPopulated s off n && !lineLost s off n then .bytes (readBytes s.mem.sram off n) else .fail 1 := rfl

theorem readLocal_dram (s : State) (off n : Nat) : readLocal s 1 off n =
    if !s.mem.retention && dramPopulated s off n then .bytes (readBytes s.mem.dram off n) else .fail 1 := rfl

theorem readLocal_reserved (s : State) {space : Nat} (h : 2 < space) (off n : Nat) : readLocal s space off n = .fail 1 := by
  obtain ⟨k, rfl⟩ := Nat.exists_eq_add_of_lt h
  rw [show 2 + k + 1 = k + 3 by omega]
  rfl

/-- A read of a buffer offset, a view's apart. -/
theorem readLocal_buffer {s : State} {off n : Nat} (hr : s.mem.retention = false) (hm : inReset s = false)
    (hp : bufferPopulated off n = true) : readLocal s 2 off n = .bytes (readBytes s.mem.buffers off n) := by
  simp [readLocal, readLocalAt, hr, hm, hp]

/-- Outside the buffers and outside every view there is nothing to read. -/
theorem readLocal_noBuffer {s : State} {off n : Nat} (hm : inReset s = false) (hp : bufferPopulated off n = false)
    (hv : viewPlace s off n = none) : readLocal s 2 off n = .fail 1 := by
  have hv' : viewPlaceAt s s.step off n = none := hv
  simp [readLocal, readLocalAt, hm, hp, hv']

/-! ### Writes that fail -/

theorem writeLocal_reserved (s : State) {space : Nat} (h : 2 < space) (off : Nat) (data : List Byte) :
    writeLocal s space off data = (1, s) := by
  obtain ⟨k, rfl⟩ := Nat.exists_eq_add_of_lt h
  rw [show 2 + k + 1 = k + 3 by omega]
  unfold writeLocal
  dsimp only
  exact ite_self _

theorem writeLocal_noSram {s : State} {off : Nat} {data : List Byte} (hm : inReset s = false)
    (hp : sramPopulated s off data.length = false) : writeLocal s 0 off data = (1, s) := by
  simp [writeLocal, hm, hp]

theorem writeLocal_noDram {s : State} {off : Nat} {data : List Byte} (hp : dramPopulated s off data.length = false) :
    writeLocal s 1 off data = (1, s) := by
  simp [writeLocal, hp]

theorem writeLocal_sram_inReset {s : State} (hr : s.mem.retention = false) (hm : inReset s = true) (off : Nat)
    (data : List Byte) : writeLocal s 0 off data = (2, s) := by
  simp [writeLocal, hr, hm]

/-- Space 0x1 ends at 0x80_0000_0000 (R322). -/
theorem dramPopulated_beyond (s : State) {off n : Nat} (h : 0x80_0000_0000 < off + n) : dramPopulated s off n = false := by
  rw [dramPopulated, decide_eq_false (by omega), Bool.false_and]

/-! ### Writes that succeed -/

theorem dramPopulated_congr {s t : State} (h : t.mem.groupGone = s.mem.groupGone) (off n : Nat) :
    dramPopulated t off n = dramPopulated s off n := by
  rw [dramPopulated, dramPopulated, h]

/-- No lost line is left that a write touches, where every lost line it touches lies in it whole (log 107). -/
theorem lineLost_after_write {s t : State} {off n : Nat}
    (ht : t.mem.lostLines = s.mem.lostLines.filter fun l => decide (l < off) || decide (off + n < l + 64))
    (h : ∀ l ∈ s.mem.lostLines, l < off + n → off < l + 64 → off ≤ l ∧ l + 64 ≤ off + n) : lineLost t off n = false := by
  rw [lineLost, ht, List.any_eq_false]
  intro l hl
  simp only [List.mem_filter, Bool.or_eq_true, decide_eq_true_eq] at hl
  simp only [Bool.and_eq_true, decide_eq_true_eq]
  rintro ⟨h1, h2⟩
  have := h l hl.1 h1 h2
  omega

/-- The write buffer's work leaves the program where it stands, but for the stripes that writes wait for. -/
theorem Flushes.sameButStripes {s t : State} (h : Flushes s t) : SameButStripes s t := by
  obtain ⟨hp, hprog, hstep, -, hg, hb, hsc, hv, hr, hside, hi, hj⟩ := h.program
  exact ⟨hp, hprog, hstep, h.2, hg, hb, hsc, hv, hr, hside, hi, hj⟩

theorem SameButStripes.refl (s : State) : SameButStripes s s := ⟨rfl, rfl, rfl, rfl, rfl, rfl, rfl, rfl, rfl, rfl, rfl, rfl⟩

/-- What a successful write of space 0x0 leaves. -/
theorem writeLocal_sram_readsBack {s t : State} {off : Nat} {data : List Byte} (m : MemOk s) (hr : s.mem.retention = false)
    (hm : inReset s = false) (hp : sramPopulated s off data.length = true)
    (hl : ∀ l ∈ s.mem.lostLines, l < off + data.length → off < l + 64 → off ≤ l ∧ l + 64 ≤ off + data.length)
    (ht : t = { s with mem := { s.mem with
      sram := writeBytes s.mem.sram off data
      lostLines := s.mem.lostLines.filter fun l => decide (l < off) || decide (off + data.length < l + 64) } }) :
    readLocal t 0 off data.length = .bytes data := by
  have lost : lineLost t off data.length = false := lineLost_after_write (by rw [ht]) hl
  have hr' : t.mem.retention = false := by rw [ht]; exact hr
  have hm' : inReset t = false := by rw [ht]; exact hm
  have hp' : sramPopulated t off data.length = true := by rw [ht]; exact hp
  have back : readBytes t.mem.sram off data.length = data := by rw [ht]; exact readBytes_writeBytes data m.1
  simp [readLocal_sram, hr', hm', hp', lost, back]

/-- What a successful write of space 0x1 leaves, whatever stripes left the write buffer with it. -/
theorem writeLocal_dram_readsBack {s t : State} {off : Nat} {data : List Byte} (m : MemOk s) (hr : s.mem.retention = false)
    (hp : dramPopulated s off data.length = true)
    (h : Flushes { s with mem := { s.mem with dram := writeBytes s.mem.dram off data } } t) :
    readLocal t 1 off data.length = .bytes data := by
  have hr' : t.mem.retention = false := h.retention.trans hr
  have hp' : dramPopulated t off data.length = true := (dramPopulated_congr (s := s) h.groupGone _ _).trans hp
  have back : readBytes t.mem.dram off data.length = data := by rw [h.dram]; exact readBytes_writeBytes data m.2.1
  simp [readLocal_dram, hr', hp', back]

/-- What a successful write of the buffers leaves. -/
theorem writeLocal_buffer_readsBack {s t : State} {off : Nat} {data : List Byte} (m : MemOk s) (hr : s.mem.retention = false)
    (hm : inReset s = false) (hp : bufferPopulated off data.length = true)
    (ht : t = { s with mem := { s.mem with buffers := writeBytes s.mem.buffers off data } }) :
    readLocal t 2 off data.length = .bytes data := by
  have hr' : t.mem.retention = false := by rw [ht]; exact hr
  have hm' : inReset t = false := by rw [ht]; exact hm
  have back : readBytes t.mem.buffers off data.length = data := by rw [ht]; exact readBytes_writeBytes data m.2.2
  rw [readLocal_buffer hr' hm' hp, back]

end Sys2Proof.Machine
end

section
/-! Local accesses: what a write leaves and what a failed access answers. -/

namespace Sys2Proof.Machine

open Sys2Proof

/-- Settles O8, by the three ways in which a write of this module's memory succeeds. -/
theorem localWriteReadsBack : Obligations.LocalWriteReadsBack := by
  refine ⟨fun m a bs h => ⟨readBytes_writeBytes bs h, fun x => readByte_writeBytes_other bs h, wf_writeBytes bs a h⟩, ?_⟩
  intro s t space off data m _ hw hl
  have frame : ∀ {mem : Memory}, Memory.wf mem = true → ∀ {k a : Nat}, space = k →
      space ≠ k ∨ a < off ∨ off + data.length ≤ a → readByte (writeBytes mem off data) a = readByte mem a :=
    fun h _ _ e o => readByte_writeBytes_other data h (o.resolve_left (absurd e))
  rcases writeLocal_cases hw with ⟨h0, -⟩ | ⟨-, hs, hr, hm, hp, ht⟩ | ⟨-, hs, hr, hp, h⟩ | ⟨-, hs, hr, hm, hp, ht⟩
  · exact absurd rfl h0
  · subst hs
    refine ⟨writeLocal_sram_readsBack m hr hm hp (hl rfl) ht, ?_⟩
    subst ht
    exact ⟨fun a => ⟨frame m.1 rfl, fun _ => rfl, fun _ => rfl⟩, SameButStripes.refl s⟩
  · subst hs
    refine ⟨writeLocal_dram_readsBack m hr hp h, fun a => ⟨fun _ => ?_, fun o => ?_, fun _ => ?_⟩, h.sameButStripes⟩
    · rw [h.sram]
    · rw [h.dram]
      exact frame m.2.1 rfl o
    · rw [h.buffers]
  · subst hs
    refine ⟨writeLocal_buffer_readsBack m hr hm hp ht, ?_⟩
    subst ht
    exact ⟨fun a => ⟨fun _ => rfl, fun _ => rfl, frame m.2.2 rfl⟩, SameButStripes.refl s⟩

/-- Settles O9, space by space. -/
theorem localAccessErrors : Obligations.LocalAccessErrors := by
  refine ⟨fun s space off n data h => ⟨readLocal_reserved s h off n, writeLocal_reserved s h off data⟩, ?_, ?_, ?_, ?_, ?_, ?_⟩
  · intro s off n h
    simp [readLocal_dram, dramPopulated_beyond s h]
  · exact fun s off data h => writeLocal_noDram (dramPopulated_beyond s h)
  · intro s off n hm hp
    simp [readLocal_sram, hm, hp]
  · exact fun s off data => writeLocal_noSram
  · exact fun s off n => readLocal_noBuffer
  · intro s off hr hm
    refine ⟨fun n => ?_, writeLocal_sram_inReset hr hm off, fun n hp => ?_⟩
    · simp [readLocal_sram, hr, hm]
    · simp [readLocal_dram, hr, hp]

end Sys2Proof.Machine
end

section
/-! SUPPORT. What the work of a command leaves of the program: its state, the program, the step, and streams with nothing in
flight. -/

namespace Sys2Proof.Machine

open Sys2Proof

/-- No stream has anything in flight. -/
def NoFlight (s : State) : Prop := ∀ q ∈ s.seqs, q.flight = []

/-- The program, its state and the step are as they were, and where nothing was in flight nothing is. -/
structure Stays (s t : State) : Prop where
  pstate : t.pstate = s.pstate
  program : t.program = s.program
  step : t.step = s.step
  flight : NoFlight s → NoFlight t

theorem Stays.refl (s : State) : Stays s s := ⟨rfl, rfl, rfl, id⟩

theorem Stays.after {s t u : State} (k : Stays t u) (h : Stays s t) : Stays s u :=
  ⟨k.pstate.trans h.pstate, k.program.trans h.program, k.step.trans h.step, k.flight ∘ h.flight⟩

theorem Stays.ite {c : Prop} [Decidable c] {s t u : State} (h : Stays s t) (k : Stays s u) : Stays s (if c then t else u) := by
  split
  · exact h
  · exact k

theorem Stays.when {c : Prop} [Decidable c] {s t : State} (h : Stays s t) : Stays s (if c then t else s) := h.ite (Stays.refl s)

theorem Stays.unless {c : Prop} [Decidable c] {s t : State} (h : Stays s t) : Stays s (if c then s else t) :=
  (Stays.refl s).ite h

/-- An update that leaves the program where it stands. -/
theorem Stays.update {s u : State} (h : Stays s u) {pending freeIdx timebase power flash fw mbox units mem gates beat scales versions
    reduce side fabric ingest journal spdm counts out} :
    Stays s ⟨pending, freeIdx, timebase, power, flash, fw, mbox, units, mem, u.pstate, u.program, u.step, u.seqs, gates, beat,
      scales, versions, reduce, side, fabric, ingest, journal, spdm, counts, out⟩ := ⟨h.pstate, h.program, h.step, h.flight⟩

theorem Stays.updated {s : State} {pending freeIdx timebase power flash fw mbox units mem gates beat scales versions reduce side
    fabric ingest journal spdm counts out} :
    Stays s ⟨pending, freeIdx, timebase, power, flash, fw, mbox, units, mem, s.pstate, s.program, s.step, s.seqs, gates, beat,
      scales, versions, reduce, side, fabric, ingest, journal, spdm, counts, out⟩ := (Stays.refl s).update

theorem Stays.of_snd {α : Type} {s t : State} {r : α × State} {x : α} (h : Stays s r.2) (e : r = (x, t)) : Stays s t := by
  rwa [e] at h

theorem Stays.foldl {α : Type} (f : State → α → State) (h : ∀ s a, Stays s (f s a)) :
    ∀ (l : List α) (s : State), Stays s (l.foldl f s)
  | [], s => Stays.refl s
  | a :: l, s => (Stays.foldl f h l (f s a)).after (h s a)

theorem Stays.foldl_fst {α β : Type} (f : State × β → α → State × β) (h : ∀ x a, Stays x.1 (f x a).1) :
    ∀ (l : List α) (x : State × β), Stays x.1 (l.foldl f x).1
  | [], x => Stays.refl x.1
  | a :: l, x => (Stays.foldl_fst f h l (f x a)).after (h x a)

theorem Stays.foldl_snd {α β : Type} (f : β × State → α → β × State) (h : ∀ x a, Stays x.2 (f x a).2) :
    ∀ (l : List α) (x : β × State), Stays x.2 (l.foldl f x).2
  | [], x => Stays.refl x.2
  | a :: l, x => (Stays.foldl_snd f h l (f x a)).after (h x a)

theorem Posts.stays {s t : State} (h : Posts s t) : Stays s t :=
  ⟨h.pstate, h.program, h.step, fun n q hq => n q (h.seqs ▸ hq)⟩

/-- Nothing is in flight, seen without the stripes that writes wait for. -/
theorem noFlight_unbuffered (s : State) : NoFlight s ↔ ∀ q ∈ unbuffered s.seqs, q.flight = [] := by
  simp [NoFlight, unbuffered]

theorem Flushes.stays {s t : State} (h : Flushes s t) : Stays s t := by
  refine ⟨h.1.pstate, h.1.program, h.1.step, fun n => ?_⟩
  rw [noFlight_unbuffered] at n ⊢
  rwa [h.2]

/-- A change of every stream that puts nothing in flight. -/
theorem Stays.mapSeqs (s : State) (f : SeqUnit → SeqUnit) (h : ∀ q, q.flight = [] → (f q).flight = []) :
    Stays s { s with seqs := s.seqs.map f } := by
  refine ⟨rfl, rfl, rfl, fun n q hq => ?_⟩
  obtain ⟨r, hr, rfl⟩ := List.mem_map.1 hq
  exact h r (n r hr)

theorem complete_stays (s : State) (c : Cmd) (st r a b : Nat) : Stays s (complete s c st r a b) :=
  (complete_posts s c st r a b).stays.after Stays.updated

theorem done_stays (s : State) (c : Cmd) (st : Nat) : Stays s (done s c st) := complete_stays ..

theorem post_stays (s : State) (code : Nat) (b : List Byte) : Stays s (post s code b) := (post_posts s code b).stays

theorem bump_stays (s : State) (id inst tensor n : Nat) : Stays s (bump s id inst tensor n) :=
  (bump_posts s id inst tensor n).stays

theorem emit_stays (s : State) (o : Output) : Stays s (emit s o) := (emit_posts s o).stays

theorem enqueue_stays (s : State) (p : Fin 12) (f : Kft) : Stays s (enqueue s p f) := (enqueue_posts s p f).stays

theorem chargeRead_stays (s : State) (off n : Nat) : Stays s (chargeRead s off n) := (chargeRead_flushes s off n).stays

theorem writeLocal_stays (s : State) (space off : Nat) (data : List Byte) : Stays s (writeLocal s space off data).2 := by
  rcases writeLocal_cases (s := s) (t := (writeLocal s space off data).2) (st := (writeLocal s space off data).1) rfl with
    h | h | h | h
  · rw [h.2]; exact Stays.refl s
  · rw [h.2.2.2.2.2]; exact Stays.updated
  · exact h.2.2.2.2.stays.after Stays.updated
  · rw [h.2.2.2.2.2]; exact Stays.updated

theorem freshTokens_stays (s : State) (p : Program) (step : Nat) : Stays s (freshTokens s p step) :=
  Stays.mapSeqs s _ fun q h => by
    split
    · exact h
    · exact h

theorem updSeq_stays (s : State) (unit : Nat) (f : SeqUnit → SeqUnit) (h : ∀ q, q.flight = [] → (f q).flight = []) :
    Stays s (updSeq s unit f) :=
  Stays.mapSeqs s _ fun q hq => by
    split
    · exact h q hq
    · exact hq

theorem setEpoch_stays (s : State) (x : Nat × Nat) (v : Nat) : Stays s (setEpoch s x v) := updSeq_stays _ _ _ fun _ h => h

theorem chargeAt_stays (s : State) (addr n : Nat) : Stays s (chargeAt s addr n) := Stays.when (chargeRead_stays ..)

theorem memberUnreachable_stays (s : State) (node : Word16) : Stays s (memberUnreachable s node) :=
  Stays.when ((post_stays ..).after <| (Stays.foldl _ (fun _ _ => Stays.unless (done_stays ..)) _ _).after Stays.updated)

theorem request_stays (s : State) (typ : Nat) (addr : Word64) (len : Nat) (payload : List Byte) (o : Owner) :
    Stays s (request s typ addr len payload o).2 := by
  unfold request
  dsimp only
  split
  · exact memberUnreachable_stays ..
  · exact Stays.update <| enqueue_stays ..

theorem dropWithheld_stays (s : State) : Stays s (dropWithheld s) :=
  (Stays.foldl _ (fun _ _ => Stays.updated) _ _).after Stays.updated

theorem raiseFault_stays (s : State) (cause bit : Nat) : Stays s (raiseFault s cause bit) := Stays.when Stays.updated

theorem blockFault_stays (s : State) (unit tensor b cause expected received : Nat) :
    Stays s (blockFault s unit tensor b cause expected received) :=
  (raiseFault_stays ..).after <| (post_stays ..).after <| (post_stays ..).after <| bump_stays ..

theorem dropFetches_stays (s : State) : Stays s (dropFetches s) := Stays.updated

theorem dropArrivals_stays (s : State) (key : Nat) : Stays s (dropArrivals s key) := Stays.updated

theorem waitForView_stays (s : State) (off : Nat) (r : ViewReader) : Stays s (waitForView s off r) :=
  Stays.update <| bump_stays ..

theorem hostFailed_stays (s : State) : Stays s (hostFailed s) := (emit_stays ..).after <| Stays.updated

theorem fromHost_stays (s : State) (c : Cmd) (addr n : Nat) (host : HostRead) : Stays s (fromHost s c addr n host).2 := by
  unfold fromHost
  split
  · split
    · exact chargeRead_stays ..
    · exact Stays.refl _
  · dsimp only
    split
    · exact emit_stays ..
    · exact (hostFailed_stays ..).after <| emit_stays ..

theorem viewRead_stays (s : State) (c : Cmd) : Stays s (viewRead s c) := Stays.updated

theorem waitAsCommand_stays (s : State) (c : Cmd) (addr n : Nat) : Stays s (waitAsCommand s c addr n) :=
  Stays.unless (waitForView_stays ..)

theorem askData_stays (s : State) (c : Cmd) (addr n : Nat) : Stays s (askData s c addr n).2 := by
  unfold askData
  refine Stays.foldl_snd _ (fun r i => ?_) _ (0, s)
  split
  · exact Stays.refl _
  · exact request_stays ..

theorem readData_stays (s : State) (c : Cmd) (kind addr n : Nat) (host : HostRead) :
    Stays s (readData s c kind addr n host).2 := by
  unfold readData
  dsimp only
  split
  · exact fromHost_stays ..
  · split
    · split
      · split
        · exact (viewRead_stays ..).after <| chargeAt_stays ..
        · exact Stays.refl _
      · exact viewRead_stays ..
      · exact waitAsCommand_stays ..
    · split
      · exact Stays.refl _
      · split
        · exact Stays.refl _
        · split
          · exact askData_stays ..
          · exact askData_stays ..
  · exact Stays.refl _
  · exact Stays.refl _

theorem awaits_stays (s : State) (c : Cmd) (result v1 v2 : Nat) : Stays s (awaits s c result v1 v2) := Stays.updated

theorem pokeLocal_stays (s : State) (addr : Nat) (data : List Byte) : Stays s (pokeLocal s addr data) :=
  Stays.ite (writeLocal_stays ..) (Stays.foldl _ (fun _ _ => writeLocal_stays ..) _ _)

theorem poke_stays (s : State) (addr : Nat) (data : List Byte) : Stays s (poke s addr data) :=
  Stays.unless (Stays.ite (pokeLocal_stays ..) (Stays.unless (Stays.foldl _ (fun _ _ => request_stays ..) _ _)))

theorem updTracker_stays (s : State) (tensor : Nat) (f : Tracker → Tracker) : Stays s (updTracker s tensor f) := Stays.updated

theorem setBumps_stays (s : State) (d : TrackDesc) (bs : List Byte) : Stays s (setBumps s d bs) :=
  (updTracker_stays ..).after <| poke_stays ..

theorem updLayer_stays (s : State) (layer : Nat) (f : LayerState → LayerState) : Stays s (updLayer s layer f) := Stays.updated

theorem clearStepCounts_stays (s : State) : Stays s (clearStepCounts s) := Stays.updated

theorem updVersion_stays (s : State) (record : Nat) (f : VState → VState) : Stays s (updVersion s record f) := Stays.updated

theorem placeBlocks_stays (s : State) (d : BlockDesc) (l : Layout) (body : List Byte) : Stays s (placeBlocks s d l body) := by
  unfold placeBlocks
  refine Stays.foldl _ (fun u sp => Stays.after (Stays.unless (poke_stays ..)) <| ?_) _ _
  refine Stays.foldl_fst _ (fun _ _ => ?_) _ (u, 0)
  exact (poke_stays ..).after <| Stays.after (Stays.unless (poke_stays ..)) <| poke_stays ..

theorem restoreTracker_stays (s : State) (d : TrackDesc) (ws : List Nat) : Stays s (restoreTracker s d ws).1 :=
  (updTracker_stays ..).after <| setBumps_stays ..

theorem restoreLayer_stays (s : State) (d : LayerDesc) (ws : List Nat) : Stays s (restoreLayer s d ws).1 := updLayer_stays ..

theorem restoreSegments_stays (s : State) (bs : List BucketDesc) (step : Nat) (ws : List Nat) :
    Stays s (restoreSegments s bs step ws) := by
  unfold restoreSegments
  refine Stays.foldl_fst _ (fun x b => ?_) _ (s, ws)
  refine Stays.foldl_fst _ (fun y n => ?_) _ (x.1, x.2)
  dsimp only
  exact (poke_stays ..).after <| poke_stays ..

theorem restoreState_stays (s : State) (p : Program) (step : Nat) (ws : List Nat) : Stays s (restoreState s p step ws) := by
  unfold restoreState
  refine (restoreSegments_stays ..).after <| Stays.after (Stays.foldl_fst _ (fun x d => ?_) _ _) <|
    Stays.foldl_fst _ (fun x d => ?_) _ (s, ws)
  · exact restoreLayer_stays x.1 d x.2
  · exact restoreTracker_stays x.1 d x.2

theorem restoreEpochs_stays (s : State) (p : Program) (ws : List Nat) : Stays s (restoreEpochs s p ws) := by
  unfold restoreEpochs
  refine (Stays.foldl _ (fun _ _ => setEpoch_stays ..) _ _).after <| Stays.foldl _ (fun _ _ => ?_) _ _
  split
  · split
    · exact setEpoch_stays ..
    · exact Stays.refl _
  · exact Stays.refl _

theorem restorePlain_stays (s : State) (p : Program) (x : Section) : Stays s (restorePlain s p x) := by
  unfold restorePlain
  split
  · exact Stays.refl _
  · exact Stays.after (Stays.unless (poke_stays ..)) <| Stays.foldl _ (fun _ _ => poke_stays ..) _ _

theorem restoreVersion_stays (s : State) (p : Program) (v : VState) (x : Section) : Stays s (restoreVersion s p v x) :=
  (updVersion_stays ..).after <| placeBlocks_stays ..

theorem restoreBlock_stays (s : State) (p : Program) (x : Section) : Stays s (restoreBlock s p x) := by
  unfold restoreBlock
  split
  · exact restoreVersion_stays ..
  · split
    · exact Stays.refl _
    · exact placeBlocks_stays ..

theorem restoreSection_stays (p : Program) (step : Nat) (s : State) (x : Section) : Stays s (restoreSection p step s x) := by
  unfold restoreSection
  split
  · exact restorePlain_stays ..
  · exact restoreBlock_stays ..
  · exact restoreState_stays ..
  · exact Stays.refl _

theorem saveFault_stays (s : State) (tensor : Nat) (e : Skew) : Stays s (saveFault s tensor e) := blockFault_stays ..

theorem chargeContext_stays (s : State) (rs : List (Nat × Nat)) : Stays s (chargeContext s rs) :=
  Stays.foldl _ (fun _ _ => chargeAt_stays ..) _ _

theorem readImage_stays (s : State) (c : Cmd) (kind addr : Nat) (host : HostRead) :
    Stays s (readImage s c kind addr host).2 := by
  have h := readData_stays s c kind addr 128 host
  unfold readImage
  split
  next head u e =>
    have hu := h.of_snd e
    have h' := readData_stays u c kind addr (128 + 32 * field head 48 4) host
    split
    · exact (readData_stays ..).after <| (h'.of_snd ‹_›).after hu
    · exact h'.after hu
  · exact h

end Sys2Proof.Machine
end

section
/-! SAVE and RESTORE. -/

namespace Sys2Proof.Machine

open Sys2Proof

/-! ### SUPPORT. The parts of the two commands -/

/-- What charging the reads of a context image can do: note and count reconstructions. -/
theorem chargeContext_eq (s : State) : ∀ rs : List (Nat × Nat), ∃ (r : Vector (List Nat) 20) (c : List CountRec),
    chargeContext s rs = { s with mem := { s.mem with reconTimes := r }, counts := c }
  | [] => ⟨s.mem.reconTimes, s.counts, rfl⟩
  | x :: rs => by
    have first : ∃ (r : Vector (List Nat) 20) (c : List CountRec),
        chargeAt s x.1 x.2 = { s with mem := { s.mem with reconTimes := r }, counts := c } := by
      unfold chargeAt
      split
      · exact chargeRead_eq ..
      · exact ⟨s.mem.reconTimes, s.counts, rfl⟩
    obtain ⟨r, c, h⟩ := first
    obtain ⟨r', c', h'⟩ := chargeContext_eq (chargeAt s x.1 x.2) rs
    exact ⟨r', c', by rw [show chargeContext s (x :: rs) = chargeContext (chargeAt s x.1 x.2) rs from rfl, h', h]⟩

theorem chargeContext_mbox (s : State) (rs : List (Nat × Nat)) : (chargeContext s rs).mbox = s.mbox := by
  obtain ⟨r, c, h⟩ := chargeContext_eq s rs
  rw [h]

/-- Data for a host that still wants them go out as a host write (R383). -/
theorem toHost_kept {s : State} {c : Cmd} (hp : c.path ≠ .proxy) (hk : Kept s c) (addr : Nat) (data : List Byte) :
    toHost s c addr data = (0, emit s (.hostWrite (BitVec.ofNat 64 addr) data true)) := by
  have none : s.mbox.executing.any (fun e => e.cmd == c && e.discard) = false := by
    rw [List.any_eq_false]
    intro e he
    by_cases hc : e.cmd = c
    · simp [hk e he hc]
    · simp [hc]
  simp [toHost, hp, none]

theorem finishData_host {s : State} {c : Cmd} (hp : c.path ≠ .proxy) (hk : Kept s c) (addr : Nat) (data : List Byte)
    (result v1 v2 : Nat) (told : State → State) : finishData s c 0 addr data result v1 v2 told =
      complete (told (emit s (.hostWrite (BitVec.ofNat 64 addr) data true))) c 0 result v1 v2 := by
  simp [finishData, toHost_kept hp hk]

theorem gatherReads_failed {s : State} {c : Cmd} {reads : State → List (Nat × Nat)}
    (h : (firstFailure (asMcp s c) mcpUnit ((reads (asMcp s c)).filter fun r => decide (0 < r.2))).isSome = true) :
    gatherReads s c reads = (.fail 7, s) := by
  simp [gatherReads, h]

/-- An image that was read leaves the program as it was. -/
theorem ReadsImage.stays {s v : State} {c : Cmd} {kind addr : Nat} {host : HostRead} {img : List Byte}
    (h : ReadsImage s c kind addr host img v) : Stays s v := by
  obtain ⟨u, hu, rfl⟩ := h
  exact (dropArrivals_stays ..).after <| (readImage_stays ..).of_snd hu

/-! ### SAVE (R215) -/

/-- What a SAVE that may run does with its program. -/
def saveRun (s : State) (c : Cmd) (p : Program) : State :=
  match gatherReads s c fun v => contextReads v p with
  | (.wait, s) => s
  | (.fail st, s) => done (dropArrivals s (cmdKey c)) c st
  | (.bytes _, s) =>
    let v := asMcp s c
    let s := dropArrivals s (cmdKey c)
    let img := contextImage v p
    if arg c 32 8 < img.length then done s c 0x05
    else match contextFault v p with
    | some (t, e) => done (saveFault s t e) c 0x05
    | none =>
      let d := leNat ((imageDigest img).take 8)
      finishData (chargeContext s (contextReads v p)) c (arg c 24 1) (arg c 16 8) img 0 img.length d fun s =>
        post s 0x0805 (packed [(4, s.step.toNat), (8, img.length), (8, d)])

theorem save_runs {s : State} {c : Cmd} {p : Program} (h : Runs s c 0x0106 1 true true [.paused])
    (hz : restZero c [(16, 9), (32, 8)] = true) (hp : s.program = some p) (hk : arg c 24 1 ≤ 1) :
    exec (.save c) s = .next (saveRun s c p) := by
  show execSave c s = _
  have fields : (decide (arg c 24 1 ≤ 1) && restZero c [(16, 9), (32, 8)]) = true := by simp [hk, hz]
  rw [execSave, command_runs h]
  dsimp only
  rw [fields, gated_runs h, hp]
  rfl

/-- The program of a SAVE that may run is Paused. -/
theorem runs_paused {s : State} {c : Cmd} {op ring : Nat} {compute memory : Bool}
    (h : Runs s c op ring compute memory [.paused]) : s.pstate = .paused := by
  obtain ⟨-, -, -, hs⟩ := h
  simpa using hs

theorem save_writesImage {s : State} {c : Cmd} {p : Program} (hk : arg c 24 1 = 0) (hp : c.path ≠ .proxy) (kept : Kept s c)
    (hg : gatherReads s c (fun v => contextReads v p) = (.bytes [], s))
    (hl : (contextImage (asMcp s c) p).length ≤ arg c 32 8) (hf : contextFault (asMcp s c) p = none) :
    let v := asMcp s c
    let img := contextImage v p
    saveRun s c p = complete (post (emit (chargeContext (dropArrivals s (cmdKey c)) (contextReads v p))
        (.hostWrite (BitVec.ofNat 64 (arg c 16 8)) img true)) 0x0805
        (packed [(4, s.step.toNat), (8, img.length), (8, leNat ((imageDigest img).take 8))])) c 0 0 img.length
      (leNat ((imageDigest img).take 8)) := by
  intro v img
  have keptU : Kept (chargeContext (dropArrivals s (cmdKey c)) (contextReads v p)) c := by
    unfold Kept
    rw [chargeContext_mbox]
    exact kept
  have step : (emit (chargeContext (dropArrivals s (cmdKey c)) (contextReads v p))
      (.hostWrite (BitVec.ofNat 64 (arg c 16 8)) img true)).step = s.step :=
    ((emit_stays ..).after <| (chargeContext_stays ..).after <| dropArrivals_stays ..).step
  rw [saveRun, hg]
  dsimp only
  rw [if_neg (Nat.not_lt.2 hl), hf]
  dsimp only
  rw [hk, finishData_host hp keptU, step]

theorem save_badBlock {s : State} {c : Cmd} {p : Program} {n : Nat} {e : Skew}
    (hg : gatherReads s c (fun v => contextReads v p) = (.bytes [], s))
    (hl : (contextImage (asMcp s c) p).length ≤ arg c 32 8) (hf : contextFault (asMcp s c) p = some (n, e)) :
    saveRun s c p = done (saveFault (dropArrivals s (cmdKey c)) n e) c 0x05 := by
  rw [saveRun, hg]
  dsimp only
  rw [if_neg (Nat.not_lt.2 hl), hf]

theorem save_failedAccess {s : State} {c : Cmd} {p : Program}
    (hf : (firstFailure (asMcp s c) mcpUnit ((contextReads (asMcp s c) p).filter fun r => decide (0 < r.2))).isSome = true) :
    saveRun s c p = done (dropArrivals s (cmdKey c)) c 0x07 := by
  rw [saveRun, gatherReads_failed hf]

/-! ### RESTORE (R217 to R219) -/

/-- What a RESTORE that may run does with the image it read. -/
def restoreRun (s : State) (c : Cmd) (p : Program) (img : List Byte) : State :=
  let why := imageRefusal s p contextMagic img
  if why ≠ 0 then complete (post s 0x0806 (packed [(1, why)])) c 0x05 why 0 0
  else if !imagePlaceable s p img then done s c 0x07
  else match imageFault p img with
  | some (t, e) => done (saveFault s t e) c 0x05
  | none => restored s c p img

theorem restore_runs {s v : State} {c : Cmd} {host : HostRead} {p : Program} {img : List Byte}
    (h : Runs s c 0x0107 1 true true [.loaded, .paused, .halted]) (hz : restZero c [(16, 9)] = true)
    (hp : s.program = some p) (hk : arg c 24 1 ≤ 1) (hr : ReadsImage s c (arg c 24 1) (arg c 16 8) host img v) :
    exec (.restore c host) s = .next (restoreRun v c p img) := by
  obtain ⟨u, hu, rfl⟩ := hr
  show execRestore c host s = _
  have fields : (decide (arg c 24 1 ≤ 1) && restZero c [(16, 9)]) = true := by simp [hk, hz]
  rw [execRestore, command_runs h]
  dsimp only
  rw [fields, gated_runs h, hp]
  dsimp only
  rw [hu]
  rfl

/-- A restored image takes the program to the image's step with nothing in flight, and leaves its state. -/
theorem restoreImage_stays (s : State) (p : Program) (img : List Byte) :
    Stays { s with step := BitVec.ofNat 64 (imageStep img), seqs := s.seqs.map freshSeq } (restoreImage s p img) := by
  unfold restoreImage
  dsimp only
  exact Stays.update <| (dropWithheld_stays ..).after <| (clearStepCounts_stays ..).after <| (dropFetches_stays ..).after <|
    (Stays.foldl _ (fun _ _ => restoreSection_stays ..) _ _).after <| (restoreEpochs_stays ..).after <| freshTokens_stays ..

theorem noFlight_freshSeq (s : State) (step : Word64) : NoFlight { s with step := step, seqs := s.seqs.map freshSeq } := by
  intro q hq
  obtain ⟨r, -, rfl⟩ := List.mem_map.1 hq
  rfl

/-- `t` is a state that a restored image leaves: a program at the image's step, with no gate, a beat that is not halting
and nothing in flight. -/
structure AtImage (p : Program) (img : List Byte) (t : State) : Prop where
  step : t.step = BitVec.ofNat 64 (imageStep img)
  program : t.program = some p
  gates : t.gates = []
  halting : t.beat.halting = false
  flight : NoFlight t

theorem restoreImage_atImage {s : State} {p : Program} (hp : s.program = some p) (img : List Byte) :
    AtImage p img (restoreImage s p img) := by
  have h := restoreImage_stays s p img
  exact ⟨h.step, h.program.trans hp, rfl, rfl, h.flight (noFlight_freshSeq _ _)⟩

theorem AtImage.posts {p : Program} {img : List Byte} {t u : State} (h : AtImage p img t) (k : Posts t u) : AtImage p img u :=
  ⟨k.step.trans h.step, k.program.trans h.program, k.gates.trans h.gates, (congrArg _ k.beat).trans h.halting,
    k.stays.flight h.flight⟩

theorem AtImage.ownWrites {p : Program} {img : List Byte} {t : State} (h : AtImage p img t) (s : State) (c : Cmd) :
    AtImage p img (ownWrites s c t) := ⟨h.step, h.program, h.gates, h.halting, h.flight⟩

theorem AtImage.setPState {p : Program} {img : List Byte} {t : State} (h : AtImage p img t) (new : PState) (cause : Nat) :
    AtImage p img (setPState t new cause) :=
  AtImage.posts (t := { t with pstate := new }) ⟨h.step, h.program, h.gates, h.halting, h.flight⟩ (post_posts ..)

theorem AtImage.awaits {p : Program} {img : List Byte} {t : State} (h : AtImage p img t) (c : Cmd) (result v1 v2 : Nat) :
    AtImage p img (awaits t c result v1 v2) := ⟨h.step, h.program, h.gates, h.halting, h.flight⟩

theorem AtImage.done {p : Program} {img : List Byte} {t : State} (h : AtImage p img t) (c : Cmd) (st : Nat) :
    AtImage p img (done t c st) :=
  AtImage.posts (t := leave t c) ⟨h.step, h.program, h.gates, h.halting, h.flight⟩ (complete_posts ..)

theorem setPState_pstate (s : State) (new : PState) (cause : Nat) : (setPState s new cause).pstate = new :=
  (post_posts ..).pstate

/-- What a restored image leaves before the command ends: a Halted program becomes Paused (R217 to R219). -/
def afterRestore (s : State) (c : Cmd) (p : Program) (img : List Byte) : State :=
  let t := ownWrites s c (restoreImage s p img)
  if t.pstate = .halted then setPState t .paused 0 else t

theorem restored_eq (s : State) (c : Cmd) (p : Program) (img : List Byte) : restored s c p img =
    if outstanding (afterRestore s c p img) (.data c) then awaits (afterRestore s c p img) c 0 0 0
    else done (afterRestore s c p img) c 0 := rfl

theorem afterRestore_atImage {s : State} {p : Program} (hp : s.program = some p) (c : Cmd) (img : List Byte) :
    AtImage p img (afterRestore s c p img) := by
  have h := (restoreImage_atImage hp img).ownWrites s c
  unfold afterRestore
  dsimp only
  split
  · exact h.setPState ..
  · exact h

theorem afterRestore_pstate (s : State) (c : Cmd) (p : Program) (img : List Byte) :
    (afterRestore s c p img).pstate = if s.pstate = .halted then .paused else s.pstate := by
  have h : (ownWrites s c (restoreImage s p img)).pstate = s.pstate := (restoreImage_stays s p img).pstate
  unfold afterRestore
  dsimp only
  rw [h]
  split
  · exact setPState_pstate ..
  · exact h

theorem restored_atImage {s : State} {p : Program} (hp : s.program = some p) (c : Cmd) (img : List Byte) :
    AtImage p img (restored s c p img) := by
  have h := afterRestore_atImage hp c img
  rw [restored_eq]
  split
  · exact h.awaits ..
  · exact h.done ..

theorem restored_pstate (s : State) (c : Cmd) (p : Program) (img : List Byte) :
    (restored s c p img).pstate = if s.pstate = .halted then .paused else s.pstate := by
  rw [restored_eq, ← afterRestore_pstate s c p img]
  split
  · exact (awaits_stays ..).pstate
  · exact (done_stays ..).pstate

theorem restore_refused {v : State} {c : Cmd} {p : Program} {img : List Byte} (h : imageRefusal v p contextMagic img ≠ 0) :
    restoreRun v c p img = complete (post v 0x0806 (packed [(1, imageRefusal v p contextMagic img)])) c 0x05
      (imageRefusal v p contextMagic img) 0 0 := if_pos h

theorem restore_noPlace {v : State} {c : Cmd} {p : Program} {img : List Byte} (h : imageRefusal v p contextMagic img = 0)
    (hi : imagePlaceable v p img = false) : restoreRun v c p img = done v c 0x07 := by
  simp [restoreRun, h, hi]

theorem restore_takesImage {v : State} {c : Cmd} {p : Program} {img : List Byte} (h : imageRefusal v p contextMagic img = 0)
    (hi : imagePlaceable v p img = true) (hf : imageFault p img = none) : restoreRun v c p img = restored v c p img := by
  simp [restoreRun, h, hi, hf]

/-- Settles O35: what SAVE and RESTORE do once they run, outcome by outcome. -/
theorem saveAndRestore : Obligations.SaveAndRestore := by
  refine ⟨?_, ?_, ?_, ?_, ?_, ?_⟩
  · intro s c p h hz hp hk path kept hg v img hl hf
    rw [save_runs h hz hp (by omega), save_writesImage hk path kept hg hl hf]
  · intro s c p n e h hz hp hk hg hl hf u
    refine ⟨by rw [save_runs h hz hp hk, save_badBlock hg hl hf], ?_⟩
    exact ((saveFault_stays ..).after <| dropArrivals_stays ..).pstate.trans (runs_paused h)
  · intro s c p h hz hp hk hf
    rw [save_runs h hz hp hk, save_failedAccess hf]
  · intro s v c host p img h hz hp hk hr why place sound
    have before := hr.stays
    have t := restored_atImage (before.program.trans hp) c img
    refine ⟨restored v c p img, ?_, t.step, ?_, t.program, t.gates, t.halting, t.flight⟩
    · rw [restore_runs h hz hp hk hr, restore_takesImage why place sound]
    · rw [restored_pstate, before.pstate]
  · intro s v c host p img h hz hp hk hr why
    rw [restore_runs h hz hp hk hr, restore_refused why]
  · intro s v c host p img h hz hp hk hr why place
    rw [restore_runs h hz hp hk hr, restore_noPlace why place]

end Sys2Proof.Machine
end

section
/-! SUPPORT. Instances that issue: what the play sequencer has seen of the one it picks (R197, R198), and what its work
comes to once its sources are here (R82, R300). -/

namespace Sys2Proof.Machine

open Sys2Proof

/-- What a unit issues next is ready on that unit's sequencer. -/
theorem Issues.ready {s : State} {w : Who} {p : PInstr} (h : Issues s w p) :
    ∃ q, seqOf s w.unit = some q ∧ Machine.ready s q w p = true := by
  unfold Issues pick at h
  split at h
  next q g hq _ =>
    have chosen : ∀ y, some (w, p) = some y →
        y ∈ ([Stream.U, .B, .F].filterMap (nextInst g q)).filter fun x => Machine.ready s q x.1 x.2 := by
      rw [← h]
      refine List.foldlRecOn _ _ (motive := fun best => ∀ y, best = some y → y ∈ _) (fun _ e => nomatch e)
        fun best ih x hx y e => ?_
      split at e
      · exact Option.some.inj e ▸ hx
      · split at e
        · exact Option.some.inj e ▸ hx
        · exact ih y e
    exact ⟨q, hq, (List.mem_filter.1 (chosen (w, p) rfl)).2⟩
  · exact nomatch h

/-- Only streams that run issue (R25). -/
theorem Issues.streamRuns {s : State} {w : Who} {p : PInstr} (h : Issues s w p) :
    Machine.streamRuns s w.stream = true := by
  obtain ⟨q, -, hr⟩ := h.ready
  simp only [Machine.ready, Bool.and_eq_true] at hr
  obtain ⟨⟨⟨⟨⟨⟨-, runs⟩, -⟩, -⟩, -⟩, -⟩, -⟩ := hr
  exact runs

/-- What a unit issues next, when it is of the wanted kind, issues and does its work. -/
theorem issue_picked {s : State} {w : Who} {p : PInstr} {want : State → PInstr → Bool} (h : Issues s w p)
    (hw : want s p = true) (work : State → Who → PInstr → State) :
    issue s w.unit want work = .next (work (issued s w p) w p) := by
  unfold issue
  rw [h]
  exact if_pos hw

/-- With every source here the work runs, in the state that the reads leave. -/
theorem withSources_here {s : State} {w : Who} {rs : List (Nat × Nat)} (h : Here s w.unit rs) (k : State → State)
    (input : WorkIn) : withSources s w rs k input = afterWork w (k (workState s w rs)) := by
  obtain ⟨sound, here⟩ := h
  unfold withSources
  rw [sound, here]
  rfl

/-- Work whose blocks pass their first check runs on what was delivered. -/
theorem checked_passes {s : State} {w : Who} {stale : List (Nat × Byte)} {bad : Reader → Option (BlockDesc × Skew)}
    (h : bad (overlay stale (peek s w.unit)) = none) (work : Reader → State → State)
    (drop : Reader → BlockDesc → Nat → List (Nat × Byte) → List (Nat × Byte)) (input : WorkIn) :
    checked s w stale [] bad work drop input = work (overlay stale (peek s w.unit)) s := by
  unfold checked
  dsimp only
  rw [h]
  rfl

/-- A block that fails its first check is refetched, past what prefetch buffers hold from it on (R82). -/
def refetchOf (s : State) (w : Who) (d : BlockDesc) (e : Skew) (stale : List (Nat × Byte)) (input : WorkIn) : State :=
  { s with beat := { s.beat with refetch := s.beat.refetch ++
      [{ who := w, stale := stale, blocks := [(d.data, e.b)], input := input }] } }

theorem checked_refetches {s : State} {w : Who} {stale : List (Nat × Byte)} {bad : Reader → Option (BlockDesc × Skew)}
    {d : BlockDesc} {e : Skew} (h : bad (overlay stale (peek s w.unit)) = some (d, e)) (work : Reader → State → State)
    (drop : Reader → BlockDesc → Nat → List (Nat × Byte) → List (Nat × Byte)) (input : WorkIn) :
    checked s w stale [] bad work drop input = refetchOf s w d e (drop (peek s w.unit) d e.b stale) input := by
  unfold checked
  dsimp only
  rw [h]
  rfl

/-- While a reader refetches, what its remote reads brought is kept. -/
theorem afterWork_refetchOf (s : State) (w : Who) (d : BlockDesc) (e : Skew) (stale : List (Nat × Byte)) (input : WorkIn) :
    afterWork w (refetchOf s w d e stale input) = refetchOf s w d e stale input := by
  refine if_pos ?_
  simp [keepsArrivals, refetchOf]

end Sys2Proof.Machine
end

section
/-! SUPPORT. What a signal to a token of this module changes, and the only tracker, layer or version record of a state. -/

namespace Sys2Proof.Machine

open Sys2Proof

theorem live_of_running {s : State} (h : s.pstate = .running) : live s = true := by simp [live, h]

theorem replayInbound_idle {s : State} (h : s.journal.replay = none) : replayInbound s = s := by
  unfold replayInbound
  rw [h]
  rfl

/-! ### Token faults and signals (R200, R201) -/

/-- A halting fault is noted in the beat and nowhere else. -/
theorem raiseFault_eq (s : State) (cause bit : Nat) : ∃ b : Beat, raiseFault s cause bit = { s with beat := b } := by
  unfold raiseFault
  split
  · exact ⟨_, rfl⟩
  · exact ⟨s.beat, rfl⟩

/-- A token fault posts its event, and the beat notes it. -/
theorem tokenFault_eq (s : State) (unit tok c : Nat) : ∃ b : Beat, tokenFault s unit tok c =
    { post s 0x0804 (packed [(2, unit), (4, tok), (4, c)]) with beat := b } := raiseFault_eq ..

@[simp] theorem tokenFault_mem (s : State) (unit tok c : Nat) : (tokenFault s unit tok c).mem = s.mem := by
  obtain ⟨_, h⟩ := tokenFault_eq s unit tok c
  simp [h]
@[simp] theorem tokenFault_seqs (s : State) (unit tok c : Nat) : (tokenFault s unit tok c).seqs = s.seqs := by
  obtain ⟨_, h⟩ := tokenFault_eq s unit tok c
  simp [h]
@[simp] theorem tokenFault_versions (s : State) (unit tok c : Nat) : (tokenFault s unit tok c).versions = s.versions := by
  obtain ⟨_, h⟩ := tokenFault_eq s unit tok c
  simp [h]
@[simp] theorem tokenFault_journal (s : State) (unit tok c : Nat) : (tokenFault s unit tok c).journal = s.journal := by
  obtain ⟨_, h⟩ := tokenFault_eq s unit tok c
  simp [h]

/-- What a signal can do: nothing where no sequencer has the unit, or one token of its sequencer changes, with a token fault
or without. -/
theorem applySignal_cases (s : State) (unit tok mode n parity : Nat) :
    (seqOf s unit = none ∧ applySignal s unit tok mode n parity = s) ∨
    ∃ q, seqOf s unit = some q ∧
      let r := signalToken (tokenOf q tok) mode n parity
      let t := updSeq s unit fun q => { q with tokens := q.tokens.set tok r.1 }
      (applySignal s unit tok mode n parity = t ∨ ∃ c, applySignal s unit tok mode n parity = tokenFault t unit tok c) := by
  unfold applySignal
  split
  next h => exact .inl ⟨h, rfl⟩
  next q h =>
    refine .inr ⟨q, h, ?_⟩
    dsimp only
    split
    next c _ => exact .inr ⟨c, rfl⟩
    · exact .inl rfl

@[simp] theorem applySignal_mem (s : State) (unit tok mode n parity : Nat) :
    (applySignal s unit tok mode n parity).mem = s.mem := by
  obtain ⟨-, h⟩ | ⟨q, -, h | ⟨c, h⟩⟩ := applySignal_cases s unit tok mode n parity <;> simp [h]
@[simp] theorem applySignal_versions (s : State) (unit tok mode n parity : Nat) :
    (applySignal s unit tok mode n parity).versions = s.versions := by
  obtain ⟨-, h⟩ | ⟨q, -, h | ⟨c, h⟩⟩ := applySignal_cases s unit tok mode n parity <;> simp [h]
@[simp] theorem applySignal_journal (s : State) (unit tok mode n parity : Nat) :
    (applySignal s unit tok mode n parity).journal = s.journal := by
  obtain ⟨-, h⟩ | ⟨q, -, h | ⟨c, h⟩⟩ := applySignal_cases s unit tok mode n parity <;> simp [h]

/-- What a signal makes of the sequencers. -/
theorem applySignal_seqs (s : State) (unit tok mode n parity : Nat) : (applySignal s unit tok mode n parity).seqs =
    match seqOf s unit with
    | none => s.seqs
    | some q => (updSeq s unit fun x =>
        { x with tokens := x.tokens.set tok (signalToken (tokenOf q tok) mode n parity).1 }).seqs := by
  obtain ⟨hq, h⟩ | ⟨q, hq, h | ⟨c, h⟩⟩ := applySignal_cases s unit tok mode n parity <;> simp [h, hq]

/-- It depends on the sequencers alone. -/
theorem applySignal_seqs_congr {s t : State} (h : s.seqs = t.seqs) (unit tok mode n parity : Nat) :
    (applySignal s unit tok mode n parity).seqs = (applySignal t unit tok mode n parity).seqs := by
  simp only [applySignal_seqs, seqOf, updSeq, h]

/-! ### The only tracker, layer or version record -/

theorem trackerOf_only {s : State} {t : Tracker} (h : s.scales.trackers = [t]) : trackerOf s t.tensor = some t := by
  simp [trackerOf, h]

theorem updTracker_only {s : State} {t : Tracker} (h : s.scales.trackers = [t]) (f : Tracker → Tracker) :
    updTracker s t.tensor f = { s with scales := { s.scales with trackers := [f t] } } := by
  simp [updTracker, h]

theorem layerOf_only {s : State} {l : LayerState} (h : s.scales.layers = [l]) : layerOf s l.layer = some l := by
  simp [layerOf, h]

theorem updLayer_only {s : State} {l : LayerState} (h : s.scales.layers = [l]) (f : LayerState → LayerState) :
    updLayer s l.layer f = { s with scales := { s.scales with layers := [f l] } } := by
  simp [updLayer, h]

theorem versionOf_only {s : State} {v : VState} (h : s.versions = [v]) : versionOf s v.record = some v := by
  simp [versionOf, h]

theorem updVersion_only {s : State} {v : VState} (h : s.versions = [v]) (f : VState → VState) :
    updVersion s v.record f = { s with versions := [f v] } := by
  simp [updVersion, h]

/-! ### The two slots of a version record (R230) -/

theorem VState.slot_setSlot (v : VState) (i : Nat) (x : VSlot) : (v.setSlot i x).slot i = x := by
  unfold VState.slot VState.setSlot
  split <;> rfl

/-- Writing the slot of one epoch leaves that of the next. -/
theorem VState.slot_succ_setSlot (v : VState) (i : Nat) (x : VSlot) : (v.setSlot i x).slot (i + 1) = v.slot (i + 1) := by
  unfold VState.slot VState.setSlot
  rcases Nat.mod_two_eq_zero_or_one i with h | h
  · simp [h, show (i + 1) % 2 = 1 by omega]
  · simp [h, show (i + 1) % 2 = 0 by omega]

/-- Writing the slot of the next epoch leaves that of this one. -/
theorem VState.slot_setSlot_succ (v : VState) (i : Nat) (x : VSlot) : (v.setSlot (i + 1) x).slot i = v.slot i := by
  unfold VState.slot VState.setSlot
  rcases Nat.mod_two_eq_zero_or_one i with h | h
  · simp [h, show (i + 1) % 2 = 1 by omega]
  · simp [h, show (i + 1) % 2 = 0 by omega]

end Sys2Proof.Machine
end

section
/-! Updates, version slots, the headroom halving and the stall alarm. -/

namespace Sys2Proof.Machine

open Sys2Proof

/-! ### Updates (R229, R233) -/

/-- A main pass that issues with its sources here does its checked work. -/
theorem updateMainPass_here {s : State} {w : Who} {p : PInstr} {g : Program} {stale : List (Nat × Byte)} (h : Issues s w p)
    (ready : updateReady 0 s p = true) (hg : s.program = some g) :
    let u := parseUpdate (descOf g p.desc)
    let s' := if u.fwd = 0xFFFF then issued s w p else startAway (issued s w p) u.fwd
    let idx := (mainBlocks s' g u (instSpans w p)).flatMap fun x => x.2.filterMap id
    let rs := mainRanges (peek s' w.unit) s' g u idx ++ copyBumps s' g u.fwd (instSpans w p)
    let t := workState s' w rs
    Here s' w.unit rs → exec (.updateMainPass w.unit stale) s = .next (afterWork w
      (checked t w stale [] (momentFault t w.unit g u idx) (mainPass w p g u) (input := { stale := stale }))) := by
  intro u s' idx rs t here
  have issues : exec (.updateMainPass w.unit stale) s = .next (mainWork (issued s w p) w p stale []) :=
    issue_picked h ready fun s w i => mainWork s w i stale []
  have resolved : (issued s w p).program = some g := hg
  rw [issues, mainWork, resolved]
  exact congrArg Host.Outcome.next (withSources_here here _ _)

/-- A copy pass that issues with its sources here writes its copy. -/
theorem updateCopyPass_here {s : State} {w : Who} {p : PInstr} {g : Program} (h : Issues s w p)
    (ready : updateReady 1 s p = true) (hg : s.program = some g) :
    let u := parseUpdate (descOf g p.desc)
    let k := s.step.toNat + 1
    let s' := startAway (issued s w p) u.trans
    let rs := copyRanges g u.trans k (instSpans w p) ++ copyBumps s g u.trans (instSpans w p)
    u.trans ≠ 0xFFFF → Here s' w.unit rs → exec (.updateCopyPass w.unit) s =
      .next (afterWork w (copyPass w g u k (instSpans w p) (workState s' w rs))) := by
  intro u k s' rs hu here
  have issues : exec (.updateCopyPass w.unit) s = .next (copyWork (issued s w p) w p) := issue_picked h ready _
  have resolved : (issued s w p).program = some g := hg
  rw [issues, copyWork, resolved]
  exact congrArg Host.Outcome.next ((if_neg hu).trans (withSources_here here _ _))

/-! ### Version slots (R233) -/

/-- A slot that is held or empty starts to be written once its reference token reads 0. -/
theorem startAway_starts {s : State} {g : Program} {v : VState} {record : Nat} (hg : s.program = some g)
    (hv : versionOf s record = some v)
    (cond : (v.slot (s.step.toNat + 1)).cond = .held ∨ (v.slot (s.step.toNat + 1)).cond = .empty)
    (free : tokenValue s v.unit ((parseVersion (descOf g record)).refToken (s.step.toNat + 1)) = 0) :
    startAway s record = updVersion s record fun v => { v.setSlot (s.step.toNat + 1)
      { v.slot (s.step.toNat + 1) with fmt := copyFormat s g record, cond := .writing } with spans := [] } := by
  have notWriting : (v.slot (s.step.toNat + 1)).cond ≠ .writing := by rcases cond with h | h <;> simp [h]
  have notSwapped : swapped s v = false := by rcases cond with h | h <;> simp [swapped, h]
  simp [startAway, hg, hv, notWriting, notSwapped, free]

/-- A version record once the copy of epoch `i` has become home and the other slot is held (R233 step 4). -/
def VState.swapHome (v : VState) (i : Nat) : VState :=
  let v := v.setSlot i { v.slot i with cond := .home, tag := BitVec.ofNat 16 i }
  { v.setSlot (i + 1) { v.slot (i + 1) with cond := .held } with last := none }

theorem VState.swapHome_slot (v : VState) (i : Nat) :
    (v.swapHome i).slot i = { v.slot i with cond := .home, tag := BitVec.ofNat 16 i } :=
  (VState.slot_setSlot_succ _ _ _).trans (VState.slot_setSlot _ _ _)

theorem VState.swapHome_slot_succ (v : VState) (i : Nat) :
    (v.swapHome i).slot (i + 1) = { v.slot (i + 1) with cond := .held } := by
  refine (VState.slot_setSlot _ _ _).trans ?_
  rw [VState.slot_succ_setSlot]

/-- With every span written, none waiting for the swap and the home slot's reference token at 0, the slots swap and the epoch token
is signalled. -/
theorem swapSlots_swaps {s : State} {g : Program} {v : VState} {record : Nat} (hg : s.program = some g)
    (hv : versionOf s record = some v) (writing : (v.slot (s.step.toNat + 1)).cond = .writing) (hl : v.last = none)
    (full : (List.range (ceilDiv (parseBlock (descOf g ((parseVersion (descOf g record)).slotDesc (s.step.toNat + 1)))).n
      256)).all v.spans.contains = true)
    (free : tokenValue s v.unit ((parseVersion (descOf g record)).refToken (s.step.toNat + 2)) = 0) :
    swapSlots s record = applySignal (updVersion s record fun v => v.swapHome (s.step.toNat + 1)) v.unit
      (parseVersion (descOf g record)).epochToken 1 1 0 := by
  unfold swapSlots
  rw [hg, hv]
  dsimp only
  rw [if_pos ⟨writing, full, free⟩, hl]
  rfl

/-! ### Headroom halving (R145) -/

/-- A halving that is due, on the only tracker. -/
theorem headroomHalving_due {s : State} {d : TrackDesc} {t : Tracker} (hd : trackDescOf s d.tensor = some d)
    (ht : s.scales.trackers = [t]) (same : t.tensor = d.tensor) (written : t.last.written = true)
    (steps : d.headSteps ≤ t.headroom) :
    let u : State := { s with scales := { s.scales with trackers := [halveHeadroom t] } }
    exec (.headroomHalving d.tensor) s = .next (if t.adj < 15 then
      post u 0x0602 (packed [(4, d.tensor), (4, s.step.toNat), (4, (BitVec.ofInt 32 (-((t.adj : Int) + 1))).toNat)])
      else u) := by
  have due : halveDue d t = true := by simp [halveDue, written, steps]
  have runs : exec (.headroomHalving d.tensor) s = .next (halve s d) := by
    change execHeadroomHalving _ s = _
    simp [execHeadroomHalving, hd]
  rw [runs, halve, ← same, trackerOf_only ht]
  dsimp only
  rw [if_pos due, updTracker_only ht]

/-! ### The stall alarm (R151) -/

/-- An alarm that is due, on the only layer. -/
theorem stallAlarm_due {s : State} {g : Program} {d : LayerDesc} {l : LayerState} (hg : s.program = some g)
    (hd : (layerDescs g).find? (fun x => x.layer == d.layer) = some d) (hl : s.scales.layers = [l]) (same : l.layer = d.layer)
    (due : stallDue d l = true) :
    exec (.stallAlarm d.layer) s = .next (post { s with scales := { s.scales with layers :=
      [{ l with alarm := true, pauseAsked := l.pauseAsked || bitAt d.flags 1 }] } } 0x0603
      (packed [(2, d.layer), (4, s.step.toNat), (4, l.ratio.toNat)])) := by
  have runs : exec (.stallAlarm d.layer) s = .next (raiseStall s d) := by
    change execStallAlarm _ s = _
    simp [execStallAlarm, hg, hd]
  rw [runs, raiseStall, ← same, layerOf_only hl]
  dsimp only
  rw [if_pos due, updLayer_only hl]

/-- Settles O50, clause by clause: the instances that issue with their sources here, the slots of the only version record, the
only tracker and the only layer, and the stream that the sequencer picks from. -/
theorem updatesAndSlots : Obligations.UpdatesAndSlots := by
  refine ⟨?_, ?_, ?_, ?_, ?_, ?_, ?_, ?_⟩
  · intro s w p g stale h _ _ ready hg u s' idx rs t rd here
    have runs := updateMainPass_here (stale := stale) h ready hg here
    refine ⟨fun sound => ?_, fun d e bad => ?_⟩
    · rw [runs, checked_passes sound]
    · rw [runs, checked_refetches bad, afterWork_refetchOf]
      rfl
  · intro s w p g h _ _ ready hg
    exact updateCopyPass_here h ready hg
  · intro s g v running committed hg hv cond free
    have runs : exec (.awaySlotWriteStart v.record) s = .next (startAway s v.record) :=
      if_pos ⟨live_of_running running, committed⟩
    rw [runs, startAway_starts hg (versionOf_only hv) cond free, updVersion_only hv]
  · intro s g v running idle hg hv writing hl full free
    let u := updVersion s v.record fun v => v.swapHome (s.step.toNat + 1)
    let t := applySignal u v.unit (parseVersion (descOf g v.record)).epochToken 1 1 0
    have runs : exec (.versionSlotSwap v.record) s = .next (replayInbound (swapSlots s v.record)) :=
      if_pos (live_of_running running)
    have still : replayInbound t = t := replayInbound_idle (by simpa [t, u] using idle)
    refine ⟨t, v.swapHome (s.step.toNat + 1), ?_, by simp [t, u, updVersion_only hv], ?_, ?_, ?_, ?_,
      applySignal_seqs_congr (updVersion_seqs ..) .., by simp [t, u]⟩
    · rw [runs, swapSlots_swaps hg (versionOf_only hv) writing hl full free, still]
    · rw [v.swapHome_slot]
    · rw [v.swapHome_slot]
    · rw [v.swapHome_slot_succ]
    · rw [v.swapHome_slot_succ]
  · intro s d t hd ht same written steps below
    rw [headroomHalving_due hd ht same written steps, if_pos below, halveHeadroom, if_pos below]
  · intro s d t hd ht same written steps floor
    have low : ¬ t.adj < 15 := by omega
    rw [headroomHalving_due hd ht same written steps, if_neg low, halveHeadroom, if_neg low]
  · intro s g d l hg hd hl same on quiet steps below
    exact stallAlarm_due hg hd hl same (by simp [stallDue, on, quiet, steps, below])
  · intro s w p h hU
    simpa [streamRuns, hU] using h.streamRuns

end Sys2Proof.Machine
end

section
/-! Codes of the block formats, infinities and NaN in K8, and the width of a code. -/

namespace Sys2Proof.Machine

open Sys2Proof

/-! ### A conversion stays within the code's width (R33, R37, R38) -/

/-- Below the sign bit there is room for the magnitude after the largest finite one, that of infinity. -/
theorem maxOrd_succ_lt (f : Fmt) : maxOrd f + 1 < 2 ^ (codeBits f - 1) := by cases f <;> decide

theorem nanCode_lt (f : Fmt) : nanCode f < 2 ^ codeBits f := by cases f <;> decide

theorem overflowOrd_le (f : Fmt) (rnd : Rnd) (neg : Bool) : overflowOrd f rnd neg ≤ maxOrd f + 1 := by
  unfold overflowOrd
  cases rnd <;> cases neg <;> simp

/-- A sign over a magnitude up to that of infinity. -/
theorem signed_lt {f : Fmt} {o : Nat} (neg : Bool) (h : o ≤ maxOrd f + 1) : signed f neg o < 2 ^ codeBits f := by
  have room := maxOrd_succ_lt f
  have double : 2 ^ codeBits f = 2 ^ (codeBits f - 1) + 2 ^ (codeBits f - 1) := by cases f <;> rfl
  unfold signed
  split <;> omega

/-- What a conversion writes is the canonical NaN, or a sign over a magnitude up to that of infinity. -/
theorem convert_cases (f : Fmt) (rnd : Rnd) (w : Int) (r : Nat) (v : Val) :
    convert f rnd w r v = nanCode f ∨ ∃ neg o, o ≤ maxOrd f + 1 ∧ convert f rnd w r v = signed f neg o := by
  unfold convert convertFull
  split
  · exact .inl rfl
  next n =>
    right
    split
    · exact ⟨n, maxOrd f, by omega, rfl⟩
    · exact ⟨n, maxOrd f + 1, le_rfl, rfl⟩
  next n _ => exact .inr ⟨n, 0, by omega, rfl⟩
  next n m e _ =>
    right
    dsimp only
    split
    · exact ⟨n, maxOrd f, by omega, rfl⟩
    · split
      · exact ⟨n, overflowOrd f rnd n, overflowOrd_le f rnd n, rfl⟩
      next inRange => exact ⟨n, _, by omega, rfl⟩

theorem convert_lt (f : Fmt) (rnd : Rnd) (w : Int) (r : Nat) (v : Val) : convert f rnd w r v < 2 ^ codeBits f := by
  obtain h | ⟨neg, o, ho, h⟩ := convert_cases f rnd w r v
  · rw [h]
    exact nanCode_lt f
  · rw [h]
    exact signed_lt neg ho

/-! ### Infinities and NaN in a block (R57) -/

theorem blockConvert_inf (f : BFmt) (s : Nat) (rnd : Rnd) (w : Int) (r : Nat) (neg : Bool) :
    blockConvert f s rnd w r (.inf neg) = blockCode f neg (blockMaxOrd f) := rfl

theorem blockConvert_nan (f : BFmt) (s : Nat) (rnd : Rnd) (w : Int) (r : Nat) :
    blockConvert f s rnd w r .nan = if isBlocked f then 0x7F else 0 := rfl

/-- Settles O44: the finite tables of codes by evaluation, infinities and NaN from the equations of the conversions, and the
width from the magnitudes that a conversion can write. -/
theorem numberCodes : Obligations.NumberCodes := by
  refine ⟨⟨by decide, by decide, rfl, ?_⟩, ⟨by decide, by decide, rfl, ?_⟩, by decide, ?_, ?_, ?_, convert_lt⟩
  · decide
  · decide
  · intro f
    cases f <;> decide
  · intro rnd w r
    exact ⟨rfl, rfl, rfl, rfl, rfl, rfl⟩
  · intro f s rnd w r blocked
    rw [blockConvert_inf, blockConvert_inf, blockConvert_nan]
    rcases blocked with rfl | rfl <;> decide

end Sys2Proof.Machine
end

section
/-! SUPPORT. What an instance's write leaves of the stage sequencers: each keeps its unit. -/

namespace Sys2Proof.Machine

open Sys2Proof

/-- The sequencers stand for the same units, in the same order. -/
def SameUnits (s t : State) : Prop := t.seqs.map (·.unit) = s.seqs.map (·.unit)

theorem SameUnits.of_seqs {s t : State} (h : t.seqs = s.seqs) : SameUnits s t := congrArg _ h

theorem SameUnits.refl (s : State) : SameUnits s s := rfl

theorem SameUnits.after {s t u : State} (k : SameUnits t u) (h : SameUnits s t) : SameUnits s u := Eq.trans k h

theorem SameUnits.ite {c : Prop} [Decidable c] {s t u : State} (h : SameUnits s t) (k : SameUnits s u) :
    SameUnits s (if c then t else u) := by
  split
  · exact h
  · exact k

theorem SameUnits.foldl {α : Type} (f : State → α → State) (h : ∀ s a, SameUnits s (f s a)) :
    ∀ (l : List α) (s : State), SameUnits s (l.foldl f s)
  | [], s => .refl s
  | a :: l, s => (SameUnits.foldl f h l (f s a)).after (h s a)

/-- A change of the sequencers that keeps each one's unit. -/
theorem SameUnits.mapSeqs (s : State) (f : SeqUnit → SeqUnit) (h : ∀ q, (f q).unit = q.unit) :
    SameUnits s { s with seqs := s.seqs.map f } := by
  simp [SameUnits, Function.comp_def, h]

/-- The same of the sequencers of one unit. -/
theorem SameUnits.mapUnit (s : State) (unit : Nat) (f : SeqUnit → SeqUnit) (h : ∀ q, (f q).unit = q.unit) :
    SameUnits s (updSeq s unit f) :=
  .mapSeqs s _ fun q => by
    split
    · exact h q
    · rfl

theorem Posts.sameUnits {s t : State} (h : Posts s t) : SameUnits s t := .of_seqs h.seqs

theorem unbuffered_units (qs : List SeqUnit) : (unbuffered qs).map (·.unit) = qs.map (·.unit) := by
  simp [unbuffered, Function.comp_def]

theorem Flushes.sameUnits {s t : State} (h : Flushes s t) : SameUnits s t := by
  unfold SameUnits
  rw [← unbuffered_units t.seqs, h.2, unbuffered_units]

theorem accessFailed_sameUnits (s : State) (w : Who) (status addr : Nat) : SameUnits s (accessFailed s w status addr) := by
  unfold accessFailed
  dsimp only
  split
  · exact (post_posts ..).sameUnits
  · exact SameUnits.after (.of_seqs rfl) (post_posts ..).sameUnits

theorem addStripes_sameUnits (s : State) (w : Who) (ts : List Nat) : SameUnits s (addStripes s w ts) :=
  SameUnits.ite (.refl s) (.mapUnit s w.unit _ fun _ => rfl)

theorem addWaiting_sameUnits (s : State) (w : Who) (n : Nat) : SameUnits s (addWaiting s w n) :=
  .mapUnit s w.unit _ fun _ => rfl

theorem memberUnreachable_sameUnits (s : State) (node : Word16) : SameUnits s (memberUnreachable s node) := by
  unfold memberUnreachable
  refine SameUnits.ite ?_ (.refl s)
  refine (post_posts ..).sameUnits.after <| SameUnits.after (SameUnits.foldl _ (fun u _ => ?_) _ _) (.of_seqs rfl)
  exact SameUnits.ite (.refl u) (.of_seqs (done_seqs ..))

theorem request_sameUnits (s : State) (typ : Nat) (addr : Word64) (len : Nat) (payload : List Byte) (o : Owner) :
    SameUnits s (request s typ addr len payload o).2 := by
  unfold request
  dsimp only
  split
  · exact memberUnreachable_sameUnits ..
  · exact .of_seqs rfl

theorem sendWrite_sameUnits (w : Who) (s : State) (x : Nat × Nat × List Byte) : SameUnits s (sendWrite w s x) :=
  SameUnits.ite ((addWaiting_sameUnits ..).after <| request_sameUnits ..)
    ((accessFailed_sameUnits ..).after <| request_sameUnits ..)

theorem writeLocal_sameUnits (s : State) (space off : Nat) (data : List Byte) :
    SameUnits s (writeLocal s space off data).2 := by
  rcases writeLocal_cases (s := s) (t := (writeLocal s space off data).2) (st := (writeLocal s space off data).1) rfl with
    ⟨-, failed⟩ | ⟨-, -, -, -, -, sram⟩ | ⟨-, -, -, -, dram⟩ | ⟨-, -, -, -, -, buffers⟩
  · exact .of_seqs (congrArg _ failed)
  · exact .of_seqs (congrArg State.seqs sram :)
  · exact SameUnits.after dram.sameUnits (.of_seqs rfl)
  · exact .of_seqs (congrArg State.seqs buffers :)

/-- A write of an instance, local or remote, done or failed. -/
theorem writeGlobal_sameUnits (s : State) (w : Who) (addr : Nat) (data : List Byte) :
    SameUnits s (writeGlobal s w addr data) := by
  have own : SameUnits s (ownWrite s w.unit addr data) := .of_seqs rfl
  have stored := writeLocal_sameUnits s (spaceOf addr) (offsetOf addr) data
  have noted : ∀ (u : State) (ws : List Wrote), SameUnits u { u with beat := { u.beat with writes := ws } } :=
    fun _ _ => .of_seqs rfl
  unfold writeGlobal
  refine SameUnits.ite (.refl s) <| SameUnits.ite ?_ <| SameUnits.ite (.refl s) <|
    (SameUnits.foldl _ (sendWrite_sameUnits w) _ _).after own
  dsimp only
  refine SameUnits.ite ((addStripes_sameUnits ..).after ?_) ((accessFailed_sameUnits ..).after ?_) <;>
    exact SameUnits.ite ((noted ..).after stored) stored

/-! ### The sequencer of a unit -/

theorem seqOf_isSome {s : State} {unit : Nat} : (seqOf s unit).isSome = true ↔ unit ∈ s.seqs.map (·.unit) := by
  simp [seqOf]

theorem SameUnits.seqOf_isSome {s t : State} {unit : Nat} (h : SameUnits s t) :
    (seqOf t unit).isSome = (seqOf s unit).isSome := by
  rw [Bool.eq_iff_iff, Machine.seqOf_isSome, Machine.seqOf_isSome, h]

/-- A unit's sequencer after a change of it that keeps its unit. -/
theorem seqOf_updSeq (s : State) (unit : Nat) (f : SeqUnit → SeqUnit) (h : ∀ q, (f q).unit = q.unit) :
    seqOf (updSeq s unit f) unit = (seqOf s unit).map f := by
  have same : ∀ q : SeqUnit, ((if q.unit == unit then f q else q).unit == unit) = (q.unit == unit) := by
    intro q
    split
    · rw [h]
    · rfl
  unfold seqOf updSeq
  rw [List.find?_map]
  simp only [Function.comp_def, same]
  cases found : s.seqs.find? (·.unit == unit) with
  | none => rfl
  | some q =>
    have mine : (q.unit == unit) = true := List.find?_some (p := fun q : SeqUnit => q.unit == unit) found
    exact congrArg some (if_pos mine)

/-! A stream that moves on leaves the rest of its sequencer. -/

@[simp] theorem SeqUnit.setPos_unit (q : SeqUnit) (t : Stream) (x : Nat × Nat) : (q.setPos t x).unit = q.unit := by
  cases t <;> rfl

@[simp] theorem SeqUnit.setPos_flags (q : SeqUnit) (t : Stream) (x : Nat × Nat) : (q.setPos t x).flags = q.flags := by
  cases t <;> rfl

@[simp] theorem SeqUnit.setPos_flight (q : SeqUnit) (t : Stream) (x : Nat × Nat) : (q.setPos t x).flight = q.flight := by
  cases t <;> rfl

end Sys2Proof.Machine
end

section
/-! Vector Engine and Row Engine instructions whose sources are here. -/

namespace Sys2Proof.Machine

open Sys2Proof

/-! ### Vector Engine operations (R165, R168, R204) -/

/-- An operation that issues with its sources here and its blocks sound runs. -/
theorem veInstr_here {s : State} {w : Who} {p : PInstr} {op : VeOp} {stale : List (Nat × Byte)} (hop : veOpIn s p = some op)
    (here : Here (issued s w p) w.unit (veSources (issued s w p) w op)) :
    let t := atWork s w p (veSources (issued s w p) w op)
    let rd := overlay stale (peek t w.unit)
    veFault t w op rd = none → veInstr (issued s w p) w p stale [] = afterWork w (veRun w op rd t) := by
  intro t rd sound
  have resolved : veOpIn (issued s w p) p = some op := hop
  rw [veInstr, resolved]
  exact (withSources_here here _ _).trans (congrArg (afterWork w) (checked_passes sound ..))

theorem isFlagRead_iff {s : State} {p : PInstr} {op : VeOp} (hop : veOpIn s p = some op) :
    isFlagRead s p = true ↔ op.fn = .flagRead := by
  simp [isFlagRead, hop]

/-- A unit with no ranges to read has all its sources. -/
theorem here_nil (s : State) (unit : Nat) : Here s unit [] := ⟨rfl, rfl⟩

/-! A flag read has no operands: it reads nothing, from a checkpoint's blocks or elsewhere. -/

theorem vePlaces_flagRead {op : VeOp} (h : op.fn = .flagRead) (s : State) (w : Who) : vePlaces s w op = [] := by
  simp [vePlaces, veArgs, veArity, h]

theorem veSources_flagRead {op : VeOp} (h : op.fn = .flagRead) (s : State) (w : Who) : veSources s w op = [] := by
  unfold veSources
  rw [vePlaces_flagRead h]
  cases s.program <;> simp [veReads, veEncoderReads, veArity, h]

theorem veFault_flagRead {op : VeOp} (h : op.fn = .flagRead) (s : State) (w : Who) (rd : Reader) :
    veFault s w op rd = none := by
  simp [veFault, vePlaces_flagRead h, h]

theorem veRun_flagRead {op : VeOp} (h : op.fn = .flagRead) (w : Who) (rd : Reader) (s : State) :
    veRun w op rd s = veReadFlags w op s := by
  simp [veRun, notePlaces, vePlaces_flagRead h, h]

/-- The flags of a unit as one of its instances issues. -/
theorem atWork_flags {s : State} {w : Who} {q : SeqUnit} (hq : seqOf s w.unit = some q) (p : PInstr)
    (rs : List (Nat × Nat)) : (seqOf (atWork s w p rs) w.unit).map (·.flags) = some q.flags := by
  have kept : seqOf (atWork s w p rs) w.unit = seqOf (issued s w p) w.unit := by
    unfold seqOf
    rw [atWork, workState_seqs]
  rw [kept, issued, seqOf_updSeq, hq]
  · simp
  · simp

theorem afterWork_seqs (w : Who) (s : State) : (afterWork w s).seqs = s.seqs := by
  unfold afterWork
  split
  · rfl
  · rfl

/-- A unit's flags once they are cleared. -/
theorem clearedFlags {s : State} {unit : Nat} (h : (seqOf s unit).isSome = true) :
    (seqOf (updSeq s unit fun q => { q with flags := 0 }) unit).map (·.flags) = some 0 := by
  obtain ⟨q, hq⟩ := Option.isSome_iff_exists.1 h
  rw [seqOf_updSeq s unit (fun q => { q with flags := 0 }) fun _ => rfl, hq]
  rfl

/-! ### Row Engine operations (R165 to R175) -/

/-- A row operation that issues with its sources here and its blocks sound runs over its rows. -/
theorem rowIssue_here {s : State} {w : Who} {p : PInstr} {op : Nat} {lost : List Nat} (h : Issues s w p) (cls : p.cls = 4)
    (hop : (rowDescOf s p).op = op) :
    let d := rowDescOf s p
    let rs := rowReads (issued s w p) w d
    let t := atWork s w p rs
    let rd := overlay [] (peek t w.unit)
    Here (issued s w p) w.unit rs → rowFault t w d rd = none →
      rowIssue op w.unit lost s = .next (afterWork w (rowRun op lost rd w d (noteRowReads t w d))) := by
  intro d rs t rd here sound
  subst hop
  have issues : rowIssue (rowDescOf s p).op w.unit lost s = .next (rowWork (issued s w p) w d { lost := lost } []) :=
    issue_picked h (by simp [cls]) _
  have runs : rowWork (issued s w p) w d { lost := lost } [] =
      afterWork w (checked t w [] [] (rowFault t w d)
        (fun rd s => rowRun d.op lost rd w d (noteRowReads s w d)) (input := { lost := lost })) := withSources_here here _ _
  rw [issues, runs, checked_passes sound]

/-- Settles O48: an operation or a row instance that issues with its sources here runs on what they hold, and a flag read, which
reads nothing, clears the flags of its own sequencer. -/
theorem vectorAndRows : Obligations.VectorAndRows := by
  refine ⟨?_, ?_, ?_⟩
  · intro s w p op stale h cls hop notRead here t rd sound
    have wanted : (p.cls == 3 && !isFlagRead s p) = true := by
      simp [cls, isFlagRead, hop, notRead]
    have issues : exec (.veOperation w.unit stale) s = .next (veInstr (issued s w p) w p stale []) :=
      issue_picked (want := fun s p => p.cls == 3 && !isFlagRead s p) h wanted fun s w p => veInstr s w p stale []
    rw [issues, veInstr_here hop here sound]
  · intro s w p op td ve q h cls hop read unit hq u
    have wanted : (p.cls == 3 && isFlagRead s p) = true := by
      simp [cls, isFlagRead, hop, read]
    have issues : exec (.veFlagRead td ve) s = .next (veInstr (issued s w p) w p [] []) := by
      change execVeFlagRead td ve s = _
      rw [execVeFlagRead, ← unit]
      exact issue_picked h wanted _
    have nothing := veSources_flagRead read (issued s w p) w
    have runs : veInstr (issued s w p) w p [] [] = afterWork w (veReadFlags w op (atWork s w p [])) := by
      rw [veInstr_here hop (nothing ▸ here_nil _ _) (veFault_flagRead read ..), veRun_flagRead read, nothing]
    have flags := atWork_flags hq p []
    have clears : veReadFlags w op (atWork s w p []) = updSeq u w.unit fun q => { q with flags := 0 } := by
      simp only [veReadFlags, flags, Option.getD_some, u]
    have known : (seqOf u w.unit).isSome = true := by
      rw [(writeGlobal_sameUnits ..).seqOf_isSome]
      simpa using congrArg Option.isSome flags
    refine ⟨_, issues, by rw [runs, clears], ?_⟩
    rw [runs, clears, seqOf, afterWork_seqs]
    exact clearedFlags known
  · intro s w p h cls d rs t' rd t here sound
    refine ⟨fun op => ?_, fun op lost => ?_, fun op => ?_, fun op lost => ?_, fun op => ?_, fun op lost => ?_, fun op => ?_⟩
    all_goals exact rowIssue_here h cls op here sound

end Sys2Proof.Machine
end

section
/-! SUPPORT. An instance that is alone in flight on its unit: it leaves the flight and its signal goes (R191, R197). -/

namespace Sys2Proof.Machine

open Sys2Proof

/-- What a unit issues next is the next instance of one of its streams. -/
theorem Issues.nextInst {s : State} {w : Who} {p : PInstr} (h : Issues s w p) : ∃ q g t, seqOf s w.unit = some q ∧
    (s.program.bind fun p => stageOf p w.unit) = some g ∧ Machine.nextInst g q t = some (w, p) := by
  unfold Issues pick at h
  split at h
  next q g hq hg =>
    have chosen : ∀ y, some (w, p) = some y → ∃ t, Machine.nextInst g q t = some y := by
      rw [← h]
      refine List.foldlRecOn _ _ (motive := fun best => ∀ y, best = some y → ∃ t, Machine.nextInst g q t = some y)
        (fun _ e => nomatch e) fun best ih x hx y e => ?_
      have next : ∃ t, Machine.nextInst g q t = some x := by
        obtain ⟨t, -, ht⟩ := List.mem_filterMap.1 (List.mem_filter.1 hx).1
        exact ⟨t, ht⟩
      split at e
      · exact Option.some.inj e ▸ next
      · split at e
        · exact Option.some.inj e ▸ next
        · exact ih y e
    obtain ⟨t, ht⟩ := chosen (w, p) rfl
    exact ⟨q, g, t, hq, hg, ht⟩
  · exact nomatch h

/-- It is an instance of the instruction that its stream holds there. -/
theorem Issues.instrOf {s : State} {w : Who} {p : PInstr} (h : Issues s w p) : Machine.instrOf s w = some p := by
  obtain ⟨q, g, t, -, hg, ht⟩ := h.nextInst
  obtain ⟨p', hp, same⟩ := Option.map_eq_some_iff.1 ht
  cases same
  rw [Machine.instrOf, hg]
  exact hp

/-- Two updates of a unit's sequencer, the first of which keeps its unit, are one. -/
theorem updSeq_updSeq (s : State) (unit : Nat) (f g : SeqUnit → SeqUnit) (h : ∀ q, (f q).unit = q.unit) :
    updSeq (updSeq s unit f) unit g = updSeq s unit fun q => g (f q) := by
  unfold updSeq
  simp only [List.map_map]
  congr 1
  refine List.map_congr_left fun q _ => ?_
  by_cases mine : q.unit = unit <;> simp [mine, h]

/-- Two updates that agree on a unit's sequencers are one. -/
theorem updSeq_congr {s : State} {unit : Nat} {f g : SeqUnit → SeqUnit} (h : ∀ q ∈ s.seqs, q.unit = unit → f q = g q) :
    updSeq s unit f = updSeq s unit g := by
  unfold updSeq
  congr 1
  refine List.map_congr_left fun q hq => ?_
  by_cases mine : q.unit = unit
  · simp [mine, h q hq mine]
  · simp [mine]

theorem sameInst_iff {w : Who} {f : InFlight} :
    sameInst w f = true ↔ f.stream = w.stream ∧ f.index = w.index ∧ f.inst = w.inst := by
  simp [sameInst, and_assoc]

/-- The instance leaves its unit's flight. -/
def leaveFlight (s : State) (w : Who) : State :=
  updSeq s w.unit fun q => { q with flight := q.flight.filter fun x => !sameInst w x }

/-- Whether an instance is finished makes no difference to its leaving. -/
theorem leaveFlight_markFinished (s : State) (w : Who) : leaveFlight (markFinished s w) w = leaveFlight s w := by
  refine (updSeq_updSeq s w.unit _ _ (by intro _; rfl)).trans ?_
  unfold leaveFlight
  congr 1
  funext q
  congr 1
  have left : ∀ x, (!sameInst w (if sameInst w x then { x with finished := true } else x)) = !sameInst w x := by
    intro x
    split
    · rfl
    · rfl
  simp only [List.filter_map, Function.comp_def, left]
  refine (List.map_congr_left fun x hx => ?_).trans (List.map_id' _)
  have other : sameInst w x = false := by simpa using (List.mem_filter.1 hx).2
  simp [other]

/-- The first of a stream in flight, finished and waiting for nothing, leaves and its signal goes. -/
theorem deliverFrom_succ {s : State} {w : Who} {p : PInstr} {q : SeqUnit} {f : InFlight} (n : Nat)
    (hq : seqOf s w.unit = some q) (first : q.flight.find? (·.stream == w.stream) = some f) (same : sameInst w f = true)
    (finished : f.finished = true) (settled : f.waiting = 0) (hi : instrOf s w = some p) :
    deliverFrom (n + 1) s w.unit w.stream = deliverFrom n (sendSignal (leaveFlight s w) w.unit p) w.unit w.stream := by
  obtain ⟨-, index, inst⟩ := sameInst_iff.1 same
  have named : (⟨w.unit, w.stream, f.index, f.inst⟩ : Who) = w := by rw [index, inst]
  have resolved : instrOf (leaveFlight s w) w = some p := hi
  rw [deliverFrom, hq]
  dsimp only
  rw [first]
  dsimp only
  rw [if_pos ⟨finished, settled⟩, named, ← leaveFlight, resolved]

/-- An instance whose work is done, alone in flight on its unit and waiting for nothing, leaves and its signal goes. -/
theorem finishNow_alone {s : State} {w : Who} {p : PInstr} {q : SeqUnit} {f : InFlight} (hq : seqOf s w.unit = some q)
    (alone : q.flight = [f]) (same : sameInst w f = true) (settled : f.waiting = 0) (hi : instrOf s w = some p) :
    finishNow s w = sendSignal (leaveFlight s w) w.unit p := by
  obtain ⟨stream, -, -⟩ := sameInst_iff.1 same
  let f' : InFlight := { f with finished := true }
  have marked : seqOf (markFinished s w) w.unit = some { q with flight := [f'] } := by
    refine (seqOf_updSeq s w.unit _ (by intro _; rfl)).trans ?_
    simp [hq, alone, same, f']
  have one : finishNow s w = deliverFrom 1 (markFinished s w) w.unit w.stream := by
    unfold finishNow deliver
    rw [marked]
    rfl
  rw [one, deliverFrom_succ (f := f') 0 marked (by simp [f', stream]) same rfl settled hi, leaveFlight_markFinished]
  rfl

/-! ### Complete as it issues (R204, R350, R482) -/

/-- The flight entry of an instance as it issues. -/
def entryOf (w : Who) : InFlight := { stream := w.stream, index := w.index, inst := w.inst, finished := false, waiting := 0 }

theorem sameInst_entryOf (w : Who) : sameInst w (entryOf w) = true := sameInst_iff.2 ⟨rfl, rfl, rfl⟩

/-- An instance that issues with nothing else in flight on its unit is alone there. -/
theorem issued_alone {s : State} {w : Who} {p : PInstr} {q : SeqUnit} (hq : seqOf s w.unit = some q) (empty : q.flight = []) :
    ∃ q', seqOf (issued s w p) w.unit = some q' ∧ q'.flight = [entryOf w] :=
  ⟨_, (seqOf_updSeq s w.unit _ (by simp)).trans (congrArg _ hq), congrArg (· ++ [entryOf w]) empty⟩

/-- When it leaves, its stream has moved on and nothing is in flight. -/
theorem leaveFlight_issued {s : State} {w : Who} (p : PInstr) (empty : ∀ q ∈ s.seqs, q.unit = w.unit → q.flight = []) :
    leaveFlight (issued s w p) w = updSeq s w.unit fun q => q.setPos w.stream (advance p w.index w.inst) := by
  refine (updSeq_updSeq s w.unit _ _ (by simp)).trans (updSeq_congr fun q hq mine => ?_)
  have gone : (q.flight ++ [entryOf w]).filter (fun x => !sameInst w x) =
      (q.setPos w.stream (advance p w.index w.inst)).flight := by
    simp [empty q hq mine, sameInst_entryOf]
  exact congrArg (fun fl => { q.setPos w.stream (advance p w.index w.inst) with flight := fl }) gone

/-- An instruction that is complete as it issues, with nothing else in flight on its unit (R204, R350, R482). -/
theorem finishNow_issued {s : State} {w : Who} {p : PInstr} {q : SeqUnit} (hq : seqOf s w.unit = some q)
    (empty : ∀ q ∈ s.seqs, q.unit = w.unit → q.flight = []) (hi : instrOf s w = some p) :
    finishNow (issued s w p) w =
      sendSignal (updSeq s w.unit fun q => q.setPos w.stream (advance p w.index w.inst)) w.unit p := by
  have mine : q.unit = w.unit := by simpa using List.find?_some hq
  obtain ⟨q', hq', alone⟩ := issued_alone (p := p) hq (empty q (List.mem_of_find?_eq_some hq) mine)
  have resolved : instrOf (issued s w p) w = some p := hi
  rw [finishNow_alone hq' alone (sameInst_entryOf w) rfl resolved, leaveFlight_issued p empty]

/-! ### Its signal -/

/-- An instruction that names no signal sends none. -/
theorem sendSignal_silent {p : PInstr} (h : p.signalMode = 0) (s : State) (unit : Nat) : sendSignal s unit p = s := if_pos h

/-- A signal leaves the replay as it was. -/
theorem sendSignal_replay (s : State) (unit : Nat) (p : PInstr) : (sendSignal s unit p).journal.replay = s.journal.replay := by
  unfold sendSignal
  split
  · rfl
  · split
    · unfold signalNamed
      dsimp only
      split
      · simp
      · split
        · rfl
        · simp
    · simp

end Sys2Proof.Machine
end

section
/-! Moves, checkpoints, buckets, ingest, and the completion of an instance. -/

namespace Sys2Proof.Machine

open Sys2Proof

/-! ### Moves (R206) -/

/-- A move within this module, once its source is here. -/
theorem moveWork_here {s : State} {w : Who} {d : MoveDesc} (src : isRemote s d.src = false) (dst : isRemote s d.dst = false)
    (here : Here s w.unit [(d.src, d.len)]) : moveWork w d s = afterWork w (moveHere (workState s w [(d.src, d.len)]) w d) := by
  unfold moveWork
  simp only [src, dst, Bool.or_false, Bool.and_false, Bool.false_eq_true, if_false]
  exact withSources_here here _ _

/-! ### Loads of checkpoints (R182, R183) -/

theorem loadRun_plain {w : Who} {d : CkptDesc} (h : d.mode = 0) (stale : List (Nat × Byte)) (s : State) :
    loadRun w d stale [] s = writeGlobal s w d.src (peek s w.unit d.base (d.count * ckptBytes d.k16)) := by
  unfold loadRun
  rw [h]
  rfl

/-- Segments that all pass their checks are loaded. -/
theorem loadRun_lossless {w : Who} {d : CkptDesc} (h : d.mode = 1) {stale : List (Nat × Byte)} {s : State}
    (sound : segmentFault d (overlay stale (peek s w.unit)) = none) :
    loadRun w d stale [] s = loadSegments w d (overlay stale (peek s w.unit)) s := by
  unfold loadRun
  rw [h]
  exact checked_passes sound ..

/-- A narrowed checkpoint whose blocks all pass their checks comes back as it lies (log 37). -/
theorem loadRun_narrowed {w : Who} {d : CkptDesc} (h : 1 < d.mode) {stale : List (Nat × Byte)} {s : State}
    (sound : narrowedFault s w.unit d (overlay stale (peek s w.unit)) = none) :
    loadRun w d stale [] s = writeGlobal s w d.src (overlay stale (peek s w.unit) d.base d.narrowedBytes) := by
  unfold loadRun
  split
  · omega
  · omega
  · exact checked_passes sound ..

/-! ### Buckets (R247, R259, R265) -/

/-- A module's own contribution is sent once its sources are here; one that contributes nothing reads nothing. -/
theorem bucketSendWork_here {s : State} {w : Who} {b : BucketDesc} {slips : List AdderSlip} :
    let mine := (planOf s b.plan).contributes
    let rs := if mine then [(b.staging, 520 * b.segments), (b.segTable, 32 * b.segments)] else []
    let own := if mine then List.range b.segments else []
    let t := workState s w rs
    Here s w.unit rs → bucketSendWork w b slips s = afterWork w (drain (sendOwnSegs w b slips own
      (setTag (if (tagOf t b.tag).finished then t else addWaiting t w 1)
        { tagOf t b.tag with sending := true, own := own, slips := slips }))) := by
  intro mine rs own t here
  unfold bucketSendWork
  rw [withSources_here here]

/-- A bucket of which no segment is flagged is finished once its sources are here: the sum of squares follows its segments. -/
theorem bucketFinishWork_here {s : State} {w : Who} {b : BucketDesc} {stale : List (Nat × Byte)} {vs : List Val} {u : State} :
    let rs := [(b.result, 1040 * b.segments), (b.segTable, 32 * b.segments)]
    let t := workState s w rs
    Here s w.unit rs → flaggedSegs t w b = [] →
    finishSegs w b t.step.toNat stale (List.range b.segments) [] t = (some vs, u) →
    bucketFinishWork w b stale s = afterWork w (writeGlobal u w (b.segTable + 32 * b.segments)
      (leBytes 8 (carryWord (chunkedSum (vs.map fun v => v.mul v))))) := by
  intro rs t here unflagged finishes
  refine (withSources_here here _ _).trans (congrArg (afterWork w) ?_)
  dsimp only
  rw [finishes, unflagged]

/-- The norm of one bucket, whose carry word is sound, is that word's value. -/
theorem bucketNormWork_single {s : State} {w : Who} {p : PInstr} {g : Program} {b : BucketDesc} {x : Acc}
    (hg : s.program = some g) (hb : normBuckets g p = [b]) :
    let rs := [(carryAddrOf b, 8)]
    let t := workState s w rs
    Here s w.unit rs → carryParse (leNat (peek t w.unit (carryAddrOf b) 8)) = some x →
    let c := convertFull .b32 .nearestEven 0 0 (accVal (accSum Acc.zero [accVal x]))
    bucketNormWork w p s = afterWork w (writeGlobal (raiseVe t w (convFlags c)) w (sumSqAddr b.grad (b.first + b.count))
      (leBytes 4 c.code)) := by
  intro rs t here word c
  unfold bucketNormWork
  rw [hg]
  dsimp only
  rw [hb]
  refine (withSources_here here _ _).trans (congrArg (afterWork w) ?_)
  simp [word, t, rs, c]

/-! ### Ingest (R350) -/

/-- Samples enter the ingest queues, and nothing else changes. -/
theorem queueStep_eq (s : State) (slot : Nat) (d : IngestDesc) (step : Word64) :
    ∃ i, queueStep s slot d step = { s with ingest := i } := by
  unfold queueStep
  generalize rangeFrom d.b0 d.bs = bs
  induction bs generalizing s with
  | nil => exact ⟨s.ingest, rfl⟩
  | cons b bs ih =>
    have one : ∃ i, queueSample s d.igd { slot := slot, step := step, b := b } = { s with ingest := i } := by
      unfold queueSample
      split
      · exact ⟨s.ingest, rfl⟩
      · exact ⟨_, rfl⟩
    obtain ⟨i, hi⟩ := one
    obtain ⟨j, hj⟩ := ih { s with ingest := i }
    exact ⟨j, by rw [List.foldl_cons, hi, hj]⟩

@[simp] theorem queueStep_seqs (s : State) (slot : Nat) (d : IngestDesc) (step : Word64) :
    (queueStep s slot d step).seqs = s.seqs := by
  obtain ⟨_, h⟩ := queueStep_eq s slot d step
  rw [h]
@[simp] theorem queueStep_program (s : State) (slot : Nat) (d : IngestDesc) (step : Word64) :
    (queueStep s slot d step).program = s.program := by
  obtain ⟨_, h⟩ := queueStep_eq s slot d step
  rw [h]
@[simp] theorem queueStep_journal (s : State) (slot : Nat) (d : IngestDesc) (step : Word64) :
    (queueStep s slot d step).journal = s.journal := by
  obtain ⟨_, h⟩ := queueStep_eq s slot d step
  rw [h]

/-- It is the same before and after a change of a unit's sequencer. -/
theorem queueStep_updSeq (s : State) (unit : Nat) (f : SeqUnit → SeqUnit) (slot : Nat) (d : IngestDesc) (step : Word64) :
    queueStep (updSeq s unit f) slot d step = updSeq (queueStep s slot d step) unit f := by
  have one : ∀ (s : State) (x : Sample), queueSample (updSeq s unit f) d.igd x = updSeq (queueSample s d.igd x) unit f := by
    intro s x
    unfold queueSample
    by_cases known : sampleKnown s x = true
    · rw [if_pos known]
      exact if_pos known
    · rw [if_neg known]
      exact if_neg known
  unfold queueStep
  generalize rangeFrom d.b0 d.bs = bs
  induction bs generalizing s with
  | nil => rfl
  | cons b bs ih => rw [List.foldl_cons, one, ih, List.foldl_cons]

/-- An INGEST with nothing else in flight on its unit queues its samples and is complete. -/
theorem ingestWork_issued {s : State} {w : Who} {p : PInstr} (h : Issues s w p)
    (empty : ∀ q ∈ s.seqs, q.unit = w.unit → q.flight = []) :
    ingestWork (issued s w p) w p = sendSignal (updSeq (queueStep s p.desc
      (parseIngest ((s.program.map fun g => descOf g p.desc).getD [])) (s.step + BitVec.ofNat 64 (runAheadOf s)))
      w.unit fun q => q.setPos w.stream (advance p w.index w.inst)) w.unit p := by
  obtain ⟨q, hq, -⟩ := h.ready
  let d := parseIngest ((s.program.map fun g => descOf g p.desc).getD [])
  let step := s.step + BitVec.ofNat 64 (runAheadOf s)
  have queued : queueStep (issued s w p) p.desc d step = issued (queueStep s p.desc d step) w p := queueStep_updSeq ..
  have runs : ingestWork (issued s w p) w p = finishNow (queueStep (issued s w p) p.desc d step) w := rfl
  have sequencer : seqOf (queueStep s p.desc d step) w.unit = some q := by simpa [seqOf] using hq
  have resolved : instrOf (queueStep s p.desc d step) w = some p := by simpa [instrOf] using h.instrOf
  rw [runs, queued, finishNow_issued sequencer (by simpa using empty) resolved]

/-! ### Completion (R191) -/

/-- With no pass to run again, no pass waits for one, is counted again or makes its readers run again. -/
theorem reexec_none {s : State} (h : s.beat.reexec = []) (w : Who) (time : PassTime) :
    carryPending s w = false ∧ rerunReaders (countAgain s w time) w = s := by
  have counted : countAgain s w time = s := by simp [countAgain, h]
  refine ⟨by simp [carryPending, h], ?_⟩
  rw [counted]
  simp [rerunReaders, h]

/-- The only instance in flight on the only sequencer. -/
theorem flightOf_only {s : State} {q : SeqUnit} {f : InFlight} {w : Who} (hs : s.seqs = [q]) (hq : q.flight = [f])
    (unit : w.unit = q.unit) (same : sameInst w f = true) : flightOf s w = some f := by
  simp [flightOf, seqOf, hs, unit, hq, same]

/-- An instance in flight that nothing holds up, with no pass to run again, is complete. -/
theorem instanceComplete_settled {s : State} {w : Who} {f : InFlight} (time : PassTime) (running : live s = true)
    (reexec : s.beat.reexec = []) (deferred : s.beat.deferred = []) (hf : flightOf s w = some f) (waiting : f.waiting = 0)
    (stripes : f.stripes = []) (free : heldUp s w = false) :
    exec (.instanceComplete w.unit w.stream w.index w.inst time) s = .next (replayInbound (finishNow (ranAgain s w) w)) := by
  obtain ⟨noCarry, noRerun⟩ := reexec_none reexec w time
  have noRetry : retryDeferred s w time = s := by simp [retryDeferred, deferred]
  have settled : settledInst s w = true := by simp [settledInst, hf, waiting, stripes]
  change execInstanceComplete w.unit w.stream w.index w.inst s time = _
  unfold execInstanceComplete
  simp only [running, noCarry, hf, noRetry, free, settled, noRerun, Bool.not_true, Bool.or_false, Option.isNone_some,
    Bool.false_eq_true, if_false]
  rfl

/-- Settles O49: each instruction's work on sources that are here; an INGEST and the completion of an instance by the signal of
the only instance in flight. -/
theorem movesAndBuckets : Obligations.MovesAndBuckets := by
  refine ⟨?_, ?_, ?_, ?_, ?_, ?_, ?_, ?_, ?_⟩
  · intro s w p h cls src dst rs here
    have issues : exec (.move w.unit) s = .next (moveWork w (moveDescOf s p) (issued s w p)) :=
      issue_picked (want := fun _ p => p.cls == 5) h (by simp [cls]) fun s w p => moveWork w (moveDescOf s p) s
    exact issues.trans (congrArg _ (moveWork_here src dst here))
  · intro s w p h cls store d rs here
    have issues : exec (.ckptStore w.unit) s = .next (ckptWork w false d [] [] (issued s w p)) :=
      issue_picked (want := fun _ p => p.cls == 6 && !bitAt p.operand 0) h (by simp [cls, store])
        fun s w p => ckptWork w false (ckptDescOf s p) [] [] s
    rw [issues]
    exact congrArg _ (withSources_here here _ _)
  · intro s w p stale h cls load d rs t rd here
    have issues : exec (.ckptLoad w.unit stale) s = .next (ckptWork w true d stale [] (issued s w p)) :=
      issue_picked (want := fun _ p => p.cls == 6 && bitAt p.operand 0) h (by simp [cls, load])
        fun s w p => ckptWork w true (ckptDescOf s p) stale [] s
    have loads : ckptWork w true d stale [] (issued s w p) = afterWork w (loadRun w d stale [] t) := withSources_here here _ _
    rw [issues, loads]
    refine ⟨fun plain => ?_, fun lossless sound => ?_, fun narrowed sound => ?_⟩
    · rw [loadRun_plain plain]
    · rw [loadRun_lossless lossless sound]
    · rw [loadRun_narrowed narrowed sound]
  · intro s w p b slips h unit cls kind hb
    subst hb
    intro mine rs own t here
    have issues : exec (.bucketSend slips) s = .next (bucketSendWork w (bucketDescOf s p) slips (issued s w p)) := by
      change execBucketSend s slips = _
      rw [execBucketSend, ← unit]
      exact issue_picked h (by simp [cls, kind]) _
    exact issues.trans (congrArg _ (bucketSendWork_here (s := issued s w p) here))
  · intro s w p b vs stale u h cls kind hb
    subst hb
    intro rs t here unflagged finishes
    have issues : exec (.bucketFinish w.unit stale) s =
        .next (bucketFinishWork w (bucketDescOf s p) stale (issued s w p)) :=
      issue_picked (want := fun _ p => p.cls == 8 && p.bucketKind == 1) h (by simp [cls, kind])
        fun s w p => bucketFinishWork w (bucketDescOf s p) stale s
    exact issues.trans (congrArg _ (bucketFinishWork_here (s := issued s w p) here unflagged finishes))
  · intro s w p g b x h cls kind hg hb rs t here word c
    have issues : exec (.bucketNorm w.unit) s = .next (bucketNormWork w p (issued s w p)) :=
      issue_picked (want := fun _ p => p.cls == 8 && p.bucketKind == 2) h (by simp [cls, kind])
        fun s w p => bucketNormWork w p s
    exact issues.trans (congrArg _ (bucketNormWork_single (s := issued s w p) hg hb here word))
  · intro s w p h cls idle empty silent
    have issues : exec (.ingest w.unit) s = .next (replayInbound (ingestWork (issued s w p) w p)) :=
      issue_picked (want := fun _ p => p.cls == 9) h (by simp [cls]) fun s w p => replayInbound (ingestWork s w p)
    rw [ingestWork_issued h empty, sendSignal_silent silent, replayInbound_idle (by simpa using idle)] at issues
    exact ⟨_, issues, rfl, by simp⟩
  · intro s q f p time running idle deferred stuck refetch stopped reexec unitOn hs hq waiting stripes w hp
    have same : sameInst w f = true := sameInst_iff.2 ⟨rfl, rfl, rfl⟩
    have free : heldUp s w = false := by simp [heldUp, refetch, stuck, deferred, unitOn, pastFault, stopped, w]
    have alone : seqOf (ranAgain s w) w.unit = some q := by simp [seqOf, ranAgain, hs, w]
    have left : leaveFlight (ranAgain s w) w = { ranAgain s w with seqs := [{ q with flight := [] }] } := by
      simp [leaveFlight, updSeq, ranAgain, hs, hq, same, w]
    refine (instanceComplete_settled time (live_of_running running) reexec deferred (flightOf_only hs hq rfl same) waiting
      stripes free).trans (congrArg _ ?_)
    rw [finishNow_alone alone hq same waiting hp, left]
    exact replayInbound_idle ((sendSignal_replay ..).trans idle)
  · intro s w time running gone
    have runs : exec (.instanceComplete w.unit w.stream w.index w.inst time) s =
        execInstanceComplete w.unit w.stream w.index w.inst s time := rfl
    refine ⟨fun clear => ?_, fun pending => ?_⟩
    · rw [runs]
      simp [execInstanceComplete, running, clear, gone]
    · rw [runs]
      simp [execInstanceComplete, pending]

end Sys2Proof.Machine
end

section
/-! SUPPORT. What the work of a PASS leaves of the fill gate: writing outputs, counting passes and faults enter and take no
row (R107 to R110). -/

namespace Sys2Proof.Machine

open Sys2Proof

/-- What each step leaves as it is, steps leave as it is together. -/
theorem foldl_same {α β : Type} (get : State → β) (f : State → α → State) (h : ∀ s a, get (f s a) = get s) (l : List α)
    (s : State) : get (l.foldl f s) = get s :=
  List.foldlRecOn l f (motive := fun t => get t = get s) rfl fun t kept a _ => (h t a).trans kept

/-! ### Faults -/

@[simp] theorem stop_gates (s : State) (w : Who) : (stop s w).gates = s.gates := by
  unfold stop
  split
  · rfl
  · rfl

@[simp] theorem raiseFault_gates (s : State) (cause bit : Nat) : (raiseFault s cause bit).gates = s.gates := by
  obtain ⟨_, h⟩ := raiseFault_eq s cause bit
  rw [h]

@[simp] theorem versionFault_gates (s : State) (w : Who) (tensor epoch tag cond : Nat) :
    (versionFault s w tensor epoch tag cond).gates = s.gates := by
  simp [versionFault]

@[simp] theorem accessFailed_gates (s : State) (w : Who) (status addr : Nat) :
    (accessFailed s w status addr).gates = s.gates := by
  unfold accessFailed
  dsimp only
  split
  · exact post_gates ..
  · exact post_gates ..

/-! ### Writes of an instance (R191, R300) -/

@[simp] theorem addStripes_gates (s : State) (w : Who) (ts : List Nat) : (addStripes s w ts).gates = s.gates := by
  unfold addStripes
  split
  · rfl
  · rfl

@[simp] theorem memberUnreachable_gates (s : State) (node : Word16) : (memberUnreachable s node).gates = s.gates := by
  unfold memberUnreachable
  split
  · rw [post_gates, foldl_same State.gates]
    intro u p
    split
    · rfl
    · exact done_gates ..
  · rfl

@[simp] theorem request_gates (s : State) (typ : Nat) (addr : Word64) (len : Nat) (payload : List Byte) (o : Owner) :
    (request s typ addr len payload o).2.gates = s.gates := by
  unfold request
  dsimp only
  split
  · exact memberUnreachable_gates ..
  · rfl

@[simp] theorem sendWrite_gates (w : Who) (s : State) (x : Nat × Nat × List Byte) : (sendWrite w s x).gates = s.gates := by
  unfold sendWrite
  dsimp only
  split
  · simp
  · simp

@[simp] theorem writeLocal_gates (s : State) (space off : Nat) (data : List Byte) :
    (writeLocal s space off data).2.gates = s.gates := by
  rcases writeLocal_cases (s := s) (t := (writeLocal s space off data).2) (st := (writeLocal s space off data).1) rfl with
    ⟨-, failed⟩ | ⟨-, -, -, -, -, sram⟩ | ⟨-, -, -, -, dram⟩ | ⟨-, -, -, -, -, buffers⟩
  · exact congrArg _ failed
  · exact (congrArg State.gates sram :)
  · exact dram.1.gates
  · exact (congrArg State.gates buffers :)

@[simp] theorem writeGlobal_gates (s : State) (w : Who) (addr : Nat) (data : List Byte) :
    (writeGlobal s w addr data).gates = s.gates := by
  unfold writeGlobal
  split
  · rfl
  · split
    · dsimp only
      split <;> split <;> simp
    · split
      · rfl
      · exact foldl_same State.gates _ (sendWrite_gates w) _ _

/-! ### Output elements and blocks (R79, R128 to R130, R249) -/

@[simp] theorem noteWatch_gates (s : State) (tensor : Nat) (f : WatchCount → WatchCount) :
    (noteWatch s tensor f).gates = s.gates := by
  unfold noteWatch
  split
  · rfl
  · rfl

@[simp] theorem noteTrack_gates (s : State) (d : BlockDesc) (b : Nat) (e : Encoded) :
    (noteTrack s d b e).gates = s.gates := by
  unfold noteTrack
  split
  · rfl
  · rfl

@[simp] theorem noteBlock_gates (s : State) (d : BlockDesc) (b : Nat) (e : Encoded) :
    (noteBlock s d b e).gates = s.gates := by
  unfold noteBlock
  dsimp only
  split
  · simp
  · simp

@[simp] theorem writeBlock_gates (s : State) (w : Who) (d : BlockDesc) (rnd : Rnd) (b used : Nat) (xs : List Src) :
    (writeBlock s w d rnd b used xs).2.2.gates = s.gates := by
  have skip : ∀ (c : Prop) [Decidable c] (u : State) (addr : Nat) (data : List Byte),
      (if c then u else writeGlobal u w addr data).gates = u.gates := by
    intro c _ u addr data
    split
    · rfl
    · exact writeGlobal_gates ..
  unfold writeBlock
  dsimp only
  rw [noteBlock_gates, skip, skip, skip, writeGlobal_gates]

@[simp] theorem writeBlocksFull_gates (w : Who) (d : BlockDesc) (rnd : Rnd) :
    ∀ (bs : List (Nat × List Src)) (last : Option (Nat × Nat)) (es : List Encoded) (s : State),
      (writeBlocksFull w d rnd bs last es s).2.gates = s.gates
  | [], _, _, _ => rfl
  | (b, xs) :: rest, last, es, s => by
    unfold writeBlocksFull
    exact (writeBlocksFull_gates w d rnd rest ..).trans (writeBlock_gates ..)

@[simp] theorem encodeNow_gates (s : State) (h : HeldBlock) : (encodeNow s h).gates = s.gates := by
  unfold encodeNow
  dsimp only
  split
  · exact writeBlocksFull_gates ..
  · exact writeBlocksFull_gates ..

@[simp] theorem drainHeld_gates : ∀ (n : Nat) (s : State), (drainHeld n s).gates = s.gates
  | 0, _ => rfl
  | n + 1, s => by
    unfold drainHeld
    split
    · rfl
    · exact (drainHeld_gates n _).trans (encodeNow_gates ..)

@[simp] theorem putBlock_gates (s : State) (h : HeldBlock) : (putBlock s h).gates = s.gates := by
  unfold putBlock
  split
  · exact (drainHeld_gates ..).trans (encodeNow_gates ..)
  · rfl

@[simp] theorem writeScalar_gates (s : State) (w : Who) (tensor : Nat) (f : Fmt) (rnd : Rnd) (addr : Nat) (x : Src) :
    (writeScalar s w tensor f rnd addr x).gates = s.gates := by
  simp [writeScalar]

@[simp] theorem writeG16_gates (s : State) (w : Who) (tensor index : Nat) (x : Src) :
    (writeG16 s w tensor index x).gates = s.gates := by
  unfold writeG16
  split
  · rfl
  · simp

@[simp] theorem writeRects_gates (s : State) (w : Who) (rd : Reader) (v : PassEnv) (rs : List Rect) :
    (writeRects s w rd v rs).gates = s.gates := by
  unfold writeRects
  dsimp only
  split <;> rw [foldl_same State.gates] <;> simp

/-! ### Passes counted and rows released (R106, R110) -/

@[simp] theorem countPass_gates (s : State) (unit : Nat) (rd : Reader) (vs : List (PassEnv × Rect)) (stall idle : Nat) :
    (countPass s unit rd vs stall idle).gates = s.gates := by
  simp [countPass]

@[simp] theorem countGated_gates (s : State) (unit : Nat) (vs : List (PassEnv × Rect)) (stall idle : Nat) :
    (countGated s unit vs stall idle).gates = s.gates := by
  simp [countGated]

@[simp] theorem releaseInst_gates (s : State) (w : Who) (rows : List Nat) (left : Bool) :
    (releaseInst s w rows left).gates = s.gates := by
  unfold releaseInst
  split
  · rfl
  · split
    · exact versionFault_gates ..
    · split
      · rfl
      · extract_lets rd rows' rs t
        have written : t.gates = s.gates := by
          unfold t
          split
          · rfl
          · split
            · exact accessFailed_gates ..
            · exact writeRects_gates ..
        exact written

end Sys2Proof.Machine
end

section
/-! PASS instances whose operands are here, refetched blocks, and rows that leave the fill gate. -/

namespace Sys2Proof.Machine

open Sys2Proof

/-! ### Refetched blocks (R82, R83) -/

/-- Work whose refetched blocks now pass runs, and the success of the refetch is counted. -/
theorem checked_recovers {s : State} {w : Who} {stale : List (Nat × Byte)} {tried : List (Nat × Nat)}
    {bad : Reader → Option (BlockDesc × Skew)} (again : tried ≠ []) (h : bad (overlay stale (peek s w.unit)) = none)
    (work : Reader → State → State) (drop : Reader → BlockDesc → Nat → List (Nat × Byte) → List (Nat × Byte))
    (input : WorkIn) : checked s w stale tried bad work drop input =
      work (overlay stale (peek s w.unit)) (bump s 0x1001 (unitDie w.unit) noTensor 1) := by
  unfold checked
  dsimp only
  rw [h]
  dsimp only
  rw [if_neg (by simpa using again)]

/-- A block that fails again after its refetch is a persistent fault. -/
theorem checked_persists {s : State} {w : Who} {stale : List (Nat × Byte)} {tried : List (Nat × Nat)}
    {bad : Reader → Option (BlockDesc × Skew)} {d : BlockDesc} {e : Skew} (again : (d.data, e.b) ∈ tried)
    (h : bad (overlay stale (peek s w.unit)) = some (d, e)) (work : Reader → State → State)
    (drop : Reader → BlockDesc → Nat → List (Nat × Byte) → List (Nat × Byte)) (input : WorkIn) :
    checked s w stale tried bad work drop input = faultAt s w d.tensor e := by
  unfold checked
  dsimp only
  rw [h]
  exact if_pos (List.contains_iff_mem.2 again)

/-! ### The work of a PASS (R95, R98, R205) -/

/-- The passes over rectangles run at once: their reads noted, each one counted, all their outputs written. -/
def passAtOnce (w : Who) (v : PassEnv) (rs : List Rect) (time : PassTime) (rd : Reader) (s : State) : State :=
  writeRects (rs.zipIdx.foldl (fun s x =>
    countPass s w.unit rd [(v, x.1)] (time.stalls.getD x.2 0) (if x.2 = 0 then time.idle else 0))
    (noteReads s w.unit v rs)) w rd v rs

/-- The passes of an instance none of whose rows goes through the fill gate run at once. -/
theorem runPasses_ungated {v : PassEnv} (ungated : v.p.gate = 0xFFFF ∨ v.p.rows % 32 = 0) {p : PInstr} {rd : Reader}
    (carry : carryFault rd v ((namedPasses v.p p).map (passRect v.p)) = none) (w : Who) (time : PassTime) (s : State) :
    runPasses w v p time rd s = passAtOnce w v ((namedPasses v.p p).map (passRect v.p)) time rd s := by
  have noGate : ¬(v.p.gate ≠ 0xFFFF ∧ v.p.rows % 32 ≠ 0) := fun h => ungated.elim h.1 h.2
  unfold runPasses
  dsimp only
  rw [carry]
  dsimp only
  rw [if_neg noGate, if_neg fun h => noGate h.1]
  rfl

section
variable {s : State} {w : Who} {p : PInstr} {v : PassEnv} {input : WorkIn} {tried : List (Nat × Nat)}

/-- Operands that meet a version fault are not read (R231). -/
theorem passWork_versionFault {t e tag cond : Nat} (env : passEnv s w p = .error (t, e, tag, cond)) :
    passWork s w p input tried = versionFault s w t e tag cond := by
  unfold passWork
  rw [env]

/-- A feeder queue that would read outside its tile's SRAM fails the instance at its first such range (R98). -/
theorem passWork_strays {r : Nat × Nat} (env : passEnv s w p = .ok v)
    (strays : ((feederRanges (peek s w.unit) v ((namedPasses v.p p).map (passRect v.p))).find? fun r =>
      !inOwnTile s w.unit r.1 r.2) = some r) :
    passWork s w p input tried = accessFailed s w 1 r.1 := by
  unfold passWork
  rw [env]
  dsimp only [withOperands]
  rw [strays]

/-- Passes that read their own tile and whose sources are here come to the check of their blocks. -/
theorem passWork_here (env : passEnv s w p = .ok v) :
    let rs := (namedPasses v.p p).map (passRect v.p)
    let t := workState s w (rectReads s w.unit v rs)
    FeedsOwn s w.unit v rs → Here s w.unit (rectReads s w.unit v rs) →
      passWork s w p input tried = afterWork w (checked t w input.stale tried (rectFault t w.unit v rs)
        (runPasses w v p input.time) (input := input)) := by
  intro rs t own here
  have inside : ((feederRanges (peek s w.unit) v rs).find? fun r => !inOwnTile s w.unit r.1 r.2) = none :=
    List.find?_eq_none.2 fun r hr => by simp [own r hr]
  unfold passWork
  rw [env]
  dsimp only [withOperands]
  rw [inside]
  exact withSources_here here _ _

/-- Passes whose blocks pass their first check, and whose carry words hold, run on what was delivered. -/
theorem passWork_runs (env : passEnv s w p = .ok v) (ungated : v.p.gate = 0xFFFF ∨ v.p.rows % 32 = 0) :
    let rs := (namedPasses v.p p).map (passRect v.p)
    let t := workState s w (rectReads s w.unit v rs)
    let rd := overlay input.stale (peek t w.unit)
    FeedsOwn s w.unit v rs → Here s w.unit (rectReads s w.unit v rs) → rectFault t w.unit v rs rd = none →
      carryFault rd v rs = none → passWork s w p input [] = afterWork w (passAtOnce w v rs input.time rd t) := by
  intro rs t rd own here sound carry
  rw [passWork_here env own here, checked_passes sound, runPasses_ungated ungated carry]

/-- The same once blocks have been refetched: their success is counted before the passes run. -/
theorem passWork_recovers (env : passEnv s w p = .ok v) (ungated : v.p.gate = 0xFFFF ∨ v.p.rows % 32 = 0)
    (again : tried ≠ []) :
    let rs := (namedPasses v.p p).map (passRect v.p)
    let t := workState s w (rectReads s w.unit v rs)
    let rd := overlay input.stale (peek t w.unit)
    FeedsOwn s w.unit v rs → Here s w.unit (rectReads s w.unit v rs) → rectFault t w.unit v rs rd = none →
      carryFault rd v rs = none → passWork s w p input tried =
        afterWork w (passAtOnce w v rs input.time rd (bump t 0x1001 (unitDie w.unit) noTensor 1)) := by
  intro rs t rd own here sound carry
  rw [passWork_here env own here, checked_recovers again sound, runPasses_ungated ungated carry]

/-- A block that the passes have refetched and that fails again stops their stream. -/
theorem passWork_persists {d : BlockDesc} {e : Skew} (env : passEnv s w p = .ok v) (again : (d.data, e.b) ∈ tried) :
    let rs := (namedPasses v.p p).map (passRect v.p)
    let t := workState s w (rectReads s w.unit v rs)
    FeedsOwn s w.unit v rs → Here s w.unit (rectReads s w.unit v rs) →
      rectFault t w.unit v rs (overlay input.stale (peek t w.unit)) = some (d, e) →
      passWork s w p input tried = afterWork w (faultAt t w d.tensor e) := by
  intro rs t own here fault
  rw [passWork_here env own here, checked_persists again fault]

/-- A PASS that is picked issues and does its work. -/
theorem pass_issues (h : Issues s w p) (cls : p.cls = 2) (stale : List (Nat × Byte)) (time : PassTime) :
    exec (.pass w.unit stale time) s =
      .next (passWork (issued s w p) w p { time := time, stale := stale } []) :=
  issue_picked (want := fun _ p => p.cls == 2) h (by simp [cls])
    fun s w p => passWork s w p { time := time, stale := stale } []

end

/-- The only refetch of the module completes: its PASS goes on with the blocks it has tried, past no fault of its stream. -/
theorem refetchComplete_pass {s : State} {w : Who} {p : PInstr} {stale : List (Nat × Byte)} {tried : List (Nat × Nat)}
    {i : WorkIn} (refetch : s.beat.refetch = [{ who := w, stale := stale, blocks := tried, input := i }])
    (sound : s.beat.stopped = []) (instr : instrOf s w = some p) (cls : p.cls = 2) (time : PassTime) :
    exec (.blockRefetchComplete w.unit time) s =
      .next (passWork { s with beat := { s.beat with refetch := [] } } w p { i with stale := stale, time := time } tried) := by
  have goesOn : pastFault { s with beat := { s.beat with refetch := [] } } w = false := by simp [pastFault, sound]
  have same : instrOf { s with beat := { s.beat with refetch := [] } } w = some p := instr
  change execBlockRefetchComplete w.unit s time = _
  unfold execBlockRefetchComplete
  simp [refetch, same, goesOn, instWork, cls, timed]

/-! ### The fill gate (R107, R108) -/

theorem openGate_only {s : State} {g : GateGroup} (only : s.gates = [g]) (entered : g.waits = false) (rows : g.rows ≠ []) :
    openGate s g.unit g.group = some g := by
  simp [openGate, only, entered, rows]

/-- Rows that are released leave their group, and the gate keeps the rest. -/
theorem releaseRows_gates {rows : List GateRow} (nonempty : rows ≠ []) (s : State) (unit group : Nat) (time : PassTime) :
    (releaseRows s unit group rows time).1.gates =
      (setGate s unit group ((gateRows s unit group).filter fun r => !rows.contains r)).gates := by
  unfold releaseRows
  rw [if_neg (by simpa using nonempty)]
  dsimp only
  rw [foldl_same State.gates _ fun u w => releaseInst_gates ..]
  exact List.foldlRecOn _ _ (motive := fun r : State × PassTime => r.1.gates = _) rfl
    fun r kept vs _ => (countGated_gates ..).trans kept

/-- A gate with nothing in it stays as it is. -/
theorem settleGate_empty {s : State} (empty : s.gates = []) (unit : Nat) (all : Bool) (time : PassTime) :
    settleGate s unit all time = s := by
  simp [settleGate, gateRounds, settleGates, openGroups, nextRequest, hasRows, empty]

/-- The only group of the gate leaves it empty. -/
theorem releaseGroup_only {s : State} {g : GateGroup} (only : s.gates = [g]) (entered : g.waits = false)
    (rows : g.rows ≠ []) (time : PassTime) : (releaseGroup s g.unit g time).gates = [] := by
  have leaves : (releaseRows s g.unit g.group g.rows time).1.gates = [] := by
    rw [releaseRows_gates rows]
    simp [setGate, gateRows, openGate_only only entered rows, only, entered]
  change (settleGate (releaseRows s g.unit g.group g.rows time).1 g.unit false _).gates = []
  rw [settleGate_empty leaves, leaves]

/-- The oldest row of an open group has waited the wait limit. -/
theorem fillGateWaitLimit_open {s : State} {unit group : Nat} {g : GateGroup} (opened : openGate s unit group = some g)
    (time : PassTime) :
    let oldest := (g.rows.map (·.arrived)).foldl min ((g.rows.map (·.arrived)).headD 0)
    exec (.fillGateWaitLimit unit group time) s =
      .next (releaseGroup (reach s (oldest + (gateDescOf s g.slot).waitNs)) unit g time) := by
  intro oldest
  change execFillGateWaitLimit unit group s time = _
  rw [execFillGateWaitLimit, opened]

/-- An open group has reached its flush point. -/
theorem fillGateFlushPoint_open {s : State} {unit group : Nat} {g : GateGroup} (opened : openGate s unit group = some g)
    (time : PassTime) : exec (.fillGateFlushPoint unit group time) s =
      .next (releaseGroup (reach s (flushPoint s g)) unit g time) := by
  change execFillGateFlushPoint unit s group time = _
  rw [execFillGateFlushPoint, opened]

/-- Settles O47: a PASS that issues, or whose refetch completes, is `passWork`, which ends by the check of its operands; the
gate's two limits release the open group, and a group that stood alone leaves nothing behind. -/
theorem tilePasses : Obligations.TilePasses := by
  refine ⟨?_, ?_, ?_, ?_, ?_, ?_, ?_⟩
  · intro s w p stale time v h cls env ungated rs t rd own here sound carry
    exact (pass_issues h cls stale time).trans (congrArg _ (passWork_runs env ungated own here sound carry))
  · intro s w p stale time t e tag cond h cls env
    exact (pass_issues h cls stale time).trans (congrArg _ (passWork_versionFault env))
  · intro s w p stale time v r h cls env strays
    exact (pass_issues h cls stale time).trans (congrArg _ (passWork_strays env strays))
  · intro s unit group g time opened
    exact ⟨fillGateWaitLimit_open opened time, fillGateFlushPoint_open opened time⟩
  · rintro s _ _ g time only rfl rfl entered rows
    have opened := openGate_only only entered rows
    have empties (t : Nat) : (releaseGroup (reach s t) g.unit g time).gates = [] :=
      releaseGroup_only (s := reach s t) only entered rows time
    exact ⟨⟨_, fillGateWaitLimit_open opened time, empties _⟩, ⟨_, fillGateFlushPoint_open opened time, empties _⟩⟩
  · intro s w p v stale tried d e i time refetch sound instr cls env rs s' t own here fault again
    have same : passEnv s' w p = .ok v := env
    exact (refetchComplete_pass refetch sound instr cls time).trans
      (congrArg _ (passWork_persists same again own here fault))
  · intro s w p v stale tried i time refetch again sound instr cls env ungated rs s' t rd u own here passes carry
    have same : passEnv s' w p = .ok v := env
    exact (refetchComplete_pass refetch sound instr cls time).trans
      (congrArg _ (passWork_recovers same ungated again own here passes carry))

end Sys2Proof.Machine
end

section
/-! SUPPORT. The unit table: an entry after changes of it and of others, what counts, events and re-runs leave of it, and the
numbers of a kind of unit (R436, R439 to R442). -/

namespace Sys2Proof.Machine

open Sys2Proof

/-! ### The entry of a unit (R436) -/

theorem findUnit_congr {s t : State} (h : t.units = s.units) (u : PhysUnit) : findUnit t u = findUnit s u := by
  unfold findUnit
  rw [h]

theorem findUnit_phys {s : State} {u : PhysUnit} {e : UnitEntry} (h : findUnit s u = some e) : e.phys = u := by
  have mine := List.find?_some h
  simpa using mine

/-- The entries stand for the same units whatever of them changes. -/
theorem findUnit_updUnit (s : State) (u v : PhysUnit) (f : UnitEntry → UnitEntry) (h : ∀ e, (f e).phys = e.phys) :
    findUnit (updUnit s u f) v = (findUnit s v).map fun e => if e.phys == u then f e else e := by
  have same : ∀ e : UnitEntry, ((if e.phys == u then f e else e).phys == v) = (e.phys == v) := by
    intro e
    split
    · rw [h]
    · rfl
  simp only [findUnit, updUnit, List.find?_map, Function.comp_def, same]

theorem findUnit_updUnit_same (s : State) (u : PhysUnit) (f : UnitEntry → UnitEntry) (h : ∀ e, (f e).phys = e.phys) :
    findUnit (updUnit s u f) u = (findUnit s u).map f := by
  rw [findUnit_updUnit s u u f h]
  refine Option.map_congr fun e he => ?_
  rw [findUnit_phys he]
  exact if_pos (beq_self_eq_true u)

theorem findUnit_updUnit_other {u v : PhysUnit} (ne : v ≠ u) (s : State) (f : UnitEntry → UnitEntry)
    (h : ∀ e, (f e).phys = e.phys) : findUnit (updUnit s u f) v = findUnit s v := by
  rw [findUnit_updUnit s u v f h]
  refine (Option.map_congr fun e he => ?_).trans (congrFun Option.map_id_fun _)
  rw [findUnit_phys he]
  exact if_neg (by simpa using ne)

theorem findUnit_setCond_same (s : State) (u : PhysUnit) (c : Cond) (cause : Nat) : findUnit (setCond s u c cause) u =
    (findUnit s u).map fun e => { e with cond := c, cause := cause, step := s.step.toNat % 2 ^ 32 } :=
  findUnit_updUnit_same _ _ _ fun _ => rfl

theorem findUnit_setCond_other {u v : PhysUnit} (ne : v ≠ u) (s : State) (c : Cond) (cause : Nat) :
    findUnit (setCond s u c cause) v = findUnit s v :=
  findUnit_updUnit_other ne _ _ fun _ => rfl

/-! ### What leaves the table alone, or numbers alone -/

@[simp] theorem unitEvent_units (s : State) (code : Nat) (u : PhysUnit) (cause : Option Nat) :
    (unitEvent s code u cause).units = s.units := post_units ..

@[simp] theorem unitEvent_reduce (s : State) (code : Nat) (u : PhysUnit) (cause : Option Nat) :
    (unitEvent s code u cause).reduce = s.reduce := (post_posts ..).reduce

@[simp] theorem unitEvent_timebase (s : State) (code : Nat) (u : PhysUnit) (cause : Option Nat) :
    (unitEvent s code u cause).timebase = s.timebase := (post_posts ..).timebase

@[simp] theorem unitEvent_seqs (s : State) (code : Nat) (u : PhysUnit) (cause : Option Nat) :
    (unitEvent s code u cause).seqs = s.seqs := (post_posts ..).seqs

@[simp] theorem rerun_units (s : State) (unit : Nat) : (rerun s unit).units = s.units := by
  unfold rerun rerunThose
  split
  · rfl
  · exact bump_units ..

@[simp] theorem rerun_timebase (s : State) (unit : Nat) : (rerun s unit).timebase = s.timebase := by
  unfold rerun rerunThose
  split
  · rfl
  · exact bump_timebase ..

@[simp] theorem abandon_units (s : State) (unit : Nat) : (abandon s unit).units = s.units := by
  unfold abandon
  split
  · rfl
  · rfl

@[simp] theorem raiseFault_units (s : State) (cause bit : Nat) : (raiseFault s cause bit).units = s.units := by
  obtain ⟨_, h⟩ := raiseFault_eq s cause bit
  rw [h]

@[simp] theorem raiseFault_seqs (s : State) (cause bit : Nat) : (raiseFault s cause bit).seqs = s.seqs := by
  obtain ⟨_, h⟩ := raiseFault_eq s cause bit
  rw [h]

/-- A lost line that no instance has read is noted, or its words are written again; no unit is the worse for it (R319). -/
theorem sramLost_unread (s : State) (off : Nat) :
    (sramLost s off none).units = s.units ∧ (sramLost s off none).seqs = s.seqs := by
  unfold sramLost
  dsimp only
  split
  · split
    · exact ⟨rfl, rfl⟩
    · exact ⟨rfl, rfl⟩
  · exact ⟨by simp, by simp⟩

theorem leaveNumber_units (s : State) (u : PhysUnit) (n : Nat) : (leaveNumber s u n).units =
    (updUnit s u fun e => { e with
      logical := e.logical.filter (· != n), standsFor := e.standsFor.filter (· != n) }).units := by
  unfold leaveNumber
  dsimp only
  split
  · rfl
  · rfl

/-! ### Mismatches (R436, R440) -/

theorem recentMismatches_congr {s t : State} (units : t.units = s.units) (timebase : t.timebase = s.timebase)
    (u : PhysUnit) : recentMismatches t u = recentMismatches s u := by
  unfold recentMismatches
  rw [findUnit_congr units, timebase]

theorem recentMismatches_countMismatch {s : State} {u : PhysUnit} {e : UnitEntry} (h : findUnit s u = some e) :
    recentMismatches (countMismatch s u) u = recentMismatches s u + 1 := by
  have counted : findUnit (countMismatch s u) u = (findUnit s u).map _ :=
    (findUnit_congr (bump_units ..) u).trans (findUnit_updUnit_same s u _ fun _ => rfl)
  have now : (countMismatch s u).timebase = s.timebase := bump_timebase ..
  have today : s.timebase < s.timebase + dayNs := Nat.lt_add_of_pos_right (by decide)
  simp [recentMismatches, counted, now, h, today]

theorem recentMismatches_suspect (s : State) (u : PhysUnit) (cause : Nat) :
    recentMismatches (suspect s u cause) u = recentMismatches s u := by
  have marked : findUnit (suspect s u cause) u = (findUnit s u).map _ :=
    (findUnit_congr (unitEvent_units ..) u).trans (findUnit_setCond_same s u .suspect cause)
  have now : (suspect s u cause).timebase = s.timebase := unitEvent_timebase ..
  cases h : findUnit s u with
  | none => simp [recentMismatches, marked, h]
  | some e => simp [recentMismatches, marked, now, h]

theorem findUnit_suspect_same (s : State) (u : PhysUnit) (cause : Nat) : findUnit (suspect s u cause) u =
    (findUnit s u).map fun e => { e with cond := .suspect, cause := cause, step := s.step.toNat % 2 ^ 32 } :=
  (findUnit_congr (unitEvent_units ..) u).trans (findUnit_setCond_same ..)

theorem findUnit_suspect_other {u v : PhysUnit} (ne : v ≠ u) (s : State) (cause : Nat) :
    findUnit (suspect s u cause) v = findUnit s v :=
  (findUnit_congr (unitEvent_units ..) v).trans (findUnit_setCond_other ne ..)

/-! ### Condition and cause (R436) -/

/-- The condition of a unit with its cause. -/
def condition (s : State) (u : PhysUnit) : Option (Cond × Nat) := (findUnit s u).map fun e => (e.cond, e.cause)

theorem condition_congr {s t : State} (h : t.units = s.units) (u : PhysUnit) : condition t u = condition s u := by
  unfold condition
  rw [findUnit_congr h]

/-- A change of an entry's numbers alone. -/
theorem condition_updUnit (s : State) (u v : PhysUnit) (f : UnitEntry → UnitEntry) (phys : ∀ e, (f e).phys = e.phys)
    (h : ∀ e, ((f e).cond, (f e).cause) = (e.cond, e.cause)) : condition (updUnit s u f) v = condition s v := by
  unfold condition
  rw [findUnit_updUnit s u v f phys, Option.map_map]
  refine Option.map_congr fun e _ => ?_
  dsimp only [Function.comp_apply]
  split
  · exact h e
  · rfl

@[simp] theorem condition_leaveNumber (s : State) (u v : PhysUnit) (n : Nat) :
    condition (leaveNumber s u n) v = condition s v := by
  rw [condition_congr (leaveNumber_units ..), condition_updUnit]
  · exact fun _ => rfl
  · exact fun _ => rfl

@[simp] theorem condition_compactOne (s : State) (x : PhysUnit × Nat) (v : PhysUnit) :
    condition (compactOne s x) v = condition s v := by
  unfold compactOne
  dsimp only
  rw [condition_congr (post_units ..)]
  split
  · split
    · refine (condition_updUnit _ _ v _ ?_ ?_).trans (condition_leaveNumber ..)
      · exact fun _ => rfl
      · exact fun _ => rfl
    · exact condition_leaveNumber ..
  · exact condition_leaveNumber ..

@[simp] theorem condition_compact (s : State) (kind die : Nat) (v : PhysUnit) :
    condition (compact s kind die) v = condition s v := by
  unfold compact
  split
  · rfl
  · exact foldl_same (condition · v) _ (fun t x => condition_compactOne t x v) _ _

/-- A stand-in takes a number, or the number is lost: no unit's condition changes (R442). -/
@[simp] theorem condition_standIn (s : State) (u v : PhysUnit) (unit : Nat) :
    condition (standIn s u unit) v = condition s v := by
  unfold standIn
  dsimp only
  split
  · rw [condition_congr (rerun_units ..), condition_congr (post_units ..)]
    refine (condition_updUnit _ _ v _ ?_ ?_).trans (condition_leaveNumber ..)
    · exact fun _ => rfl
    · exact fun _ => rfl
  · exact (condition_compact ..).trans (condition_congr (abandon_units ..) v)

/-! ### Re-probes (R440, R441) -/

/-- A re-probe that passes with fewer than 3 mismatches in 24 h clears the unit. -/
theorem reprobe_clears {s : State} {u : PhysUnit} {e : UnitEntry} (numberless : numbersOf e = [])
    (few : recentMismatches s u < 3) :
    reprobe s u e true = unitEvent (setCond s u (cleared s u e) 0) 0x1004 u none := by
  simp [reprobe, numberless, few]

/-- One that passes with 3 fails the unit all the same, once its instances have run again. -/
theorem reprobe_wornOut {s : State} {u : PhysUnit} (e : UnitEntry) (many : 3 ≤ recentMismatches s u) :
    reprobe s u e true =
      unitEvent (setCond ((numbersOf e).foldl rerun s) u .failed 7) 0x1005 u (some 7) := by
  have still : ¬ recentMismatches ((numbersOf e).foldl rerun s) u < 3 := by
    rw [recentMismatches_congr (foldl_same State.units _ rerun_units _ _) (foldl_same State.timebase _ rerun_timebase _ _)]
    exact Nat.not_lt.2 many
  simp [reprobe, still]

/-- One that fails fails the unit. -/
theorem reprobe_fails (s : State) (u : PhysUnit) (e : UnitEntry) :
    reprobe s u e false = unitEvent (setCond s u .failed 3) 0x1005 u (some 3) := rfl

/-! ### The numbers of a kind of unit (R441) -/

/-- A change of another kind of unit. -/
theorem numbersWith_updUnit {u : PhysUnit} {kind : Nat} (other : u.kind ≠ kind) (s : State) (die : Nat) (ok : Cond → Bool)
    (f : UnitEntry → UnitEntry) (h : ∀ e, (f e).phys = e.phys) :
    numbersWith (updUnit s u f) kind die ok = numbersWith s kind die ok := by
  have away : ∀ e : UnitEntry, (e.phys == u) = true → (e.phys.kind == kind) = false := by
    intro e he
    simpa [eq_of_beq he] using other
  unfold numbersWith
  rw [updUnit, List.filter_map]
  have chosen : (s.units.filter ((fun e : UnitEntry => e.phys.kind == kind && ok e.cond) ∘
      fun e => if e.phys == u then f e else e)) = s.units.filter fun e => e.phys.kind == kind && ok e.cond := by
    refine List.filter_congr fun e _ => ?_
    dsimp only [Function.comp_apply]
    split
    next he => simp [h, away e he]
    · rfl
  have kept : (s.units.filter fun e => e.phys.kind == kind && ok e.cond).map
      (fun e => if e.phys == u then f e else e) = s.units.filter fun e => e.phys.kind == kind && ok e.cond := by
    refine (List.map_congr_left fun e he => ?_).trans (List.map_id _)
    have mine := (List.mem_filter.1 he).2
    refine if_neg fun here => ?_
    simp [away e here] at mine
  rw [chosen, kept]

theorem numbersWith_congr {s t : State} (h : t.units = s.units) (kind die : Nat) (ok : Cond → Bool) :
    numbersWith t kind die ok = numbersWith s kind die ok := by
  unfold numbersWith
  rw [h]

theorem kind_of_mem_numbersWith {s : State} {kind die : Nat} {ok : Cond → Bool} {x : PhysUnit × Nat}
    (h : x ∈ numbersWith s kind die ok) : x.1.kind = kind := by
  simp only [numbersWith, List.mem_flatMap, List.mem_filter, List.mem_map, Bool.and_eq_true, beq_iff_eq] at h
  obtain ⟨e, ⟨-, kinds, -⟩, n, -, rfl⟩ := h
  exact kinds

theorem highestFilled_kind {s : State} {kind die : Nat} {x : PhysUnit × Nat} (h : highestFilled s kind die = some x) :
    x.1.kind = kind := by
  have listed : ∀ y, highestFilled s kind die = some y → y ∈ numbersWith s kind die (· != .failed) := by
    refine List.foldlRecOn _ _ (motive := fun best => ∀ y, best = some y → y ∈ _) (fun _ e => nomatch e)
      fun best ih x hx y e => ?_
    split at e
    · exact Option.some.inj e ▸ hx
    · split at e
      · exact Option.some.inj e ▸ hx
      · exact ih y e
  exact kind_of_mem_numbersWith (listed x h)

/-- The compaction of one number leaves the numbers of other kinds. -/
theorem awaiting_compactOne {x : PhysUnit × Nat} {kind : Nat} (other : x.1.kind ≠ kind) (s : State) (die : Nat) :
    awaiting (compactOne s x) kind die = awaiting s kind die := by
  have left : awaiting (leaveNumber s x.1 x.2) kind die = awaiting s kind die :=
    (numbersWith_congr (leaveNumber_units ..) ..).trans (numbersWith_updUnit other _ _ _ _ fun _ => rfl)
  unfold compactOne
  dsimp only
  rw [awaiting, numbersWith_congr (post_units ..)]
  split
  next h top found =>
    have same := highestFilled_kind found
    split
    · refine (numbersWith_updUnit (same ▸ other) _ _ _ _ ?_).trans left
      exact fun _ => rfl
    · exact left
  · exact left

theorem compact_nothing {s : State} {kind die : Nat} (h : awaiting s kind die = []) : compact s kind die = s := by
  simp [compact, h]

theorem compact_live {s : State} (h : live s = true) (kind die : Nat) : compact s kind die = s := if_pos h

end Sys2Proof.Machine
end

section
/-! Residue mismatches, substitutes, re-probes, compaction, telemetry, and the table as a die scheduler applies it. -/

namespace Sys2Proof.Machine

open Sys2Proof

/-! ### Substitutes (R439) -/

theorem kindCode_le (k : TileKind) : kindCode k ≤ 2 := by cases k <;> decide

theorem lowestSpare_congr {s t : State} (h : t.units = s.units) (kind die : Nat) :
    lowestSpare t kind die = lowestSpare s kind die := by
  unfold lowestSpare
  rw [h]

/-- A change of another unit that makes no spare of it leaves the lowest spare where it is. -/
theorem lowestSpare_updUnit {s : State} {u : PhysUnit} {kind die : Nat} {sub : UnitEntry}
    (found : lowestSpare s kind die = some sub) (ne : sub.phys ≠ u) (f : UnitEntry → UnitEntry)
    (h : ∀ e, (f e).phys = e.phys ∧ ((f e).cond = .spare → e.cond = .spare)) :
    lowestSpare (updUnit s u f) kind die = some sub := by
  obtain ⟨fits, before, after, units, misfits⟩ := List.find?_eq_some_iff_append.1 found
  refine List.find?_eq_some_iff_append.2
    ⟨fits, before.map fun e => if e.phys == u then f e else e, after.map fun e => if e.phys == u then f e else e, ?_, ?_⟩
  · simp [updUnit, units, ne]
  · intro x hx
    obtain ⟨e, he, rfl⟩ := List.mem_map.1 hx
    have misfit := misfits e he
    split
    · obtain ⟨phys, spare⟩ := h e
      simp only [phys, Bool.not_eq_true', Bool.and_eq_false_iff, beq_eq_false_iff_ne] at misfit ⊢
      exact misfit.imp_right fun no yes => no (spare yes)
    · exact misfit

theorem substitute_units (s : State) (u : PhysUnit) (unit cause : Nat) (sub : PhysUnit) :
    (substitute s u unit cause sub).units = (updUnit (leaveNumber s u unit) sub fun e => { e with
      logical := some unit, cond := .inService, cause := 0,
      step := (leaveNumber s u unit).step.toNat % 2 ^ 32 }).units := by
  unfold substitute
  dsimp only
  rw [rerun_units, post_units, bump_units]

/-- The unit that is replaced keeps its condition without the number. -/
theorem findUnit_substitute_replaced {u sub : PhysUnit} (ne : u ≠ sub) (s : State) (unit cause : Nat) :
    findUnit (substitute s u unit cause sub) u = (findUnit s u).map fun e =>
      { e with logical := e.logical.filter (· != unit), standsFor := e.standsFor.filter (· != unit) } := by
  rw [findUnit_congr (substitute_units ..), findUnit_updUnit_other ne, findUnit_congr (leaveNumber_units ..),
    findUnit_updUnit_same]
  · exact fun _ => rfl
  · exact fun _ => rfl

/-- The substitute is in service under the number. -/
theorem findUnit_substitute_taken {s : State} {u sub : PhysUnit} {x : UnitEntry} (ne : sub ≠ u)
    (found : findUnit s sub = some x) (unit cause : Nat) : ∃ y, findUnit (substitute s u unit cause sub) sub = some y ∧
      y.cond = .inService ∧ y.logical = some unit := by
  rw [findUnit_congr (substitute_units ..), findUnit_updUnit_same, findUnit_congr (leaveNumber_units ..),
    findUnit_updUnit_other ne, found]
  · exact ⟨_, rfl, rfl, rfl⟩
  · exact fun _ => rfl
  · exact fun _ => rfl

/-- Instances that run again leave what their tile has reported (R113). -/
theorem reported_rerun (s : State) (unit : Nat) :
    (seqOf (rerun s unit) unit).bind (·.reported) = (seqOf s unit).bind (·.reported) := by
  unfold rerun rerunThose
  split
  · rfl
  next q found =>
    have again := seqOf_updSeq s unit (fun x => { x with flight := x.flight.map fun f =>
      { f with finished := f.finished && !(!(f.finished && f.waiting == 0)) } }) fun _ => rfl
    unfold seqOf at again ⊢
    rw [bump_seqs]
    refine (congrArg (Option.bind · (·.reported)) again).trans ?_
    rw [found]
    rfl

theorem reported_substitute (s : State) (u : PhysUnit) (unit cause : Nat) (sub : PhysUnit) :
    (seqOf (substitute s u unit cause sub) unit).bind (·.reported) = (seqOf s unit).bind (·.reported) := by
  have left : (leaveNumber s u unit).seqs = s.seqs := by
    unfold leaveNumber
    dsimp only
    split
    · rfl
    · rfl
  unfold substitute
  dsimp only
  rw [reported_rerun]
  simp only [seqOf, post_seqs, bump_seqs, updUnit_seqs, left]

/-! ### Adder pipes (R445) -/

theorem replacePipe_kind {u : PhysUnit} (h : u.kind ≠ 0xA) (s : State) : replacePipe s u = s := if_pos (Or.inl h)

/-- The other pipe of an interface in service, with its entry `o` before. -/
def withPipe (s : State) (u : PhysUnit) (o : UnitEntry) : State :=
  let t := { s with reduce := { s.reduce with
    pipes := setAt s.reduce.pipes (u.index / 2) (if u.index % 2 = 0 then 1 else 0) } }
  if o.cond = .spare then setCond t { u with index := 2 * (u.index / 2) + (1 - u.index % 2) } .inService 0 else t

/-- The pipe in service of an interface leaves it to the other, unless that has failed. -/
theorem replacePipe_swaps {s : State} {u : PhysUnit} {o : UnitEntry} (kind : u.kind = 0xA) (bound : u.index < 12)
    (serves : (getAt s.reduce.pipes (u.index / 2) 0).val = u.index % 2)
    (found : findUnit s { u with index := 2 * (u.index / 2) + (1 - u.index % 2) } = some o) (sound : o.cond ≠ .failed) :
    (getAt (replacePipe s u).reduce.pipes (u.index / 2) 0).val = 1 - u.index % 2 ∧
      findUnit (replacePipe s u) u = findUnit s u := by
  have other : u ≠ { u with index := 2 * (u.index / 2) + (1 - u.index % 2) } := by
    intro same
    have index := congrArg PhysUnit.index same
    dsimp only at index
    omega
  have new : ((if u.index % 2 = 0 then 1 else 0 : Fin 2)).val = 1 - u.index % 2 := by
    rcases Nat.mod_two_eq_zero_or_one u.index with h | h
    · simp [h]
    · simp [h]
  have iface : u.index / 2 < 6 := by omega
  have swapped : replacePipe s u = withPipe s u o := by
    unfold replacePipe
    dsimp only
    rw [if_neg (by simp [kind, serves]), found]
    cases hc : o.cond with
    | failed => exact absurd hc sound
    | _ => simp [withPipe, hc]
  rw [swapped, withPipe]
  dsimp only
  split
  · exact ⟨by simp [getAt, setAt, iface, new], (findUnit_setCond_other other ..).trans rfl⟩
  · exact ⟨by simp [getAt, setAt, iface, new], rfl⟩

/-! ### A suspect unit is replaced, or keeps its place (R439, R441, R445) -/

theorem replaceOrKeep_numberless {s : State} {u : PhysUnit} (h : (findUnit (replacePipe s u) u).bind (·.logical) = none)
    (cause : Nat) : replaceOrKeep s u cause = replacePipe s u := by
  unfold replaceOrKeep
  dsimp only
  rw [h]

theorem replaceOrKeep_substitutes {s : State} {u : PhysUnit} {e sub : UnitEntry} {unit : Nat} (kind : u.kind ≠ 0xA)
    (found : findUnit s u = some e) (numbered : e.logical = some unit)
    (spare : lowestSpare s u.kind u.die = some sub) (cause : Nat) :
    replaceOrKeep s u cause = substitute s u unit cause sub.phys := by
  unfold replaceOrKeep
  dsimp only
  rw [replacePipe_kind kind, found]
  simp only [Option.bind_some, numbered, spare]

/-! ### A tile's mismatch (R113, R439) -/

/-- A tile's mismatch is counted and reported to the sequencer of its number, and the tile is suspect. -/
def mismatched (s : State) (u : PhysUnit) (unit : Nat) (m : Mismatch) : State :=
  suspect (updSeq (bump (countMismatch s u) 0x0409 unit noTensor 1) unit fun q => { q with reported := some m }) u 2

section
variable (s : State) (u : PhysUnit) (unit : Nat) (m : Mismatch)

theorem mismatched_units : (mismatched s u unit m).units = (setCond (noteMismatch s u) u .suspect 2).units := by
  simp [mismatched, suspect, setCond, updUnit, countMismatch]

theorem findUnit_mismatched_same {e : UnitEntry} (found : findUnit s u = some e) :
    ∃ x, findUnit (mismatched s u unit m) u = some x ∧ x.cond = .suspect ∧ x.logical = e.logical := by
  rw [findUnit_congr (mismatched_units ..), findUnit_setCond_same, noteMismatch, findUnit_updUnit_same, found]
  · exact ⟨_, rfl, rfl, rfl⟩
  · exact fun _ => rfl

theorem findUnit_mismatched_other {v : PhysUnit} (ne : v ≠ u) : findUnit (mismatched s u unit m) v = findUnit s v := by
  rw [findUnit_congr (mismatched_units ..), findUnit_setCond_other ne, noteMismatch, findUnit_updUnit_other ne]
  exact fun _ => rfl

theorem lowestSpare_mismatched {kind die : Nat} {sub : UnitEntry} (spare : lowestSpare s kind die = some sub)
    (ne : sub.phys ≠ u) : lowestSpare (mismatched s u unit m) kind die = some sub := by
  have noted : lowestSpare (noteMismatch s u) kind die = some sub := by
    refine lowestSpare_updUnit spare ne _ ?_
    exact fun _ => ⟨rfl, id⟩
  rw [lowestSpare_congr (mismatched_units ..)]
  refine lowestSpare_updUnit noted ne _ ?_
  exact fun _ => ⟨rfl, nofun⟩

theorem reported_mismatched {q : SeqUnit} (h : seqOf s unit = some q) :
    (seqOf (mismatched s u unit m) unit).bind (·.reported) = some m := by
  have before : seqOf (bump (countMismatch s u) 0x0409 unit noTensor 1) unit = some q := by
    simpa [seqOf, countMismatch, noteMismatch] using h
  have told := seqOf_updSeq (bump (countMismatch s u) 0x0409 unit noTensor 1) unit
    (fun q => { q with reported := some m }) fun _ => rfl
  rw [before] at told
  have kept : ∀ t : State, seqOf (suspect t u 2) unit = seqOf t unit := by
    intro t
    simp [seqOf, suspect, setCond]
  rw [mismatched, kept, told]
  rfl

end

/-- A tile in service that reports a mismatch leaves its number to the lowest spare. -/
theorem tileResidueMismatch_substitutes {s : State} {t : TileId} {e sub : UnitEntry} {unit : Nat}
    (found : findUnit s (tilePhys t) = some e) (serves : e.cond = .inService) (numbered : e.logical = some unit)
    (spare : lowestSpare s (kindCode t.kind) t.td.val = some sub) (ne : sub.phys ≠ tilePhys t) (dpu cycle : Nat)
    (lost : List Nat) :
    let r := substitute (mismatched s (tilePhys t) unit { dpu := dpu, cycle := cycle }) (tilePhys t) unit 2 sub.phys
    exec (.tileResidueMismatch t dpu cycle lost) s =
      .next ((lost.filter fun a => sramPopulated r (a / 64 * 64) 64).foldl (fun s a => sramLost s a none) r) := by
  intro r
  have kind : (tilePhys t).kind ≠ 0xA := by
    have small := kindCode_le t.kind
    simp only [tilePhys]
    omega
  obtain ⟨x, suspected, -, same⟩ := findUnit_mismatched_same s (tilePhys t) unit { dpu := dpu, cycle := cycle } found
  have replaced : replaceOrKeep (mismatched s (tilePhys t) unit { dpu := dpu, cycle := cycle }) (tilePhys t) 2 = r :=
    replaceOrKeep_substitutes kind suspected (same.trans numbered) (lowestSpare_mismatched _ _ _ _ spare ne) 2
  have gone : ((findUnit r (tilePhys t)).bind (·.logical)).isSome = false := by
    simp [r, findUnit_substitute_replaced ne.symm, suspected, same, numbered]
  change execTileResidueMismatch t s dpu cycle lost = _
  unfold execTileResidueMismatch
  dsimp only
  rw [found]
  dsimp only
  rw [if_pos serves, numbered]
  unfold mismatched at replaced
  dsimp only
  rw [replaced, gone]
  rfl

/-! ### Re-probes of tiles (R440, R441) -/

/-- The re-probe of a tile that another has replaced. -/
theorem tileReprobe_replaced {s : State} {t : TileId} {e : UnitEntry} (found : findUnit s (tilePhys t) = some e)
    (suspected : e.cond = .suspect) (numberless : e.logical = none) (passes : Bool) :
    exec (.tileReprobe t passes) s = .next (reprobe s (tilePhys t) e passes) := by
  change execTileReprobe t passes s = _
  unfold execTileReprobe
  dsimp only
  rw [found]
  dsimp only
  rw [if_pos suspected, numberless]
  split
  next h => exact nomatch h
  · rfl

theorem cleared_replaced (s : State) {t : TileId} {e : UnitEntry} (numberless : e.logical = none) :
    cleared s (tilePhys t) e = .spare := by
  have tile : (tilePhys t).kind ≤ 2 := kindCode_le t.kind
  simp [cleared, tile, numberless]

/-! ### Compaction (R441) -/

/-- With one number of the tile kind to compact and none of the units without spares, that one alone is compacted. -/
theorem capacityCompaction_single {s : State} {td : Fin 8} {kind : TileKind} {x : PhysUnit × Nat} (still : live s = false)
    (one : awaiting s (kindCode kind) td.val = [x]) (rest : ∀ k : Nat, 3 ≤ k → k ≤ 7 → awaiting s k td.val = []) :
    exec (.capacityCompaction td kind) s = .next (compactOne s x) := by
  have mine : x.1.kind = kindCode kind := kind_of_mem_numbersWith (one ▸ List.mem_singleton_self x)
  have small := kindCode_le kind
  have first : compact s (kindCode kind) td.val = compactOne s x := by simp [compact, still, one]
  have bounds : ∀ k ∈ [3, 4, 5, 6, 7], 3 ≤ k ∧ k ≤ 7 := by decide
  have others : ∀ k ∈ [3, 4, 5, 6, 7], awaiting (compactOne s x) k td.val = [] := by
    intro k hk
    obtain ⟨low, high⟩ : 3 ≤ k ∧ k ≤ 7 := bounds k hk
    rw [awaiting_compactOne (by omega), rest k low high]
  have ended : [3, 4, 5, 6, 7].foldl (fun s k => compact s k td.val) (compactOne s x) = compactOne s x :=
    List.foldlRecOn _ _ (motive := (· = compactOne s x)) rfl fun t same k hk => by
      rw [same, compact_nothing (others k hk)]
  change execCapacityCompaction td kind s = _
  rw [execCapacityCompaction, List.foldl_cons, first, ended]

/-- While instances of the program can run nothing is compacted. -/
theorem capacityCompaction_live {s : State} (h : live s = true) (td : Fin 8) (kind : TileKind) :
    exec (.capacityCompaction td kind) s = .next s :=
  congrArg Host.Outcome.next <| List.foldlRecOn _ _ (motive := (· = s)) rfl fun t same k _ => by
    rw [same, compact_live h]

/-! ### Units without spares (R442) -/

theorem runner_found {s : State} {unit : Nat} {e : UnitEntry} (h : runner s unit = some e) :
    ∃ x, findUnit s e.phys = some x := by
  have listed : e ∈ s.units := by
    unfold runner at h
    split at h
    next held => exact List.mem_of_find?_eq_some (held.trans h)
    · exact List.mem_of_find?_eq_some h
  exact Option.isSome_iff_exists.1 (List.find?_isSome.2 ⟨e, listed, by simp⟩)

/-- A unit without spares that passes its re-probe with 3 mismatches in 24 h has failed, whoever stands in for it. -/
theorem reprobeUnit_wornOut {s : State} {e x : UnitEntry} (kind : e.phys.kind ≠ 0xA) (found : findUnit s e.phys = some x)
    (many : 3 ≤ recentMismatches s e.phys) : condition (reprobeUnit s e true) e.phys = some (.failed, 7) := by
  have failed : condition (reprobe s e.phys e true) e.phys = some (.failed, 7) := by
    rw [reprobe_wornOut e many, condition_congr (unitEvent_units ..), condition, findUnit_setCond_same,
      findUnit_congr (foldl_same State.units _ rerun_units _ _), found]
    rfl
  have seen : (findUnit (reprobe s e.phys e true) e.phys).map (·.cond) = some .failed := by
    obtain ⟨y, hy, same⟩ := Option.map_eq_some_iff.1 failed
    rw [hy]
    exact congrArg some (congrArg Prod.fst same)
  unfold reprobeUnit
  dsimp only
  rw [seen, replacePipe_kind kind]
  exact (foldl_same (condition · e.phys) _ (fun t n => condition_standIn t e.phys e.phys n) _ _).trans failed

/-- A second mismatch in one re-run re-probes the unit, and the third in 24 h fails it. -/
theorem unitResidueMismatch_wornOut {s : State} {unit : Nat} {e : UnitEntry} (runs : runner s unit = some e)
    (kinds : 3 ≤ e.phys.kind ∧ e.phys.kind ≤ 5) (serves : e.cond = .inService) (many : 2 ≤ recentMismatches s e.phys) :
    ∃ t, exec (.unitResidueMismatch unit true true) s = .next t ∧ condition t e.phys = some (.failed, 7) := by
  obtain ⟨x, found⟩ := runner_found runs
  let t := suspect (countMismatch s e.phys) e.phys 2
  have counted : (findUnit (countMismatch s e.phys) e.phys) = (findUnit s e.phys).map _ :=
    (findUnit_congr (bump_units ..) _).trans (findUnit_updUnit_same _ _ _ fun _ => rfl)
  obtain ⟨y, suspected⟩ : ∃ y, findUnit t e.phys = some y := by
    rw [findUnit_suspect_same, counted, found]
    exact ⟨_, rfl⟩
  have same : y.phys = e.phys := findUnit_phys suspected
  have third : 3 ≤ recentMismatches t e.phys := by
    rw [recentMismatches_suspect, recentMismatches_countMismatch found]
    omega
  refine ⟨reprobeUnit t y true, ?_, ?_⟩
  · change execUnitResidueMismatch unit true true s = _
    unfold execUnitResidueMismatch
    rw [runs]
    dsimp only
    rw [if_pos ⟨kinds.1, kinds.2, serves⟩, if_pos rfl, suspected]
    rfl
  · rw [← same] at suspected third ⊢
    exact reprobeUnit_wornOut (by rw [same]; omega) suspected third

/-! ### The table applied (R446) -/

theorem mem_reexecute {s : State} {ws : List Who} {w : Who} (h : w ∈ s.beat.reexec ∨ w ∈ ws) :
    w ∈ (reexecute s ws).beat.reexec := by
  change w ∈ ws.foldl (fun rs w => rs.filter (· != w) ++ [w]) s.beat.reexec
  generalize s.beat.reexec = rs at h ⊢
  induction ws generalizing rs with
  | nil => simpa using h
  | cons x ws ih =>
    refine ih _ ?_
    by_cases same : w = x
    · exact .inl (by simp [same])
    · exact h.imp (fun old => by simp [old, same]) fun new => (List.mem_cons.1 new).resolve_left same

/-- Who an instance in flight on a sequencer is. -/
def whoOf (q : SeqUnit) (f : InFlight) : Who := { unit := q.unit, stream := f.stream, index := f.index, inst := f.inst }

section
variable (s : State) (units : List Nat)

@[simp] theorem rerunAll_mem : (rerunAll s units).mem = s.mem := by
  unfold rerunAll
  exact foldl_same State.mem _ (fun _ _ => bump_mem ..) _ _

theorem rerunAll_seqs : (rerunAll s units).seqs = s.seqs.map fun q => if units.contains q.unit then
    { q with flight := q.flight.map fun f => { f with finished := false } } else q := by
  unfold rerunAll
  exact foldl_same State.seqs _ (fun _ _ => bump_seqs ..) _ _

/-- What is in flight under one of the numbers runs again. -/
theorem whoOf_mem_rerunAll {q : SeqUnit} {f : InFlight} (hq : q ∈ s.seqs) (hf : f ∈ q.flight)
    (mine : units.contains q.unit = true) : whoOf q f ∈ (rerunAll s units).beat.reexec := by
  unfold rerunAll
  dsimp only
  rw [foldl_same State.beat _ fun _ _ => bump_beat ..]
  refine mem_reexecute ?_
  by_cases pending : whoOf q f ∈ s.beat.reexec
  · exact .inl pending
  · have flies : whoOf q f ∈ s.seqs.flatMap fun q => q.flight.map (whoOf q) :=
      List.mem_flatMap.2 ⟨q, hq, List.mem_map_of_mem hf⟩
    refine .inr (List.mem_eraseDups.2 (List.mem_filter.2 ⟨List.mem_append_left _ flies, ?_⟩))
    have new : s.beat.reexec.contains (whoOf q f) = false := by simpa using pending
    rw [new]
    exact (Bool.and_true _).trans mine

end

/-- A die scheduler discards the results of a failed unit's numbers. -/
theorem unitTableApply_failed {s : State} {u : PhysUnit} {e : UnitEntry} (found : findUnit s u = some e)
    (failed : e.cond = .failed) : exec (.unitTableApply u) s =
      .next (rerunAll s (numbersOf e ++ (s.beat.moved.filter (·.1 == u)).map (·.2))) := by
  change execUnitTableApply u s = _
  unfold execUnitTableApply
  rw [found]
  exact if_pos (.inr failed)

/-! ### Stopped units (R439, R441) -/

/-- Nothing issues on a stopped unit of a Tensor Die. -/
theorem Issues.running {s : State} {w : Who} {p : PInstr} (h : Issues s w p) (die : w.unit / 256 < 8) :
    unitStopped s w.unit = false := by
  obtain ⟨q, hq, ready⟩ := h.ready
  have mine : q.unit = w.unit := by simpa using List.find?_some hq
  have accepted : accepts s q = true := by
    unfold Machine.ready at ready
    exact (Bool.and_eq_true_iff.1 ready).2
  have inside : ¬ 8 ≤ unitDie w.unit := Nat.not_le.2 die
  unfold accepts at accepted
  rw [mine] at accepted
  simp only [inside, decide_false, Bool.false_or, Bool.and_eq_true, Bool.not_eq_true'] at accepted
  exact accepted.2.2

/-- An instance in flight on a stopped unit does not complete. -/
theorem instanceComplete_stopped {s : State} {w : Who} (stopped : unitStopped s w.unit = true)
    (nothing : s.beat.deferred = []) (flies : flightOf s w ≠ none) (time : PassTime) :
    exec (.instanceComplete w.unit w.stream w.index w.inst time) s = .next s := by
  have here : (flightOf s w).isNone = false := Option.isNone_eq_false_iff.2 (Option.isSome_iff_ne_none.2 flies)
  have idle : retryDeferred s w time = s := by simp [retryDeferred, nothing]
  have held : heldUp s w = true := by simp [heldUp, stopped]
  change execInstanceComplete w.unit w.stream w.index w.inst s time = _
  unfold execInstanceComplete
  dsimp only
  split
  · rfl
  · rw [here, idle, held]
    rfl

/-! ### Telemetry (R444, R445) -/

/-- A unit that holds a place and on which the two paths disagree is suspect, and is replaced if it can be. -/
theorem managementTelemetry_disagrees {s : State} {r : UnitReport} {e : UnitEntry} (found : findUnit s r.phys = some e)
    (works : e.cond = .inService ∨ e.cond = .spare) (ne : r.managementSound ≠ r.dataPathSound) :
    let cause := if r.managementSound then 5 else 4
    exec (.managementTelemetry r) s = .next (replaceOrKeep (suspect s r.phys cause) r.phys cause) := by
  intro cause
  have known : ¬(e.cond = .suspect ∧ 2 < r.phys.kind) := by
    rintro ⟨suspected, -⟩
    rw [suspected] at works
    exact works.elim nofun nofun
  have judged : ¬(r.managementSound = r.dataPathSound ∨ (e.cond ≠ .inService ∧ e.cond ≠ .spare)) := by
    rintro (agree | ⟨notInService, notSpare⟩)
    · exact ne agree
    · exact works.elim notInService notSpare
  change execManagementTelemetry r s = _
  unfold execManagementTelemetry
  rw [found]
  dsimp only
  rw [if_neg known, if_neg judged]

theorem managementTelemetry_agrees {s : State} {r : UnitReport} {e : UnitEntry} (found : findUnit s r.phys = some e)
    (known : e.cond ≠ .suspect) (agree : r.managementSound = r.dataPathSound) :
    exec (.managementTelemetry r) s = .next s := by
  change execManagementTelemetry r s = _
  unfold execManagementTelemetry
  rw [found]
  dsimp only
  rw [if_neg fun h => known h.1, if_pos (.inl agree)]

/-- A suspect adder pipe without a number leaves its interface to the other pipe. -/
theorem replaceOrKeep_pipe {s : State} {u : PhysUnit} {e o : UnitEntry} (cause : Nat) (found : findUnit s u = some e)
    (numberless : e.logical = none) (kind : u.kind = 0xA) (bound : u.index < 12)
    (serves : (getAt s.reduce.pipes (u.index / 2) 0).val = u.index % 2)
    (other : findUnit s { u with index := 2 * (u.index / 2) + (1 - u.index % 2) } = some o) (sound : o.cond ≠ .failed) :
    let t := replaceOrKeep (suspect s u cause) u cause
    (getAt t.reduce.pipes (u.index / 2) 0).val = 1 - u.index % 2 ∧ condition t u = some (.suspect, cause) := by
  intro t
  have apart : ({ u with index := 2 * (u.index / 2) + (1 - u.index % 2) } : PhysUnit) ≠ u := by
    intro same
    have index := congrArg PhysUnit.index same
    dsimp only at index
    omega
  have pipes : (suspect s u cause).reduce = s.reduce := unitEvent_reduce ..
  obtain ⟨swapped, kept⟩ := replacePipe_swaps (s := suspect s u cause) kind bound (by rw [pipes, serves])
    ((findUnit_suspect_other apart s cause).trans other) sound
  have entry := kept.trans (findUnit_suspect_same s u cause)
  rw [found] at entry
  have same : t = replacePipe (suspect s u cause) u := replaceOrKeep_numberless (by rw [entry]; exact numberless) cause
  rw [same, condition, entry]
  exact ⟨swapped, rfl⟩

/-- Settles O53: each report on a unit changes its entry, its number's holder and the instances that run again; the
clauses follow the order of the commands. -/
theorem unitFaults : Obligations.UnitFaults := by
  refine ⟨?_, ?_, ?_, ?_, ?_, ?_, ?_, ?_, ?_, ?_, ?_, ?_, ?_, ?_, ?_⟩
  · intro s t dpu cycle lost e sub unit found serves numbered spare ne
    obtain ⟨x, suspected, cond, same⟩ := findUnit_mismatched_same s (tilePhys t) unit { dpu := dpu, cycle := cycle } found
    obtain ⟨x', held⟩ : ∃ x', findUnit s sub.phys = some x' :=
      Option.isSome_iff_exists.1 (List.find?_isSome.2 ⟨sub, List.mem_of_find?_eq_some spare, by simp⟩)
    obtain ⟨y, taken, inService, number⟩ := findUnit_substitute_taken ne
      ((findUnit_mismatched_other s (tilePhys t) unit { dpu := dpu, cycle := cycle } ne).trans held) unit 2
    have replaced := findUnit_substitute_replaced ne.symm
      (mismatched s (tilePhys t) unit { dpu := dpu, cycle := cycle }) unit 2
    rw [suspected] at replaced
    have units := foldl_same State.units (fun s a => sramLost s a none) fun s a => (sramLost_unread s a).1
    have seqs := foldl_same State.seqs (fun s a => sramLost s a none) fun s a => (sramLost_unread s a).2
    refine ⟨_, _, y, tileResidueMismatch_substitutes found serves numbered spare ne dpu cycle lost,
      (findUnit_congr (units _ _) _).trans replaced, cond, by simp [same, numbered],
      (findUnit_congr (units _ _) _).trans taken, inService, number, fun q hq => ?_⟩
    unfold seqOf
    rw [seqs]
    exact (reported_substitute ..).trans (reported_mismatched s (tilePhys t) unit _ hq)
  · intro s t dpu cycle lost e found out
    change execTileResidueMismatch t s dpu cycle lost = _
    unfold execTileResidueMismatch
    dsimp only
    rw [found]
    exact if_neg out
  · intro s t e found suspected numberless alone few
    rw [tileReprobe_replaced found suspected numberless, reprobe_clears (by simp [numbersOf, numberless, alone]) few,
      cleared_replaced s numberless]
  · intro s t e found suspected numberless alone many
    rw [tileReprobe_replaced found suspected numberless, reprobe_wornOut e many]
    simp [numbersOf, numberless, alone]
  · intro s t e found suspected numberless
    rw [tileReprobe_replaced found suspected numberless, reprobe_fails]
  · intro s td kind x halted idle one rest
    exact capacityCompaction_single (by simp [live, replaying, halted, idle]) one rest
  · intro s td kind running
    exact capacityCompaction_live (live_of_running running) td kind
  · intro s unit passes e runs low high serves
    change execUnitResidueMismatch unit false passes s = _
    unfold execUnitResidueMismatch
    rw [runs]
    exact (if_pos ⟨low, high, serves⟩).trans (if_neg (by decide))
  · intro s unit e runs low high serves many
    exact unitResidueMismatch_wornOut runs ⟨low, high⟩ serves many
  · intro s r e found works numberless kind ne
    have gone : (findUnit (suspect s r.phys (if r.managementSound then 5 else 4)) r.phys).bind (·.logical) = none := by
      rw [findUnit_suspect_same, found]
      exact numberless
    rw [managementTelemetry_disagrees found works ne, replaceOrKeep_numberless (by rw [replacePipe_kind kind, gone]),
      replacePipe_kind kind]
  · intro s r e o found inService numberless kind bound serves other sound ne
    exact ⟨_, managementTelemetry_disagrees found (.inl inService) ne,
      replaceOrKeep_pipe _ found numberless kind bound serves other sound⟩
  · intro s r e found known agree
    exact managementTelemetry_agrees found known agree
  · rintro s u e _ q found failed numbered only rfl
    have mine : (numbersOf e ++ (s.beat.moved.filter (·.1 == u)).map (·.2)).contains q.unit = true := by
      simp [numbersOf, numbered]
    have seqs := rerunAll_seqs s (numbersOf e ++ (s.beat.moved.filter (·.1 == u)).map (·.2))
    rw [only, List.map_singleton, if_pos mine] at seqs
    refine ⟨_, _, unitTableApply_failed found failed, seqs, rfl, fun f hf => ?_, rerunAll_mem ..⟩
    exact List.contains_iff_mem.2 (whoOf_mem_rerunAll s _ (only ▸ List.mem_singleton_self q) hf mine)
  · intro s w p h die
    exact h.running die
  · intro s w time stopped nothing flies
    exact instanceComplete_stopped stopped nothing flies time

end Sys2Proof.Machine
end

section
/-! The watch list, the layer bounds, the power cap and the profiles. -/

namespace Sys2Proof.Machine

open Sys2Proof

/-! ### SUPPORT. A command whose checks all pass, and what reading a command's data leaves of the state -/

/-- A command that may run and whose fields are in range is executed by `k` (R384). -/
theorem command_gated {s : State} {c : Cmd} {op ring : Nat} {compute memory : Bool} {states : List PState}
    (h : Runs s c op ring compute memory states) {ok : State → Bool} (fields : ok s = true) (k : State → State → State) :
    command s c op (fun s => gated s c ring compute memory states (ok s) (k s)) = .next (k s s) := by
  rw [command_runs h, fields, gated_runs h]

/-- `t` differs from `s` at most by reconstructions, counts, waiting and arrived reads, and outputs. -/
def ReadOnly (s t : State) : Prop :=
  ∃ (recon : Vector (List Nat) 20) (counts : List CountRec) (waiting : List ViewRead) (arrivals : List (Nat × List Host.Cell))
    (out : List Output),
    t = { s with
      mem := { s.mem with reconTimes := recon }
      counts := counts
      fabric := { s.fabric with waiting := waiting, arrivals := arrivals }
      out := out }

theorem ReadOnly.refl (s : State) : ReadOnly s s := ⟨_, _, _, _, _, rfl⟩

theorem ReadOnly.after {s t u : State} (k : ReadOnly t u) (h : ReadOnly s t) : ReadOnly s u := by
  obtain ⟨r, c, w, a, o, rfl⟩ := h
  obtain ⟨r', c', w', a', o', rfl⟩ := k
  exact ⟨r', c', w', a', o', rfl⟩

theorem chargeRead_readOnly (s : State) (off n : Nat) : ReadOnly s (chargeRead s off n) := by
  obtain ⟨r, c, h⟩ := chargeRead_eq s off n
  exact ⟨r, c, _, _, _, h⟩

theorem chargeAt_readOnly (s : State) (addr n : Nat) : ReadOnly s (chargeAt s addr n) := by
  unfold chargeAt
  split
  · exact chargeRead_readOnly ..
  · exact ReadOnly.refl s

theorem viewRead_readOnly (s : State) (c : Cmd) : ReadOnly s (viewRead s c) := ⟨_, _, _, _, _, rfl⟩

theorem dropArrivals_readOnly (s : State) (key : Nat) : ReadOnly s (dropArrivals s key) := ⟨_, _, _, _, _, rfl⟩

theorem emit_readOnly (s : State) (o : Output) : ReadOnly s (emit s o) := ⟨_, _, _, _, _, rfl⟩

/-- Data that are at hand were read and nothing else was done (R383). -/
theorem readData_readOnly {s v : State} {c : Cmd} {kind addr n : Nat} {host : HostRead} {data : List Byte}
    (h : readData s c kind addr n host = (.bytes data, v)) : ReadOnly s v := by
  unfold readData at h
  split at h
  · unfold fromHost at h
    split at h
    · split at h
      · cases h; exact chargeRead_readOnly ..
      · cases h
    · dsimp only at h
      split at h
      · cases h; exact emit_readOnly ..
      · cases h
  · split at h
    · split at h
      · split at h
        · cases h; exact (viewRead_readOnly ..).after (chargeAt_readOnly ..)
        · cases h
      · cases h
      · cases h
    · split at h
      · cases h; exact ReadOnly.refl s
      · split at h
        · cases h
        · dsimp only at h
          split at h
          · cases h
          · cases h
  · obtain ⟨-, rfl⟩ := Prod.mk.inj h
    exact ReadOnly.refl s
  · cases h

theorem Reads.readOnly {s v : State} {c : Cmd} {kind addr n : Nat} {host : HostRead} {data : List Byte}
    (h : Reads s c kind addr n host data v) : ReadOnly s v := by
  obtain ⟨u, hu, rfl⟩ := h
  exact (dropArrivals_readOnly ..).after (readData_readOnly hu)

theorem ReadOnly.flash {s t : State} (h : ReadOnly s t) : t.flash = s.flash := by
  obtain ⟨_, _, _, _, _, rfl⟩ := h
  rfl

theorem ReadOnly.fw {s t : State} (h : ReadOnly s t) : t.fw = s.fw := by
  obtain ⟨_, _, _, _, _, rfl⟩ := h
  rfl

/-! ### Layer bounds (R160) -/

/-- Bounds of a step that has not begun, within the ceiling at load, the floor no wider than the ceiling. -/
theorem boundsRefused_eq_false {s : State} {d : LayerDesc} {fl ce step : Nat} (order : fl ≤ ce) (within : ce ≤ d.ceil)
    (ahead : stepBegun s step = false) : boundsRefused s d fl ce step = false := by
  simp [boundsRefused, order, within, ahead]

/-- The layer's bounds from the named step on are the command's. -/
theorem layerBounds_runs {s : State} {c : Cmd} {p : Program} {d : LayerDesc}
    (h : Runs s c 0x0203 1 false false [.loaded, .running, .paused])
    (rest : restZero c [(16, 4), (20, 1), (21, 1), (24, 8)] = true) (prog : s.program = some p)
    (desc : (layerDescs p).find? (fun d => d.layer == arg c 16 4) = some d) (order : arg c 20 1 ≤ arg c 21 1)
    (within : arg c 21 1 ≤ d.ceil) (width : arg c 21 1 < 4) (ahead : stepBegun s (arg c 24 8) = false) :
    exec (.layerBounds c) s = .next (done (updLayer s (arg c 16 4) fun l => { l with bounds :=
      (l.bounds.filter (fun b => b.1 != BitVec.ofNat 64 (arg c 24 8)) ++
        [(BitVec.ofNat 64 (arg c 24 8), arg c 20 1, arg c 21 1)]) }) c 0) := by
  have floor : arg c 20 1 < 4 := order.trans_lt width
  have found : ((s.program.map layerDescs).bind fun ds => ds.find? (·.layer == arg c 16 4)) = some d := by
    rw [prog]
    exact desc
  change execLayerBounds c s = _
  refine (command_gated h ?_ _).trans ?_
  · simp [floor, width, found, rest]
  · dsimp only
    rw [found]
    dsimp only
    rw [boundsRefused_eq_false order within ahead]
    rfl

/-! ### Profiles (R421, R422) -/

/-- A profile goes to the partition, whose format is the image's. -/
theorem profileWrite_runs {s v : State} {c : Cmd} {host : HostRead} {data : List Byte} {r : Profile}
    (h : Runs s c 0x0503 1 false (arg c 17 1 == 1) anyState) (index : arg c 16 1 ≤ 3)
    (rest : restZero c [(16, 2), (24, 8)] = true) (reads : Reads s c (arg c 17 1) (arg c 24 8) 64 host data v)
    (parsed : parseProfile data = some r) (format : s.fw.image.settingsFormat = s.flash.boot.settingsFormat) :
    exec (.profileWrite c host) s = .next (done { v with
      flash := { v.flash with profiles := setAt (profiles s) (arg c 16 1) r }
      fw := { v.fw with memProfiles := none } } c 0) := by
  have stored : profiles v = profiles s := by
    unfold profiles
    rw [reads.readOnly.fw, reads.readOnly.flash]
  have same : ¬ v.fw.image.settingsFormat ≠ v.flash.boot.settingsFormat := by
    rw [reads.readOnly.fw, reads.readOnly.flash]
    exact not_not.2 format
  change execProfileWrite c host s = _
  refine (command_gated h ?_ _).trans ?_
  · simp [index, rest]
  · dsimp only
    rw [withData_reads reads, parsed]
    dsimp only
    rw [if_neg same, stored]

/-- Settles O37: each command whose checks pass does its work at once; PROFILE_WRITE on the profiles as they were before its data
were read. -/
theorem settingCommands : Obligations.SettingCommands := by
  refine ⟨?_, ?_, ?_, ?_, ?_, ?_⟩
  · intro s c h index rest watch
    change execWatchSet c s = _
    refine command_gated h ?_ _
    simp [index, rest, watch]
  · intro s c h index rest
    change execWatchClear c s = _
    refine command_gated h ?_ _
    simp [index, rest]
  · exact fun _ _ _ _ => layerBounds_runs
  · intro s c h low high rest
    change execPowerCap c s = _
    refine command_gated h ?_ _
    simp [low, high, rest]
  · intro s c i h index rest
    change execProfileSelect c s = _
    have low : arg c 16 1 < 4 := index ▸ i.isLt
    refine (command_gated h ?_ _).trans ?_
    · simp [Nat.le_of_lt_succ low, rest]
    · dsimp only
      rw [dif_pos low]
      simp only [index]
  · exact fun _ _ _ _ _ _ => profileWrite_runs

end Sys2Proof.Machine
end

section
/-! A LOAD that does not leave every tracker at its initial value: of a bump table at another module the loader writes the zeros
with requests, and the tracker holds what this module has written there (R144). -/

namespace Sys2Proof.Machine

open Sys2Proof

/-! ### The object (R80, R148, R207, R479) -/

/-- Tensor 9: one block of K4 in this module's space 0x1, encoded under the tracked rule. -/
def trackedBlock : List Byte :=
  leBytes 8 0xFFFF_1000_0000_0000 ++ leBytes 8 0xFFFF_1000_0000_1000 ++ leBytes 8 0xFFFF_1000_0000_2000 ++
    leBytes 8 0xFFFF_1000_0000_3000 ++ leBytes 4 1 ++ leBytes 4 9 ++ [0, 2] ++ leBytes 2 0x3F80 ++ leBytes 2 16 ++ [1] ++
    List.replicate 17 0

/-- A tracker of tensor 9, with a bump table of one position at an address. -/
def trackerAt (bump : Nat) : List Byte :=
  leBytes 4 9 ++ [1, 1, 1, 0] ++ leBytes 2 0x3F80 ++ leBytes 2 0 ++ leBytes 4 1 ++ leBytes 8 bump ++ List.replicate 40 0

/-- The header, a descriptor table of two slots, three empty sections, and the descriptors: the tensor, and its tracker with the
bump table in space 0x1 of node 2. -/
def farObject : List Byte :=
  leBytes 4 0x4752_504B ++ [0, 5, 2, 0] ++ List.replicate 40 0 ++ leBytes 2 0 ++ leBytes 2 1 ++ [2, 1] ++ leBytes 2 500 ++
    leBytes 2 0 ++ [1, 0, 0, 0, 0, 0] ++ leBytes 8 128 ++ leBytes 2 4 ++ List.replicate 54 0 ++
    (leBytes 8 1 ++ leBytes 8 256 ++ leBytes 8 128 ++ List.replicate 8 0) ++
    ([2, 3, 4].flatMap fun typ => leBytes 8 typ ++ leBytes 8 256 ++ List.replicate 16 0) ++ trackedBlock ++
    trackerAt 0x0002_1000_0000_0000

def farHints : LoadHints := { kinds := [.block, .tracker], persistent := [], ve := [], keep := [], recompute := [] }

/-- The program it holds. -/
def farProgram : Program := settleKinds (parseProgram farObject farHints)

/-! ### The command -/

/-- LOAD of 384 bytes of host memory. -/
def farLoad : Cmd :=
  { path := .pcie, ring := 1, opcode := 0x0101, tag := 7
    payload := leBytes 8 0x1000 ++ List.replicate 8 0 ++ leBytes 8 384 ++ List.replicate 24 0 }

/-- A powered module that is READY, holds no program and executes the command. -/
def farLoading : State :=
  { State.reset with
    power := { State.reset.power with mode := .active, computeStopped := false }
    mbox := { State.reset.mbox with module := .ready, mcpUp := true, executing := [{ cmd := farLoad, discard := false }] } }

/-- Data that are at hand are read (R383). -/
theorem reads_of_bytes {s : State} {c : Cmd} {kind addr n : Nat} {host : HostRead} {data : List Byte}
    (h : (readData s c kind addr n host).1 = .bytes data) :
    Reads s c kind addr n host data (dropArrivals (readData s c kind addr n host).2 (cmdKey c)) :=
  ⟨_, Prod.ext h rfl, rfl⟩

/-- The state once the object has been read. -/
def farRead : State :=
  dropArrivals (readData farLoading farLoad (arg farLoad 24 1) (arg farLoad 16 8) (arg farLoad 32 8) (some farObject)).2
    (cmdKey farLoad)

theorem farLoad_reads :
    Reads farLoading farLoad (arg farLoad 24 1) (arg farLoad 16 8) (arg farLoad 32 8) (some farObject) farObject farRead :=
  reads_of_bytes (by decide +kernel)

/-- The object passes every check of R209. -/
theorem farObject_accepted : loadResult farRead farObject farHints = (0, some farProgram) := by decide +kernel

/-- What the trackers hold of bump tables at other modules after a command. -/
def farTables (o : Host.Outcome State Fault Refusal) : List (List Byte) :=
  match o with
  | .next t => t.scales.trackers.map (·.remote)
  | _ => []

/-- The LOAD leaves its one tracker with the zero that it wrote at node 2. -/
theorem farLoad_farTables : farTables (exec (.load farLoad (some farObject) farHints) farLoading) = [[0]] := by
  decide +kernel

/-- Refutes O32: the object above passes every check, and its tracker is not at its initial value when it is loaded. -/
theorem not_loadAndUnload : ¬ Obligations.LoadAndUnload := by
  unfold Obligations.LoadAndUnload
  rintro ⟨load, -⟩
  have runs : Runs farLoading farLoad 0x0101 1 true true [.empty] := by
    unfold Runs Executes
    decide +kernel
  obtain ⟨t, loaded, -, -, -, -, fresh, -⟩ := load farLoading farRead farLoad (some farObject) farHints farObject farProgram
    runs (by decide) (by decide) rfl rfl farLoad_reads farObject_accepted
  have tables := farLoad_farTables
  rw [loaded] at tables
  have written : [0] ∈ t.scales.trackers.map (·.remote) := by
    rw [show t.scales.trackers.map (·.remote) = [[0]] from tables]
    exact List.mem_singleton_self _
  have initial : ∀ x ∈ t.scales.trackers, x.remote = [] := by
    rw [fresh]
    intro x hx
    obtain ⟨d, -, rfl⟩ := List.mem_map.1 hx
    rfl
  obtain ⟨x, hx, remote⟩ := List.mem_map.1 written
  rw [initial x hx] at remote
  exact nomatch remote

end Sys2Proof.Machine
end

section
/-! SUPPORT. What the parts of the commands START, RESUME and HALT, and of a fill pass, leave as it is. -/

namespace Sys2Proof.Machine

open Sys2Proof

/-! ### Program states (R215, R216) -/

/-- A change of program state posts its event besides (R399). -/
theorem setPStateAt_posts (s : State) (new : PState) (cause step : Nat) :
    Posts { s with pstate := new } (setPStateAt s new cause step) := post_posts ..

theorem setPState_posts (s : State) (new : PState) (cause : Nat) :
    Posts { s with pstate := new } (setPState s new cause) := setPStateAt_posts ..

/-! ### START and RESUME (R234, R344, R352) -/

/-- Reading the catalogues notes and counts reconstructions and does nothing else (R326, R327). -/
theorem chargeCatalogues_eq (s : State) : ∃ (r : Vector (List Nat) 20) (c : List CountRec),
    chargeCatalogues s = { s with mem := { s.mem with reconTimes := r }, counts := c } := by
  unfold chargeCatalogues
  split
  · exact ⟨s.mem.reconTimes, s.counts, rfl⟩
  next p _ =>
    obtain ⟨r, c, h⟩ := chargeContext_eq s ((ingestDescs p).map fun x => (x.2.catalogue, 32 * x.2.entries))
    exact ⟨r, c, by rw [← h, chargeContext, List.foldl_map]⟩

@[simp] theorem chargeCatalogues_program (s : State) : (chargeCatalogues s).program = s.program := by
  obtain ⟨_, _, h⟩ := chargeCatalogues_eq s
  rw [h]
@[simp] theorem chargeCatalogues_step (s : State) : (chargeCatalogues s).step = s.step := by
  obtain ⟨_, _, h⟩ := chargeCatalogues_eq s
  rw [h]
@[simp] theorem chargeCatalogues_seqs (s : State) : (chargeCatalogues s).seqs = s.seqs := by
  obtain ⟨_, _, h⟩ := chargeCatalogues_eq s
  rw [h]
@[simp] theorem chargeCatalogues_versions (s : State) : (chargeCatalogues s).versions = s.versions := by
  obtain ⟨_, _, h⟩ := chargeCatalogues_eq s
  rw [h]

/-- Steps that each change the ingest queues alone change them alone together. -/
theorem foldl_ingest {α : Type} (f : State → α → State) (h : ∀ s a, ∃ i, f s a = { s with ingest := i }) (l : List α)
    (s : State) : ∃ i, l.foldl f s = { s with ingest := i } :=
  List.foldlRecOn l f (motive := fun t => ∃ i, t = { s with ingest := i }) ⟨s.ingest, rfl⟩ fun t ⟨i, ht⟩ a _ => by
    obtain ⟨j, hj⟩ := h t a
    exact ⟨j, by rw [hj, ht]⟩

theorem queueMissing_eq (s : State) : ∃ i, queueMissing s = { s with ingest := i } := by
  unfold queueMissing
  split
  · exact ⟨s.ingest, rfl⟩
  · exact foldl_ingest _ (fun s _ => foldl_ingest _ (fun _ _ => queueStep_eq ..) _ s) _ s

/-! ### HALT (R287) -/

/-- Dropping withheld frames owes their credits and does nothing else. -/
theorem dropWithheld_eq (s : State) : ∃ (f : Fabric) (r : Reduce), dropWithheld s = { s with fabric := f, reduce := r } :=
  List.foldlRecOn (motive := fun t => ∃ f r, t = { s with fabric := f, reduce := r }) _ _ ⟨s.fabric, _, rfl⟩
    fun t ⟨f, r, ht⟩ x _ => by
      subst ht
      exact ⟨_, r, rfl⟩

/-! ### Blocks that an instance writes (R65, R191, R300) -/

/-- What a fill pass leaves as it is until its copy is complete: where the program stands, its version records, and the
passes that run. -/
def fillStanding (s : State) : PState × Option Program × List VState × List Nat :=
  (s.pstate, s.program, s.versions, s.beat.fills)

theorem fillStanding_congr {s t : State} (pstate : t.pstate = s.pstate) (program : t.program = s.program)
    (versions : t.versions = s.versions) (beat : t.beat = s.beat) : fillStanding t = fillStanding s := by
  simp only [fillStanding, pstate, program, versions, beat]

theorem Posts.fillStanding {s t : State} (h : Posts s t) : fillStanding t = Machine.fillStanding s :=
  fillStanding_congr h.pstate h.program h.versions h.beat

@[simp] theorem accessFailed_fillStanding (s : State) (w : Who) (status addr : Nat) :
    fillStanding (accessFailed s w status addr) = fillStanding s := by
  unfold accessFailed
  dsimp only
  split
  · exact (post_posts ..).fillStanding
  · exact (post_posts s _ _).fillStanding

@[simp] theorem addStripes_fillStanding (s : State) (w : Who) (ts : List Nat) : fillStanding (addStripes s w ts) = fillStanding s := by
  unfold addStripes
  split
  · rfl
  · rfl

@[simp] theorem memberUnreachable_fillStanding (s : State) (node : Word16) :
    fillStanding (memberUnreachable s node) = fillStanding s := by
  unfold memberUnreachable
  split
  · refine (post_posts ..).fillStanding.trans ((foldl_same fillStanding _ (fun u p => ?_) _ _).trans rfl)
    split
    · rfl
    · exact (complete_posts u p.cmd 0x09 0 0 0).fillStanding
  · rfl

@[simp] theorem request_fillStanding (s : State) (typ : Nat) (addr : Word64) (len : Nat) (payload : List Byte) (o : Owner) :
    fillStanding (request s typ addr len payload o).2 = fillStanding s := by
  unfold request
  dsimp only
  split
  · exact memberUnreachable_fillStanding ..
  · rfl

@[simp] theorem sendWrite_fillStanding (w : Who) (s : State) (x : Nat × Nat × List Byte) :
    fillStanding (sendWrite w s x) = fillStanding s := by
  unfold sendWrite
  dsimp only
  split
  · exact request_fillStanding ..
  · exact (accessFailed_fillStanding ..).trans (request_fillStanding ..)

@[simp] theorem writeLocal_fillStanding (s : State) (space off : Nat) (data : List Byte) :
    fillStanding (writeLocal s space off data).2 = fillStanding s := by
  rcases writeLocal_cases (s := s) (t := (writeLocal s space off data).2) (st := (writeLocal s space off data).1) rfl with
    ⟨-, failed⟩ | ⟨-, -, -, -, -, sram⟩ | ⟨-, -, -, -, dram⟩ | ⟨-, -, -, -, -, buffers⟩
  · exact congrArg _ failed
  · exact (congrArg fillStanding sram :)
  · exact fillStanding_congr dram.1.pstate dram.1.program dram.1.versions dram.1.beat
  · exact (congrArg fillStanding buffers :)

@[simp] theorem writeGlobal_fillStanding (s : State) (w : Who) (addr : Nat) (data : List Byte) :
    fillStanding (writeGlobal s w addr data) = fillStanding s := by
  have stored := writeLocal_fillStanding s (spaceOf addr) (offsetOf addr) data
  have noted : ∀ (c : Prop) [Decidable c] (u : State) (ws : List Wrote),
      fillStanding (if c then { u with beat := { u.beat with writes := ws } } else u) = fillStanding u := by
    intro c _ u ws
    split
    · rfl
    · rfl
  unfold writeGlobal
  split
  · rfl
  · split
    · dsimp only
      split
      · exact (addStripes_fillStanding ..).trans <| (noted ..).trans stored
      · exact (accessFailed_fillStanding ..).trans <| (noted ..).trans stored
    · split
      · rfl
      · exact (foldl_same fillStanding _ (sendWrite_fillStanding w) _ _).trans rfl

@[simp] theorem noteBlock_fillStanding (s : State) (d : BlockDesc) (b : Nat) (e : Encoded) :
    fillStanding (noteBlock s d b e) = fillStanding s := by
  have watch : ∀ (u : State) (tensor : Nat) (f : WatchCount → WatchCount), fillStanding (noteWatch u tensor f) = fillStanding u := by
    intro u tensor f
    unfold noteWatch
    split
    · rfl
    · rfl
  have track : ∀ u : State, fillStanding (noteTrack u d b e) = fillStanding u := by
    intro u
    unfold noteTrack
    split
    · rfl
    · rfl
  have count : ∀ (u : State) (id inst tensor n : Nat), fillStanding (bump u id inst tensor n) = fillStanding u :=
    fun _ _ _ _ _ => (bump_posts ..).fillStanding
  unfold noteBlock
  dsimp only
  split
  · simp [watch, track, count]
  · simp [watch, count]

theorem writeBlock_fillStanding (s : State) (w : Who) (d : BlockDesc) (rnd : Rnd) (b used : Nat) (xs : List Src) :
    fillStanding (writeBlock s w d rnd b used xs).2.2 = fillStanding s := by
  have skip : ∀ (c : Prop) [Decidable c] (u : State) (addr : Nat) (data : List Byte),
      fillStanding (if c then u else writeGlobal u w addr data) = fillStanding u := by
    intro c _ u addr data
    split
    · rfl
    · exact writeGlobal_fillStanding ..
  unfold writeBlock
  dsimp only
  rw [noteBlock_fillStanding, skip, skip, skip, writeGlobal_fillStanding]

theorem writeBlocksFull_fillStanding (w : Who) (d : BlockDesc) (rnd : Rnd) :
    ∀ (bs : List (Nat × List Src)) (last : Option (Nat × Nat)) (es : List Encoded) (s : State),
      fillStanding (writeBlocksFull w d rnd bs last es s).2 = fillStanding s
  | [], _, _, _ => rfl
  | (b, xs) :: rest, last, es, s => by
    unfold writeBlocksFull
    exact (writeBlocksFull_fillStanding w d rnd rest ..).trans (writeBlock_fillStanding ..)

/-- A copy is written from the master values (R233). -/
theorem writeCopy_fillStanding (s : State) (w : Who) (p : Program) (record i fmt : Nat) (step : Word64) (spans : List Nat) :
    fillStanding (writeCopy s w p record i fmt step spans).2 = fillStanding s := by
  unfold writeCopy
  split
  · rfl
  · exact writeBlocksFull_fillStanding ..

end Sys2Proof.Machine
end

section
/-! START, RESUME, PAUSE and HALT, the end of a pause's step, and the fill pass. -/

namespace Sys2Proof.Machine

open Sys2Proof

/-- A command that may run finds the program in one of its states (R384). -/
theorem Runs.state {s : State} {c : Cmd} {op ring : Nat} {compute memory : Bool} {states : List PState}
    (h : Runs s c op ring compute memory states) : s.pstate ∈ states := by
  obtain ⟨-, -, -, state⟩ := h
  exact List.contains_iff_mem.1 state

/-! ### START and RESUME (R215, R234) -/

/-- `t` is `s` with its program running from a beat epoch on: the step's full stoppage allowance, the fill passes of empty home
slots, and the catalogues read. -/
structure StartsAt (p : Program) (epoch : Nat) (s t : State) : Prop where
  pstate : t.pstate = .running
  epoch : t.beat.epoch = epoch
  started : t.beat.started = false
  stoppage : t.beat.stoppage = p.hdr.stoppage
  fills : t.beat.fills = emptyHomes s
  program : t.program = s.program
  step : t.step = s.step
  seqs : t.seqs = s.seqs
  mem : t.mem = (chargeCatalogues s).mem

/-- Which home slots are empty the version records alone say. -/
theorem emptyHomes_congr {s t : State} (versions : t.versions = s.versions) : emptyHomes t = emptyHomes s := by
  simp only [emptyHomes, versions]

/-- The missing samples are queued beside it. -/
theorem StartsAt.queueMissing {p : Program} {epoch : Nat} {s t : State} (h : StartsAt p epoch s t) :
    StartsAt p epoch s (queueMissing t) := by
  obtain ⟨i, queued⟩ := queueMissing_eq t
  rw [queued]
  exact ⟨h.pstate, h.epoch, h.started, h.stoppage, h.fills, h.program, h.step, h.seqs, h.mem⟩

theorem startRun_startsAt (s : State) (p : Program) (epoch : Nat) :
    StartsAt p epoch s (startRun (chargeCatalogues s) p epoch) := by
  have posts := setPState_posts (chargeCatalogues s) .running 0
  exact StartsAt.queueMissing ⟨posts.pstate, rfl, rfl, rfl,
    emptyHomes_congr (posts.versions.trans (chargeCatalogues_versions s)),
    posts.program.trans (chargeCatalogues_program s), posts.step.trans (chargeCatalogues_step s),
    posts.seqs.trans (chargeCatalogues_seqs s), posts.mem⟩

/-- A completion leaves it running. -/
theorem StartsAt.done {p : Program} {epoch : Nat} {s t : State} (h : StartsAt p epoch s t) (c : Cmd) (st : Nat) :
    StartsAt p epoch s (done t c st) := by
  obtain ⟨pstate, epoch, started, stoppage, fills, program, step, seqs, mem⟩ := h
  constructor <;> simpa

/-- A START or RESUME whose checks all pass (R344, R384). -/
theorem startChecked_startsAt {s : State} {c : Cmd} {remote : List (Nat × List Byte)} {p : Program} (hp : s.program = some p)
    (room : s.step ≠ lastStep) (early : s.timebase + 2000000 ≤ arg c 16 8) (late : arg c 16 8 ≤ s.timebase + 60000000000)
    (sound : catalogueMismatch (chargeCatalogues s) remote = none) :
    StartsAt p (arg c 16 8) s (startChecked c remote s) := by
  unfold startChecked
  rw [hp]
  dsimp only
  rw [if_neg room, if_neg (by omega), sound]
  exact (startRun_startsAt ..).done c 0

/-! ### HALT (R215, R306) -/

/-- A program that runs or is paused halts where it stands. -/
theorem haltProgram_halts {s : State} (h : s.pstate = .running ∨ s.pstate = .paused) (cause : Nat) :
    let t := haltProgram s cause
    t.pstate = .halted ∧ t.beat.halting = true ∧ t.mem = s.mem ∧ t.program = s.program ∧ t.step = s.step ∧ t.seqs = s.seqs := by
  obtain ⟨f, r, dropped⟩ := dropWithheld_eq s
  unfold haltProgram
  rw [if_pos h, dropped]
  simp [setPState, setPStateAt]

/-! ### The fill pass (R234) -/

/-- The fill pass of the only version record leaves the slot that its epoch token names home. -/
theorem fillOne_fills {s : State} {p : Program} {v : VState} (hp : s.program = some p) (only : s.versions = [v]) :
    let epoch := tokenValue s v.unit (parseVersion (descOf p v.record)).epochToken
    let slot : VSlot := { tag := BitVec.ofNat 16 epoch, fmt := copyFormat s p v.record, cond := .home }
    fillStanding (fillOne s v.record) = (s.pstate, some p, [v.setSlot epoch slot], s.beat.fills) := by
  intro epoch slot
  unfold fillOne
  rw [hp, versionOf_only only]
  dsimp only
  let r := parseVersion (descOf p v.record)
  let spans := List.range (ceilDiv (parseBlock (descOf p (r.slotDesc epoch))).n 256)
  have kept := writeCopy_fillStanding s (fillWho v.unit) p v.record epoch (copyFormat s p v.record)
    0xFFFF_FFFF_FFFF_FFFF#64 spans
  simp only [fillStanding, Prod.mk.injEq] at kept
  obtain ⟨pstate, program, versions, fills⟩ := kept
  rw [updVersion_only (versions.trans only)]
  simp only [fillStanding, Prod.mk.injEq]
  exact ⟨pstate, program.trans hp, rfl, fills⟩

/-- Writing a slot leaves the record's number. -/
theorem VState.record_setSlot (v : VState) (i : Nat) (x : VSlot) : (v.setSlot i x).record = v.record := by
  unfold VState.setSlot
  split
  · rfl
  · rfl

/-- Settles O33: each command whose checks pass, the pause when its step has ended, and the one fill pass that runs. -/
theorem runCommands : Obligations.RunCommands := by
  refine ⟨?_, ?_, ?_, ?_, ?_, ?_⟩
  · intro s c remote p h rest hp room early late sound
    have starts := startChecked_startsAt hp room early late sound
    exact ⟨_, command_gated h (ok := fun _ => restZero c [(16, 8)]) rest fun _ => startChecked c remote, starts.pstate,
      starts.epoch, starts.started, starts.stoppage, starts.fills, starts.program.trans hp, starts.step, starts.seqs, starts.mem⟩
  · intro s c remote p h rest hp room early late sound
    have starts := startChecked_startsAt hp room early late sound
    exact ⟨_, command_gated h (ok := fun _ => restZero c [(16, 8)]) rest fun _ => startChecked c remote, starts.pstate,
      starts.epoch, starts.started, starts.stoppage, starts.program.trans hp, starts.step, starts.seqs, starts.mem⟩
  · intro s c h rest begun epoch
    change execPause c s = _
    refine (command_gated h rest _).trans ?_
    dsimp only
    rw [if_neg (Nat.not_lt.2 begun), if_neg (not_not.2 epoch)]
  · intro s due running
    refine ⟨_, if_pos ⟨due, running⟩, ?_⟩
    simp [setPStateAt]
  · intro s c h rest
    have stands : s.pstate = .running ∨ s.pstate = .paused := by simpa using h.state
    obtain ⟨pstate, halting, mem, program, step, seqs⟩ := haltProgram_halts stands 0
    refine ⟨_, command_gated h (ok := fun _ => restZero c []) rest fun s _ => done (haltProgram s 0) c 0, ?_⟩
    simpa using ⟨pstate, halting, mem, program, step, seqs⟩
  · intro s p v running hp fills only sound
    have filled := fillOne_fills hp only
    simp only [fillStanding, Prod.mk.injEq] at filled
    obtain ⟨pstate, program, versions, passes⟩ := filled
    have runs : exec .fillPassComplete s = .next (finishFill s v.record) := by
      change execFillPassComplete s = _
      rw [execFillPassComplete, if_pos running, fills]
      rfl
    have finished : finishFill s v.record = { fillOne s v.record with
        scales := s.scales
        beat := { (fillOne s v.record).beat with fills := (fillOne s v.record).beat.fills.filter (· != v.record) } } := by
      unfold finishFill
      rw [sound]
    refine ⟨_, _, runs, ?_, ?_, VState.record_setSlot .., VState.slot_setSlot .., ?_, ?_⟩
    · simp [finished, passes, fills]
    · rw [finished]
      exact versions
    · rw [finished]
      exact pstate.trans running
    · rw [finished]
      exact program

end Sys2Proof.Machine
end

section
/-! Tokens under signals, and the instructions that only wait or signal. -/

namespace Sys2Proof.Machine

open Sys2Proof

/-! ### Tokens (R200, R201) -/

/-- The count of the parity that is set. -/
theorem Token.count_setCount (t : Token) (parity v : Nat) : (t.setCount parity v).count parity = v := by
  unfold Token.count Token.setCount
  split
  · rfl
  · rfl

/-- A counter's count of the other parity stays. -/
theorem Token.count_setCount_other {t : Token} {parity : Nat} (counter : t.mode = 1) (bit : parity < 2) (v : Nat) :
    (t.setCount parity v).count (1 - parity) = t.count (1 - parity) := by
  obtain rfl | rfl : parity = 0 ∨ parity = 1 := by omega
  · simp [Token.count, Token.setCount, counter]
  · simp [Token.count, Token.setCount, counter]

theorem signalToken_counter {t : Token} (counter : t.mode = 1) (n parity : Nat) :
    signalToken t 1 n parity = (t.setCount parity ((t.count parity + n) % 65536), none) := if_pos counter

theorem signalToken_add {t : Token} (plain : t.mode ≠ 1) (n parity : Nat) : signalToken t 1 n parity =
    ({ t with v0 := (t.v0 + n) % 65536 }, if 0xFFFF < t.v0 + n then some 3 else none) := if_neg plain

theorem signalToken_acquire {t : Token} (room : t.v0 < 0xFFFF) (n parity : Nat) :
    signalToken t 2 n parity = ({ t with v0 := t.v0 + 1 }, none) := by
  have fits : (t.v0 + 1) % 65536 = t.v0 + 1 := Nat.mod_eq_of_lt (by omega)
  have sound : ¬0xFFFF < t.v0 + 1 := by omega
  simp [signalToken, fits, sound]

/-! ### Complete as they issue (R204, R482) -/

/-- An instruction that is complete as it issues, with nothing else in flight on its unit: its stream moves on and its signal
goes. -/
theorem completesAtIssue {s : State} {w : Who} {p : PInstr} {want : State → PInstr → Bool} (h : Issues s w p)
    (empty : ∀ q ∈ s.seqs, q.unit = w.unit → q.flight = []) (hw : want s p = true) :
    issue s w.unit want (fun s w _ => replayInbound (finishNow s w)) = .next (replayInbound (sendSignal
      (updSeq s w.unit fun q => q.setPos w.stream (advance p w.index w.inst)) w.unit p)) := by
  obtain ⟨q, hq, -⟩ := h.ready
  rw [issue_picked h hw, finishNow_issued hq empty h.instrOf]

/-- A SIGNAL that names no peer goes to a token of this module. -/
theorem sendSignal_here {p : PInstr} (cls : p.cls = 1) (mode : p.signalMode ≠ 0) (here : p.desc = 0xFFFF) (s : State) (unit : Nat) :
    sendSignal s unit p = applySignal s p.sigUnit p.sigToken p.signalMode (if p.signalMode = 1 then p.sigCount else 1)
      (s.step.toNat % 2) := by
  rw [sendSignal, if_neg mode, if_pos cls]
  exact if_pos (.inl here)

/-- Settles O46: the equations of a token under each signal, and the one argument that the four instructions share. -/
theorem tokensWaitsAndSignals : Obligations.TokensWaitsAndSignals := by
  refine ⟨?_, ?_, ?_, ?_, ?_, ?_, ?_⟩
  · intro t n parity counter bit
    rw [signalToken_counter counter]
    exact ⟨rfl, Token.count_setCount .., Token.count_setCount_other counter bit _⟩
  · intro t n parity plain fits
    rw [signalToken_add plain, if_neg (by omega), Nat.mod_eq_of_lt (by omega)]
  · intro t n parity plain beyond
    rw [signalToken_add plain, if_pos beyond]
  · intro t n parity room
    exact signalToken_acquire room n parity
  · intro t n parity taken
    exact if_neg taken
  · intro t n parity idle
    exact if_pos idle
  · intro s w p h empty
    refine ⟨fun cls => ?_, fun cls mode => ?_, fun cls mode => ?_, fun cls mode => ?_, fun cls mode here => ?_⟩
    · exact completesAtIssue (want := fun _ p => p.cls == 0) h empty (by simp [cls])
    · exact completesAtIssue (want := fun _ p => p.cls == 1 && p.signalMode == 1) h empty (by simp [cls, mode])
    · exact completesAtIssue (want := fun _ p => p.cls == 1 && p.signalMode == 2) h empty (by simp [cls, mode])
    · exact completesAtIssue (want := fun _ p => p.cls == 1 && p.signalMode == 3) h empty (by simp [cls, mode])
    · exact sendSignal_here cls mode here _ _

end Sys2Proof.Machine
end

section
/-! A beat epoch that does not leave memory as it was: the journal armed for the first step takes the state's image as the step
begins (R243), and its reads of space 0x1 on a lost device are reconstructions, whose times the memory system notes (R327). -/

namespace Sys2Proof.Machine

open Sys2Proof

/-- A program of a tracker and no stages; the bump table lies in this module's space 0x1, at offset 0. -/
def nearProgram : Program :=
  { hdr := parseHeader (List.replicate 128 0), descs := [trackerAt 0xFFFF_1000_0000_0000], kinds := [.tracker]
    layouts := [], peers := [], replicas := [], stages := [], persistent := [], ves := [], keep := [], recompute := [] }

/-- What the period before the beat epoch decided: period 0 runs. -/
def goAhead : Decision := { hold := false, abort := false, causes := 0 }

/-- The program runs and waits for its beat epoch, the decision is at hand, a journal is armed for step 0, and the device that
holds offset 0 of space 0x1 is lost. -/
def armedEpoch : State :=
  { State.reset with
    power := { State.reset.power with mode := .active, computeStopped := false }
    mbox := { State.reset.mbox with module := .ready, mcpUp := true }
    pstate := .running
    program := some nearProgram
    mem := { State.reset.mem with devLost := setAt State.reset.mem.devLost 1 true }
    journal := { armed := some (0, 0xFFFF_1000_0010_0000, 4096) }
    beat := { atHoldPoint := true, upSent := true, down := some goAhead } }

theorem armedEpoch_decided : Decided armedEpoch goAhead := by
  unfold Decided
  decide +kernel

/-- The times of the reconstructions that a command leaves noted for device 1. -/
def deviceOneTimes (o : Host.Outcome State Fault Refusal) : List Nat :=
  match o with
  | .next t => getAt t.mem.reconTimes 1 []
  | _ => []

/-- None is noted before the epoch, and one after it. -/
theorem armedEpoch_times :
    getAt armedEpoch.mem.reconTimes 1 [] = [] ∧ deviceOneTimes (exec .beatEpoch armedEpoch) = [0] := by
  decide +kernel

/-- Refutes O51: at its last clause, the beat epoch of the state above changes the memory system. -/
theorem not_beatsAndHolds : ¬ Obligations.BeatsAndHolds := by
  unfold Obligations.BeatsAndHolds
  rintro ⟨-, -, -, -, -, epoch⟩
  obtain ⟨t, begun, -, -, -, -, -, mem, -⟩ := epoch armedEpoch goAhead armedEpoch_decided rfl rfl rfl
  obtain ⟨before, after⟩ := armedEpoch_times
  rw [begun] at after
  have noted : getAt t.mem.reconTimes 1 [] = [0] := after
  rw [mem, before] at noted
  exact nomatch noted

end Sys2Proof.Machine
end

section
/-! Huddle headers combined: maxima, sums and bitwise ors of their fields. -/

namespace Sys2Proof.Machine

open Sys2Proof

/-- The larger of two words as unsigned numbers: what a Maximum field of the header combines to (R237). -/
def larger {n : Nat} (a b : BitVec n) : BitVec n := if a.toNat < b.toNat then b else a

theorem larger_toNat {n : Nat} (a b : BitVec n) : (larger a b).toNat = max a.toNat b.toNat := by
  unfold larger
  split
  · omega
  · omega

theorem larger_comm {n : Nat} (a b : BitVec n) : larger a b = larger b a :=
  BitVec.eq_of_toNat_eq (by rw [larger_toNat, larger_toNat, Nat.max_comm])

theorem larger_assoc {n : Nat} (a b c : BitVec n) : larger (larger a b) c = larger a (larger b c) :=
  BitVec.eq_of_toNat_eq (by simp only [larger_toNat, Nat.max_assoc])

/-- The fields of the header of R237, in the order of its bytes. -/
def headerFields (h : Huddle) : Word64 × Word64 × Nat × Word32 × Word16 × Nat × Word32 :=
  (h.step, h.stepCompl, h.ready, h.abortFlags, h.abortNode, h.members, h.pause)

/-- The operation that each field of the header is combined by (R237). -/
theorem headerFields_combineHuddle (a b : Huddle) : headerFields (combineHuddle a b) =
    (larger a.step b.step, larger a.stepCompl b.stepCompl, a.ready + b.ready, a.abortFlags ||| b.abortFlags,
      larger a.abortNode b.abortNode, max a.members b.members, a.pause ||| b.pause) := rfl

theorem headerFields_combineHuddle_comm (a b : Huddle) :
    headerFields (combineHuddle a b) = headerFields (combineHuddle b a) := by
  rw [headerFields_combineHuddle, headerFields_combineHuddle, larger_comm a.step, larger_comm a.stepCompl,
    Nat.add_comm a.ready, BitVec.or_comm a.abortFlags, larger_comm a.abortNode, Nat.max_comm a.members,
    BitVec.or_comm a.pause]

/-- The header of three contributions combined from the left. -/
theorem headerFields_combineHuddle_left (a b c : Huddle) : headerFields (combineHuddle (combineHuddle a b) c) =
    (larger (larger a.step b.step) c.step, larger (larger a.stepCompl b.stepCompl) c.stepCompl, a.ready + b.ready + c.ready,
      a.abortFlags ||| b.abortFlags ||| c.abortFlags, larger (larger a.abortNode b.abortNode) c.abortNode,
      max (max a.members b.members) c.members, a.pause ||| b.pause ||| c.pause) := rfl

theorem headerFields_combineHuddle_assoc (a b c : Huddle) :
    headerFields (combineHuddle (combineHuddle a b) c) = headerFields (combineHuddle a (combineHuddle b c)) := by
  rw [headerFields_combineHuddle_left, larger_assoc, larger_assoc, Nat.add_assoc, BitVec.or_assoc, larger_assoc,
    Nat.max_assoc, BitVec.or_assoc]
  rfl

/-- Settles O45: each field of the header is combined by a maximum, a sum or a bitwise or. -/
theorem huddleOrderFree : Obligations.HuddleOrderFree := by
  intro a b c key
  exact ⟨headerFields_combineHuddle_comm a b, headerFields_combineHuddle_assoc a b c⟩

end Sys2Proof.Machine
end

section
/-! Arming a journal, and the replay that JOURNAL_REPLAY begins. -/

namespace Sys2Proof.Machine

open Sys2Proof

/-! ### Arming (R242) -/

/-- A region of populated local LPDDR5X, large enough and clear of the program's, takes the journal of a step that has not
begun. A journal that is armed already is replaced (log 45). -/
theorem journalArm_runs {s : State} {c : Cmd} {p : Program} (h : Runs s c 0x0204 1 true true [.loaded, .running, .paused])
    (rest : restZero c [(16, 8), (24, 8), (32, 8)] = true) (prog : s.program = some p)
    (here : isLocal s (nodeOf (arg c 24 8)) = true) (dram : spaceOf (arg c 24 8) = 1)
    (populated : dramPopulated s (offsetOf (arg c 24 8)) (max 1 (arg c 32 8)) = true)
    (ahead : stepBegun s (arg c 16 8) = false) (room : journalEstimate s p ≤ arg c 32 8)
    (clear : journalOverlaps s p (arg c 24 8) (arg c 32 8) = false) :
    exec (.journalArm c) s = .next (done { s with journal := { s.journal with armed :=
      (some (BitVec.ofNat 64 (arg c 16 8), BitVec.ofNat 64 (arg c 24 8), arg c 32 8)) } } c 0) := by
  change execJournalArm c s = _
  refine (command_gated h (ok := fun _ => restZero c [(16, 8), (24, 8), (32, 8)]) rest _).trans ?_
  dsimp only
  rw [prog]
  dsimp only
  rw [if_neg (by simp [here, dram, populated]), if_neg (by simp [ahead, clear, room])]

/-! ### SUPPORT. What recorded arrivals leave of a replay (R244) -/

theorem Posts.ite {c : Prop} [Decidable c] {s t u : State} (h : Posts s t) (k : Posts s u) : Posts s (if c then t else u) := by
  split
  · exact h
  · exact k

theorem sendSegment_posts (s : State) (port : Fin 12) (g : WireSeg) : Posts s (sendSegment s port g) :=
  (((Posts.refl s).ite (bump_posts ..)).trans ((bump_posts ..).ite (Posts.refl _))).trans ((Posts.refl _).ite (sendOn_posts ..))

/-- A journal is being replayed: its step of the program is under way, in a program state. -/
structure Replays (p : Program) (step : Word64) (ps : PState) (t : State) : Prop where
  replay : replaying t = true
  started : t.beat.started = true
  step : t.step = step
  program : t.program = some p
  pstate : t.pstate = ps

section
variable {p : Program} {step : Word64} {ps : PState} {s t : State}

theorem Replays.posts (h : Replays p step ps s) (k : Posts s t) : Replays p step ps t :=
  ⟨(congrArg (·.replay.isSome) k.journal).trans h.replay, (congrArg Beat.started k.beat).trans h.started, k.step.trans h.step,
    k.program.trans h.program, k.pstate.trans h.pstate⟩

theorem Replays.flushes (h : Replays p step ps s) (k : Flushes s t) : Replays p step ps t :=
  let u : Replays p step ps (bufferOf s t) := h.posts k.1
  ⟨u.replay, u.started, u.step, u.program, u.pstate⟩

theorem Replays.ite {c : Prop} [Decidable c] (h : Replays p step ps s) (k : Replays p step ps t) :
    Replays p step ps (if c then s else t) := by
  split
  · exact h
  · exact k

theorem Replays.foldl {α : Type} (f : State → α → State) (keep : ∀ s a, Replays p step ps s → Replays p step ps (f s a))
    (l : List α) (h : Replays p step ps s) : Replays p step ps (l.foldl f s) :=
  List.foldlRecOn l f h fun t k a _ => keep t a k

theorem Replays.raiseFault (h : Replays p step ps s) (cause bit : Nat) : Replays p step ps (raiseFault s cause bit) :=
  Replays.ite ⟨h.replay, h.started, h.step, h.program, h.pstate⟩ h

theorem Replays.tokenFault (h : Replays p step ps s) (unit tok c : Nat) : Replays p step ps (tokenFault s unit tok c) :=
  (h.posts (post_posts ..)).raiseFault ..

theorem Replays.applySignal (h : Replays p step ps s) (unit tok mode n parity : Nat) :
    Replays p step ps (applySignal s unit tok mode n parity) := by
  have updated : ∀ f, Replays p step ps (updSeq s unit f) := fun _ => ⟨h.replay, h.started, h.step, h.program, h.pstate⟩
  obtain ⟨-, e⟩ | ⟨q, -, e | ⟨c, e⟩⟩ := applySignal_cases s unit tok mode n parity
  · rwa [e]
  · rw [e]
    exact updated _
  · rw [e]
    exact (updated _).tokenFault ..

theorem Replays.takeSignal (h : Replays p step ps s) (b : List Byte) : Replays p step ps (takeSignal s b) := by
  unfold Machine.takeSignal
  dsimp only
  split
  · exact h
  · exact (h.tokenFault ..).ite (h.applySignal ..)

theorem Replays.writeLocal (h : Replays p step ps s) (space off : Nat) (data : List Byte) :
    Replays p step ps (writeLocal s space off data).2 := by
  have stored : ∀ m, Replays p step ps { s with mem := m } := fun _ => ⟨h.replay, h.started, h.step, h.program, h.pstate⟩
  rcases writeLocal_cases (s := s) (st := (Machine.writeLocal s space off data).1)
      (t := (Machine.writeLocal s space off data).2) rfl with
    ⟨-, failed⟩ | ⟨-, -, -, -, -, sram⟩ | ⟨-, -, -, -, dram⟩ | ⟨-, -, -, -, -, buffers⟩
  · rwa [failed]
  · rw [sram]
    exact stored _
  · exact (stored _).flushes dram
  · rw [buffers]
    exact stored _

theorem Replays.accessFailed (h : Replays p step ps s) (w : Who) (status addr : Nat) :
    Replays p step ps (accessFailed s w status addr) := by
  have posted := h.posts (post_posts s 0x0B05 (packed [(2, w.unit), (1, status), (8, addr)]))
  exact posted.ite ⟨posted.replay, posted.started, posted.step, posted.program, posted.pstate⟩

theorem Replays.addStripes (h : Replays p step ps s) (w : Who) (ts : List Nat) : Replays p step ps (addStripes s w ts) :=
  h.ite ⟨h.replay, h.started, h.step, h.program, h.pstate⟩

/-- A write of an instance: to another module it is suppressed (R244). -/
theorem Replays.writeGlobal (h : Replays p step ps s) (w : Who) (addr : Nat) (data : List Byte) :
    Replays p step ps (writeGlobal s w addr data) := by
  have stored := h.writeLocal (spaceOf addr) (offsetOf addr) data
  have noted : ∀ (u : State) (ws : List Wrote), Replays p step ps u →
      Replays p step ps { u with beat := { u.beat with writes := ws } } := fun _ _ k =>
    ⟨k.replay, k.started, k.step, k.program, k.pstate⟩
  unfold Machine.writeGlobal
  split
  · exact h
  split
  · exact (((noted _ _ stored).ite stored).addStripes ..).ite (((noted _ _ stored).ite stored).accessFailed ..)
  · rwa [if_pos h.replay]

theorem Replays.checkFinished (h : Replays p step ps s) (b : BucketDesc) : Replays p step ps (checkFinished s b) := by
  unfold Machine.checkFinished
  dsimp only
  split
  · exact h
  · split
    · exact ⟨h.replay, h.started, h.step, h.program, h.pstate⟩
    · exact ⟨h.replay, h.started, h.step, h.program, h.pstate⟩

theorem Replays.takeResult (h : Replays p step ps s) (b : BucketDesc) (g : WireSeg) : Replays p step ps (takeResult s b g) := by
  have tagged : ∀ u tag x, Replays p step ps u → Replays p step ps (setSegment u tag x) := fun _ _ _ k =>
    ⟨k.replay, k.started, k.step, k.program, k.pstate⟩
  refine (tagged _ _ _ ?_).checkFinished b
  exact Replays.foldl _ (fun _ _ k => k.posts (sendSegment_posts ..)) _ <|
    ((h.writeGlobal ..).writeGlobal ..).posts ((bump_posts ..).ite (Posts.refl _))

/-- A recorded arrival has its effect and the replay goes on. -/
theorem Replays.applyEntry (h : Replays p step ps s) (e : Inbound) : Replays p step ps (applyEntry s e) := by
  unfold Machine.applyEntry
  split
  · exact h.takeSignal _
  · split
    · split
      · exact h.ite (h.takeResult ..)
      · exact h
    · exact h
  · exact h.writeLocal ..

theorem Replays.applyInbound : ∀ (n : Nat) {s : State}, Replays p step ps s → Replays p step ps (applyInbound n s)
  | 0, _, h => h
  | n + 1, s, h => by
    have left : ∀ r : Replay, Replays p step ps { s with journal := { s.journal with replay := some r } } := fun _ =>
      ⟨rfl, h.started, h.step, h.program, h.pstate⟩
    unfold Machine.applyInbound
    split
    · exact h
    · split
      · exact h
      · exact (((left _).applyEntry _).applyInbound n).ite h

theorem Replays.replayInbound (h : Replays p step ps s) : Replays p step ps (replayInbound s) := h.applyInbound _

end

/-! ### Replaying (R244) -/

theorem restorePatch_stays (s : State) (p : Program) (x : Section) : Stays s (restorePatch s p x) := by
  unfold restorePatch
  split
  · exact Stays.refl s
  · exact Stays.foldl _ (fun _ _ => Stays.updated) _ _

/-- The image and the samples that are put back leave the program at the image's step, in its state. -/
theorem restoreSamples_stays (s : State) (p : Program) (img : List Byte) :
    Stays { s with step := BitVec.ofNat 64 (imageStep img), seqs := s.seqs.map freshSeq }
      (((imageSections img).filter (·.kind == 5)).foldl (fun s x => restorePatch s p x) (restoreImage s p img)) :=
  (Stays.foldl _ (fun _ _ => restorePatch_stays ..) _ _).after (restoreImage_stays ..)

/-- A replay that starts stands at the step of its journal. -/
theorem replayStart_replays {s : State} {p : Program} (prog : s.program = some p) (c : Cmd) (img : List Byte)
    (l h t : Section) : Replays p (BitVec.ofNat 64 (imageStep img)) s.pstate (replayStart s c p img l h t) :=
  Replays.replayInbound ⟨rfl, rfl, (restoreSamples_stays ..).step, (restoreSamples_stays ..).program.trans prog,
    (restoreSamples_stays ..).pstate⟩

/-- A journal of this program whose parts are all there, and whose blocks have a place and pass their checks, is replayed. -/
theorem journalReplay_runs {s v : State} {c : Cmd} {p : Program} {img : List Byte} {l h t : Section}
    (runs : Runs s c 0x0205 1 true true [.loaded, .paused, .halted]) (rest : restZero c [(16, 8)] = true)
    (prog : s.program = some p) (idle : s.journal.replay = none) (reads : ReadsImage s c 1 (arg c 16 8) none img v)
    (why : imageRefusal v p journalMagic img = 0) (place : imagePlaceable v p img = true) (sound : imageFault p img = none)
    (last : BitVec.ofNat 64 (imageStep img) ≠ lastStep) (tail : journalTail img = some (l, h, t)) :
    exec (.journalReplay c) s = .next (replayStart v c p img l h t) := by
  obtain ⟨u, read, rfl⟩ := reads
  change execJournalReplay c s = _
  refine (command_gated runs (ok := fun _ => restZero c [(16, 8)]) rest _).trans ?_
  dsimp only
  rw [prog]
  dsimp only
  rw [if_neg (by simp [replaying, idle]), read]
  dsimp only
  rw [if_pos ⟨why, last⟩, tail]
  dsimp only
  rw [if_neg (by simp [place]), sound]

/-- Settles O36: a journal is armed at once, and one that is replayed stands at its step after the arrivals that are due. -/
theorem journals : Obligations.Journals := by
  refine ⟨fun _ _ _ => journalArm_runs, ?_⟩
  intro s v c p img l h t runs rest prog idle reads why place sound last tail
  have before := reads.stays
  have begun := replayStart_replays (before.program.trans prog) c img l h t
  exact ⟨_, journalReplay_runs runs rest prog idle reads why place sound last tail, begun.replay, begun.started, begun.step,
    begun.program, begun.pstate.trans before.pstate⟩

end Sys2Proof.Machine
end

section
/-! The commands of the fabric: records, routes, plans, the squad and retraining. -/

namespace Sys2Proof.Machine

open Sys2Proof

/-! ### Route lists (R293) -/

/-- Every other node keeps its route. -/
theorem find?_setRoute_other {n k : Nat} (other : k ≠ n) (e : Nat) : ∀ l : List (Nat × Nat),
    (setRoute n e l).find? (fun r => r.1 == k) = l.find? (fun r => r.1 == k)
  | [] => by
    unfold setRoute
    split
    · rfl
    · simp [other.symm]
  | (a, v) :: rest => by
    unfold setRoute
    split
    · rw [List.find?_cons, List.find?_cons, find?_setRoute_other other e rest]
    split
    · next same =>
      subst same
      split
      · simp [other.symm]
      · simp [other.symm]
    split
    · rfl
    · simp [other.symm]

/-- The node has the route that it is given. -/
theorem find?_setRoute_same {n e : Nat} (listed : e ≠ 0xF) : ∀ l : List (Nat × Nat),
    (setRoute n e l).find? (fun r => r.1 == n) = some (n, e)
  | [] => by
    rw [setRoute, if_neg listed]
    simp
  | (a, v) :: rest => by
    rw [setRoute, if_neg listed, if_neg listed]
    split
    · next below =>
      have : (a == n) = false := by simp [below.ne]
      rw [List.find?_cons, this]
      exact find?_setRoute_same listed rest
    split
    · simp
    · simp

/-- What a route list holds afterwards is the node's route or was there. -/
theorem mem_setRoute {n e : Nat} {x : Nat × Nat} : ∀ {l : List (Nat × Nat)}, x ∈ setRoute n e l → x.1 = n ∨ x ∈ l
  | [], h => by
    unfold setRoute at h
    split at h
    · exact .inr h
    · exact .inl (by rw [List.mem_singleton.1 h])
  | (a, v) :: rest, h => by
    have given : ∀ {l : List (Nat × Nat)}, x ∈ (n, e) :: l → x.1 = n ∨ x ∈ l := fun h =>
      (List.mem_cons.1 h).imp_left (congrArg Prod.fst)
    unfold setRoute at h
    split at h
    · rcases List.mem_cons.1 h with rfl | h
      · exact .inr List.mem_cons_self
      · exact (mem_setRoute h).imp_right (List.mem_cons_of_mem _)
    split at h
    · split at h
      · exact .inr (List.mem_cons_of_mem _ h)
      · exact (given h).imp_right (List.mem_cons_of_mem _)
    split at h
    · exact .inr h
    · exact given h

/-- A rising list stays rising. -/
theorem pairwise_setRoute (n e : Nat) : ∀ {l : List (Nat × Nat)}, l.Pairwise (fun a b => a.1 < b.1) →
    (setRoute n e l).Pairwise (fun a b => a.1 < b.1)
  | [], _ => by
    unfold setRoute
    split
    · exact List.Pairwise.nil
    · exact List.pairwise_singleton _ _
  | (a, v) :: rest, rises => by
    obtain ⟨first, tail⟩ := List.pairwise_cons.1 rises
    unfold setRoute
    split
    · next below =>
      refine List.pairwise_cons.2 ⟨fun x hx => ?_, pairwise_setRoute n e tail⟩
      rcases mem_setRoute hx with at_ | old
      · rwa [at_]
      · exact first x old
    split
    · next same =>
      split
      · exact tail
      · exact List.pairwise_cons.2 ⟨same ▸ first, tail⟩
    split
    · exact rises
    · next above differs _ =>
      have low : n < a := by omega
      refine List.pairwise_cons.2 ⟨fun x hx => ?_, rises⟩
      rcases List.mem_cons.1 hx with rfl | hx
      · exact low
      · exact low.trans (first x hx)

/-! ### SUPPORT. Squad members that go out of reach (R396) -/

/-- `t` is `s` with the members of `gone` out of reach: the program, memory, the routes, the links and the squad are as they
were. -/
structure Severs (gone : List Word16) (s t : State) : Prop where
  program : SameProgram s t
  mem : t.mem = s.mem
  routes : t.fabric.routes = s.fabric.routes
  link : ∀ p : Fin 12, t.fabric.ports[p].link = s.fabric.ports[p].link
  squad : t.mbox.squad = s.mbox.squad
  unreachable : t.mbox.unreachable = s.mbox.unreachable ++ gone

section
variable {s t u : State} {gone more : List Word16}

theorem SameProgram.after (k : SameProgram t u) (h : SameProgram s t) : SameProgram s u := by
  obtain ⟨h1, h2, h3, h4, h5, h6, h7, h8, h9, h10, h11, h12⟩ := h
  obtain ⟨k1, k2, k3, k4, k5, k6, k7, k8, k9, k10, k11, k12⟩ := k
  exact ⟨k1.trans h1, k2.trans h2, k3.trans h3, k4.trans h4, k5.trans h5, k6.trans h6, k7.trans h7, k8.trans h8,
    k9.trans h9, k10.trans h10, k11.trans h11, k12.trans h12⟩

/-- Frames put on queues leave every link. -/
theorem Posts.link (h : Posts s t) (p : Fin 12) : t.fabric.ports[p].link = s.fabric.ports[p].link :=
  (congrArg Port.link (h.port p) :)

theorem Posts.severs (h : Posts s t) : Severs [] s t :=
  ⟨h.same.1, h.mem, h.routes, h.link, h.squad, by rw [h.unreachable, List.append_nil]⟩

theorem Severs.refl (s : State) : Severs [] s s := (Posts.refl s).severs

theorem Severs.after (k : Severs more t u) (h : Severs gone s t) : Severs (gone ++ more) s u :=
  ⟨k.program.after h.program, k.mem.trans h.mem, k.routes.trans h.routes, fun p => (k.link p).trans (h.link p),
    k.squad.trans h.squad, by rw [k.unreachable, h.unreachable, List.append_assoc]⟩

/-- The way to a node is what it was. -/
theorem Severs.egress (h : Severs gone s t) (node : Nat) : egress t node = egress s node := by
  have link : ∀ r (low : r < 12), t.fabric.ports[r].link = s.fabric.ports[r].link := fun r low => h.link ⟨r, low⟩
  unfold Machine.egress routeOf
  rw [h.routes]
  dsimp only
  split
  · next low => rw [link _ low]
  · rfl

end

theorem done_severs (s : State) (c : Cmd) (status : Nat) : Severs [] s (done s c status) :=
  (complete_posts s c status 0 0 0).severs.after (gone := [])
    ⟨⟨rfl, rfl, rfl, rfl, rfl, rfl, rfl, rfl, rfl, rfl, rfl, rfl⟩, rfl, rfl, fun _ => rfl, rfl, by simp [leave]⟩

theorem Severs.foldl {α : Type} (f : State → α → State) (h : ∀ s a, Severs [] s (f s a)) :
    ∀ (l : List α) (s : State), Severs [] s (l.foldl f s)
  | [], s => Severs.refl s
  | a :: l, s => (Severs.foldl f h l (f s a)).after (h s a)

/-- A member within reach goes out of it. -/
theorem memberUnreachable_severs {s : State} {node : Word16} (member : node ∈ s.mbox.squad)
    (reached : node ∉ s.mbox.unreachable) : Severs [node] s (memberUnreachable s node) := by
  unfold memberUnreachable
  rw [if_pos (by simp [member, reached])]
  refine (post_posts ..).severs.after (gone := [node]) (Severs.after (gone := [node]) (Severs.foldl _ (fun u p => ?_) _ _) ?_)
  · split
    · exact Severs.refl u
    · exact done_severs ..
  · exact ⟨⟨rfl, rfl, rfl, rfl, rfl, rfl, rfl, rfl, rfl, rfl, rfl, rfl⟩, rfl, rfl, fun _ => rfl, rfl, rfl⟩

/-- Any other node changes nothing. -/
theorem memberUnreachable_same {s : State} {node : Word16} (h : ¬(node ∈ s.mbox.squad ∧ node ∉ s.mbox.unreachable)) :
    memberUnreachable s node = s := by
  unfold memberUnreachable
  exact if_neg (by simpa using h)

theorem memberUnreachable_severs_some (s : State) (node : Word16) : ∃ gone, Severs gone s (memberUnreachable s node) := by
  by_cases h : node ∈ s.mbox.squad ∧ node ∉ s.mbox.unreachable
  · exact ⟨_, memberUnreachable_severs h.1 h.2⟩
  · exact ⟨[], by rw [memberUnreachable_same h]; exact Severs.refl s⟩

theorem Severs.foldl_some {α : Type} (f : State → α → State) (h : ∀ s a, ∃ gone, Severs gone s (f s a)) :
    ∀ (l : List α) (s : State), ∃ gone, Severs gone s (l.foldl f s)
  | [], s => ⟨[], Severs.refl s⟩
  | a :: l, s => by
    obtain ⟨_, first⟩ := h s a
    obtain ⟨_, rest⟩ := Severs.foldl_some f h l (f s a)
    exact ⟨_, rest.after first⟩

/-- A member without a way to it is out of reach (R396). -/
def cutOff (s : State) (n : Word16) : State := if (egress s n.toNat).isNone then memberUnreachable s n else s

theorem cutOff_reached {s : State} {n : Word16} (way : (egress s n.toNat).isSome = true) : cutOff s n = s :=
  if_neg (by simpa using Option.isSome_iff_ne_none.1 way)

theorem foldl_cutOff_reached : ∀ {l : List Word16} {s : State}, (∀ n ∈ l, (egress s n.toNat).isSome = true) →
    l.foldl cutOff s = s
  | [], _, _ => rfl
  | n :: l, s, ways => by
    rw [List.foldl_cons, cutOff_reached (ways n List.mem_cons_self)]
    exact foldl_cutOff_reached fun m hm => ways m (List.mem_cons_of_mem _ hm)

/-- Of members that are all within reach, those without a way to them go out of it. -/
theorem foldl_cutOff_severs : ∀ {l : List Word16} {s : State}, l.Nodup → (∀ n ∈ l, n ∈ s.mbox.squad ∧ n ∉ s.mbox.unreachable) →
    Severs (l.filter fun n => (egress s n.toNat).isNone) s (l.foldl cutOff s)
  | [], s, _, _ => Severs.refl s
  | n :: l, s, distinct, members => by
    obtain ⟨fresh, distinct⟩ := List.nodup_cons.1 distinct
    obtain ⟨member, reached⟩ := members n List.mem_cons_self
    have later : ∀ m ∈ l, m ∈ s.mbox.squad ∧ m ∉ s.mbox.unreachable := fun m hm => members m (List.mem_cons_of_mem _ hm)
    rw [List.foldl_cons, List.filter_cons]
    unfold cutOff
    split
    · have cut := memberUnreachable_severs member reached
      have rest := foldl_cutOff_severs (s := memberUnreachable s n) distinct fun m hm => by
        refine ⟨cut.squad ▸ (later m hm).1, ?_⟩
        rw [cut.unreachable, List.mem_append, List.mem_singleton]
        rintro (old | rfl)
        · exact (later m hm).2 old
        · exact fresh hm
      simp only [cut.egress] at rest
      exact rest.after cut
    · exact foldl_cutOff_severs distinct later

/-! ### What data that were read leave of the fabric -/

theorem ReadOnly.rcd {s t : State} (h : ReadOnly s t) : t.fabric.rcd = s.fabric.rcd := by
  obtain ⟨_, _, _, _, _, rfl⟩ := h
  rfl

theorem ReadOnly.routes {s t : State} (h : ReadOnly s t) : t.fabric.routes = s.fabric.routes := by
  obtain ⟨_, _, _, _, _, rfl⟩ := h
  rfl

theorem ReadOnly.ports {s t : State} (h : ReadOnly s t) : t.fabric.ports = s.fabric.ports := by
  obtain ⟨_, _, _, _, _, rfl⟩ := h
  rfl

theorem ReadOnly.mbox {s t : State} (h : ReadOnly s t) : t.mbox = s.mbox := by
  obtain ⟨_, _, _, _, _, rfl⟩ := h
  rfl

theorem ReadOnly.program {s t : State} (h : ReadOnly s t) : SameProgram s t := by
  obtain ⟨_, _, _, _, _, rfl⟩ := h
  exact ⟨rfl, rfl, rfl, rfl, rfl, rfl, rfl, rfl, rfl, rfl, rfl, rfl⟩

/-! ### Records and plans (R254, R291, R292) -/

/-- Outside bring-up nothing waits for READY (R432). -/
theorem checkReady_same {s : State} (up : s.mbox.module ≠ .bringUp) : checkReady s = s := if_neg fun h => up h.1

/-- A record whose enable flag stays changes nothing of its link. -/
theorem applyEnable_same {s : State} {p : Fin 12} {was : Bool} (same : was = s.fabric.ports[p].rcd.flags.getLsbD 0) :
    applyEnable s p was = s := if_pos same

/-- Outside a run the record is taken, and the node's own route is 0xE (R291, R293). -/
theorem fabricRecord_runs {s : State} {c : Cmd} {r : FabricRec} (h : Runs s c 0x0301 1 false false anyState)
    (still : s.pstate ≠ .running) (parsed : parseFabricRec (sub c.payload 0 16) = some r)
    (rest : restZero c [(16, 16)] = true) (assigned : r.node ≠ 0xFFFF#16) :
    exec (.fabricRecord c) s = .next (done { s with fabric := { s.fabric with
      rcd := r, routes := setRoute r.node.toNat 0xE s.fabric.routes } } c 0) := by
  change execFabricRecord c s = _
  refine (command_gated h (ok := fun _ => (parseFabricRec (sub c.payload 0 16)).isSome && restZero c [(16, 16)]) ?_ _).trans ?_
  · simp [parsed, rest]
  · dsimp only
    rw [parsed]
    dsimp only
    rw [if_neg still, if_neg assigned]

/-- A port record whose enable flag stays is taken at once (R292). -/
theorem portRecord_runs {s v : State} {c : Cmd} {host : HostRead} {p : Fin 12} {data : List Byte} {r : PortRec}
    (h : Runs s c 0x0302 1 false (arg c 17 1 == 1) anyState) (port : arg c 16 1 = p.val)
    (rest : restZero c [(16, 2), (24, 8)] = true) (reads : Reads s c (arg c 17 1) (arg c 24 8) 64 host data v)
    (parsed : parsePortRec data = some r) (flag : r.flags.getLsbD 0 = s.fabric.ports[p].rcd.flags.getLsbD 0)
    (up : s.mbox.module ≠ .bringUp) :
    exec (.portRecord c host) s = .next (done (setPort v p { v.fabric.ports[p] with rcd := r }) c 0) := by
  have low : arg c 16 1 < 12 := port ▸ p.isLt
  change execPortRecord c host s = _
  refine (command_gated h ?_ _).trans ?_
  · simp [low, rest]
  · dsimp only
    rw [withData_reads reads, parsed]
    dsimp only
    rw [dif_pos low]
    simp only [port]
    rw [applyEnable_same, checkReady_same]
    · rfl
    · rw [done_module]
      simpa [reads.readOnly.mbox] using up
    · rw [updPort_port, reads.readOnly.ports]
      exact flag.symm

/-- Outside a run the plan's entry is taken (R254). -/
theorem planWrite_runs {s : State} {c : Cmd} (h : Runs s c 0x0304 1 false false anyState) (still : s.pstate ≠ .running)
    (entry : planEntryOk (arg c 16 1) (arg c 24 8) = true) (rest : restZero c [(16, 1), (24, 8)] = true) :
    exec (.planWrite c) s = .next (done { s with reduce := { s.reduce with plans :=
      (setAt s.reduce.plans (arg c 16 1) (some (BitVec.ofNat 64 (arg c 24 8)))) } } c 0) := by
  change execPlanWrite c s = _
  refine (command_gated h (ok := fun _ => planEntryOk (arg c 16 1) (arg c 24 8) && restZero c [(16, 1), (24, 8)]) ?_ _).trans ?_
  · simp [entry, rest]
  · dsimp only
    rw [if_neg still]

/-! ### ROUTE_WRITE (R293, R396) -/

/-- Whether a node is among those whose routes a command gives. -/
def rerouted (c : Cmd) (m : Word16) : Bool := decide (arg c 16 2 ≤ m.toNat) && decide (m.toNat < arg c 16 2 + arg c 18 2)

/-- What ROUTE_WRITE of one node id leaves, before members go out of reach: the route, and the members that it reaches again. -/
def rerouteOne (v : State) (c : Cmd) (e : Byte) : State :=
  let u : State := { v with fabric := { v.fabric with routes := setRoute (arg c 16 2) e.toNat v.fabric.routes } }
  { u with mbox := { u.mbox with
    unreachable := u.mbox.unreachable.filter fun m => !rerouted c m || (egress u m.toNat).isNone } }

theorem routeWrite_runs {s v : State} {c : Cmd} {host : HostRead} {e : Byte}
    (h : Runs s c 0x0303 1 false (arg c 20 1 == 1) anyState) (one : arg c 18 2 = 1) (first : arg c 16 2 < 0xFFFF)
    (rest : restZero c [(16, 5), (24, 8)] = true) (reads : Reads s c (arg c 20 1) (arg c 24 8) 1 host [e] v)
    (valid : e.toNat ≤ 0xB ∨ e = 0xE ∨ e = 0xF) :
    exec (.routeWrite c host) s = .next (done (v.mbox.squad.foldl (fun s m =>
      if rerouted c m && (egress s m.toNat).isNone then memberUnreachable s m else s) (rerouteOne v c e)) c 0) := by
  have known : ([e].all fun b => decide (b.toNat ≤ 0xB) || b == 0xE || b == 0xF) = true := by simpa [or_assoc] using valid
  have reads : Reads s c (arg c 20 1) (arg c 24 8) (arg c 18 2) host [e] v := by rwa [one]
  change execRouteWrite c host s = _
  refine (command_gated h (ok := fun _ => decide (1 ≤ arg c 18 2) && decide (arg c 16 2 + arg c 18 2 ≤ 0xFFFF) &&
    restZero c [(16, 5), (24, 8)]) ?_ _).trans ?_
  · have last : arg c 16 2 + 1 ≤ 0xFFFF := first
    simp [one, last, rest]
  · refine congrArg _ ((withData_reads reads _).trans ?_)
    rw [known]
    rfl

/-- With every member within reach it is the route alone. -/
theorem rerouteOne_reached {v : State} (all : v.mbox.unreachable = []) (c : Cmd) (e : Byte) : rerouteOne v c e =
    { v with fabric := { v.fabric with routes := setRoute (arg c 16 2) e.toNat v.fabric.routes } } := by
  have same : { v.mbox with unreachable := [] } = v.mbox := by rw [← all]
  unfold rerouteOne
  dsimp only
  rw [all, List.filter_nil, same]

/-- Routes given leave the rest of the fabric, the program and memory, whichever members they cut off. -/
theorem routeWrite_severs (v : State) (c : Cmd) (e : Byte) : ∃ gone, Severs gone (rerouteOne v c e)
    (done (v.mbox.squad.foldl (fun s m =>
      if rerouted c m && (egress s m.toNat).isNone then memberUnreachable s m else s) (rerouteOne v c e)) c 0) := by
  obtain ⟨gone, cut⟩ := Severs.foldl_some (fun s m =>
    if rerouted c m && (egress s m.toNat).isNone then memberUnreachable s m else s) (fun s m => by
      split
      · exact memberUnreachable_severs_some s m
      · exact ⟨[], Severs.refl s⟩) v.mbox.squad (rerouteOne v c e)
  exact ⟨_, (done_severs ..).after cut⟩

/-! ### SQUAD_SET (R393, R396) -/

/-- The new squad, before those without a way to them go out of reach. -/
def withSquad (v : State) (ids : List Word16) : State := { v with mbox := { v.mbox with squad := ids, unreachable := [] } }

theorem squadSet_runs {s v : State} {c : Cmd} {host : HostRead} {data : List Byte} {ids : List Word16}
    (h : Runs s c 0x0306 1 false (arg c 17 1 == 1) anyState) (size : arg c 16 1 ≤ 63)
    (rest : restZero c [(16, 2), (24, 8)] = true) (assigned : s.fabric.rcd.node ≠ 0xFFFF#16)
    (reads : Reads s c (arg c 17 1) (arg c 24 8) (2 * arg c 16 1) host data v)
    (named : (chunks 2 (arg c 16 1) data).map (fun b => BitVec.ofNat 16 (leNat b)) = ids) (distinct : ids.Nodup)
    (other : s.fabric.rcd.node ∉ ids) :
    exec (.squadSet c host) s = .next (done (ids.foldl cutOff (withSquad v ids)) c 0) := by
  change execSquadSet c host s = _
  refine (command_gated h (ok := fun _ => decide (arg c 16 1 ≤ 63) && restZero c [(16, 2), (24, 8)]) ?_ _).trans ?_
  · simp [size, rest]
  · dsimp only
    rw [if_neg assigned, withData_reads reads, named, reads.readOnly.rcd, if_neg (by simp [other, distinct])]
    rfl

/-! ### PORT_RETRAIN (R431) -/

/-- Lanes taken into service leave the fabric and the mailbox. -/
theorem lanesServe_same (s : State) (p lanes : Nat) :
    (lanesServe s p lanes).fabric = s.fabric ∧ (lanesServe s p lanes).mbox = s.mbox := by
  unfold lanesServe
  refine List.foldlRecOn (motive := fun t : State => t.fabric = s.fabric ∧ t.mbox = s.mbox) _ _ ⟨rfl, rfl⟩ fun t same k _ => ?_
  split
  · exact same
  · exact same

theorem sendDiscovery_posts (s : State) (p : Fin 12) : Posts s (sendDiscovery s p) :=
  (bump_posts ..).trans (emit_posts ..)

/-- A port that comes up is up. -/
theorem portUp_link (s : State) (p : Fin 12) (lanes : Nat) : (portUp s p lanes).fabric.ports[p].link = .up := by
  unfold portUp
  dsimp only
  rw [(sendDiscovery_posts _ p).link, (post_posts ..).link, (lanesServe_same ..).1, updPort_port]

theorem portUp_module (s : State) (p : Fin 12) (lanes : Nat) : (portUp s p lanes).mbox.module = s.mbox.module := by
  unfold portUp
  dsimp only
  rw [(sendDiscovery_posts _ p).module, post_module, (lanesServe_same ..).2, updPort_mbox]

/-- A port passes its gate when no lane is named as bad (R430). -/
theorem gateVerdict_sound (s : State) (p : Fin 12) (lanes : Nat) : gateVerdict s p lanes 0 0 = portUp s p lanes := by
  unfold gateVerdict
  exact if_pos (by simp)

/-- A retrain whose gate names no lane completes with the lanes in use. -/
theorem gateVerdict_completes {s : State} (up : s.mbox.module ≠ .bringUp) (c : Cmd) (p : Fin 12) (lanes : Nat) :
    checkReady (complete (gateVerdict s p lanes 0 0) c 0 0
      (if (gateVerdict s p lanes 0 0).fabric.ports[p].link = .up then lanes else 0) 0) =
    complete (portUp s p lanes) c 0 0 lanes 0 := by
  rw [gateVerdict_sound, if_pos (portUp_link ..), checkReady_same]
  rwa [complete_module, portUp_module]

theorem portRetrain_runs {s : State} {c : Cmd} {p : Fin 12} (h : Runs s c 0x0305 1 false false anyState)
    (ready : s.mbox.module = .ready) (port : arg c 16 1 = p.val) (rest : restZero c [(16, 1)] = true)
    (on : enabled s.fabric.ports[p] = true) (partner : s.fabric.ports[p].fkm = false)
    (usable : usableLanes s.units p.val (portLanes s p) ≠ 0) :
    let lanes := usableLanes s.units p.val (portLanes s p)
    exec (.portRetrain c 0 0) s = .next (complete (portUp (emit (setPort s p { s.fabric.ports[p] with
      link := .gating, lost := 0, lanes := BitVec.ofNat 8 lanes }) (.cableReset (p.val % 6))) p lanes) c 0 0 lanes 0) := by
  have low : arg c 16 1 < 12 := port ▸ p.isLt
  change execPortRetrain c 0 0 s = _
  refine (command_gated h (ok := fun _ => decide (arg c 16 1 < 12) && restZero c [(16, 1)]) ?_ _).trans ?_
  · simp [low, rest]
  · dsimp only
    rw [dif_pos low]
    simp only [port]
    have whole : (s.fabric.ports[p.val].rcd.flags.getLsbD 3 && s.fabric.ports[p.val].fkm) = false := by
      rw [show s.fabric.ports[p.val].fkm = false from partner, Bool.and_false]
    have chosen : (some (usableLanes s.units p.val (portLanes s p))).filter (· != 0) =
        some (usableLanes s.units p.val (portLanes s p)) := by simp [usable]
    rw [if_neg (by simpa using on)]
    simp only [whole, Bool.false_eq_true, if_false]
    rw [chosen]
    dsimp only
    rw [show ratioLanes (0 : Byte).toNat [] = 0 from rfl, show codewordLanes (0 : Byte).toNat [] = 0 from rfl]
    refine congrArg _ ((gateVerdict_completes ?_ c p _).trans ?_)
    · exact fun h => nomatch ready.symm.trans h
    · rfl

/-- Settles O38: each command whose checks pass does its work at once; members without a way to them go out of reach, which
leaves the routes and the program. -/
theorem fabricCommands : Obligations.FabricCommands := by
  refine ⟨fun _ _ _ => fabricRecord_runs, fun _ _ _ _ _ _ _ => portRecord_runs, ?_, fun _ _ => planWrite_runs, ?_,
    fun _ _ _ => portRetrain_runs, ?_⟩
  · intro s v c host e h one first rest reads valid
    obtain ⟨_, cut⟩ := routeWrite_severs v c e
    have before := reads.readOnly
    refine ⟨_, routeWrite_runs h one first rest reads valid, ?_, cut.program.after before.program, cut.mem, fun alone all => ?_⟩
    · rw [cut.routes, ← before.routes]
      rfl
    · rw [← before.mbox] at alone all
      rw [alone, rerouteOne_reached all, before.routes]
      rfl
  · intro s v c host data h size rest assigned reads distinct other ids
    have runs := squadSet_runs h size rest assigned reads rfl distinct other
    have cut := (done_severs _ c 0).after
      (foldl_cutOff_severs (s := withSquad v ids) distinct fun n member => ⟨member, List.not_mem_nil⟩)
    refine ⟨fun ways => ?_, _, runs, cut.squad, cut.unreachable.trans (List.append_nil _)⟩
    rw [runs, foldl_cutOff_reached (s := withSquad v ids) ways]
    rfl
  · intro l n e k rises other
    refine ⟨find?_setRoute_other other e l, fun listed => ?_, pairwise_setRoute n e rises⟩
    rw [find?_setRoute_same listed]
    rfl

end Sys2Proof.Machine
end

section
/-! Requests of other modules served and refused; signal, bulk and reduction frames. -/

namespace Sys2Proof.Machine

open Sys2Proof

/-! ### SUPPORT. The inbound log, the write buffer and the link layer, where they change nothing -/

/-- Outside a journaled step nothing is logged (R243). -/
theorem logInbound_idle {s : State} (idle : s.journal.recording = false) (source kind addr : Nat) (data : List Byte) :
    logInbound s source kind addr data = s := if_neg (by simp [idle])

theorem stripesHeld_outside {space : Nat} (other : space ≠ 1) (s : State) (off n : Nat) : stripesHeld s space off n = [] :=
  if_neg fun h => other h.1

/-- A response to an access that no stripe in the write buffer touches goes at once. -/
theorem ackWhenVisible_visible {s : State} {space off n : Nat} (clear : stripesHeld s space off n = []) (f : Kft) :
    ackWhenVisible s space off n f = sendFrame s f := by
  unfold ackWhenVisible
  rw [clear]
  rfl

/-- Any other waits for those stripes (R297, R324). -/
theorem ackWhenVisible_waits {s : State} {space off n : Nat} (held : stripesHeld s space off n ≠ []) (f : Kft) :
    ackWhenVisible s space off n f = { s with mem := { s.mem with
      acks := s.mem.acks ++ [{ what := .frame f, stripes := stripesHeld s space off n }] } } := by
  unfold ackWhenVisible
  dsimp only
  rw [if_neg (by simpa using held)]

/-- A successful write of space 0x0 changes its bytes and the lines that are lost, and nothing else. -/
theorem writeLocal_sram {s t : State} {off : Nat} {data : List Byte} (stored : writeLocal s 0 off data = (0, t)) :
    ∃ sram lost, t = { s with mem := { s.mem with sram := sram, lostLines := lost } } := by
  rcases writeLocal_cases stored with ⟨failed, -⟩ | ⟨-, -, -, -, -, written⟩ | ⟨-, other, -⟩ | ⟨-, other, -⟩
  · exact absurd rfl failed
  · exact ⟨_, _, written⟩
  · exact nomatch other
  · exact nomatch other

/-- Where no end waits for a stripe none is settled. -/
theorem settleEnds_idle {s : State} (idle : s.mem.ends = []) : settleEnds s = s := by
  have same : { s.mem with ends := [] } = s.mem := by rw [← idle]
  unfold settleEnds
  dsimp only
  rw [idle, List.filter_nil, List.filter_nil, same]
  rfl

theorem received_inReset (s : State) (x : Rx) : inReset (received s x) = inReset s := by
  unfold inReset
  rw [received_mbox]

theorem received_lateReads (s : State) (x : Rx) : (received s x).fabric.lateReads = s.fabric.lateReads :=
  (congrArg (fun u => u.fabric.lateReads) (received_linked s x).rest :)

/-! ### Reads (R295, R298, R299, R324) -/

/-- A read request that arrives is served at once. -/
theorem readRequest_arrives {s : State} {x : Rx} (h : Arrives s x 0x01) (reads : List DevRead) :
    exec (.readRequest x reads) s = .next (serveRead (received s x) (received s x).step x.f
      (maxPayload (received s x).fabric.ports[x.port]) reads) := congrArg _ (arrive_delivers h _)

section
variable {s : State} {f : Kft} {space off most : Nat} {b : List Byte}

theorem serveRead_bytes (place : requestPlace s f f.len.toNat = some (space, off)) (memory : space ≠ 8) (other : space ≠ 1)
    (range : rangeOk f f.len.toNat most = true) (got : readLocal s space off f.len.toNat = .bytes b) (reads : List DevRead) :
    serveRead s s.step f most reads = sendFrame s (responseTo s f 0 b) := by
  have got : readLocalAt s s.step space off f.len.toNat = .bytes b := got
  unfold serveRead
  dsimp only
  rw [place]
  dsimp only
  rw [if_neg memory, range, if_neg (by decide), got]
  dsimp only
  rw [if_neg other, ackWhenVisible_visible (stripesHeld_outside other ..)]

/-- A read of space 0x1 meets what its devices' units met, and is answered once the writes before it are done. -/
theorem serveRead_dram (place : requestPlace s f f.len.toNat = some (1, off)) (range : rangeOk f f.len.toNat most = true)
    (got : readLocal s 1 off f.len.toNat = .bytes b) (reads : List DevRead) :
    let t := deviceReads (chargeRead s off f.len.toNat) (unitsOn off f.len.toNat)
      (reads.filter fun r => decide (0 < unitsOn off f.len.toNat r.device.val))
    serveRead s s.step f most reads = ackWhenVisible t 1 off f.len.toNat (responseTo t f 0 b) := by
  have got : readLocalAt s s.step 1 off f.len.toNat = .bytes b := got
  unfold serveRead
  dsimp only
  rw [place]
  dsimp only
  rw [if_neg (by decide), range, if_neg (by decide), got]
  rfl

theorem serveRead_fails {st : Nat} (place : requestPlace s f f.len.toNat = some (space, off)) (memory : space ≠ 8)
    (range : rangeOk f f.len.toNat most = true) (failed : readLocal s space off f.len.toNat = .fail st) (reads : List DevRead) :
    serveRead s s.step f most reads = sendFrame s (responseTo s f st []) := by
  have failed : readLocalAt s s.step space off f.len.toNat = .fail st := failed
  unfold serveRead
  dsimp only
  rw [place]
  dsimp only
  rw [if_neg memory, range, if_neg (by decide), failed]

/-- The control space is the captain's to read (R299). -/
theorem controlRead_denied (stranger : fromCaptain s f = false) (off n : Nat) : controlRead s f off n = (4, []) :=
  if_pos (by simp [stranger])

theorem serveRead_denied (place : requestPlace s f f.len.toNat = some (8, off)) (stranger : fromCaptain s f = false)
    (reads : List DevRead) : serveRead s s.step f most reads = sendFrame s (responseTo s f 4 []) := by
  unfold serveRead
  dsimp only
  rw [place]
  dsimp only
  rw [if_pos rfl, controlRead_denied stranger]

end

/-! ### Writes (R295, R297, R391) -/

section
variable {s t : State} {x : Rx} {space off : Nat}

/-- A write of memory that is done is logged, and acknowledged once it is visible. -/
theorem writeRequest_stores (h : Arrives s x 0x03)
    (place : requestPlace (received s x) x.f x.f.payload.length = some (space, off)) (memory : space ≠ 8)
    (range : rangeOk x.f x.f.payload.length (maxPayload (received s x).fabric.ports[x.port]) = true)
    (stored : writeLocal (received s x) space off x.f.payload = (0, t)) :
    let u := logInbound t x.f.src.toNat 0 x.f.arg.toNat x.f.payload
    exec (.writeRequest x) s = .next (ackWhenVisible u space off x.f.payload.length (responseTo u x.f 0 [])) := by
  refine (congrArg _ (arrive_delivers h _)).trans ?_
  dsimp only
  rw [place]
  dsimp only
  rw [if_neg memory, range, if_neg (by decide), stored]
  rfl

theorem writeRequest_fails {st : Nat} (h : Arrives s x 0x03)
    (place : requestPlace (received s x) x.f x.f.payload.length = some (space, off)) (memory : space ≠ 8)
    (range : rangeOk x.f x.f.payload.length (maxPayload (received s x).fabric.ports[x.port]) = true)
    (failed : writeLocal (received s x) space off x.f.payload = (st, t)) (status : st ≠ 0) :
    exec (.writeRequest x) s = .next (sendFrame t (responseTo t x.f st [])) := by
  refine (congrArg _ (arrive_delivers h _)).trans ?_
  dsimp only
  rw [place]
  dsimp only
  rw [if_neg memory, range, if_neg (by decide), failed]
  dsimp only
  rw [if_neg status]

/-- Doorbells, ring registers and the MSI-X region are no captain's to write (R391). -/
theorem controlWrite_denied {f : Kft} {data : List Byte} (captain : fromCaptain s f = true)
    (width : data.length = 4 ∨ data.length = 8) (aligned : off % data.length = 0)
    (kept : (0x1000 ≤ off ∧ off < 0x1014) ∨ (0x2000 ≤ off ∧ off < 0x20A0) ∨ (0x10000 ≤ off ∧ off < 0x11008)) :
    controlWrite s f off data = (4, s) := by
  have access : (data.length == 4 || data.length == 8) = true := by simpa using width
  unfold controlWrite
  dsimp only
  rw [if_neg (by simp [captain]), access, if_neg (by simp [aligned]), if_neg (by omega), if_pos kept]

theorem writeRequest_denied (h : Arrives s x 0x03)
    (place : requestPlace (received s x) x.f x.f.payload.length = some (8, off))
    (denied : controlWrite (received s x) x.f off x.f.payload = (4, received s x)) :
    exec (.writeRequest x) s = .next (sendFrame (received s x) (responseTo (received s x) x.f 4 [])) := by
  refine (congrArg _ (arrive_delivers h _)).trans ?_
  dsimp only
  rw [place]
  dsimp only
  rw [if_pos rfl, denied]
  rfl

end

/-! ### Atomics (R193, R296) -/

/-- An atomic of a word of space 0x0, while no journal records, is answered with the old value. -/
theorem atomicRequest_runs {s t : State} {x : Rx} {off w : Nat} {b : List Byte} (h : Arrives s x 0x05)
    (width : field x.f.payload 1 1 = w) (place : requestPlace (received s x) x.f w = some (0, off))
    (length : x.f.payload.length = 24) (op : field x.f.payload 0 1 ≤ 5) (word : w = 4 ∨ w = 8)
    (reserved : zeros x.f.payload 2 6 = true) (aligned : x.f.arg.toNat % w = 0)
    (got : readLocal (received s x) 0 off w = .bytes b) (idle : s.journal.recording = false)
    (stored : writeLocal (received s x) 0 off (leBytes w (atomicNew (field x.f.payload 0 1) w (leNat b) (field x.f.payload 8 8)
      (field x.f.payload 16 8))) = (0, t)) :
    exec (.atomicRequest x) s = .next (sendFrame t (responseTo t x.f 0 (leBytes 8 (leNat b)))) := by
  have idle : t.journal.recording = false := by
    obtain ⟨_, _, rfl⟩ := writeLocal_sram stored
    simpa using idle
  have access : (w == 4 || w == 8) = true := by simpa using word
  have fits : ¬(x.f.payload.length ≠ 24 ∨ 5 < field x.f.payload 0 1 ∨ (!(w == 4 || w == 8)) = true ∨
      (!zeros x.f.payload 2 6) = true ∨ x.f.arg.toNat % w ≠ 0) := by
    simp [length, op, access, reserved, aligned]
  refine (congrArg _ (arrive_delivers h _)).trans ?_
  dsimp only
  rw [width, place]
  dsimp only
  rw [if_neg (by simp), if_neg (by simp), if_neg fits, got]
  dsimp only
  rw [if_neg Nat.zero_ne_one, stored]
  dsimp only
  rw [if_pos rfl, logInbound_idle idle, ackWhenVisible_visible (stripesHeld_outside (by decide) ..)]

/-- Whatever the operation, the new value fits its word. -/
theorem atomicNew_lt {w old : Nat} (fits : old < 2 ^ (8 * w)) (op operand compare : Nat) :
    atomicNew op w old operand compare < 2 ^ (8 * w) := by
  have masked : operand % 2 ^ (8 * w) < 2 ^ (8 * w) := Nat.mod_lt _ (Nat.two_pow_pos _)
  unfold atomicNew
  dsimp only
  split
  · exact Nat.mod_lt _ (Nat.two_pow_pos _)
  · exact Nat.and_lt_two_pow _ masked
  · exact Nat.or_lt_two_pow fits masked
  · exact Nat.xor_lt_two_pow fits masked
  · exact masked
  · split
    · exact masked
    · exact fits

/-! ### Bulk transfers (R297, R299, R301) -/

/-- The transfer that a bulk read served here is, whose acks this module awaits. -/
def servedBulk (f : Kft) : Bulk :=
  { tid := f.tid, node := f.src, inward := false, src := f.arg, dst := BitVec.ofNat 64 (leNat (f.payload.take 8)),
    len := f.len.toNat, acked := 0, rest := 0, served := true, owner := .nobody }

/-- The bulk read's bytes go out, and the transfer is registered in place of one of its id. -/
def bulkServed (s : State) (f : Kft) (b : List Byte) : State :=
  let u := dropBulk s (servedBulk f)
  sendBulk { u with fabric := { u.fabric with bulks := u.fabric.bulks ++ [servedBulk f] } } f.src.toNat f.tid.toNat
    (leNat (f.payload.take 8)) b none

theorem bulkReadRequest_arrives {s : State} {x : Rx} (h : Arrives s x 0x09) :
    exec (.bulkReadRequest x) s = .next (serveBulkRead (received s x) (received s x).step x.f) :=
  congrArg _ (arrive_delivers h _)

section
variable {s : State} {f : Kft} {space off : Nat} {b : List Byte}

theorem serveBulkRead_bytes (place : requestPlace s f f.len.toNat = some (space, off)) (memory : space ≠ 8) (other : space ≠ 1)
    (got : readLocal s space off f.len.toNat = .bytes b) : serveBulkRead s s.step f = bulkServed s f b := by
  have got : readLocalAt s s.step space off f.len.toNat = .bytes b := got
  unfold serveBulkRead
  dsimp only
  rw [place]
  dsimp only
  rw [if_neg memory, got]
  dsimp only
  rw [if_neg other]
  rfl

/-- A bulk read of the control space: its bytes, or a bulk ack with the status. -/
theorem serveBulkRead_control {st : Nat} (place : requestPlace s f f.len.toNat = some (8, off))
    (control : controlRead s f off f.len.toNat = (st, b)) : serveBulkRead s s.step f = if st = 0 then bulkServed s f b
      else sendFrame s (bulkAckFrame s f.src.toNat f.tid.toNat st (leNat (f.payload.take 8))) := by
  unfold serveBulkRead
  dsimp only
  rw [place]
  dsimp only
  rw [if_pos rfl, control]
  rfl

/-- Bulk data that no transfer of this module awaits are a write of its memory. -/
theorem bulkStore_here (none : s.fabric.bulks = []) (here : isLocal s (nodeOf f.arg.toNat) = true)
    (memory : spaceOf f.arg.toNat ≠ 8) :
    bulkStore s f = writeLocal s (spaceOf f.arg.toNat) (offsetOf f.arg.toNat) f.payload := by
  unfold bulkStore
  rw [none]
  dsimp only [List.find?_nil]
  rw [if_neg (by simp [here]), if_neg memory]

/-- The last data of a write to space 0x0 are stored and acknowledged. -/
theorem takeBulk_last {t : State} (none : s.fabric.bulks = []) (first : s.fabric.bulkIn = [])
    (idle : s.journal.recording = false) (here : isLocal s (nodeOf f.arg.toNat) = true) (sram : spaceOf f.arg.toNat = 0)
    (last : f.flags.getLsbD 2 = true) (stored : writeLocal s 0 (offsetOf f.arg.toNat) f.payload = (0, t)) :
    takeBulk s f =
      sendFrame t (bulkAckFrame t f.src.toNat f.tid.toNat 0 (f.arg.toNat + f.payload.length - 1)) := by
  have store : bulkStore s f = (0, t) := by
    rw [bulkStore_here none here (by rw [sram]; decide), sram, stored]
  have idle : t.journal.recording = false := by
    obtain ⟨_, _, rfl⟩ := writeLocal_sram stored
    exact idle
  have first : t.fabric.bulkIn = [] := by
    obtain ⟨_, _, rfl⟩ := writeLocal_sram stored
    exact first
  have same : { t with fabric := { t.fabric with bulkIn := [] } } = t := by rw [← first]
  unfold takeBulk
  dsimp only
  rw [store, none]
  simp only [List.find?_nil, intoMemory, and_self, if_true, logInbound_idle idle, first, last, Bool.true_or, List.filter_nil,
    same, sram, Bool.not_true, Bool.false_eq_true, if_false]
  exact ackWhenVisible_visible (stripesHeld_outside (by decide) ..) _

end

/-- Bulk data behind no read that has ended. -/
theorem bulkData_arrives {s : State} {x : Rx} (h : Arrives s x 0x08) (timely : s.fabric.lateReads = []) :
    exec (.bulkData x) s = .next (settleEnds (takeBulk (received s x) x.f)) := by
  refine (congrArg _ (arrive_delivers h _)).trans ?_
  rw [received_lateReads, timely, if_neg (by simp)]

/-! ### Signals (R302, R309) -/

theorem signalFrame_runs {s : State} {x : Rx} (h : Arrives s x 0x07) (running : s.pstate = .running)
    (up : inReset s = false) (idle : s.journal.recording = false) :
    exec (.signalFrame x) s = .next (takeSignal (received s x) x.f.payload) := by
  refine (congrArg _ (arrive_delivers h _)).trans ?_
  rw [if_neg (by simp [running, received_inReset, up]), logInbound_idle (by simpa using idle)]

theorem signalFrame_discarded {s : State} {x : Rx} (h : Arrives s x 0x07) (still : s.pstate ≠ .running) :
    exec (.signalFrame x) s = .next (discard (received s x) x.port.val 9 1) := by
  refine (congrArg _ (arrive_delivers h _)).trans ?_
  rw [if_pos (.inl (by simpa using still))]

/-! ### Reduction frames (R258 to R262, R270, R309) -/

/-- A reduction frame whose residues hold is taken (R260). -/
theorem reductionFrame_arrives {s : State} {x : Rx} (h : Arrives s x 0x0B)
    (sound : (parseSegs 16 x.f.payload).all residuesHold = true) (slips : List AdderSlip) :
    exec (.reductionFrame x slips) s = .next (takeReduction slips x.port (received s x) x.f) := by
  change execReductionFrame x slips s = _
  unfold execReductionFrame
  dsimp only
  rw [sound, if_neg (by simp), arrive_delivers h]

theorem takeReduction_discards {s : State} (stopped : inReset s = true ∨ s.pstate = .halted) (slips : List AdderSlip)
    (p : Fin 12) (f : Kft) : takeReduction slips p s f = discard s p.val 12 1 :=
  if_pos (stopped.imp_right .inl)

/-- The state takes a frame of one segment, which is admitted. -/
structure TakesOne (s : State) (f : Kft) (g : WireSeg) : Prop where
  segs : parseSegs 16 f.payload = [g]
  up : inReset s = false
  contributing : s.pstate ≠ .halted
  original : s.journal.replay = none
  room : admitted s g = true

section
variable {s : State} {p : Fin 12} {f : Kft} {g : WireSeg} {b : BucketDesc}

theorem takeReduction_one (h : TakesOne s f g) (slips : List AdderSlip) : takeReduction slips p s f =
    drain (takeSeg s p f.src.toNat g (slips.filter fun y => y.position == 0)) := by
  have fits : frameAdmitted s [g] = true := by simp [frameAdmitted, h.room]
  unfold takeReduction
  rw [if_neg (by simp [h.up, h.contributing, replaying, h.original]), h.segs, if_pos fits]
  unfold takeSegs
  rw [h.segs]
  rfl

/-- A segment beyond its bucket is a fault (R262; log 40). -/
theorem takeSeg_beyond (bucket : bucketOfTag s g.hdr.tag = some b) (beyond : b.segments ≤ g.hdr.number) (src : Nat)
    (slips : List AdderSlip) : takeSeg s p src g slips =
      reductionFault s 0xC g.hdr.tag g.hdr.number p.val (b.segments - 1) g.hdr.number := by
  unfold takeSeg
  dsimp only
  rw [bucket]
  exact if_pos beyond

/-- A child's segment, the first of its number from that child, is added. -/
theorem takeSeg_up (bucket : bucketOfTag s g.hdr.tag = some b) (within : g.hdr.number < b.segments) (kind : g.hdr.kind ≠ 3)
    (up : g.hdr.down = false) (child : p ∈ planChildren (planOf s b.plan))
    (open_ : (segmentOf (tagOf s b.tag) g.hdr.number).done = false)
    (new : p.val ∉ (segmentOf (tagOf s b.tag) g.hdr.number).seen) (src : Nat) : takeSeg s p src g [] =
      contribute s b g.hdr.number
        { source := p.val, g16 := g.hdr.kind == 0, elems := g.elems, exponent := g.hdr.exponent, flag := g.hdr.flag,
          amax := g.hdr.amax, contributors := g.hdr.contributors } := by
  unfold takeSeg
  dsimp only
  rw [bucket]
  dsimp only
  rw [if_neg (by omega), if_neg kind, if_neg (by simp [up]), if_neg (by simp [child])]
  unfold takeUp
  exact if_neg (by simp [open_, new])

/-- The parent's result for a segment that is not done is logged and taken. -/
theorem takeSeg_down (bucket : bucketOfTag s g.hdr.tag = some b) (within : g.hdr.number < b.segments) (kind : g.hdr.kind ≠ 3)
    (down : g.hdr.down = true) (parent : (planOf s b.plan).parent = p.val)
    (open_ : (segmentOf (tagOf s b.tag) g.hdr.number).done = false) (src : Nat) (slips : List AdderSlip) :
    takeSeg s p src g slips = takeResult (logInbound s src 3 (b.result + 1024 * g.hdr.number) g.raw) b g := by
  unfold takeSeg
  dsimp only
  rw [bucket]
  dsimp only
  rw [if_neg (by omega), if_neg kind, if_pos down, if_neg (by simp [parent]), if_neg (by simp [open_])]

end

section
variable (s : State) (x : Rx) (n : Nat)

theorem received_bucketOfTag : bucketOfTag (received s x) n = bucketOfTag s n := by
  unfold bucketOfTag
  rw [received_program]

theorem received_tagOf : tagOf (received s x) n = tagOf s n := by
  unfold tagOf
  rw [received_reduce]

theorem received_planOf : planOf (received s x) n = planOf s n := by
  unfold planOf
  rw [received_reduce]

end

/-- A frame that arrives with one segment, admitted in the state that the link layer leaves. -/
theorem TakesOne.received {s : State} {x : Rx} {g : WireSeg} (segs : parseSegs 16 x.f.payload = [g]) (up : inReset s = false)
    (contributing : s.pstate ≠ .halted) (original : s.journal.replay = none) (room : admitted (received s x) g = true) :
    TakesOne (received s x) x.f g :=
  ⟨segs, (received_inReset s x).trans up, by rwa [received_pstate], by rwa [received_journal], room⟩

theorem reductionFrame_one {s : State} {x : Rx} {g : WireSeg} (h : Arrives s x 0x0B) (one : TakesOne (received s x) x.f g)
    (sound : residuesHold g = true) (slips : List AdderSlip) : exec (.reductionFrame x slips) s = .next (drain
      (takeSeg (received s x) x.port x.f.src.toNat g (slips.filter fun y => y.position == 0))) := by
  rw [reductionFrame_arrives h (by simp [one.segs, sound]), takeReduction_one one]

/-- Settles O54: what each frame is served with, once the link layer has taken it. -/
theorem servedRequests : Obligations.ServedRequests := by
  refine ⟨?_, ?_, ?_, ?_, ?_, ?_, fun _ _ _ _ _ _ => writeRequest_fails, ?_, fun _ _ _ _ _ _ => atomicRequest_runs, ?_,
    fun _ _ => signalFrame_runs, fun _ _ => signalFrame_discarded, ?_, ?_, ?_, ?_, ?_, ?_⟩
  · intro s x space off b h place memory other range got
    rw [readRequest_arrives h, serveRead_bytes place memory other range got]
  · intro s x off b reads h place range got n t
    have served := (readRequest_arrives h reads).trans (congrArg _ (serveRead_dram place range got reads))
    refine ⟨fun clear => ?_, fun held => ?_⟩
    · rw [served, ackWhenVisible_visible clear]
    · rw [served, ackWhenVisible_waits held]
  · intro s x space off st h place memory range failed
    rw [readRequest_arrives h, serveRead_fails place memory range failed]
  · intro s x off h place stranger
    rw [readRequest_arrives h, serveRead_denied place stranger]
  · intro s t x off h place range stored idle
    have idle : t.journal.recording = false := by
      obtain ⟨_, _, rfl⟩ := writeLocal_sram stored
      simpa using idle
    rw [writeRequest_stores h place (by decide) range stored, logInbound_idle idle,
      ackWhenVisible_visible (stripesHeld_outside (by decide) ..)]
  · intro s t x off h place range stored u held
    have served := writeRequest_stores h place (by decide) range stored
    refine ⟨fun clear => ?_, fun waits => ?_⟩
    · rw [served, ackWhenVisible_visible clear]
    · rw [served, ackWhenVisible_waits waits]
  · intro s x off h place captain width aligned kept
    exact writeRequest_denied h place (controlWrite_denied captain width aligned kept)
  · intro w old operand compare fits
    exact ⟨rfl, rfl, fun equal => if_pos equal, fun differs => if_neg differs, fun op => atomicNew_lt fits op operand compare⟩
  · intro s x space off b h place memory other got
    rw [bulkReadRequest_arrives h, serveBulkRead_bytes place memory other got]
    rfl
  · intro s x off st b h place control
    have served := (bulkReadRequest_arrives h).trans (congrArg _ (serveBulkRead_control place control))
    refine ⟨fun stranger => ?_, fun refused => ?_, fun granted => ?_⟩
    · exact (congrArg Prod.fst (control.symm.trans (controlRead_denied stranger ..)) :)
    · rw [served, if_neg refused]
    · rw [served, if_pos granted]
      rfl
  · intro s t x h none first timely ends idle here sram last stored
    rw [bulkData_arrives h timely,
      takeBulk_last (by simpa using none) (by simpa using first) (by simpa using idle) here sram last stored, settleEnds_idle]
    obtain ⟨_, _, rfl⟩ := writeLocal_sram stored
    rw [sendFrame_mem]
    simpa using ends
  · intro s x slips h sound stopped
    rw [reductionFrame_arrives h sound, takeReduction_discards]
    rwa [received_inReset, received_pstate]
  · intro s x g b h segs sound up contributing original room bucket within kind held
    have runs := reductionFrame_one h (.received segs up contributing original room) sound
    rw [← received_bucketOfTag s x] at bucket
    refine ⟨fun upward child open_ new => ?_, fun down parent open_ slips => ?_⟩
    · rw [← received_planOf s x] at child
      rw [runs, List.filter_nil, takeSeg_up bucket within kind upward child (by rwa [received_tagOf]) (by rwa [received_tagOf])]
    · rw [← received_planOf s x] at parent
      rw [runs, takeSeg_down bucket within kind down parent (by rwa [received_tagOf])]
  · intro s x slips g b h segs sound up contributing original room _ bucket beyond
    rw [← received_bucketOfTag s x] at bucket
    rw [reductionFrame_one h (.received segs up contributing original room) sound, takeSeg_beyond bucket beyond]

end Sys2Proof.Machine
end

section
/-! SUPPORT. The ports of the fabric: a field of a port after frames put on queues and after changes of ports. -/

namespace Sys2Proof.Machine

open Sys2Proof

/-! ### A field of a port -/

section
variable {α : Type} {g : Port → α} {s t : State}

/-- What does not look at a port's queues is as it was. -/
theorem Posts.portField (h : Posts s t) (blind : ∀ q queues, g { q with queues := queues } = g q) (k : Fin 12) :
    g t.fabric.ports[k] = g s.fabric.ports[k] := (blind _ _).symm.trans (congrArg g (h.port k))

end

theorem setPort_port_same (s : State) (p : Fin 12) (q : Port) : (setPort s p q).fabric.ports[p] = q := by simp

theorem bump_port (s : State) (id inst tensor n : Nat) (k : Fin 12) :
    (bump s id inst tensor n).fabric.ports[k] = s.fabric.ports[k] :=
  congrArg (fun f : Fabric => f.ports[k]) (bump_fabric s id inst tensor n)

end Sys2Proof.Machine
end

section
/-! Link-control frames and the forwarding of other modules' frames. -/

namespace Sys2Proof.Machine

open Sys2Proof

/-! ### SUPPORT. Credits of the port that a frame comes in on (R287) -/

section
variable (s : State) (p : Fin 12)

theorem takeAck_credits (a : BitVec 24) : (takeAck s p a).fabric.ports[p].credits = s.fabric.ports[p].credits := by
  unfold takeAck
  dsimp only
  split
  · rfl
  · rw [setPort_port_same]

theorem echoClass_credits (c : Fin 6) : (echoClass s p c).fabric.ports[p].credits = s.fabric.ports[p].credits := by
  unfold echoClass
  dsimp only
  split
  · rfl
  split
  · rw [setPort_port_same]
  · rw [bump_port, setPort_port_same]

theorem takeEcho_credits (f : Kft) : (takeEcho s p f).fabric.ports[p].credits = s.fabric.ports[p].credits := by
  unfold takeEcho
  dsimp only
  split
  · rfl
  split
  · rw [foldl_same (fun t => t.fabric.ports[p].credits) _ (fun t c => echoClass_credits t p c), bump_port]
  split
  · rw [echoClass_credits, bump_port]
  · rw [bump_port]

theorem ackFrame_credits : (ackFrame s p).fabric.ports[p].credits = s.fabric.ports[p].credits :=
  (linkControl_posts ..).portField (fun _ _ => rfl) p

theorem oweCredits_credits (f : Kft) : (oweCredits s p f).fabric.ports[p].credits = s.fabric.ports[p].credits := by
  unfold oweCredits
  dsimp only
  split
  · rfl
  · rw [updPort_port]

theorem countFrame_fabric (x : Rx) : (countFrame s x).fabric = s.fabric :=
  (bump_fabric ..).trans (foldl_same State.fabric _ (fun _ _ => (bump_fabric ..).trans (bump_fabric ..)) _ _)

end

/-- Of the fields of a frame in sequence the grant alone gives credits. -/
theorem linkTaken_credits (s : State) (x : Rx) : (linkTaken s x).fabric.ports[x.port].credits =
    if x.f.credit.getLsbD 3 then Vector.ofFn fun i => if i.val = x.f.credit.toNat % 8
      then s.fabric.ports[x.port].credits[i] + x.f.grant.toNat else s.fabric.ports[x.port].credits[i]
    else s.fabric.ports[x.port].credits := by
  have marked : ∀ t : State, (if x.f.ce then updPort (bump t 0x0B0A x.port.val noTensor 1) x.port fun q => { q with
      echoDue := Vector.ofFn fun i => q.echoDue[i] || decide (i.val = x.f.cls.toNat) } else t).fabric.ports[x.port].credits =
      t.fabric.ports[x.port].credits := fun t => by
    split
    · rw [updPort_port, bump_port]
    · rfl
  have acked : ∀ t : State, (if x.f.flags.getLsbD 1 then takeAck t x.port x.f.ack else t).fabric.ports[x.port].credits =
      t.fabric.ports[x.port].credits := fun t => by
    split
    · rw [takeAck_credits]
    · rfl
  unfold linkTaken
  dsimp only
  rw [takeEcho_credits]
  split
  · unfold takeGrant
    rw [updPort_port, acked, marked]
  · rw [acked, marked]

/-- What the link layer does with a frame in order (R284, R287). -/
theorem received_inOrder {s : State} {x : Rx} {typ : Nat} (h : InOrder s x typ) : received s x =
    let n := s.fabric.ports[x.port].unacked + 1
    let t := updPort (linkTaken (countFrame s x) x) x.port fun q =>
      { q with expect := q.expect + 1, unacked := n, heard := true, nakSent := false }
    oweCredits (if 16 ≤ n then updPort (ackFrame t x.port) x.port fun q => { q with unacked := 0 } else t) x.port x.f := by
  obtain ⟨-, -, ⟨size, fcs, udp, crc, pool⟩, up, next⟩ := h
  have first : seqDist x.f.seq s.fabric.ports[x.port].expect = 0 := by simp [seqDist, next]
  unfold received
  rw [linkReceive_eq, if_neg (fun h => up.elim h.1 h.2), size, fcs, udp, crc, pool, if_neg (by decide), if_neg (by decide),
    if_neg (by decide), if_neg (by decide), if_pos first]

/-- A frame in order brings the credits that its header grants, and no others. -/
theorem received_credits {s : State} {x : Rx} {typ : Nat} (h : InOrder s x typ) :
    (received s x).fabric.ports[x.port].credits =
      if x.f.credit.getLsbD 3 then Vector.ofFn fun i => if i.val = x.f.credit.toNat % 8
        then s.fabric.ports[x.port].credits[i] + x.f.grant.toNat else s.fabric.ports[x.port].credits[i]
      else s.fabric.ports[x.port].credits := by
  rw [received_inOrder h]
  dsimp only
  rw [oweCredits_credits]
  split
  · rw [updPort_port]
    dsimp only
    rw [ackFrame_credits, updPort_port]
    dsimp only
    rw [linkTaken_credits, countFrame_fabric]
  · rw [updPort_port]
    dsimp only
    rw [linkTaken_credits, countFrame_fabric]

/-! ### Acks and lane changes (R277, R284) -/

/-- The frames that an ack sequence does not cover stay in the retry buffer. -/
theorem takeAck_retry (s : State) (p : Fin 12) (a : BitVec 24) : (takeAck s p a).fabric.ports[p].retry =
    s.fabric.ports[p].retry.filter fun g => decide (2 ^ 23 ≤ seqDist a g.f.seq) := by
  unfold takeAck
  dsimp only
  split
  · next same => exact (List.filter_eq_self.2 (List.length_filter_eq_length_iff.1 same)).symm
  · rw [setPort_port_same]

/-- A link-control frame takes one credit of its class (R287). -/
theorem linkFrame_units (s : State) (p : Fin 12) (subtype seq : Nat) (flags : Byte) :
    creditUnits (linkFrame s p subtype seq flags) = 1 := by
  simp [creditUnits, linkFrame, mkFrame, leBytes, ceilDiv]

theorem linkFrame_class (s : State) (p : Fin 12) (subtype seq : Nat) (flags : Byte) :
    (linkFrame s p subtype seq flags).cls.toNat = 1 := rfl

theorem transmit_out (s : State) (p : Fin 12) (x : Queued) : (transmit s p x).out.length = s.out.length + 1 := by
  simp [transmit]

/-- A link-control frame that is to leave at once does so while the port holds a credit. -/
theorem transmitNow_linkFrame_out (s : State) (p : Fin 12) (subtype seq : Nat) (flags : Byte) :
    (transmitNow s p (linkFrame s p subtype seq flags)).out.length =
      s.out.length + if 1 ≤ s.fabric.ports[p].credits[1] then 1 else 0 := by
  have held : s.fabric.ports[p].credits.toList.getD 1 0 = s.fabric.ports[p].credits[1] := by
    simp [List.getD_eq_getElem?_getD]
  unfold transmitNow
  rw [linkFrame_units, linkFrame_class, held]
  split
  · exact transmit_out ..
  · rfl

/-! ### Forwarding (R288, R293) -/

section
variable {s : State} {x : Rx}

/-- A frame in order for another module goes on as the link layer leaves the state. -/
theorem arrive_forwards {typ : Nat} (h : InOrder s x typ) (up : s.power.mode ≠ .bench) (assigned : s.fabric.rcd.node ≠ 0xFFFF#16)
    (data : typ ≠ 0x0F) (other : x.f.dst ≠ s.fabric.rcd.node) (k : State → Kft → State) :
    arrive s x typ k = forward (received s x) x := by
  obtain ⟨type, cls, ⟨size, fcs, udp, crc, pool⟩, open_, next⟩ := h
  have taken : linkReceive s x = ((linkReceive s x).1, true) :=
    Prod.ext rfl (linkReceive_ok s x size fcs udp crc pool open_ next)
  have owed : oweCredits (linkReceive s x).1 x.port x.f = received s x := rfl
  unfold arrive
  rw [if_neg (by simp [type]), taken]
  dsimp only
  rw [if_neg (by simp), owed, if_neg (by simp [knownFrame, type, cls]), if_neg (by simp [up]), if_neg (by simp [assigned]),
    if_neg (by simp [data, other])]

/-- The command that takes frames in transit. -/
theorem frameTransit_forwards (h : InOrder s x x.f.typ.toNat) (disc : x.f.typ ≠ 0x0E) (control : x.f.typ ≠ 0x0F)
    (up : s.power.mode ≠ .bench) (assigned : s.fabric.rcd.node ≠ 0xFFFF#16) (other : x.f.dst ≠ s.fabric.rcd.node) :
    exec (.frameTransit x) s = .next (forward (received s x) x) := by
  have data : x.f.typ.toNat ≠ 0x0F := fun e => control (BitVec.eq_of_toNat_eq e)
  change execFrameTransit x s = _
  unfold execFrameTransit
  rw [if_neg fun h => h.elim (fun here => other here.1) (·.elim disc control), arrive_forwards h up assigned data other]

/-- A frame with a way on leaves on it, one hop less, and marked where it joins a deep queue. -/
theorem forward_enqueues {e : Fin 12} (hops : x.f.hops ≠ 0) (way : egress s x.f.dst.toNat = some e) (on : e ≠ x.port) :
    forward s x = enqueue s e { x.f with
      hops := x.f.hops - 1, flags := x.f.flags &&& 0x04#8, credit := 0, grant := 0
      ce := decide (2 ≤ x.f.cls.toNat) &&
        decide (s.fabric.ports[e].rcd.ceKib * 1024 < queueBytes s.fabric.ports[e] x.f.cls.toNat) } := by
  unfold forward
  dsimp only
  rw [if_neg hops, way]
  exact if_neg on

/-- Without hops left or a way on, a request is answered with status 3. -/
theorem forward_refuses (request : isRequest s x.f = true)
    (lost : x.f.hops = 0 ∨ egress s x.f.dst.toNat = none ∨ egress s x.f.dst.toNat = some x.port) :
    forward s x = refuseRequest s x.f 3 := by
  unfold forward
  dsimp only
  rw [if_pos request, if_pos request]
  rcases lost with none | none | back
  · exact if_pos none
  · rw [none, ite_self]
  · rw [back]
    dsimp only
    rw [if_pos rfl, ite_self]

/-- Any other frame is discarded and counted: its hops are used up, or it has no way on. -/
theorem forward_discards (other : isRequest s x.f = false) :
    (x.f.hops = 0 → forward s x = discard s x.port.val 5 1) ∧
      (x.f.hops ≠ 0 → (egress s x.f.dst.toNat = none ∨ egress s x.f.dst.toNat = some x.port) →
        forward s x = discard s x.port.val 6 1) := by
  have data : ¬isRequest s x.f = true := by simp [other]
  unfold forward
  dsimp only
  rw [if_neg data, if_neg data]
  refine ⟨fun last => if_pos last, fun left lost => ?_⟩
  rw [if_neg left]
  rcases lost with none | back
  · rw [none]
  · rw [back]
    exact if_pos rfl

/-- What asks for an answer, where it comes from another module (R278, R293). -/
theorem isRequest_foreign {f : Kft} (foreign : f.src ≠ s.fabric.rcd.node)
    (asks : f.typ = 1 ∨ f.typ = 3 ∨ f.typ = 5 ∨ f.typ = 8 ∨ f.typ = 9) : isRequest s f = true := by
  rcases asks with e | e | e | e | e
  all_goals simp [isRequest, e, foreign]

/-- The answer to another module's request (R278, R293). -/
theorem refuseRequest_answers {f : Kft} (foreign : f.src ≠ s.fabric.rcd.node) (request : f.typ = 1 ∨ f.typ = 3 ∨ f.typ = 5)
    (status : Nat) : refuseRequest s f status =
      sendFrame s (mkFrame s (f.typ.toNat + 1) f.src.toNat status 0 f.tid.toNat f.arg []) := by
  unfold refuseRequest
  dsimp only
  rw [if_neg foreign]
  refine if_pos ?_
  rcases request with e | e | e
  all_goals
    rw [e]
    decide

/-- Bulk data and bulk reads are answered with a bulk ack. -/
theorem refuseRequest_acks {f : Kft} (foreign : f.src ≠ s.fabric.rcd.node) (bulk : f.typ = 8 ∨ f.typ = 9) (status : Nat) :
    refuseRequest s f status = sendFrame s (mkFrame s 0x0A f.src.toNat status 0 f.tid.toNat f.arg []) := by
  unfold refuseRequest
  dsimp only
  rw [if_neg foreign]
  rcases bulk with e | e
  all_goals
    rw [e]
    rfl

end

/-- A link-control frame of a command's subtype is delivered; the command takes no other. -/
theorem control_runs {s : State} {x : Rx} {subtype : Nat} (h : InOrder s x 0x0F) (mine : lcSubtype x.f = subtype)
    (k : State → Kft → State) :
    (if lcSubtype x.f ≠ subtype then .next s else .next (arrive s x 0x0F k) : Host.Outcome State Fault Refusal) =
      .next (k (received s x) x.f) := by
  rw [if_neg (not_not_intro mine), control_delivers h]

/-- Settles O56: a link-control frame acts once the link layer has taken it; a frame of another module takes its way on, or is
refused or discarded. -/
theorem linkLayer : Obligations.LinkLayer := by
  refine ⟨fun _ _ h ack => control_runs h ack _, takeAck_retry, fun _ _ h nak => control_runs h nak _, ?_,
    fun _ _ h grant => control_runs h grant _, ?_, fun _ _ h confirm => control_runs h confirm _, ?_, ?_, ?_⟩
  · intro s x c h grant valid cls
    refine ⟨_, control_runs h grant _, rfl, ?_⟩
    rw [received_credits h, if_pos valid]
    simp [cls]
  · intro s x h request
    refine ⟨_, control_runs h request _, ?_, ?_⟩
    · rw [updPort_port]
    · rw [updPort_out, transmitNow_linkFrame_out]
  · intro s x e h disc control up assigned other hops way on
    refine ⟨_, (frameTransit_forwards h disc control up assigned other).trans (congrArg _ (forward_enqueues hops way on)),
      rfl, rfl, rfl, rfl, rfl, rfl, ?_⟩
    rw [(received_linked s x).rcd e]
    simp
  · intro s x h disc control up assigned other data
    rw [frameTransit_forwards h disc control up assigned other]
    obtain ⟨last, lost⟩ := forward_discards data
    exact ⟨fun none => congrArg _ (last none), fun left gone => congrArg _ (lost left gone)⟩
  · intro s x h disc control up assigned other foreign lost
    rw [frameTransit_forwards h disc control up assigned other]
    rw [← received_rcd s x] at foreign
    refine ⟨fun request => congrArg _ ?_, fun bulk => congrArg _ ?_⟩
    · rw [forward_refuses (isRequest_foreign foreign (request.imp_right (·.imp_right .inl))) lost,
        refuseRequest_answers foreign request]
    · rw [forward_refuses (isRequest_foreign foreign (.inr (.inr (.inr bulk)))) lost, refuseRequest_acks foreign bulk]

end Sys2Proof.Machine
end

section
/-! A port that does not spend the credits of the class whose queue it takes a frame from: `transmit` spends those of the frame's
own class (R287), and nothing in the state bars a class queue from a frame of another class. -/

namespace Sys2Proof.Machine

open Sys2Proof

/-- A link-control frame, of class 1 (R283), stands at the head of class 0's queue of a port that is up, with credits to send. -/
def misfiled : State :=
  { State.reset with fabric := { State.reset.fabric with
      ports := State.reset.fabric.ports.set 0 { State.reset.fabric.ports[0] with
        link := .up
        queues := (Vector.replicate 6 []).set 0 [{ f := linkFrame State.reset 0 0 0 0, rcd := State.reset.fabric.ports[0].rcd }] } } }

/-- Class 0 leaves next. -/
theorem misfiled_next : nextClass misfiled 0 = some (0, #v[0, 0, 0, 0]) := by
  decide +kernel

/-- The credits of a class that a command leaves port 0. -/
def creditsLeft (cls : Fin 6) (o : Host.Outcome State Fault Refusal) : Nat :=
  match o with
  | .next t => t.fabric.ports[(0 : Fin 12)].credits[cls]
  | _ => 0

/-- The frame's one credit is spent in class 1, and none in class 0. -/
theorem misfiled_credits : misfiled.fabric.ports[(0 : Fin 12)].credits[(0 : Fin 6)] = 1024 ∧
    creditsLeft 0 (exec (.frameSend 0) misfiled) = 1024 ∧ creditsLeft 1 (exec (.frameSend 0) misfiled) = 1023 := by
  decide +kernel

/-- Refutes O57: at its first clause, the state above sends the head of class 0's queue and keeps class 0's credits. -/
theorem not_portsAndLanes : ¬ Obligations.PortsAndLanes := by
  unfold Obligations.PortsAndLanes
  rintro ⟨sends, -⟩
  obtain ⟨t, sent, -, -, -, -, -, credits, -⟩ :=
    sends misfiled 0 0 #v[0, 0, 0, 0] { f := linkFrame State.reset 0 0 0 0, rcd := State.reset.fabric.ports[0].rcd } [] rfl
      misfiled_next rfl
  obtain ⟨before, kept, -⟩ := misfiled_credits
  rw [sent] at kept
  have spent := (credits 0).symm.trans kept
  rw [if_pos (show ((0 : Fin 6) : Nat) = 0 from rfl), linkFrame_units, before] at spent
  exact absurd spent (by decide)

end Sys2Proof.Machine
end

section
/-! Discovery, LLDP, ARP, neighbour discovery, echo, PAUSE, other frames and IEEE 1588; the idle step. -/

namespace Sys2Proof.Machine

open Sys2Proof

/-- With no command waiting a step is idle (log 20). -/
theorem step_empty {s : State} (empty : s.pending = []) : step s = .next (Machine.idle s) := by
  unfold step
  rw [empty]

/-- Settles O2, by the equation of a step on an empty queue. -/
theorem idleCountsOneNanosecond : Obligations.IdleCountsOneNanosecond := fun _ => step_empty

/-! ### Frames of other protocols, counted (R310) -/

section
variable (s : State) (p : Fin 12)

@[simp] theorem otherIn_fabric : (otherIn s p).fabric = s.fabric := by
  unfold otherIn
  split
  · exact bump_fabric ..
  · rfl

@[simp] theorem otherIn_power : (otherIn s p).power = s.power := by
  unfold otherIn
  split
  · exact bump_power ..
  · rfl

@[simp] theorem otherIn_timebase : (otherIn s p).timebase = s.timebase := by
  unfold otherIn
  split
  · exact bump_timebase ..
  · rfl

@[simp] theorem otherOut_fabric (o : Output) : (otherOut s p o).fabric = s.fabric := bump_fabric ..

theorem otherOut_out (o : Output) : (otherOut s p o).out.length = s.out.length + 1 := by
  simp [otherOut]

/-- Who answers does not depend on the counts. -/
theorem answers_otherIn (v4 : Bool) : answers (otherIn s p) p v4 = answers s p v4 := by
  unfold answers
  rw [otherIn_fabric, otherIn_power]

theorem answers_iff (v4 : Bool) : answers s p v4 = true ↔ s.fabric.ports[p].link = .up ∧
    s.fabric.ports[p].rcd.flags.getLsbD 1 = v4 ∧ s.fabric.rcd.node ≠ 0xFFFF#16 ∧ s.power.mode ≠ .bench := by
  simp [answers, and_assoc]

theorem isTimeParent_otherIn : isTimeParent (otherIn s p) p = isTimeParent s p := by
  unfold isTimeParent
  rw [otherIn_fabric]

end

/-- A fold over ports whose steps send `n p` frames on each sends their sum, and leaves the fabric. -/
theorem foldl_sends {s : State} (f : State → Fin 12 → State) (n : Fin 12 → Nat)
    (sends : ∀ t p, t.fabric = s.fabric → (f t p).fabric = s.fabric ∧ (f t p).out.length = t.out.length + n p) :
    ∀ (l : List (Fin 12)) (t : State), t.fabric = s.fabric →
      (l.foldl f t).fabric = s.fabric ∧ (l.foldl f t).out.length = t.out.length + (l.map n).sum
  | [], t, same => ⟨same, rfl⟩
  | p :: l, t, same => by
    obtain ⟨fabric, out⟩ := sends t p same
    obtain ⟨fabric', out'⟩ := foldl_sends f n sends l (f t p) fabric
    refine ⟨fabric', out'.trans ?_⟩
    rw [out, List.map_cons, List.sum_cons, Nat.add_assoc]

/-- Elements counted one by one. -/
theorem length_filter_eq_sum {α : Type} (P : α → Bool) : ∀ l : List α,
    (l.filter P).length = (l.map fun a => if P a then 1 else 0).sum
  | [] => rfl
  | a :: l => by
    rw [List.filter_cons, List.map_cons, List.sum_cons, ← length_filter_eq_sum P l]
    split
    · rw [List.length_cons, Nat.add_comm]
    · rw [Nat.zero_add]

/-- The ports in their order. -/
theorem ports_toList (v : Vector Port 12) : v.toList = (List.finRange 12).map fun p => v[p] := by
  apply List.ext_getElem
  · simp
  · intro i _ _
    simp

/-! ### Discovery and LLDP (R294) -/

/-- A discovery frame that passes its checks is recorded with the time of its arrival. -/
theorem discoveryFrame_recorded {s : State} {x : Rx} (up : s.fabric.ports[x.port].link = .up) (typ : x.f.typ = 0x0E)
    (cls : x.f.cls = 1) (fcs : x.fcsOk = true) (udp : x.udpOk = true) (crc : x.crcOk = true) :
    ∃ t, exec (.discoveryFrame x) s = .next t ∧ t.fabric.ports[x.port].discovery = padTo 64 x.f.payload ∧
      t.fabric.ports[x.port].discoveryAt = s.timebase := by
  have known : knownFrame x.f = true := by
    unfold knownFrame
    rw [typ, cls]
    rfl
  have when_ : (countFrame s x).timebase = s.timebase := (congrArg State.timebase (countFrame_linked s x).rest :)
  change ∃ t, execDiscoveryFrame x s = _ ∧ _
  unfold execDiscoveryFrame
  dsimp only
  rw [if_neg (not_or.2 ⟨not_not_intro up, not_not_intro typ⟩), fcs, udp, crc, known]
  simp only [Bool.not_true, Bool.false_eq_true, if_false]
  split
  · refine ⟨_, rfl, ?_, ?_⟩
    · rw [updPort_port]
    · rw [updPort_port, when_]
  · refine ⟨_, rfl, ?_, ?_⟩
    · rw [(post_posts ..).portField (g := Port.discovery) (fun _ _ => rfl), updPort_port]
    · rw [(post_posts ..).portField (g := Port.discoveryAt) (fun _ _ => rfl), updPort_port, when_]

theorem discoveryFrame_badChecksum {s : State} {x : Rx} (up : s.fabric.ports[x.port].link = .up) (typ : x.f.typ = 0x0E)
    (fcs : x.fcsOk = true) (udp : x.udpOk = false) :
    exec (.discoveryFrame x) s = .next (discard (countFrame s x) x.port.val 1 1) := by
  change execDiscoveryFrame x s = _
  unfold execDiscoveryFrame
  dsimp only
  rw [if_neg (not_or.2 ⟨not_not_intro up, not_not_intro typ⟩), fcs, udp]
  rfl

theorem lldpFrame_recorded {s : State} {p : Fin 12} (up : s.fabric.ports[p].link = .up) (chassis : List Byte) (portId : Byte) :
    exec (.lldpFrame p chassis portId) s =
      .next (setPort (otherIn s p) p { s.fabric.ports[p] with lldpChassis := chassis, lldpPort := portId }) := by
  refine (if_pos up).trans ?_
  unfold updPort
  rw [otherIn_fabric]

/-- Each enabled port that is up sends an LLDP frame. -/
theorem lldpInterval_sends (s : State) : ∃ t, exec .lldpInterval s = .next t ∧ t.fabric = s.fabric ∧ t.out.length =
    s.out.length + (s.fabric.ports.toList.filter fun q => enabled q && q.link == .up).length := by
  rw [length_filter_eq_sum, ports_toList, List.map_map]
  refine ⟨_, rfl, foldl_sends _ _ (fun t p same => ?_) _ s rfl⟩
  dsimp only [Function.comp]
  rw [same]
  split
  · next on =>
    rw [if_pos (by simpa using on)]
    exact ⟨(otherOut_fabric ..).trans same, otherOut_out ..⟩
  · next off =>
    rw [if_neg (by simpa using off)]
    exact ⟨same, rfl⟩

/-! ### Addresses and echo (R281, R291, R459) -/

section
variable {s : State} {p : Fin 12}

/-- A request that names a port's own address is answered where the port answers, and is else a frame that nobody takes. -/
theorem own_answered {α : Type} [DecidableEq α] {own : α} {v4 : Bool} (yes : answers s p v4 = true) (o : Output) :
    (if answers (otherIn s p) p v4 = true ∧ own = own then .next (otherOut (otherIn s p) p o)
      else .next (notKft (otherIn s p) p) : Host.Outcome State Fault Refusal) = .next (otherOut (otherIn s p) p o) :=
  if_pos ⟨(answers_otherIn ..).trans yes, rfl⟩

theorem other_unanswered {α : Type} [DecidableEq α] {own target : α} {v4 : Bool}
    (no : answers s p v4 = false ∨ target ≠ own) (o : Output) :
    (if answers (otherIn s p) p v4 = true ∧ own = target then .next (otherOut (otherIn s p) p o)
      else .next (notKft (otherIn s p) p) : Host.Outcome State Fault Refusal) = .next (notKft (otherIn s p) p) := by
  rw [answers_otherIn]
  refine if_neg fun ⟨yes, mine⟩ => no.elim (fun h => ?_) fun h => h mine.symm
  rw [h] at yes
  exact nomatch yes

end

/-! ### IEEE 1588 (R303, R304) -/

section
variable {s : State} {p : Fin 12}

theorem ptpSync_stamps (parent : isTimeParent s p = true) (up : s.fabric.ports[p].link = .up) (sequence : Word16) (rx : Nat) :
    exec (.ptpSync p sequence rx) s =
      .next (updPtp (otherIn s p) fun t => { t with sequence := sequence, t2 := rx }) :=
  if_pos ⟨(isTimeParent_otherIn ..).trans parent, by rwa [otherIn_fabric]⟩

/-- The correction of the timebase is half the offset, which is in units of 0.5 ns. -/
theorem settleTime_corrects (s : State) :
    (settleTime s).fabric.ptp.offset = (s.fabric.ptp.t2 : Int) - s.fabric.ptp.t1 - s.fabric.ptp.delay ∧
      (settleTime s).timebase =
        ((s.timebase : Int) - ((s.fabric.ptp.t2 : Int) - s.fabric.ptp.t1 - s.fabric.ptp.delay) / 2).toNat := by
  unfold settleTime
  dsimp only
  split
  · refine ⟨?_, ?_⟩
    · rw [post_ptp]
      rfl
    · rw [post_timebase]
      rfl
  · exact ⟨rfl, rfl⟩

theorem ptpFollowUp_corrects (parent : isTimeParent s p = true) (up : s.fabric.ports[p].link = .up) (origin : Nat) :
    ∃ t, exec (.ptpFollowUp p s.fabric.ptp.sequence origin) s = .next t ∧
      t.fabric.ptp.offset = (s.fabric.ptp.t2 : Int) - origin - s.fabric.ptp.delay ∧
      t.timebase = ((s.timebase : Int) - ((s.fabric.ptp.t2 : Int) - origin - s.fabric.ptp.delay) / 2).toNat := by
  have mine : isTimeParent (otherIn s p) p = true ∧ (otherIn s p).fabric.ports[p].link = .up ∧
      (otherIn s p).fabric.ptp.sequence = s.fabric.ptp.sequence := by
    rw [isTimeParent_otherIn, otherIn_fabric]
    exact ⟨parent, up, rfl⟩
  have corrected := settleTime_corrects (updPtp (otherIn s p) fun t => { t with t1 := origin })
  refine ⟨_, if_pos mine, ?_⟩
  simpa [updPtp] using corrected

theorem ptpDelayReq_answered (server : isTimeParent s p = false) (on : enabled s.fabric.ports[p] = true)
    (up : s.fabric.ports[p].link = .up) (assigned : s.fabric.rcd.node ≠ 0xFFFF#16) (sequence : Word16) (rx : Nat) :
    exec (.ptpDelayReq p sequence rx) s = .next (otherOut (otherIn s p) p
      (.ptpDelayResp p (s.fabric.ports[p].rcd.flags.getLsbD 1) sequence rx)) := by
  change execPtpDelayReq p sequence rx s = _
  unfold execPtpDelayReq
  dsimp only
  rw [isTimeParent_otherIn, otherIn_fabric]
  exact if_pos ⟨by simp [server], on, up, assigned⟩

theorem ptpDelayResp_estimates (parent : isTimeParent s p = true) (up : s.fabric.ports[p].link = .up) (rx : Nat) :
    exec (.ptpDelayResp p s.fabric.ptp.reqSeq rx) s = .next (updPtp (otherIn s p) fun t => { t with delay :=
      (((t.t2 : Int) - t.t1) + ((rx : Int) - t.t3)) / 2 }) := by
  change execPtpDelayResp p s.fabric.ptp.reqSeq rx s = _
  unfold execPtpDelayResp
  dsimp only
  rw [isTimeParent_otherIn, otherIn_fabric]
  exact if_pos ⟨parent, up, rfl⟩

end

/-- Frames that a port in use sends at a sync interval: a Delay_Req toward the time parent, else a Sync and its Follow_Up. -/
def syncFrames (s : State) (p : Fin 12) : Nat :=
  if enabled s.fabric.ports[p] = true ∧ s.fabric.ports[p].link = .up then (if isTimeParent s p then 1 else 2) else 0

/-- The state in which they leave: the sequence number has advanced, and the Delay_Req is timed. -/
def syncDue (s : State) : State :=
  updPtp s fun t => { t with reqSeq := s.fabric.ptp.reqSeq + 1, t3 := 2 * s.timebase }

theorem ptpSyncInterval_sends {s : State} (assigned : s.fabric.rcd.node ≠ 0xFFFF#16) :
    ∃ t, exec .ptpSyncInterval s = .next t ∧ t.fabric = (syncDue s).fabric ∧
      t.out.length = s.out.length + ((List.finRange 12).map (syncFrames s)).sum := by
  refine ⟨_, if_neg assigned, foldl_sends (s := syncDue s) _ (syncFrames s) (fun t p same => ?_) _ _ rfl⟩
  have parent : isTimeParent t p = isTimeParent s p := by
    unfold isTimeParent
    rw [same]
    rfl
  have port : t.fabric.ports[p] = s.fabric.ports[p] := by
    rw [same]
    rfl
  dsimp only
  unfold syncFrames
  rw [port, parent]
  split
  · split
    · exact ⟨(otherOut_fabric ..).trans same, otherOut_out ..⟩
    · refine ⟨(otherOut_fabric ..).trans ((otherOut_fabric ..).trans same), ?_⟩
      rw [otherOut_out, otherOut_out]
  · exact ⟨same, rfl⟩

/-- Settles O58: what each frame and each interval does, protocol by protocol. -/
theorem otherProtocols : Obligations.OtherProtocols := by
  refine ⟨fun _ _ => discoveryFrame_recorded, fun _ _ => discoveryFrame_badChecksum, fun _ _ on up => if_pos ⟨on, up⟩,
    fun _ _ _ _ up => lldpFrame_recorded up .., lldpInterval_sends, answers_iff,
    fun _ _ _ _ yes => ⟨own_answered yes _, own_answered yes _⟩, fun _ _ _ _ yes => ⟨own_answered yes _, own_answered yes _⟩,
    fun _ _ _ _ _ no => ⟨other_unanswered no _, other_unanswered no _⟩,
    fun _ _ _ _ _ no => ⟨other_unanswered no _, other_unanswered no _⟩, ?_,
    fun _ _ _ _ parent up => ptpSync_stamps parent up .., fun _ _ _ parent up => ptpFollowUp_corrects parent up _,
    fun _ _ _ _ server on up assigned => ptpDelayReq_answered server on up assigned ..,
    fun _ _ _ parent up => ptpDelayResp_estimates parent up _, ?_⟩
  · intro s p up
    refine ⟨if_pos up, congrArg _ ((if_pos ?_).trans ?_)⟩
    · rwa [otherIn_fabric]
    · rw [otherIn_power]
  · intro s assigned
    obtain ⟨t, sent, fabric, out⟩ := ptpSyncInterval_sends assigned
    refine ⟨t, sent, ?_, ?_, out⟩
    · rw [fabric]
      rfl
    · rw [fabric]
      rfl

end Sys2Proof.Machine
end

section
/-! Responses and bulk acks that come back, and requests that time out. -/

namespace Sys2Proof.Machine

open Sys2Proof

/-! ### SUPPORT. Accesses that fail (R300, R361, R370) -/

/-- Without a squad no module goes out of reach (R396). -/
theorem memberUnreachable_noSquad {s : State} (alone : s.mbox.squad = []) (node : Word16) : memberUnreachable s node = s :=
  memberUnreachable_same fun h => by simp [alone] at h

/-- So it is whatever the status that an access ends with. -/
theorem unreachable_noSquad {s : State} (alone : s.mbox.squad = []) {status : Nat} {node : Word16} :
    (if status = 3 ∨ status = 6 then memberUnreachable s node else s) = s := by
  rw [memberUnreachable_noSquad alone, ite_self]

theorem accessFailed_squad (s : State) (w : Who) (status addr : Nat) :
    (accessFailed s w status addr).mbox.squad = s.mbox.squad := by
  unfold accessFailed
  dsimp only
  split
  · exact post_squad ..
  · exact post_squad ..

section
variable (s : State) (win cause addr : Nat)

theorem windowError_squad : (windowError s win cause addr).mbox.squad = s.mbox.squad := by
  unfold windowError
  split
  · rfl
  · exact post_squad ..

theorem windowError_mem : (windowError s win cause addr).mem = s.mem := by
  unfold windowError
  split
  · rfl
  · exact post_mem ..

/-- The first failed access since ERR was clear is recorded. -/
theorem windowError_records {s : State} (clear : s.mbox.winErr = false) (win cause addr : Nat) :
    (windowError s win cause addr).mbox.winErr = true ∧
      (windowError s win cause addr).mbox.winCause = BitVec.ofNat 3 cause ∧
      (windowError s win cause addr).mbox.winErrAddr = BitVec.ofNat 64 addr := by
  unfold windowError
  rw [if_neg (by simp [clear])]
  exact ⟨post_winErr .., post_winCause .., post_winErrAddr ..⟩

end

/-! ### The only outstanding request (R298, R300, R370) -/

/-- No request of this module is outstanding. -/
def noTxns (s : State) : State := { s with fabric := { s.fabric with txns := [] } }

section
variable {s : State} {t : Txn} {w : Who} {win n : Nat} {status : Nat}

/-- It is struck off. -/
theorem filter_tid_ne (t : Txn) : [t].filter (·.tid != t.tid) = [] := by simp

theorem finishTxn_hostRead (only : s.fabric.txns = [t]) (owner : t.owner = .hostRead win n) (data : List Byte) :
    finishTxn s t 0 data = emit (noTxns s) (.readData data) := by
  unfold finishTxn
  rw [owner, only, filter_tid_ne]
  rfl

theorem finishTxn_hostRead_fails (only : s.fabric.txns = [t]) (owner : t.owner = .hostRead win n) (alone : s.mbox.squad = [])
    (failed : status ≠ 0) (data : List Byte) : finishTxn s t status data = badRead (noTxns s) win 3 t.addr.toNat n := by
  unfold finishTxn
  rw [owner, only, filter_tid_ne]
  dsimp only
  rw [if_neg failed]
  refine unreachable_noSquad ?_
  exact (windowError_squad ..).trans alone

theorem finishTxn_hostWrite_fails (only : s.fabric.txns = [t]) (owner : t.owner = .hostWrite win) (alone : s.mbox.squad = [])
    (failed : status ≠ 0) (data : List Byte) :
    finishTxn s t status data = windowError (noTxns s) win 3 t.addr.toNat := by
  unfold finishTxn
  rw [owner, only, filter_tid_ne]
  dsimp only
  rw [if_neg failed]
  refine unreachable_noSquad ?_
  exact (windowError_squad ..).trans alone

theorem finishTxn_unit (only : s.fabric.txns = [t]) (owner : t.owner = .unit w) (typ : t.typ ≠ 1) (data : List Byte) :
    finishTxn s t 0 data = lessWaiting (noTxns s) w := by
  unfold finishTxn
  rw [owner, only, filter_tid_ne]
  dsimp only
  rw [if_neg (not_not_intro rfl), if_neg typ, if_neg (by decide)]
  rfl

theorem finishTxn_unit_fails (only : s.fabric.txns = [t]) (owner : t.owner = .unit w) (alone : s.mbox.squad = [])
    (failed : status ≠ 0) (data : List Byte) :
    finishTxn s t status data = accessFailed (noTxns s) w status t.addr.toNat := by
  unfold finishTxn
  rw [owner, only, filter_tid_ne]
  dsimp only
  rw [if_pos failed]
  refine unreachable_noSquad ?_
  exact (accessFailed_squad ..).trans alone

/-! ### Responses -/

/-- A response of the type that the only request awaits completes it. -/
theorem takeResponse_only {f : Kft} (only : s.fabric.txns = [t]) (tid : t.tid = f.tid) (typ : t.typ + 1 = f.typ.toNat)
    (p : Fin 12) : takeResponse s p f = finishTxn s t f.status.toNat f.payload := by
  unfold takeResponse
  rw [only]
  simp [tid, typ]

/-- A response to no request is late, and counted. -/
theorem takeResponse_late (none : s.fabric.txns = []) (p : Fin 12) (f : Kft) :
    takeResponse s p f = bump s 0x0B0E p.val noTensor 1 := by
  unfold takeResponse
  rw [none]
  rfl

end

section
variable {s : State} {x : Rx} {t : Txn} {typ : Nat}

/-- The only request is answered by a frame that arrives. -/
theorem arrive_response (h : Arrives s x typ) (only : s.fabric.txns = [t]) (tid : t.tid = x.f.tid) (asked : t.typ + 1 = typ) :
    arrive s x typ (fun s f => takeResponse s x.port f) = finishTxn (received s x) t x.f.status.toNat x.f.payload := by
  have type : x.f.typ.toNat = typ := h.1.1
  rw [arrive_delivers h, takeResponse_only ((received_txns s x).trans only) tid (asked.trans type.symm)]

/-- Who wrote or asked for an atomic no longer waits where that succeeds. -/
theorem arrive_unitResponse {w : Who} (h : Arrives s x typ) (only : s.fabric.txns = [t]) (tid : t.tid = x.f.tid)
    (asked : t.typ + 1 = typ) (noRead : t.typ ≠ 1) (owner : t.owner = .unit w) (sound : x.f.status = 0) :
    arrive s x typ (fun s f => takeResponse s x.port f) = lessWaiting (noTxns (received s x)) w := by
  rw [arrive_response h only tid asked, sound]
  exact finishTxn_unit ((received_txns s x).trans only) owner noRead _

theorem arrive_lateResponse (h : Arrives s x typ) (none : s.fabric.txns = []) :
    arrive s x typ (fun s f => takeResponse s x.port f) = bump (received s x) 0x0B0E x.port.val noTensor 1 := by
  rw [arrive_delivers h, takeResponse_late ((received_txns s x).trans none)]

/-- A read response is for its issuer alone, where that is the host. -/
theorem readResponse_host {win n : Nat} (h : Arrives s x 0x02) (only : s.fabric.txns = [t]) (tid : t.tid = x.f.tid)
    (asked : t.typ = 1) (owner : t.owner = .hostRead win n) :
    exec (.readResponse x) s = .next (finishTxn (received s x) t x.f.status.toNat x.f.payload) := by
  have answer := (arrive_delivers h fun s f => takeResponse s x.port f).symm.trans
    (arrive_response h only tid (by rw [asked]))
  refine congrArg _ ((arrive_delivers h _).trans ?_)
  dsimp only
  rw [answer, received_txns, only]
  simp [tid, asked, owner]

theorem readResponse_late (h : Arrives s x 0x02) (none : s.fabric.txns = []) :
    exec (.readResponse x) s = .next (bump (received s x) 0x0B0E x.port.val noTensor 1) := by
  refine congrArg _ ((arrive_delivers h _).trans ?_)
  dsimp only
  rw [takeResponse_late ((received_txns s x).trans none), received_txns, none]
  rfl

end

/-! ### Bulk transfers (R301, R387) -/

/-- No bulk transfer is under way. -/
def noBulks (s : State) : State := { s with fabric := { s.fabric with bulks := [] } }

section
variable {s : State} {b : Bulk} {c : Cmd} {w : Who} {status : Nat}

theorem dropBulk_only (only : s.fabric.bulks = [b]) : dropBulk s b = noBulks s := by
  unfold dropBulk
  rw [only]
  simp [sameBulk, noBulks]

/-- A unit's transfer that fails is dropped; what a bulk read still brings is late. -/
theorem failBulk_unit (only : s.fabric.bulks = [b]) (owner : b.owner = .unit w) (own : b.served = false)
    (alone : s.mbox.squad = []) (delivered : status ≠ 3) : failBulk s b status = accessFailed
      { s with fabric := { s.fabric with
        bulks := [], lateReads := s.fabric.lateReads ++ (if b.inward then [(b.node, b.tid)] else []) } } w status
      (if b.inward then b.src.toNat else b.dst.toNat) := by
  unfold failBulk
  rw [dropBulk_only only, owner, own]
  cases inward : b.inward
  · simp [noBulks, memberUnreachable_noSquad, accessFailed_squad, alone]
  · simp [noBulks, memberUnreachable_noSquad, accessFailed_squad, alone, delivered]

/-- A DMA whose transfer out fails completes with the status of its access. -/
theorem failBulk_dma (only : s.fabric.bulks = [b]) (owner : b.owner = .dma c) (out : b.inward = false)
    (alone : s.mbox.squad = []) : failBulk s b status =
      done (noBulks s) c (if status = 3 ∨ status = 6 then 0x09 else 0x07) := by
  unfold failBulk
  rw [dropBulk_only only, owner, out]
  dsimp only
  refine unreachable_noSquad ?_
  exact (done_squad ..).trans alone

/-- The statuses of a module out of reach, as a frame carries them (R298). -/
theorem outOfReach_iff (status : Byte) : status.toNat = 3 ∨ status.toNat = 6 ↔ status = 3 ∨ status = 6 := by
  have named : ∀ b : Byte, status.toNat = b.toNat ↔ status = b := fun b => BitVec.toNat_inj
  exact or_congr (named 3) (named 6)

/-- The last transfer of a DMA completes it. -/
theorem finishBulk_dma (only : s.fabric.bulks = [b]) (owner : b.owner = .dma c) (whole : b.rest = 0) :
    finishBulk s b = done (noBulks s) c 0 := by
  unfold finishBulk
  rw [dropBulk_only only, owner]
  dsimp only
  rw [if_neg (by simp [whole])]
  rfl

/-- A bulk ack of the only transfer, an outward one, ends it, completes it or advances it. -/
theorem bulkAck_only {x : Rx} (h : Arrives s x 0x0A) (only : s.fabric.bulks = [b]) (tid : b.tid = x.f.tid)
    (node : b.node = x.f.src) (out : b.inward = false) : exec (.bulkAck x) s = .next (
      if x.f.status ≠ 0 then failBulk (received s x) b x.f.status.toNat
      else if b.len ≤ x.f.arg.toNat + 1 - b.dst.toNat then finishBulk (received s x) b
      else { received s x with fabric := { (received s x).fabric with
        bulks := (received s x).fabric.bulks.map fun y =>
          if sameBulk b y then { y with acked := x.f.arg.toNat + 1 - b.dst.toNat } else y } }) := by
  have mine : [b].filter (acksBulk x.f) = [b] := by simp [acksBulk, tid, node, out]
  refine congrArg _ ((arrive_delivers h _).trans ?_)
  rw [received_bulks, only, mine]
  dsimp only
  rw [List.find?_cons]
  generalize (decide (b.dst.toNat ≤ x.f.arg.toNat) && decide (x.f.arg.toNat < b.dst.toNat + b.len)) = here
  cases here
  · rfl
  · rfl

theorem bulkAck_late {x : Rx} (h : Arrives s x 0x0A) (none : s.fabric.bulks = []) :
    exec (.bulkAck x) s = .next (bump (received s x) 0x0B0E x.port.val noTensor 1) := by
  refine congrArg _ ((arrive_delivers h _).trans ?_)
  rw [received_bulks, none]
  rfl

end

/-- Settles O55: a response or an ack completes what awaits it, a late one is counted, and a timeout is a failed access. -/
theorem responses : Obligations.Responses := by
  refine ⟨?_, fun _ _ => readResponse_late, ?_, fun _ _ h none => congrArg _ (arrive_lateResponse h none), ?_,
    fun _ _ h none => congrArg _ (arrive_lateResponse h none), ?_, ?_, ?_, ?_, fun _ _ => bulkAck_late⟩
  · intro s x t win n h only tid asked owner sound
    rw [readResponse_host h only tid asked owner, sound]
    exact congrArg _ (finishTxn_hostRead ((received_txns s x).trans only) owner _)
  · intro s x t w h only tid asked owner sound
    exact congrArg _ (arrive_unitResponse h only tid (by rw [asked]) (by rw [asked]; decide) owner sound)
  · intro s x t w h only tid asked owner sound
    exact congrArg _ (arrive_unitResponse h only tid (by rw [asked]) (by rw [asked]; decide) owner sound)
  · intro s t w only owner alone
    change execResponseTimeout t.tid s = _
    unfold execResponseTimeout
    rw [only, List.find?_cons_of_pos (by simp)]
    exact congrArg _ (finishTxn_unit_fails only owner alone (by decide) [])
  · intro s b w none only own owner alone
    change execResponseTimeout b.tid s = _
    unfold execResponseTimeout
    rw [none, only, List.find?_cons_of_pos (by simp [own])]
    exact congrArg _ (failBulk_unit only owner own alone (by decide))
  · intro s x b c h only tid node out whole owner sound all
    rw [bulkAck_only h only tid node out, if_neg (not_not_intro sound), if_pos all,
      finishBulk_dma ((received_bulks s x).trans only) owner whole]
    rfl
  · intro s x b c h only tid node out owner failed alone
    rw [bulkAck_only h only tid node out, if_pos failed,
      failBulk_dma ((received_bulks s x).trans only) owner out (by rwa [received_mbox]), if_congr (outOfReach_iff _) rfl rfl]
    rfl

end Sys2Proof.Machine
end

section
/-! BAR2 accesses: this module's memory, other modules', and the window errors of failed ones. -/

namespace Sys2Proof.Machine

open Sys2Proof

/-! ### SUPPORT. Requests of this module (R295, R298) -/

/-- The node of an address is a field of its 64 bits (R11). -/
theorem nodeOf_ofNat (addr : Nat) : nodeOf (BitVec.ofNat 64 addr).toNat = nodeOf addr := by
  unfold nodeOf bitsOf
  rw [BitVec.toNat_ofNat]
  omega

section
variable {s : State} {addr : Nat} {p : Fin 12}

/-- The request that the next transaction id is for. -/
def nextTxn (s : State) (typ : Nat) (p : Fin 12) (addr len : Nat) (o : Owner) : Txn :=
  { tid := s.fabric.nextTid, typ := typ, port := p, node := BitVec.ofNat 16 (nodeOf addr), addr := BitVec.ofNat 64 addr
    len := len, owner := o }

/-- A request queued on its port and registered as outstanding. -/
def requested (s : State) (typ : Nat) (p : Fin 12) (addr len : Nat) (payload : List Byte) (o : Owner) : State :=
  let u := enqueue s p (mkFrame s typ (nodeOf addr) 0 len s.fabric.nextTid.toNat (BitVec.ofNat 64 addr) payload)
  { u with fabric := { u.fabric with
    nextTid := s.fabric.nextTid + 1, txns := s.fabric.txns ++ [nextTxn s typ p addr len o] } }

theorem request_sends (assigned : s.fabric.rcd.node ≠ 0xFFFF#16) (way : egress s (nodeOf addr) = some p) (typ len : Nat)
    (payload : List Byte) (o : Owner) :
    request s typ (BitVec.ofNat 64 addr) len payload o = (0, requested s typ p addr len payload o) := by
  unfold request
  dsimp only
  rw [nodeOf_ofNat, if_neg assigned, way]
  rfl

/-- With no way there it ends with status 3. -/
theorem request_noWay (lost : egress s (nodeOf addr) = none) (typ len : Nat) (payload : List Byte) (o : Owner) :
    request s typ (BitVec.ofNat 64 addr) len payload o = (3, memberUnreachable s (BitVec.ofNat 16 (nodeOf addr))) := by
  unfold request
  dsimp only
  rw [nodeOf_ofNat, lost, ite_self]

theorem memberUnreachable_winErr (s : State) (node : Word16) : (memberUnreachable s node).mbox.winErr = s.mbox.winErr := by
  unfold memberUnreachable
  split
  · refine (post_winErr ..).trans ((foldl_same (·.mbox.winErr) _ (fun t x => ?_) _ _).trans rfl)
    split
    · rfl
    · exact done_winErr ..
  · rfl

theorem memberUnreachable_mem (s : State) (node : Word16) : (memberUnreachable s node).mem = s.mem := by
  obtain ⟨_, cut⟩ := memberUnreachable_severs_some s node
  exact cut.mem

/-- A byte string no longer than a piece is one piece. -/
theorem pieces_one {k : Nat} {data : List Byte} (some : data ≠ []) (fits : data.length ≤ k) (fuel : Nat) :
    pieces k (fuel + 1) 0 data = [(0, data)] := by
  have whole : data.drop k = [] := List.drop_eq_nil_of_le fits
  have none : ∀ f off, pieces k f off [] = [] := fun f off => by
    cases f
    · rfl
    · rfl
  unfold pieces
  rw [if_neg (by simpa using some), whole, none, List.take_of_length_le fits]

end

/-! ### Failed reads (R361, R370) -/

/-- What a failed read returns, and what the first of them records. -/
theorem badRead_records {s : State} (clear : s.mbox.winErr = false) (win cause addr n : Nat) :
    (badRead s win cause addr n).out.getLast? = some (.readData (List.replicate n 0xFF)) ∧
      (badRead s win cause addr n).mbox.winErr = true ∧
      (badRead s win cause addr n).mbox.winCause = BitVec.ofNat 3 cause ∧
      (badRead s win cause addr n).mbox.winErrAddr = BitVec.ofNat 64 addr ∧
      (badRead s win cause addr n).mem = s.mem := by
  obtain ⟨error, why, where_⟩ := windowError_records clear win cause addr
  exact ⟨List.getLast?_concat, error, why, where_, windowError_mem ..⟩

/-! ### Accesses of this module's memory (R324, R351, R368) -/

section
variable {s : State} {off n win addr : Nat} {data : List Byte}

theorem bar2Read_outside (open_ : barsOpen s = true) (place : bar2Place s off n = (win, false, addr)) :
    exec (.bar2Read off n) s = .next (badRead s win 5 addr n) := by
  change execBar2Read off n s = _
  unfold execBar2Read
  rw [place]
  dsimp only
  rw [if_neg (by simp [open_]), if_pos (by decide)]

theorem bar2Read_here (open_ : barsOpen s = true) (place : bar2Place s off n = (win, true, addr))
    (here : isLocal s (nodeOf addr) = true) (memory : spaceOf addr ≠ 8) :
    exec (.bar2Read off n) s = .next (windowRead s s.step win addr n) := by
  change execBar2Read off n s = _
  unfold execBar2Read
  rw [place]
  dsimp only
  rw [if_neg (by simp [open_]), if_neg (by decide), if_pos here, if_neg memory]

theorem bar2Write_here (open_ : barsOpen s = true) (place : bar2Place s off data.length = (win, true, addr))
    (here : isLocal s (nodeOf addr) = true) : exec (.bar2Write off data) s =
      if spaceOf addr = 8 then .next (windowError s win 4 addr)
      else .next (if (writeLocal s (spaceOf addr) (offsetOf addr) data).1 = 0
        then (writeLocal s (spaceOf addr) (offsetOf addr) data).2
        else windowError (writeLocal s (spaceOf addr) (offsetOf addr) data).2 win
          (winCauseOf (writeLocal s (spaceOf addr) (offsetOf addr) data).1) addr) := by
  change execBar2Write off data s = _
  unfold execBar2Write
  dsimp only
  rw [place]
  dsimp only
  rw [if_neg (by simp [open_]), if_neg (by decide), if_pos here]

end

section
variable {s : State} {win addr n : Nat} {b : List Byte}

/-- The state in which a read's data are at hand: reads of space 0x1 have cost what they cost. -/
def charged (s : State) (addr n : Nat) : State := if spaceOf addr = 1 then chargeRead s (offsetOf addr) n else s

theorem windowRead_bytes (got : readLocal s (spaceOf addr) (offsetOf addr) n = .bytes b) (win : Nat) :
    windowRead s s.step win addr n =
      outputWhenVisible (charged s addr n) (spaceOf addr) (offsetOf addr) n win addr (.readData b) := by
  have got : readLocalAt s s.step (spaceOf addr) (offsetOf addr) n = .bytes b := got
  unfold windowRead
  dsimp only
  rw [got]
  rfl

/-- Reads write no stripe. -/
theorem charged_frame (s : State) (addr n : Nat) : (charged s addr n).mem.stripes = s.mem.stripes ∧
    (charged s addr n).mem.acks = s.mem.acks ∧ (charged s addr n).out = s.out := by
  unfold charged
  split
  · obtain ⟨_, _, charge⟩ := chargeRead_eq s (offsetOf addr) n
    rw [charge]
    exact ⟨rfl, rfl, rfl⟩
  · exact ⟨rfl, rfl, rfl⟩

theorem stripesHeld_empty (empty : s.mem.stripes = []) (space off n : Nat) : stripesHeld s space off n = [] := by
  unfold stripesHeld
  rw [empty]
  exact ite_self _

/-- A read that begins in the only stripe of the write buffer waits for it. -/
theorem stripesHeld_only {st : Stripe} {off : Nat} (only : s.mem.stripes = [st]) (some : 0 < n)
    (within : off / 1024 = st.number) : stripesHeld s 1 off n = [st.number] := by
  have last : st.number ≤ (off + n - 1) / 1024 := within ▸ Nat.div_le_div_right (by omega)
  unfold stripesHeld
  rw [only, if_pos ⟨rfl, some⟩]
  simp [within.le, last]

end

/-! ### Accesses of other modules (R295, R298) -/

section
variable {s : State} {off n win addr : Nat} {p : Fin 12} {data : List Byte}

theorem bar2Read_remote (open_ : barsOpen s = true) (place : bar2Place s off n = (win, true, addr))
    (there : isLocal s (nodeOf addr) = false) (one : n ≤ requestMax s (nodeOf addr)) {st : Nat} {t : State}
    (asked : request s 0x01 (BitVec.ofNat 64 addr) n [] (.hostRead win n) = (st, t)) :
    exec (.bar2Read off n) s = .next (if st = 0 then t else badRead t win 3 addr n) := by
  have asks : remoteRead s win addr n = (st, t) := (if_pos one).trans asked
  change execBar2Read off n s = _
  unfold execBar2Read
  rw [place]
  dsimp only
  rw [if_neg (by simp [open_]), if_neg (by decide), if_neg (by simp [there]), asks]

theorem bar2Write_remote (open_ : barsOpen s = true) (place : bar2Place s off data.length = (win, true, addr))
    (there : isLocal s (nodeOf addr) = false) (some : data ≠ []) (one : data.length ≤ requestMax s (nodeOf addr)) {st : Nat}
    {t : State} (asked : request s 0x03 (BitVec.ofNat 64 addr) data.length data (.hostWrite win) = (st, t)) :
    exec (.bar2Write off data) s = .next (if st = 0 then t else windowError t win 3 addr) := by
  have asks : remoteWrite s win addr data = (st, t) := by
    unfold remoteWrite
    dsimp only
    rw [pieces_one some one]
    exact asked
  change execBar2Write off data s = _
  unfold execBar2Write
  dsimp only
  rw [place]
  dsimp only
  rw [if_neg (by simp [open_]), if_neg (by decide), if_neg (by simp [there]), asks]

end

/-- Settles O26: a local access is done, waits or fails; a remote one is one request, and its failure a window error. -/
theorem windowAccess : Obligations.WindowAccess := by
  refine ⟨?_, ?_, ?_, ?_, ?_, ?_, ?_, ?_, ?_, ?_, ?_, ?_⟩
  · intro s off n win addr b open_ place here memory got empty
    obtain ⟨stripes, -⟩ := charged_frame s addr n
    rw [bar2Read_here open_ place here memory, windowRead_bytes got]
    unfold outputWhenVisible
    rw [stripesHeld_empty (stripes.trans empty)]
    rfl
  · intro s off n win addr b st open_ place here space got some only within
    obtain ⟨stripes, acks, out⟩ := charged_frame s addr n
    have held : stripesHeld (charged s addr n) (spaceOf addr) (offsetOf addr) n = [st.number] := by
      rw [space]
      exact stripesHeld_only (stripes.trans only) some within
    rw [bar2Read_here open_ place here (by rw [space]; decide), windowRead_bytes (by rwa [space])]
    unfold outputWhenVisible
    rw [held]
    refine ⟨_, rfl, out, ?_⟩
    rw [← acks]
    rfl
  · intro s off n win addr open_ place here memory waits
    have waits : readLocalAt s s.step (spaceOf addr) (offsetOf addr) n = .wait := waits
    rw [bar2Read_here open_ place here memory]
    unfold windowRead
    dsimp only
    rw [waits]
  · intro s off n win addr st open_ place clear here memory failed
    have failed : readLocalAt s s.step (spaceOf addr) (offsetOf addr) n = .fail st := failed
    obtain ⟨out, error, why, where_, -⟩ := badRead_records clear win (winCauseOf st) addr n
    rw [bar2Read_here open_ place here memory]
    unfold windowRead
    dsimp only
    rw [failed]
    exact ⟨_, rfl, out, error, why, where_⟩
  · intro s off n win addr open_ place clear
    obtain ⟨out, error, why, -, mem⟩ := badRead_records clear win 5 addr n
    exact ⟨_, bar2Read_outside open_ place, out, error, why, mem⟩
  · intro s t off win addr data open_ place here memory stored
    rw [bar2Write_here open_ place here, if_neg memory, stored]
    rfl
  · intro s off win addr data open_ place here control
    rw [bar2Write_here open_ place here, if_pos control]
  · intro s off n win addr p open_ place there assigned way one
    exact bar2Read_remote open_ place there one (request_sends assigned way ..)
  · intro s off win addr p data open_ place there assigned way some one
    exact bar2Write_remote open_ place there some one (request_sends assigned way ..)
  · intro s off n win addr open_ place there lost short clear
    have one : n ≤ requestMax s (nodeOf addr) := by
      unfold requestMax
      rwa [lost]
    obtain ⟨out, error, why, where_, mem⟩ := badRead_records
      ((memberUnreachable_winErr s (BitVec.ofNat 16 (nodeOf addr))).trans clear) win 3 addr n
    exact ⟨_, bar2Read_remote open_ place there one (request_noWay lost ..), out, error, why, where_,
      mem.trans (memberUnreachable_mem ..)⟩
  · intro s x t win n h only tid asked owner failed clear alone
    have status : x.f.status.toNat ≠ 0 := fun e => failed (BitVec.eq_of_toNat_eq e)
    obtain ⟨out, error, why, where_, -⟩ := badRead_records (s := noTxns (received s x))
      ((congrArg Mbox.winErr (received_mbox s x)).trans clear) win 3 t.addr.toNat n
    rw [BitVec.ofNat_toNat, BitVec.setWidth_eq] at where_
    refine ⟨_, (readResponse_host h only tid asked owner).trans (congrArg _ (finishTxn_hostRead_fails
      ((received_txns s x).trans only) owner (by rwa [received_mbox]) status _)), out, error, why, where_⟩
  · intro s x t win h only tid asked owner failed clear alone
    have status : x.f.status.toNat ≠ 0 := fun e => failed (BitVec.eq_of_toNat_eq e)
    obtain ⟨error, why, where_⟩ := windowError_records (s := noTxns (received s x))
      ((congrArg Mbox.winErr (received_mbox s x)).trans clear) win 3 t.addr.toNat
    rw [BitVec.ofNat_toNat, BitVec.setWidth_eq] at where_
    refine ⟨_, (congrArg _ ((arrive_response h only tid (by rw [asked])).trans (finishTxn_hostWrite_fails
      ((received_txns s x).trans only) owner (by rwa [received_mbox]) status _)) :), error, why, where_⟩

end Sys2Proof.Machine
end

section
/-! Whistle frames of a root and of a leaf, and huddle contributions. -/

namespace Sys2Proof.Machine

open Sys2Proof

/-! ### The up frames' combination and the root's decision (R306) -/

section
variable {s : State}

/-- Missing members can add a request of this module's own, and nothing else. -/
theorem askMissing_eq (s : State) (missing : Bool) :
    ∃ reasons, askMissing s missing = { s with beat := { s.beat with reasons := reasons } } := by
  unfold askMissing
  split
  · exact ⟨_, rfl⟩
  · exact ⟨s.beat.reasons, rfl⟩

theorem noteMissing_whole (whole : missesMembers s = false) : noteMissing s = s := by
  unfold noteMissing askMissing
  rw [whole]
  exact if_neg (by simp)

/-- Who is missing does not depend on the time. -/
theorem noteMissing_clockTo (s : State) (t : Nat) : (noteMissing (clockTo s t)).beat = (noteMissing s).beat := by
  unfold noteMissing askMissing
  rw [apply_ite State.beat, apply_ite State.beat]
  rfl

theorem sendDown_posts (s : State) (payload : List Byte) : Posts s (sendDown s payload) :=
  Posts.foldl _ (fun _ _ => sendOn_posts ..) _ _

/-- What the root's decision leaves: it holds for a request of its own, for missing members and for a child that holds. -/
structure Decides (s t : State) : Prop where
  sent : t.beat.upSent = true
  number : t.beat.number = s.beat.number
  reasons : t.beat.reasons = (noteMissing s).beat.reasons
  mem : t.mem = s.mem
  seqs : t.seqs = s.seqs
  hold : t.beat.down.map (·.hold) =
    some (!(noteMissing s).beat.reasons.isEmpty || missesMembers s || s.beat.ups.any (·.hold))

theorem sendUp_decides (due : s.beat.upSent = false) (held : s.beat.atHoldPoint = true) (original : s.journal.replay = none)
    (root : parentPort s = none) : Decides s (sendUp s) := by
  obtain ⟨reasons, noted⟩ := askMissing_eq s (missesMembers s)
  have noted : noteMissing s = { s with beat := { s.beat with reasons := reasons } } := noted
  have root : parentPort { s with beat := { s.beat with reasons := reasons, upSent := true } } = none := root
  unfold sendUp
  rw [if_neg (by simp [due, held]), if_neg (by simp [replaying, original]), noted]
  dsimp only
  rw [root]
  dsimp only
  constructor
  case reasons => rw [noted, (sendDown_posts ..).beat]
  case hold =>
    rw [noted, (sendDown_posts ..).beat]
    rfl
  case mem => rw [(sendDown_posts ..).mem]
  case seqs => rw [(sendDown_posts ..).seqs]
  all_goals rw [(sendDown_posts ..).beat]

/-- At the deadline the root of a module on its beat decides. -/
theorem whistleUpDeadline_decides (running : s.pstate = .running) (on : s.beat.pauseDue = false)
    (held : s.beat.atHoldPoint = true) (due : s.beat.upSent = false) (original : s.journal.replay = none)
    (root : parentPort s = none) : ∃ t, exec .whistleUpDeadline s = .next t ∧ Decides s t := by
  have beating : onBeat s = true := by simp [onBeat, live_of_running running, on]
  have root : parentPort (clockTo s (currentEnd s - marginNs s + marginNs s / 2)) = none := root
  obtain ⟨sent, number, reasons, mem, seqs, hold⟩ := sendUp_decides (by exact due) (by exact held) (by exact original) root
  rw [noteMissing_clockTo] at reasons hold
  exact ⟨_, congrArg Host.Outcome.next (if_pos (by simp [beating, held, due])), sent, number, reasons, mem, seqs, hold⟩

/-- A child whose frame has not come is missing, unless it has stopped outside a huddle. -/
theorem missesMembers_child {p : Fin 12} (child : p ∈ childPorts s) (absent : s.beat.ups.any (·.port == p) = false)
    (going : childStopped s p = false ∨ huddleOpen s = true) : missesMembers s = true := by
  have asked : p ∈ absentChildren s := List.mem_filter.2 ⟨child, by simp [absent]⟩
  have counted : p ∉ stoppedChildren s := by
    unfold stoppedChildren
    rcases going with goes | open_
    · split
      · exact List.not_mem_nil
      · exact fun h => by simp [goes] at h
    · rw [if_pos open_]
      exact List.not_mem_nil
  have some : (absentChildren s).all (stoppedChildren s).contains = false := by
    rw [List.all_eq_false]
    exact ⟨p, asked, by simpa using counted⟩
  unfold missesMembers
  rw [some]
  rfl

/-- Outside a huddle stopped children are not missing, where the count of members is met. -/
theorem missesMembers_stopped (closed : huddleOpen s = false) (stopped : ∀ p ∈ absentChildren s, childStopped s p = true)
    (met : s.beat.members ≤ membersBelow s) : missesMembers s = false := by
  have all : (absentChildren s).all (stoppedChildren s).contains = true := by
    rw [List.all_eq_true]
    intro p absent
    unfold stoppedChildren
    rw [if_neg (by simp [closed])]
    simpa using ⟨absent, stopped p absent⟩
  unfold missesMembers
  rw [all]
  simp [met]

end

/-! ### Up and down frames (R305 to R307) -/

section
variable {s : State} {x : Rx}

/-- A child's first up frame of the period, before the hold point, is noted. -/
theorem whistleUpFrame_noted (h : Arrives s x 0x0C) (up : field x.f.payload 14 1 = 0) (on : onBeat (received s x) = true)
    (child : (childPorts (received s x)).contains x.port = true) (due : s.beat.upSent = false)
    (early : s.beat.atHoldPoint = false) (period : field x.f.payload 0 8 = wirePeriod (received s x))
    (first : s.beat.ups.any (fun u => u.port == x.port) = false) : exec (.whistleUpFrame x) s = .next { received s x with
      beat := { (received s x).beat with
        ups := s.beat.ups ++ [upOf x], seen := s.beat.seen.filter (·.port != x.port) ++ [upOf x] } } := by
  refine (if_neg (not_not_intro up)).trans (congrArg _ ((arrive_delivers h _).trans ?_))
  have same := received_beat s x
  have child : x.port ∈ childPorts (received s x) := by simpa using child
  unfold takeUpFrame
  dsimp only
  rw [if_neg (by simp [on, child, due, period, first]), if_neg (by simp [early]), same]
  rfl

/-- The parent's decision for the period is taken by a leaf. -/
theorem whistleDownFrame_taken (h : Arrives s x 0x0C) (down : field x.f.payload 14 1 = 1) (parent : parentPort s = some x.port)
    (leaf : childPorts s = []) (on : onBeat (received s x) = true) (open_ : s.beat.down = none)
    (period : field x.f.payload 0 8 = wirePeriod s) : exec (.whistleDownFrame x) s =
      .next { received s x with beat := { (received s x).beat with down := some (decisionOf s x) } } := by
  have parent : parentPort (received s x) = some x.port := by
    unfold parentPort at parent ⊢
    rwa [received_rcd]
  have leaf : childPorts (received s x) = [] := by
    unfold childPorts at leaf ⊢
    rwa [received_rcd]
  have period : field x.f.payload 0 8 = wirePeriod (received s x) := by
    unfold wirePeriod beforeEpoch at period ⊢
    rwa [received_beat]
  refine (if_neg (not_not_intro down)).trans (congrArg _ ((arrive_delivers h _).trans ?_))
  unfold takeDownFrame sendDown
  rw [if_neg (not_not_intro parent)]
  dsimp only
  rw [leaf, List.foldl_nil, if_neg (by simp [on]), if_pos period, received_beat, open_]
  rfl

/-- A down frame on another port than the parent's changes nothing more. -/
theorem whistleDownFrame_stray (h : Arrives s x 0x0C) (down : field x.f.payload 14 1 = 1)
    (stray : parentPort s ≠ some x.port) : exec (.whistleDownFrame x) s = .next (received s x) := by
  have stray : parentPort (received s x) ≠ some x.port := by
    unfold parentPort at stray ⊢
    rwa [received_rcd]
  exact (if_neg (not_not_intro down)).trans (congrArg _ ((arrive_delivers h _).trans (if_pos stray)))

end

/-! ### Huddle contributions (R236, R237, R309) -/

/-- Statistics taken change the scales alone. -/
theorem statsTaken_eq (s : State) : ∃ scales, statsTaken s = { s with scales := scales } := by
  unfold statsTaken withShares
  dsimp only
  split
  · exact ⟨_, rfl⟩
  · refine List.foldlRecOn (motive := fun t : State => ∃ scales, t = { s with scales := scales }) _ _ ⟨_, rfl⟩ fun t h d _ => ?_
    obtain ⟨_, rfl⟩ := h
    exact ⟨_, rfl⟩

/-- Until a module has its own contribution it combines none. -/
theorem tryCombine_without {s : State} (none : s.beat.huddleOwn = none) : tryCombine s = s := by
  unfold tryCombine
  rw [none]

/-- A root without children has the combined record in its own. -/
theorem tryCombine_alone {s : State} {h : Huddle} (own : s.beat.huddleOwn = some h) (open_ : s.beat.combined = none)
    (parts : s.beat.huddleParts = []) (leaf : childPorts s = []) (root : parentPort s = none) :
    tryCombine s = { s with beat := { s.beat with combined := some h } } := by
  unfold tryCombine
  rw [own]
  dsimp only
  rw [open_, leaf, parts, root, if_neg (by simp)]
  rfl

theorem huddleEnter_alone {s : State} {p : Program} (program : s.program = some p) (due : voteDue s = true)
    (original : s.journal.replay = none) (leaf : childPorts s = []) (root : parentPort s = none)
    (open_ : s.beat.combined = none) (parts : s.beat.huddleParts = []) :
    exec .huddleEnter s = .next { statsTaken s with beat := { s.beat with
      huddleSent := true, huddleOwn := some (ownHuddle s p (voteFlags s))
      combined := some (ownHuddle s p (voteFlags s)) } } := by
  obtain ⟨scales, taken⟩ := statsTaken_eq s
  change execHuddleEnter s = _
  unfold execHuddleEnter
  rw [program]
  dsimp only
  rw [if_neg (by simp [due]), original, taken]
  exact congrArg Host.Outcome.next (tryCombine_alone rfl open_ parts leaf root)

section
variable {s : State} {x : Rx} {h : Huddle}

theorem received_open (up : inReset s = false) (original : s.journal.replay = none) :
    ¬(inReset (received s x) = true ∨ replaying (received s x) = true) := by
  unfold replaying
  rw [received_inReset, received_journal]
  simp [up, original]

/-- A message that goes on is kept. -/
theorem huddleFrame_partial (a : Arrives s x 0x0D) (up : inReset s = false) (original : s.journal.replay = none)
    (more : x.f.flags.getLsbD 2 = false) : exec (.huddleFrame x h) s =
      .next (setPieces (received s x) x.port (piecesOf s x.port ++ x.f.payload)) := by
  refine congrArg _ ((arrive_delivers a _).trans ?_)
  unfold takeHuddle piecesOf
  rw [if_neg (received_open up original), more, received_beat]
  rfl

/-- A child's whole message is its contribution, kept until this module has its own. -/
theorem huddleFrame_contributes (a : Arrives s x 0x0D) (up : inReset s = false) (original : s.journal.replay = none)
    (last : x.f.flags.getLsbD 2 = true) (child : (childPorts s).contains x.port = true) (waits : s.beat.huddleOwn = none)
    (first : s.beat.huddleParts.any (fun y => y.1 == x.port) = false) : exec (.huddleFrame x h) s = .next { received s x with
      beat := { (received s x).beat with
        huddleIn := s.beat.huddleIn.filter (·.1 != x.port)
        huddleParts := s.beat.huddleParts ++ [(x.port, withHeader (piecesOf s x.port ++ x.f.payload) h)] } } := by
  have child : (childPorts (setPieces (received s x) x.port [])).contains x.port = true := by
    unfold childPorts at child ⊢
    rw [← received_rcd s x] at child
    exact child
  have same := received_beat s x
  refine congrArg _ ((arrive_delivers a _).trans ?_)
  unfold takeHuddle piecesOf
  rw [if_neg (received_open up original), last]
  dsimp only
  rw [if_neg (by decide), if_pos child, if_neg (by simp [setPieces, first]), tryCombine_without (by simpa [setPieces])]
  simp [setPieces]

end

/-- Settles O52: the root decides at the deadline, a leaf takes its parent's decision, and a huddle's contribution stands once
its message is whole. -/
theorem whistleAndHuddle : Obligations.WhistleAndHuddle := by
  refine ⟨?_, ?_, fun _ _ => whistleUpFrame_noted, fun _ _ => whistleDownFrame_taken, fun _ _ => whistleDownFrame_stray,
    fun _ _ => huddleEnter_alone, ?_, ?_, fun _ _ _ => huddleFrame_contributes, fun _ _ _ => huddleFrame_partial, ?_⟩
  · intro s p running on held due original root child absent going
    obtain ⟨t, decided, sent, number, -, mem, seqs, hold⟩ := whistleUpDeadline_decides running on held due original root
    rw [missesMembers_child child absent going, Bool.or_true, Bool.true_or] at hold
    obtain ⟨d, down, hold⟩ := Option.map_eq_some_iff.1 hold
    exact ⟨t, d, decided, sent, down, hold, number, mem, seqs⟩
  · intro s running on held due original root closed quiet agreed stopped met
    obtain ⟨t, decided, sent, -, reasons, mem, seqs, hold⟩ := whistleUpDeadline_decides running on held due original root
    have whole := missesMembers_stopped closed stopped met
    rw [noteMissing_whole whole, quiet] at reasons hold
    rw [whole] at hold
    obtain ⟨d, down, hold⟩ := Option.map_eq_some_iff.1 hold
    exact ⟨t, d, decided, sent, down, hold.trans (by simpa using agreed), reasons, mem, seqs⟩
  · intro s p flagged
    have abort : (voteFlags s != 0 || !completeUpTo s p.hdr.huddleBeat) = true := by simpa using flagged
    unfold ownHuddle
    dsimp only
    rw [abort]
    exact ⟨rfl, rfl⟩
  · intro s p clear complete
    have ready : (voteFlags s != 0 || !completeUpTo s p.hdr.huddleBeat) = false := by simp [clear, complete]
    unfold ownHuddle
    dsimp only
    rw [ready]
    exact ⟨rfl, rfl⟩
  · intro s x h a down
    refine congrArg _ ((arrive_delivers a _).trans (if_pos (.inl ?_)))
    rwa [received_inReset]

end Sys2Proof.Machine
end

section
/-! SUPPORT. What the steps behind the stop of a compute reset leave alone (R434): memory, the program, flash and, where nothing is
in flight or fetched, that. -/

namespace Sys2Proof.Machine

open Sys2Proof

/-! ### The relation -/

/-- Whether a decode engine waits for an access. -/
def forEngine : Owner → Bool
  | .igd _ _ => true
  | _ => false

/-- Nothing is in flight on a stream, its flags are clear, and no sample is queued, decoded or fetched. -/
structure Quiet (s : State) : Prop where
  ingest : s.ingest = {}
  seqs : ∀ q ∈ s.seqs, q.flight = [] ∧ q.flags = 0
  txns : ∀ t ∈ s.fabric.txns, forEngine t.owner = false
  bulks : ∀ b ∈ s.fabric.bulks, forEngine b.owner = false

/-- Memory, the program, its state, flash and the emptied buffers of the units are as they were, and what was quiet is. -/
structure Rests (s t : State) : Prop where
  mem : t.mem = s.mem
  flash : t.flash = s.flash
  program : t.program = s.program
  pstate : t.pstate = s.pstate
  gates : t.gates = s.gates
  side : t.side = s.side
  reduce : t.reduce = s.reduce
  reported : t.power.bootReported = s.power.bootReported
  quiet : Quiet s → Quiet t

theorem Rests.refl (s : State) : Rests s s := ⟨rfl, rfl, rfl, rfl, rfl, rfl, rfl, rfl, id⟩

theorem Rests.after {s t u : State} (k : Rests t u) (h : Rests s t) : Rests s u :=
  ⟨k.mem.trans h.mem, k.flash.trans h.flash, k.program.trans h.program, k.pstate.trans h.pstate, k.gates.trans h.gates,
    k.side.trans h.side, k.reduce.trans h.reduce, k.reported.trans h.reported, k.quiet ∘ h.quiet⟩

theorem Rests.ite {c : Prop} [Decidable c] {s t u : State} (h : Rests s t) (k : Rests s u) : Rests s (if c then t else u) := by
  split
  · exact h
  · exact k

theorem Rests.when {c : Prop} [Decidable c] {s t : State} (h : Rests s t) : Rests s (if c then t else s) := h.ite (Rests.refl s)

theorem Rests.unless {c : Prop} [Decidable c] {s t : State} (h : Rests s t) : Rests s (if c then s else t) :=
  (Rests.refl s).ite h

theorem Rests.foldl {α : Type} (f : State → α → State) (h : ∀ s a, Rests s (f s a)) :
    ∀ (l : List α) (s : State), Rests s (l.foldl f s)
  | [], s => Rests.refl s
  | a :: l, s => (Rests.foldl f h l (f s a)).after (h s a)

/-- An update of what the relation does not look at. -/
theorem Rests.update {s u : State} (h : Rests s u) {pending freeIdx timebase fw mbox units step beat scales versions journal spdm
    counts out rcd ports routes nextTid arrivals bulkIn lateReads waiting heldCredits ptp} :
    Rests s ⟨pending, freeIdx, timebase, u.power, u.flash, fw, mbox, units, u.mem, u.pstate, u.program, step, u.seqs, u.gates, beat,
      scales, versions, u.reduce, u.side, ⟨rcd, ports, routes, nextTid, u.fabric.txns, u.fabric.bulks, arrivals, bulkIn, lateReads,
        waiting, heldCredits, ptp⟩, u.ingest, journal, spdm, counts, out⟩ :=
  ⟨h.mem, h.flash, h.program, h.pstate, h.gates, h.side, h.reduce, h.reported, fun q =>
    let ⟨ingest, seqs, txns, bulks⟩ := h.quiet q
    ⟨ingest, seqs, txns, bulks⟩⟩

theorem Rests.updated {s : State} {pending freeIdx timebase fw mbox units step beat scales versions journal spdm
    counts out rcd ports routes nextTid arrivals bulkIn lateReads waiting heldCredits ptp} :
    Rests s ⟨pending, freeIdx, timebase, s.power, s.flash, fw, mbox, units, s.mem, s.pstate, s.program, step, s.seqs, s.gates, beat,
      scales, versions, s.reduce, s.side, ⟨rcd, ports, routes, nextTid, s.fabric.txns, s.fabric.bulks, arrivals, bulkIn, lateReads,
        waiting, heldCredits, ptp⟩, s.ingest, journal, spdm, counts, out⟩ := (Rests.refl s).update

/-- Requests and transfers that end, or that nobody waits for any longer. -/
theorem Rests.owners (s : State) {fabric : Fabric}
    (txns : (∀ t ∈ s.fabric.txns, forEngine t.owner = false) → ∀ t ∈ fabric.txns, forEngine t.owner = false)
    (bulks : (∀ b ∈ s.fabric.bulks, forEngine b.owner = false) → ∀ b ∈ fabric.bulks, forEngine b.owner = false) :
    Rests s { s with fabric := fabric } :=
  ⟨rfl, rfl, rfl, rfl, rfl, rfl, rfl, rfl, fun q => ⟨q.ingest, q.seqs, txns q.txns, bulks q.bulks⟩⟩

/-- A change of every stream that puts nothing in flight and raises no flag. -/
theorem Rests.mapSeqs (s : State) {f : SeqUnit → SeqUnit}
    (h : ∀ q, q.flight = [] ∧ q.flags = 0 → (f q).flight = [] ∧ (f q).flags = 0) :
    Rests s { s with seqs := s.seqs.map f } := by
  refine ⟨rfl, rfl, rfl, rfl, rfl, rfl, rfl, rfl, fun q => ⟨q.ingest, fun r hr => ?_, q.txns, q.bulks⟩⟩
  obtain ⟨r, mem, rfl⟩ := List.mem_map.1 hr
  exact h r (q.seqs r mem)

theorem Posts.rests {s t : State} (h : Posts s t) : Rests s t :=
  ⟨h.mem, h.flash, h.program, h.pstate, h.gates, h.side, h.reduce, congrArg Power.bootReported h.power, fun q =>
    ⟨h.ingest.trans q.ingest, h.seqs ▸ q.seqs, h.txns ▸ q.txns, h.bulks ▸ q.bulks⟩⟩

/-! ### Accesses that end (R298, R300, R370, R396) -/

theorem post_rests (s : State) (code : Nat) (b : List Byte) : Rests s (post s code b) := (post_posts s code b).rests

theorem bump_rests (s : State) (id inst tensor n : Nat) : Rests s (bump s id inst tensor n) := (bump_posts s id inst tensor n).rests

theorem emit_rests (s : State) (o : Output) : Rests s (emit s o) := (emit_posts s o).rests

theorem complete_rests (s : State) (c : Cmd) (st r a b : Nat) : Rests s (complete s c st r a b) :=
  (complete_posts s c st r a b).rests.after Rests.updated

theorem done_rests (s : State) (c : Cmd) (st : Nat) : Rests s (done s c st) := complete_rests ..

theorem dropArrivals_rests (s : State) (key : Nat) : Rests s (dropArrivals s key) := Rests.updated

theorem addArrival_rests (s : State) (key addr : Nat) (data : List Byte) : Rests s (addArrival s key addr data) := Rests.updated

theorem accessFailed_rests (s : State) (w : Who) (status addr : Nat) : Rests s (accessFailed s w status addr) :=
  Rests.after (Rests.unless Rests.updated) <| post_rests ..

theorem windowError_rests (s : State) (win cause addr : Nat) : Rests s (windowError s win cause addr) :=
  Rests.unless ((post_rests ..).after Rests.updated)

theorem lessWaiting_rests (s : State) (w : Who) : Rests s (lessWaiting s w) :=
  Rests.mapSeqs s fun q ⟨flight, flags⟩ => by
    split
    · exact ⟨by simp [flight], flags⟩
    · exact ⟨flight, flags⟩

theorem memberUnreachable_rests (s : State) (node : Word16) : Rests s (memberUnreachable s node) :=
  Rests.when ((post_rests ..).after <| (Rests.foldl _ (fun _ _ => Rests.unless (done_rests ..)) _ _).after
    ⟨rfl, rfl, rfl, rfl, rfl, rfl, rfl, rfl, fun q =>
      ⟨q.ingest, q.seqs, q.txns, fun b hb => q.bulks b (List.mem_filter.1 hb).1⟩⟩)

theorem dataWritten_rests (s : State) (c : Cmd) : Rests s (dataWritten s c) := by
  unfold dataWritten
  split
  · exact Rests.unless ((complete_rests ..).after Rests.updated)
  · exact Rests.refl _

theorem dataFailed_rests (s : State) (c : Cmd) : Rests s (dataFailed s c) :=
  Rests.after (Rests.when (done_rests ..)) <| (dropArrivals_rests ..).after Rests.updated

theorem hostPartDone_rests (s : State) (o : Owner) (addr n id : Nat) : Rests s (hostPartDone s o addr n id) :=
  Rests.unless ((emit_rests ..).after <| dropArrivals_rests ..)

/-- A decode engine's fetch does not fail where nothing is fetched. -/
theorem Rests.fetchFailed {s u : State} (h : Rests s u) (busy : ¬Quiet s) (igd engine status addr : Nat) :
    Rests s (fetchFailed u igd engine status addr) :=
  let k := (post_rests u 0x0B05 (packed [(2, (9 + igd) * 256), (1, status), (8, addr)])).after h
  ⟨k.mem, k.flash, k.program, k.pstate, k.gates, k.side, k.reduce, k.reported, fun q => absurd q busy⟩

theorem finishTxn_rests {s : State} {t : Txn} (asked : t ∈ s.fabric.txns) (status : Nat) (data : List Byte) :
    Rests s (finishTxn s t status data) := by
  have struck : Rests s { s with fabric := { s.fabric with txns := s.fabric.txns.filter (·.tid != t.tid) } } :=
    Rests.owners s (fun none t ht => none t (List.mem_filter.1 ht).1) id
  unfold finishTxn
  refine Rests.after (Rests.when (memberUnreachable_rests ..)) ?_
  dsimp only
  generalize { s with fabric := { s.fabric with txns := s.fabric.txns.filter (·.tid != t.tid) } } = u at struck ⊢
  split
  case h_1 => exact Rests.ite ((emit_rests ..).after struck) ((emit_rests ..).after <| (windowError_rests ..).after struck)
  case h_2 => exact Rests.ite struck ((windowError_rests ..).after struck)
  case h_3 =>
    exact Rests.ite ((accessFailed_rests ..).after struck)
      (Rests.ite ((addArrival_rests ..).after struck) ((lessWaiting_rests ..).after struck))
  case h_4 =>
    refine Rests.ite ((hostPartDone_rests ..).after <| (addArrival_rests ..).after struck) ((emit_rests ..).after <|
      (windowError_rests ..).after <| (dropArrivals_rests ..).after <| Rests.owners s (fun none y hy => ?_) id)
    obtain ⟨x, hx, rfl⟩ := List.mem_map.1 hy
    split
    · rfl
    · exact none x (List.mem_filter.1 hx).1
  case h_5 =>
    exact Rests.ite ((dataFailed_rests ..).after struck)
      (Rests.ite ((addArrival_rests ..).after struck) ((dataWritten_rests ..).after struck))
  case h_6 => exact Rests.ite struck ((done_rests ..).after struck)
  case h_10 igd engine owner =>
    refine Rests.ite ((addArrival_rests ..).after struck) (struck.fetchFailed (fun q => ?_) ..)
    have none := q.txns t asked
    rw [owner] at none
    exact nomatch none
  all_goals exact struck

end Sys2Proof.Machine
end

section
/-! SUPPORT. The steps of a compute reset (R434): what stops, what the profile and the self-test leave alone, and READY. -/

namespace Sys2Proof.Machine

open Sys2Proof

/-! ### Transfers and ports that end (R278, R300, R301, R396) -/

theorem forwardFrom_rests (node : Word16) (ring : Nat) : ∀ (ps : List Proxied) (s : State), Rests s (forwardFrom node ring ps s)
  | [], s => Rests.refl s
  | p :: ps, s => by
    unfold forwardFrom
    split
    · exact forwardFrom_rests node ring ps s
    · split
      · split
        · exact Rests.refl s
        · exact (forwardFrom_rests node ring ps _).after <| (sendFrame_posts ..).rests.after Rests.updated
      · exact forwardFrom_rests node ring ps s

theorem proxyFailed_rests (s : State) (c : Cmd) : Rests s (proxyFailed s c) := by
  unfold proxyFailed
  split
  · exact Rests.refl s
  · exact (forwardFrom_rests ..).after <| Rests.ite Rests.updated ((done_rests ..).after Rests.updated)

theorem failBulk_rests {s : State} {b : Bulk} (moving : b ∈ s.fabric.bulks) (status : Nat) : Rests s (failBulk s b status) := by
  have dropped : Rests s (dropBulk s b) := Rests.owners s id fun none x hx => none x (List.mem_filter.1 hx).1
  unfold failBulk
  refine Rests.after (Rests.when (memberUnreachable_rests ..)) ?_
  dsimp only
  have late : Rests s (if b.inward && !b.served && status != 3 then { dropBulk s b with fabric := { (dropBulk s b).fabric with
      lateReads := (dropBulk s b).fabric.lateReads ++ [(b.node, b.tid)] } } else dropBulk s b) :=
    Rests.ite dropped.update dropped
  generalize (if b.inward && !b.served && status != 3 then { dropBulk s b with fabric := { (dropBulk s b).fabric with
      lateReads := (dropBulk s b).fabric.lateReads ++ [(b.node, b.tid)] } } else dropBulk s b) = u at late ⊢
  cases owner : b.owner with
  | unit w => exact (accessFailed_rests ..).after late
  | relay w => exact (accessFailed_rests ..).after late
  | dma c =>
    exact (done_rests ..).after <| Rests.after (Rests.owners u id fun none x hx => none x (List.mem_filter.1 hx).1) late
  | proxy c => exact Rests.ite late ((proxyFailed_rests ..).after late)
  | igd i e =>
    refine late.fetchFailed (fun q => ?_) ..
    have none := q.bulks b moving
    rw [owner] at none
    exact nomatch none
  | _ => exact late

theorem refuseRequest_rests (s : State) (f : Kft) (status : Nat) : Rests s (refuseRequest s f status) := by
  unfold refuseRequest
  dsimp only
  split
  · split
    · split
      case h_1 found => exact failBulk_rests (List.mem_of_find?_eq_some found) status
      case h_2 => exact Rests.refl s
    · split
      case h_1 found => exact finishTxn_rests (List.mem_of_find?_eq_some found) status []
      case h_2 => exact Rests.refl s
  · exact Rests.ite (sendFrame_posts ..).rests (Rests.when (sendFrame_posts ..).rests)

theorem routesLost_rests (s : State) (p : Nat) : Rests s (routesLost s p) :=
  Rests.foldl _ (fun _ _ => Rests.when (memberUnreachable_rests ..)) _ _

theorem portDrops_rests (s : State) (p : Fin 12) : Rests s (portDrops s p) :=
  (routesLost_rests ..).after <| (discard_posts ..).rests.after <|
    Rests.after (Rests.foldl _ (fun _ _ => refuseRequest_rests ..) _ _) Rests.updated

/-! ### Profile and self-test (R423, R434, R439, R441) -/

theorem applyProfile_rests (s : State) : Rests s (applyProfile s) := by
  have h : Rests s (((List.range 6).filter fun i => bitAt s.fw.profile.ports.toNat (i % 6) !=
      bitAt (profiles s)[s.fw.chosenProfile].ports.toNat (i % 6)).foldl (fun s i => emit s (.cableReset i))
      ((List.finRange 12).foldl (fun t i => if bitAt s.fw.profile.ports.toNat (i.val % 6) !=
        bitAt (profiles s)[s.fw.chosenProfile].ports.toNat (i.val % 6) then portDrops t i else t) s)) :=
    Rests.after (Rests.foldl _ (fun _ _ => emit_rests ..) _ _) <|
      Rests.foldl _ (fun _ _ => Rests.when (portDrops_rests ..)) _ _
  obtain ⟨mem, flash, program, pstate, gates, side, reduce, reported, quiet⟩ := h
  exact ⟨mem, flash, program, pstate, gates, side, reduce, reported, fun q =>
    let ⟨ingest, seqs, txns, bulks⟩ := quiet q
    ⟨ingest, seqs, txns, bulks⟩⟩

theorem updUnit_rests (s : State) (u : PhysUnit) (f : UnitEntry → UnitEntry) : Rests s (updUnit s u f) := Rests.updated

theorem unitEvent_rests (s : State) (code : Nat) (u : PhysUnit) (cause : Option Nat) : Rests s (unitEvent s code u cause) :=
  post_rests ..

theorem leaveNumber_rests (s : State) (u : PhysUnit) (n : Nat) : Rests s (leaveNumber s u n) :=
  Rests.after (Rests.when Rests.updated) <| updUnit_rests ..

theorem rerun_rests (s : State) (unit : Nat) : Rests s (rerun s unit) := by
  unfold rerun rerunThose
  split
  · exact Rests.refl s
  · refine (bump_rests ..).after <| Rests.update <| Rests.mapSeqs s fun q ⟨flight, flags⟩ => ?_
    split
    · exact ⟨by simp [flight], flags⟩
    · exact ⟨flight, flags⟩

theorem substitute_rests (s : State) (u : PhysUnit) (unit cause : Nat) (sub : PhysUnit) :
    Rests s (substitute s u unit cause sub) :=
  (rerun_rests ..).after <| (post_rests ..).after <| (bump_rests ..).after <| (updUnit_rests ..).after <| leaveNumber_rests ..

theorem compactOne_rests (s : State) (x : PhysUnit × Nat) : Rests s (compactOne s x) := by
  unfold compactOne
  refine (post_rests ..).after ?_
  split
  · split
    · exact (updUnit_rests ..).after <| leaveNumber_rests ..
    · exact leaveNumber_rests ..
  · exact leaveNumber_rests ..

theorem compact_rests (s : State) (kind die : Nat) : Rests s (compact s kind die) :=
  Rests.unless (Rests.foldl _ (fun _ _ => compactOne_rests ..) _ _)

theorem failTile_rests (s : State) (u : PhysUnit) : Rests s (failTile s u) := by
  have failed : Rests s (unitEvent (setCond s u .failed 1) 0x1005 u (some 1)) := (unitEvent_rests ..).after <| updUnit_rests ..
  unfold failTile
  split
  · exact Rests.refl s
  · refine Rests.unless ?_
    dsimp only
    split
    · exact failed
    · split
      · exact (substitute_rests ..).after failed
      · exact (compact_rests ..).after failed

theorem computeServe_rests (s : State) (failed : List TileId) : Rests s (computeServe s failed) :=
  Rests.after (Rests.foldl _ (fun _ _ => failTile_rests ..) _ _) <| (post_rests ..).after <| applyProfile_rests ..

/-! ### What stops (R434 steps 1 to 3) -/

/-- What outlives the stop: space 0x1, flash, the program, whether power-on has been reported, and the program's state, which a
halt changes. -/
def standing (s : State) : Memory × Flash × Option Program × Bool × PState :=
  (s.mem.dram, s.flash, s.program, s.power.bootReported, s.pstate)

theorem Posts.standing {s t : State} (h : Posts s t) : standing t = Machine.standing s := by
  simp only [Machine.standing, h.mem, h.flash, h.program, h.power, h.pstate]

theorem dropWithheld_standing (s : State) : standing (dropWithheld s) = standing s := by
  obtain ⟨_, _, dropped⟩ := dropWithheld_eq s
  rw [dropped]
  rfl

theorem done_standing (s : State) (c : Cmd) (st : Nat) : standing (done s c st) = standing s :=
  (complete_posts s c st 0 0 0).standing.trans rfl

/-- A program that runs or is paused is halted by the stop, and one that does neither stays as it is. -/
theorem haltProgram_standing (s : State) (cause : Nat) : standing (haltProgram s cause) =
    (s.mem.dram, s.flash, s.program, s.power.bootReported,
      if s.pstate = .running ∨ s.pstate = .paused then .halted else s.pstate) := by
  unfold haltProgram
  split
  · obtain ⟨_, _, dropped⟩ := dropWithheld_eq s
    rw [dropped]
    simp [standing, setPState, setPStateAt]
  · rfl

theorem computeStop_standing (s : State) (cause : Nat) : standing (computeStop s cause) =
    (s.mem.dram, s.flash, s.program, s.power.bootReported,
      if s.pstate = .running ∨ s.pstate = .paused then .halted else s.pstate) := by
  have ended (cs : List Cmd) (u : State) :
      standing (dropWithheld (cs.foldl (fun v c => done v c 0x0A) (dropTransfers u cs))) = standing u :=
    (dropWithheld_standing _).trans (foldl_same standing _ (fun v c => done_standing v c 0x0A) cs _)
  unfold computeStop
  refine Eq.trans (ended _ _) ?_
  refine (haltProgram_standing ..).trans ?_
  simp

/-- The stop empties space 0x0, the buffers, side records, gates and tags. -/
theorem computeStop_empties (s : State) (cause : Nat) :
    let t := computeStop s cause
    t.mem.sram = [] ∧ t.mem.buffers = [] ∧ t.side = [] ∧ t.gates = [] ∧ t.reduce.tags = [] := ⟨rfl, rfl, rfl, rfl, rfl⟩

theorem not_forEngine_of_kept {s : State} {o : Owner} (kept : keptOwner s o = true) : forEngine o = false := by
  cases o with
  | igd => exact nomatch kept
  | _ => rfl

/-- The stop leaves nothing in flight, decoded or fetched. -/
theorem computeStop_quiet (s : State) (cause : Nat) : Quiet (computeStop s cause) where
  ingest := rfl
  seqs q hq := by
    obtain ⟨_, _, rfl⟩ := List.mem_map.1 hq
    exact ⟨rfl, rfl⟩
  txns _ ht := not_forEngine_of_kept (List.mem_filter.1 ht).2
  bulks _ hb := not_forEngine_of_kept (List.mem_filter.1 hb).2

/-! ### READY (R330, R432, R434, R456) -/

/-- The reports of a first READY take what they report from flash and leave the rest of the module as it is. -/
structure Reports (s t : State) : Prop where
  mem : t.mem = s.mem
  slots : t.flash.slots = s.flash.slots
  boot : t.flash.boot = s.flash.boot
  module : t.mbox.module = s.mbox.module
  mode : t.power.mode = s.power.mode
  stopped : t.power.computeStopped = s.power.computeStopped
  program : t.program = s.program
  pstate : t.pstate = s.pstate
  gates : t.gates = s.gates
  side : t.side = s.side
  reduce : t.reduce = s.reduce
  ingest : t.ingest = s.ingest
  seqs : t.seqs = s.seqs

theorem Reports.refl (s : State) : Reports s s := ⟨rfl, rfl, rfl, rfl, rfl, rfl, rfl, rfl, rfl, rfl, rfl, rfl, rfl⟩

theorem Reports.after {s t u : State} (k : Reports t u) (h : Reports s t) : Reports s u :=
  ⟨k.mem.trans h.mem, k.slots.trans h.slots, k.boot.trans h.boot, k.module.trans h.module, k.mode.trans h.mode,
    k.stopped.trans h.stopped, k.program.trans h.program, k.pstate.trans h.pstate, k.gates.trans h.gates,
    k.side.trans h.side, k.reduce.trans h.reduce, k.ingest.trans h.ingest, k.seqs.trans h.seqs⟩

theorem Reports.foldl {α : Type} {f : State → α → State} (h : ∀ s a, Reports s (f s a)) (l : List α) (s : State) :
    Reports s (l.foldl f s) :=
  List.foldlRecOn l f (motive := Reports s) (Reports.refl s) fun _ sofar a _ => (h _ a).after sofar

theorem Posts.reports {s t : State} (h : Posts s t) : Reports s t :=
  ⟨h.mem, congrArg Flash.slots h.flash, congrArg Flash.boot h.flash, h.module, congrArg Power.mode h.power,
    congrArg Power.computeStopped h.power, h.program, h.pstate, h.gates, h.side, h.reduce, h.ingest, h.seqs⟩

theorem post_reports (s : State) (code : Nat) (b : List Byte) : Reports s (post s code b) := (post_posts s code b).reports

theorem powerLogRead_reports (s : State) : Reports s { s with flash := { s.flash with powerLogNew := false } } :=
  ⟨rfl, rfl, rfl, rfl, rfl, rfl, rfl, rfl, rfl, rfl, rfl, rfl, rfl⟩

theorem cutRead_reports (s : State) : Reports s { s with flash := { s.flash with activationCut := false } } :=
  ⟨rfl, rfl, rfl, rfl, rfl, rfl, rfl, rfl, rfl, rfl, rfl, rfl, rfl⟩

theorem bootReports_reports (s : State) : Reports s (bootReports s) := by
  unfold bootReports
  extract_lets _ a b c _ d
  have first : Reports s a := ⟨rfl, rfl, rfl, rfl, rfl, rfl, rfl, rfl, rfl, rfl, rfl, rfl, rfl⟩
  have devices : Reports a b := Reports.foldl (fun u _ => by
    split
    · exact post_reports ..
    · exact Reports.refl u) _ _
  have groups : Reports b c := Reports.foldl (fun u _ => by
    split
    · exact post_reports ..
    · exact Reports.refl u) _ _
  have powerDown : Reports c d := by
    unfold d
    split
    · split
      · exact (post_reports ..).after (powerLogRead_reports c)
      · exact Reports.refl c
    · exact Reports.refl c
  refine Reports.after ?_ (powerDown.after <| groups.after <| devices.after first)
  split
  · exact (post_reports ..).after (cutRead_reports d)
  · exact Reports.refl d

/-- The module as READY finds it: the registers and clocks of a module that serves. -/
def madeReady (s : State) : State :=
  { s with mbox := { s.mbox with module := .ready }, power := { s.power with mode := .active, computeStopped := false } }

theorem resetReady_reports (s : State) (cause : Nat) : Reports (madeReady s) (resetReady s cause) := by
  have event : Reports (madeReady s) (readyEvent (madeReady s) cause) := post_reports ..
  unfold resetReady
  dsimp only
  split
  · exact event
  · exact (bootReports_reports _).after event

theorem resetReady_reported {s : State} (reported : s.power.bootReported = true) (cause : Nat) :
    (resetReady s cause).flash = s.flash := by
  have again : (readyEvent (madeReady s) cause).power.bootReported = true := by
    simpa [readyEvent, madeReady] using reported
  have kept : (readyEvent (madeReady s) cause).flash = s.flash := by simp [readyEvent, madeReady]
  exact (congrArg State.flash (if_pos again)).trans kept

/-! ### The whole reset -/

/-- Settles O20: steps 1 to 3 empty the module and leave nothing in flight, the profile and the self-test leave that alone, and
READY changes its own registers and what it reports. -/
theorem computeResetLeaves : Obligations.ComputeResetLeaves := by
  unfold Obligations.ComputeResetLeaves
  intro s cause failed
  have served := computeServe_rests (computeStop s cause) failed
  have ready := resetReady_reports (computeServe (computeStop s cause) failed) 2
  obtain ⟨sram, buffers, side, gates, tags⟩ := computeStop_empties s cause
  obtain ⟨dram, flash, program, reported, pstate⟩ : _ ∧ _ ∧ _ ∧ _ ∧ _ := by
    simpa only [standing, Prod.mk.injEq] using computeStop_standing s cause
  obtain ⟨ingest, seqs, -, -⟩ := served.quiet (computeStop_quiet s cause)
  have mem : (computeReset s cause failed).mem = (computeStop s cause).mem := ready.mem.trans served.mem
  have flashed : (computeServe (computeStop s cause) failed).flash = s.flash := served.flash.trans flash
  refine ⟨mem ▸ sram, mem ▸ buffers, mem ▸ dram, ready.side.trans (served.side.trans side),
    ready.gates.trans (served.gates.trans gates), ready.ingest.trans ingest,
    (congrArg Reduce.tags (ready.reduce.trans served.reduce)).trans tags, fun q hq => seqs q (ready.seqs ▸ hq),
    ready.slots.trans (congrArg Flash.slots flashed), ready.boot.trans (congrArg Flash.boot flashed), fun told => ?_,
    ready.module, ready.mode, ready.stopped, ready.program.trans (served.program.trans program), fun active _ => ?_⟩
  · exact (resetReady_reported (served.reported.trans (reported.trans told)) 2).trans flashed
  · rw [if_pos active] at pstate
    exact ready.pstate.trans (served.pstate.trans pstate)

end Sys2Proof.Machine
end

section
/-! The stripe mapping of space 0x1: the unit of a stripe, the group and the row of a place, and what the three say together. -/

namespace Sys2Proof.Machine

open Sys2Proof

/-- The slots of a group's five devices that hold the four data units of a row differ, and none is the parity unit's (R322). -/
theorem dataSlot_injective {r j k : Nat} (hj : j < 4) (hk : k < 4) (same : (r % 5 + 1 + j) % 5 = (r % 5 + 1 + k) % 5) :
    j = k := by omega

theorem dataSlot_ne_parity {r j : Nat} (hj : j < 4) : (r % 5 + 1 + j) % 5 ≠ r % 5 := by omega

/-- Devices are numbered five to a group: a device's number tells its group and its slot. -/
theorem device_group {g slot : Nat} (h : slot < 5) : (5 * g + slot) / 5 = g := by omega

theorem device_slot {g slot : Nat} (h : slot < 5) : (5 * g + slot) % 5 = slot := by omega

/-- An offset is its row, its group, its data unit and its byte in the unit. -/
theorem offset_parts (o : Nat) :
    o = 4096 * (o / 1024 / 4) + 1024 * (o / 1024 % 4) + 256 * (o / 256 % 4) + o % 256 := by omega

theorem dramMap_group (o : Nat) : (dramMap o).1 / 5 = groupOf o := device_group (Nat.mod_lt _ (by decide))

theorem dramMap_slot (o : Nat) : (dramMap o).1 % 5 = (o / 1024 / 4 % 5 + 1 + o / 256 % 4) % 5 :=
  device_slot (Nat.mod_lt _ (by decide))

/-- The address on the device tells the row and the byte. -/
theorem dramMap_row (o : Nat) : (dramMap o).2.2 / 256 = o / 1024 / 4 := by
  simp only [dramMap]
  omega

theorem dramMap_byte (o : Nat) : (dramMap o).2.2 % 256 = o % 256 := by
  simp only [dramMap]
  omega

/-- The parity unit's device is not one of a stripe's data units (R322). -/
theorem dramMap_ne_parityDevice (o : Nat) : (dramMap o).1 ≠ parityDevice (o / 1024) := by
  intro same
  have slots := congrArg (· % 5) same
  have parity : parityDevice (o / 1024) % 5 = o / 1024 / 4 % 5 := device_slot (Nat.mod_lt _ (by decide))
  rw [dramMap_slot, parity] at slots
  exact dataSlot_ne_parity (Nat.mod_lt _ (by decide)) slots

/-- Offsets with one device and one address on it are one offset. -/
theorem dramMap_injective {o p : Nat} (device : (dramMap o).1 = (dramMap p).1) (addr : (dramMap o).2.2 = (dramMap p).2.2) :
    o = p := by
  have group : o / 1024 % 4 = p / 1024 % 4 :=
    (dramMap_group o).symm.trans <| (congrArg (· / 5) device).trans (dramMap_group p)
  have row : o / 1024 / 4 = p / 1024 / 4 := (dramMap_row o).symm.trans <| (congrArg (· / 256) addr).trans (dramMap_row p)
  have byte : o % 256 = p % 256 := (dramMap_byte o).symm.trans <| (congrArg (· % 256) addr).trans (dramMap_byte p)
  have unit : o / 256 % 4 = p / 256 % 4 := by
    have slots := congrArg (· % 5) device
    simp only [dramMap_slot, row] at slots
    exact dataSlot_injective (Nat.mod_lt _ (by decide)) (Nat.mod_lt _ (by decide)) slots
  rw [offset_parts o, offset_parts p, row, group, unit, byte]

/-- Settles O10: a device's number holds the group and the slot, the address on it the row and the byte; the row and the slot
give the data unit. -/
theorem stripeMapInjective : Obligations.StripeMapInjective := by
  intro o p ho _
  refine ⟨fun device _ => dramMap_injective device, dramMap_group o, dramMap_ne_parityDevice o, Nat.mod_lt _ (by decide), ?_⟩
  simp only [dramMap]
  omega

end Sys2Proof.Machine
end

section
/-! A flow warning whose estimate is neither positive nor negative: with the inlet hotter than the outlet by more than 9500 × watts /
663 degrees the model's division gives 0 mL/min, a value of its own, where the statement takes every such flow to be a free value
(R469; log 3). -/

namespace Sys2Proof.Machine

open Sys2Proof

/-- Lean's division of integers rounds a small negative quotient with a negative divisor up, to 0. -/
theorem flowMl_zero {inlet outlet watts : Nat} (colder : 9500 * watts < 663 * (inlet - outlet)) :
    flowMl inlet outlet watts = some 0 := by
  have cooled : outlet < inlet := by omega
  have divisor : (663 * ((outlet : Int) - inlet)) = -((663 * (inlet - outlet) : Nat) : Int) := by
    push_cast [Nat.cast_sub cooled.le]
    ring
  have quotient : (9500 * (watts : Int)) / ((663 * (inlet - outlet) : Nat) : Int) = 0 :=
    Int.ediv_eq_zero_of_lt (by positivity) (by exact_mod_cast colder)
  rw [flowMl, if_neg cooled.ne, divisor, Int.ediv_neg, quotient, neg_zero]

/-- Such a warning is posted with a flow of 0, and no free value is drawn. -/
theorem coolantFlowWarning_zero {s : State} {inlet outlet watts : Nat} (on : isPowered s = true) (loaded : 600 ≤ watts)
    (colder : 9500 * watts < 663 * (inlet - outlet)) : exec (.coolantFlowWarning inlet outlet watts) s =
      .next (post s 0x1106 (packed [(1, 2), (4, inlet), (4, 0)])) := by
  change execCoolantFlowWarning inlet outlet watts s = _
  unfold execCoolantFlowWarning
  rw [flowMl_zero colder]
  exact if_pos ⟨on, rfl, loaded⟩

/-- A module that is on and has drawn no free value. -/
def poweredModule : State := { State.reset with power := { mode := .active } }

/-- Refutes O15, by the clause on flow warnings with a colder outlet: at 600 W, an inlet 10,000 degrees above the outlet. -/
theorem not_thermalLimits : ¬ Obligations.ThermalLimits := by
  unfold Obligations.ThermalLimits
  rintro ⟨-, -, -, -, -, -, -, -, -, colderOutlet, -, -⟩
  obtain ⟨v, drawn⟩ := colderOutlet poweredModule 10000 0 600 rfl (by decide) (by decide)
  rw [coolantFlowWarning_zero (s := poweredModule) rfl (by decide) (by decide)] at drawn
  have counters := congrArg State.freeIdx (Host.Outcome.next.inj drawn)
  rw [post_freeIdx, post_freeIdx] at counters
  exact absurd counters (by decide)

end Sys2Proof.Machine
end

section
/-! SUPPORT. What a stripe that leaves the write buffer takes with it, what reads of LPDDR5X devices cost, and endings that still wait
(R323, R324, R326, R327). -/

namespace Sys2Proof.Machine

open Sys2Proof

/-! ### The cost of reads (R326, R327) -/

/-- `t` is `s` after reads of LPDDR5X devices: times of reconstructions and counts may differ, and nothing else. -/
def Costs (s t : State) : Prop :=
  ∃ (recon : Vector (List Nat) 20) (counts : List CountRec),
    t = { s with mem := { s.mem with reconTimes := recon }, counts := counts }

theorem Costs.refl (s : State) : Costs s s := ⟨s.mem.reconTimes, s.counts, rfl⟩

theorem Costs.after {s t u : State} (k : Costs t u) (h : Costs s t) : Costs s u := by
  obtain ⟨_, _, rfl⟩ := h
  obtain ⟨r, c, rfl⟩ := k
  exact ⟨r, c, rfl⟩

theorem Costs.foldl {α : Type} {f : State → α → State} (h : ∀ s a, Costs s (f s a)) (l : List α) (s : State) :
    Costs s (l.foldl f s) :=
  List.foldlRecOn l f (motive := Costs s) (Costs.refl s) fun _ sofar a _ => (h _ a).after sofar

theorem bump_costs (s : State) (id inst tensor n : Nat) : Costs s (bump s id inst tensor n) := by
  unfold bump
  split
  · exact Costs.refl s
  · exact ⟨s.mem.reconTimes, _, rfl⟩

theorem reconstruct_costs (s : State) (d n : Nat) : Costs s (reconstruct s d n) := reconstruct_eq s d n

theorem chargeRead_costs (s : State) (off n : Nat) : Costs s (chargeRead s off n) := chargeRead_eq s off n

theorem deviceReads_costs (s : State) (units : Nat → Nat) (rs : List DevRead) : Costs s (deviceReads s units rs) := by
  unfold deviceReads
  refine Costs.foldl (fun u r => ?_) rs s
  have counted (x y : Nat) : Costs u (bump (bump u 0x0C04 r.device.val noTensor x) 0x0C05 r.device.val noTensor y) :=
    (bump_costs ..).after (bump_costs ..)
  dsimp only
  split
  · exact counted _ _
  · exact (reconstruct_costs ..).after (counted _ _)

/-! ### Responses and endings that waited for a stripe (R297, R324) -/

/-- What goes out with a stripe is a frame or an output; of memory, the lists of what waits change. -/
theorem releaseAcks_mem (s : State) (t : Nat) : (releaseAcks s t).mem = { s.mem with
    acks := (s.mem.acks.map fun a => { a with stripes := a.stripes.filter (· != t) }).filter fun a => !a.stripes.isEmpty
    ends := s.mem.ends.map (·.without t) } := by
  unfold releaseAcks
  refine (Posts.foldl _ (fun u a => ?_) _ _).mem
  split
  · exact sendFrame_posts ..
  · exact emit_posts ..
  · exact emit_posts ..

theorem releaseAcks_counts (s : State) (t : Nat) : (releaseAcks s t).counts = s.counts := by
  unfold releaseAcks
  refine foldl_same State.counts _ (fun u a => ?_) _ _
  split
  · unfold sendFrame
    split
    · rfl
    · split <;> rfl
  · rfl
  · rfl

/-- With nothing that waits, memory is as it was. -/
theorem releaseAcks_nothing {s : State} (acks : s.mem.acks = []) (ends : s.mem.ends = []) (t : Nat) :
    (releaseAcks s t).mem = s.mem := by
  have same : { s.mem with acks := [], ends := [] } = s.mem := by rw [← acks, ← ends]
  rw [releaseAcks_mem, acks, ends]
  exact same

/-- Where every ending still waits for a stripe none is settled. -/
theorem settleEnds_waiting {s : State} (waiting : ∀ e ∈ s.mem.ends, e.stripes ≠ []) : settleEnds s = s := by
  have none : s.mem.ends.filter (·.stripes.isEmpty) = [] :=
    List.filter_eq_nil_iff.2 fun e he => by simpa using waiting e he
  have all : s.mem.ends.filter (fun e => !e.stripes.isEmpty) = s.mem.ends :=
    List.filter_eq_self.2 fun e he => by simpa using waiting e he
  unfold settleEnds
  dsimp only
  rw [none, all]
  rfl

/-! ### A stripe leaves (R323) -/

theorem flushStripe_absent {s : State} {t : Nat} (absent : ∀ st ∈ s.mem.stripes, st.number ≠ t) : flushStripe s t = s := by
  have none : s.mem.stripes.find? (·.number == t) = none := List.find?_eq_none.2 fun st hst => by simpa using absent st hst
  unfold flushStripe
  rw [none]

/-- The buffer without a stripe. -/
def withoutStripe (s : State) (t : Nat) : State :=
  { s with mem := { s.mem with stripes := s.mem.stripes.filter (·.number != t) } }

/-- A stripe that is there leaves the buffer, at the cost of its read-modify-write unless it is full, and then what waited for it
goes on. -/
theorem flushStripe_found {s : State} {t : Nat} {st : Stripe} (found : s.mem.stripes.find? (·.number == t) = some st) :
    ∃ u, flushStripe s t = releaseAcks u t ∧ Costs (withoutStripe s t) u ∧
      (st.covered = 2 ^ 1024 - 1 → u = withoutStripe s t) := by
  unfold flushStripe
  rw [found]
  dsimp only
  split
  · exact ⟨_, rfl, Costs.refl _, fun _ => rfl⟩
  next partly =>
    exact ⟨_, rfl, (bump_costs ..).after (Costs.foldl (fun _ _ => chargeRead_costs ..) _ _), fun full => absurd full partly⟩

theorem flushStripe_stripes (s : State) (t : Nat) :
    (flushStripe s t).mem.stripes = s.mem.stripes.filter (·.number != t) := by
  cases found : s.mem.stripes.find? (·.number == t) with
  | none =>
    have absent : ∀ st ∈ s.mem.stripes, st.number ≠ t := fun st hst => by simpa using List.find?_eq_none.1 found st hst
    rw [flushStripe_absent absent]
    exact (List.filter_eq_self.2 fun st hst => by simpa using absent st hst).symm
  | some st =>
    obtain ⟨u, flushed, ⟨_, _, rfl⟩, -⟩ := flushStripe_found found
    rw [flushed, releaseAcks_mem]
    rfl

theorem flushEarly_stripes (s : State) (st : Stripe) :
    (flushEarly s st).mem.stripes = s.mem.stripes.filter (·.number != st.number) := by
  unfold flushEarly
  dsimp only
  split
  · exact flushStripe_stripes ..
  · exact flushStripe_stripes ..

end Sys2Proof.Machine
end

section
/-! Stripes whose time is over, devices that are lost, refresh and the patrol scrubs. -/

namespace Sys2Proof.Machine

open Sys2Proof

/-! ### Stripes whose 2 µs are over (R323, R326) -/

/-- A timeout of a stripe that is not in the buffer and has left none of its reads to report. -/
theorem stripeFlushTimeout_absent {s : State} {n : Nat} (absent : ∀ st ∈ s.mem.stripes, st.number ≠ n)
    (reported : ∀ st ∈ s.mem.leftEarly, st.number ≠ n) (waiting : ∀ e ∈ s.mem.ends, e.stripes ≠ []) (reads : List DevRead) :
    exec (.stripeFlushTimeout n reads) s = .next s := by
  have early : s.mem.leftEarly.find? (·.number == n) = none :=
    List.find?_eq_none.2 fun st hst => by simpa using reported st hst
  have none : s.mem.stripes.find? (·.number == n) = none := List.find?_eq_none.2 fun st hst => by simpa using absent st hst
  change execStripeFlushTimeout n s reads = _
  unfold execStripeFlushTimeout
  rw [early, none]
  dsimp only
  rw [flushStripe_absent absent, settleEnds_waiting waiting]

/-- The only stripe of the buffer leaves it, with no ending that waits for it; a full one costs no read. -/
theorem stripeFlushTimeout_only {s : State} {st : Stripe} (only : s.mem.stripes = [st]) (ends : s.mem.ends = [])
    (early : s.mem.leftEarly = []) (reads : List DevRead) :
    ∃ u v, exec (.stripeFlushTimeout st.number reads) s = .next (releaseAcks v st.number) ∧ Costs s u ∧
      Costs (withoutStripe u st.number) v ∧ (st.covered = 2 ^ 1024 - 1 → v = withoutStripe s st.number) := by
  have here (recon counts) : ({ s with mem := { s.mem with reconTimes := recon }, counts := counts } :
      State).mem.stripes.find? (·.number == st.number) = some st := by simp [only]
  obtain ⟨u, met, costs, full⟩ : ∃ u, exec (.stripeFlushTimeout st.number reads) s =
      .next (settleEnds (flushStripe u st.number)) ∧ Costs s u ∧ (st.covered = 2 ^ 1024 - 1 → u = s) := by
    change ∃ u, execStripeFlushTimeout st.number s reads = _ ∧ _
    unfold execStripeFlushTimeout
    rw [early, here s.mem.reconTimes s.counts]
    dsimp only [List.find?_nil]
    split
    · exact ⟨s, rfl, Costs.refl s, fun _ => rfl⟩
    next partly => exact ⟨_, rfl, deviceReads_costs .., fun full => absurd full partly⟩
  have found : u.mem.stripes.find? (·.number == st.number) = some st := by
    obtain ⟨recon, counts, rfl⟩ := costs
    exact here recon counts
  obtain ⟨v, flushed, rest, whole⟩ := flushStripe_found found
  have settled : (releaseAcks v st.number).mem.ends = [] := by
    obtain ⟨_, _, rfl⟩ := costs
    obtain ⟨_, _, rfl⟩ := rest
    rw [releaseAcks_mem]
    simp [withoutStripe, ends]
  refine ⟨u, v, ?_, costs, rest, fun covered => (whole covered).trans (by rw [full covered])⟩
  rw [met, flushed, settleEnds_idle settled]

/-- What such a flush leaves of memory. -/
theorem stripeFlushTimeout_empties {s : State} {st : Stripe} (only : s.mem.stripes = [st]) (acks : s.mem.acks = [])
    (ends : s.mem.ends = []) (early : s.mem.leftEarly = []) (reads : List DevRead) :
    ∃ t, exec (.stripeFlushTimeout st.number reads) s = .next t ∧ t.mem.stripes = [] ∧ t.mem.dram = s.mem.dram ∧
      t.mem.sram = s.mem.sram ∧
      (st.covered = 2 ^ 1024 - 1 → t.mem = { s.mem with stripes := [] } ∧ t.counts = s.counts) := by
  obtain ⟨u, v, flushed, costs, rest, full⟩ := stripeFlushTimeout_only only ends early reads
  have emptied : (withoutStripe s st.number).mem = { s.mem with stripes := [] } := by simp [withoutStripe, only]
  obtain ⟨recon, mem⟩ : ∃ recon, v.mem = { s.mem with stripes := [], reconTimes := recon } := by
    obtain ⟨_, _, rfl⟩ := costs
    obtain ⟨recon, _, rfl⟩ := rest
    exact ⟨recon, by simp [withoutStripe, only]⟩
  have left : (releaseAcks v st.number).mem = v.mem := releaseAcks_nothing (by rw [mem]; exact acks) (by rw [mem]; exact ends) _
  refine ⟨_, flushed, ?_⟩
  rw [left, mem, releaseAcks_counts]
  refine ⟨rfl, rfl, rfl, fun covered => ⟨?_, ?_⟩⟩
  · rw [← mem, full covered, emptied]
  · rw [full covered]
    rfl

/-- What the reads of a stripe that left early met is taken at its timeout (log 102). -/
theorem stripeFlushTimeout_leftEarly {s : State} {st : Stripe} (early : s.mem.leftEarly = [st]) (reads : List DevRead) :
    exec (.stripeFlushTimeout st.number reads) s = .next (deviceReads { s with mem := { s.mem with leftEarly := [] } }
      (rmwUnits st) (reads.filter fun r => r.device.val / 5 == st.number % 4)) := by
  have found : s.mem.leftEarly.find? (·.number == st.number) = some st := by simp [early]
  have last : s.mem.leftEarly.erase st = [] := by simp [early]
  change execStripeFlushTimeout st.number s reads = _
  unfold execStripeFlushTimeout
  rw [found]
  dsimp only
  rw [last]

/-! ### Lost devices (R321, R327, R328) -/

/-- The devices of a group that are lost, device by device. -/
theorem lostInGroup_eq (s : State) (g : Nat) :
    lostInGroup s g = ((List.range 5).map (5 * g + ·)).filter fun d => s.mem.devLost.toList.getD d false := rfl

/-- The first device of a group to be lost is the only one. -/
theorem lostInGroup_first {s t : State} {d : Fin 20} (none : lostInGroup s (d.val / 5) = [])
    (lost : t.mem.devLost = s.mem.devLost.set d true) (others : List Nat) (a b : Nat) :
    lostInGroup t (d.val / 5) ≠ a :: b :: others := by
  have only : ∀ e ∈ lostInGroup t (d.val / 5), e = d.val := by
    intro e he
    obtain ⟨mem, now⟩ := List.mem_filter.1 he
    by_contra other
    have before : s.mem.devLost.toList.getD e false = true := by
      rw [lost] at now
      simpa [Vector.toList_set, List.getD_eq_getElem?_getD, List.getElem?_set, Ne.symm other] using now
    have listed : e ∈ lostInGroup s (d.val / 5) := List.mem_filter.2 ⟨mem, before⟩
    rw [none] at listed
    exact nomatch listed
  have distinct : (lostInGroup t (d.val / 5)).Nodup :=
    (List.nodup_range.map fun _ _ h => Nat.add_left_cancel h).filter _
  intro two
  rw [two] at only distinct
  have same : a = b := (only a (by simp)).trans (only b (by simp)).symm
  exact (List.nodup_cons.1 distinct).1 (by simp [same])

/-- With one device lost a group stays. -/
theorem loseGroup_one {s : State} {g : Nat} (one : ∀ a b others, lostInGroup s g ≠ a :: b :: others) : loseGroup s g = s := by
  unfold loseGroup
  split
  next a b others two => exact absurd two (one a b others)
  · rfl

/-- The first loss of a group is noted and told, and nothing is lost with it (R327). -/
theorem declareLost_first {s : State} {d : Fin 20} (inService : s.mem.devLost[d] = false)
    (none : lostInGroup s (d.val / 5) = []) (cause : Nat) : declareLost s d cause =
      post (setCond { s with mem := { s.mem with devLost := s.mem.devLost.set d true } }
        { kind := 9, die := 0x0B + d.val / 5, index := d.val % 5 } .failed 6) 0x0C02 (packed [(4, d.val), (1, cause)]) := by
  unfold declareLost
  rw [inService]
  exact loseGroup_one fun a b others => lostInGroup_first none (congrArg MemSys.devLost (post_mem ..)) others a b

/-! ### Refresh (R321, R331) -/

theorem foldl_emit {α : Type} (f : α → Output) (l : List α) (s : State) :
    l.foldl (fun u x => emit u (f x)) s = { s with out := s.out ++ l.map f } := by
  induction l generalizing s with
  | nil => simp
  | cons x l ih =>
    rw [List.foldl_cons, ih]
    simp [emit]

/-- An MPD refreshes, and then manages the devices in service that ask for it. -/
theorem refresh_live {s : State} (on : dramLive s = true) (mpd : Fin 4) (managed : List (Fin 5)) :
    exec (.refresh mpd managed) s = .next { s with
      mem := { s.mem with refreshed := s.mem.refreshed.set mpd s.timebase }
      out := s.out ++ [.refreshCmd mpd.val] ++
        (managed.filter fun d => !deviceLost s (5 * mpd.val + d.val)).map fun d =>
          .refreshManage mpd.val (5 * mpd.val + d.val) } := by
  change execRefresh mpd s managed = _
  unfold execRefresh
  rw [if_pos on]
  dsimp only
  rw [foldl_emit]
  rfl

/-! ### The patrol of LPDDR5X (R332) -/

/-- Whether a device of a group is lost. -/
def groupDegraded (s : State) (g : Fin 4) : Bool := (List.range 5).any fun k => deviceLost s (5 * g.val + k)

/-- The patrol reads a stripe row that is not the last of its group and meets no error on the devices: a silent mismatch is told
where no device is lost, and the patrol moves on. -/
theorem lpddr5xScrub_clean {s : State} {row : Nat} {g : Fin 4} (on : dramLive s = true) (there : s.mem.groupGone[g] = false)
    (inside : row + 1 < scrubRows) (xorOk : Bool) : exec (.lpddr5xScrub row g [] xorOk .patrol) s = .next
      (let u := if !xorOk && !groupDegraded s g then post s 0x0C04 (packed [(8, 1024 * (4 * row + g.val))]) else s
       { u with mem := { u.mem with scrubRow := u.mem.scrubRow.set g (row + 1) } }) := by
  have within : ¬ scrubRows ≤ row := by omega
  change execLpddr5xScrub row g [] xorOk s .patrol = _
  unfold execLpddr5xScrub
  rw [if_neg (by simp [on, there, within])]
  dsimp only
  rw [if_neg inside.ne, if_neg inside.ne]
  rfl

/-! ### The patrol of space 0x0 (R319, R332) -/

/-- The patrol has read a line: it moves on, and the last line of a TD ends its pass. -/
def patrolPast (s : State) (line td : Nat) : State :=
  let t := { s with mem := { s.mem with scrubLine := line + 64 } }
  if line = lastLine t td then bump t 0x0C09 td noTensor 1 else t

theorem sramScrub_patrol {s : State} {off : Nat} (on : isPowered s = true) (awake : s.mem.retention = false)
    (up : inReset s = false) (there : sramPopulated s (off / 64 * 64) 64 = true) (uncorrectable : Bool) :
    exec (.sramScrub off false uncorrectable .patrol) s = .next
      (patrolPast (if uncorrectable then sramLost s (off / 64 * 64) none else s) (off / 64 * 64)
        (sramPlace (off / 64 * 64)).1) := by
  change execSramScrub off false uncorrectable s .patrol = _
  unfold execSramScrub
  rw [if_neg (by simp [on, awake, up, there])]
  cases uncorrectable <;> rfl

theorem patrolPast_inside {s : State} {line td : Nat} (inside : line ≠ lastLine s td) :
    patrolPast s line td = { s with mem := { s.mem with scrubLine := line + 64 } } := if_neg inside

@[simp] theorem patrolPast_beat (s : State) (line td : Nat) : (patrolPast s line td).beat = s.beat := by
  unfold patrolPast
  dsimp only
  split
  · exact bump_beat ..
  · rfl

@[simp] theorem patrolPast_mem (s : State) (line td : Nat) :
    (patrolPast s line td).mem = { s.mem with scrubLine := line + 64 } := by
  unfold patrolPast
  dsimp only
  split
  · exact bump_mem ..
  · rfl

/-- A line that nobody has written in the beat and that cannot be read is lost: the program halts at the end of the beat (R319). -/
theorem sramLost_unwritten {s : State} (unwritten : s.beat.writes = []) (off : Nat) : sramLost s off none =
    raiseFault (post { s with mem := { s.mem with
      lostLines := s.mem.lostLines.filter (· != off / 64 * 64) ++ [off / 64 * 64] } } 0x0C01
        (packed [(8, off / 64 * 64), (4, s.step.toNat), (2, s.beat.number)])) 0x0C01 4 := by
  unfold sramLost
  rw [unwritten]
  rfl

/-- A read that touches a lost line delivers no bytes. -/
theorem readLocal_lost {s : State} {line a n : Nat} (lost : line ∈ s.mem.lostLines) (before : line < a + n)
    (behind : a < line + 64) (b : List Byte) : readLocal s 0 a n ≠ .bytes b := by
  have touched : lineLost s a n = true := List.any_eq_true.2 ⟨line, lost, by simp [before, behind]⟩
  rw [readLocal_sram, touched, Bool.not_true, Bool.and_false]
  split
  · exact Got.noConfusion
  · split
    · exact Got.noConfusion
    · exact Got.noConfusion

/-- A halting fault of a running program is its cause, unless another came first. -/
theorem raiseFault_haltCause {s : State} (running : s.pstate = .running) (cause bit : Nat) :
    (raiseFault s cause bit).beat.haltCause = some (s.beat.haltCause.getD cause) := by
  rw [raiseFault, if_pos (by simp [live, running])]

theorem raiseFault_abortFlags {s : State} (running : s.pstate = .running) (cause bit : Nat) :
    (raiseFault s cause bit).beat.abortFlags = s.beat.abortFlags ||| (1#32 <<< bit) := by
  rw [raiseFault, if_pos (by simp [live, running])]

theorem raiseFault_mem (s : State) (cause bit : Nat) : (raiseFault s cause bit).mem = s.mem := by
  obtain ⟨_, noted⟩ := raiseFault_eq s cause bit
  rw [noted]

/-- The line is lost, and its bytes stay in the store undelivered. -/
theorem sramLost_mem {s : State} (unwritten : s.beat.writes = []) (off : Nat) : (sramLost s off none).mem =
    { s.mem with lostLines := s.mem.lostLines.filter (· != off / 64 * 64) ++ [off / 64 * 64] } := by
  rw [sramLost_unwritten unwritten, raiseFault_mem, post_mem]

/-- A running program then halts with event 0x0C01 as its cause, and sets abort flag 4. -/
theorem sramLost_beat {s : State} (unwritten : s.beat.writes = []) (running : s.pstate = .running) (off : Nat) :
    (sramLost s off none).beat.haltCause = some (s.beat.haltCause.getD 0x0C01) ∧
      (sramLost s off none).beat.abortFlags.getLsbD 4 = true := by
  rw [sramLost_unwritten unwritten]
  have still : (post { s with mem := { s.mem with
      lostLines := s.mem.lostLines.filter (· != off / 64 * 64) ++ [off / 64 * 64] } } 0x0C01
        (packed [(8, off / 64 * 64), (4, s.step.toNat), (2, s.beat.number)])).pstate = .running :=
    (post_pstate ..).trans running
  rw [raiseFault_haltCause still, raiseFault_abortFlags still, post_beat]
  exact ⟨rfl, by simp⟩

/-- The patrol meets such a line in a running program. -/
theorem sramScrub_lost {s : State} {off : Nat} (on : isPowered s = true) (awake : s.mem.retention = false)
    (up : inReset s = false) (there : sramPopulated s (off / 64 * 64) 64 = true) (unwritten : s.beat.writes = [])
    (running : s.pstate = .running) :
    ∃ t, exec (.sramScrub off false true .patrol) s = .next t ∧ t.beat.haltCause = some (s.beat.haltCause.getD 0x0C01) ∧
      t.beat.abortFlags.getLsbD 4 = true ∧ t.mem.sram = s.mem.sram ∧ t.mem.dram = s.mem.dram ∧
      (∀ (a n : Nat) (b : List Byte), a < off / 64 * 64 + 64 → off / 64 * 64 < a + n → readLocal t 0 a n ≠ .bytes b) := by
  obtain ⟨cause, flag⟩ := sramLost_beat unwritten running (off / 64 * 64)
  have mem := sramLost_mem unwritten (off / 64 * 64)
  have line : off / 64 * 64 / 64 * 64 = off / 64 * 64 := by omega
  rw [line] at mem
  refine ⟨_, sramScrub_patrol on awake up there true, ?_⟩
  rw [if_pos rfl, patrolPast_beat, patrolPast_mem, mem]
  refine ⟨cause, flag, rfl, rfl, fun a n b below above => readLocal_lost (line := off / 64 * 64) ?_ above below b⟩
  rw [patrolPast_mem, mem]
  exact List.mem_append_right _ (List.mem_singleton_self _)

/-- Settles O59, command by command. -/
theorem memoryDevices : Obligations.MemoryDevices := by
  refine ⟨fun _ _ reads absent reported waiting => stripeFlushTimeout_absent absent reported waiting reads,
    fun _ _ reads only acks ends early => stripeFlushTimeout_empties only acks ends early reads,
    fun _ _ reads early => stripeFlushTimeout_leftEarly early reads, ?_, ?_, ?_, ?_, ?_, ?_, ?_, ?_,
    fun _ _ => sramScrub_lost⟩
  · exact fun s d on many => if_pos ⟨on, many⟩
  · exact fun s d n on failures => if_pos ⟨on, failures⟩
  · exact fun s d on => if_pos on
  · intro s d cause inService none
    refine ⟨_, rfl, ?_⟩
    rw [declareLost_first inService none]
    simp [setCond, updUnit]
  · exact fun s mpd managed on => ⟨_, refresh_live on mpd managed, rfl, rfl⟩
  · exact fun s row g on there inside => lpddr5xScrub_clean on there inside true
  · intro s row g on there inside whole
    have sound : groupDegraded s g = false := List.any_eq_false.2 fun k hk => by
      simp [deviceLost, whole k (List.mem_range.1 hk)]
    refine ⟨_, lpddr5xScrub_clean on there inside false, ?_⟩
    rw [sound]
    rfl
  · intro s off on awake up there inside
    rw [sramScrub_patrol on awake up there false, if_neg Bool.false_ne_true, patrolPast_inside inside]

end Sys2Proof.Machine
end

section
/-! Entering the bench, where what is under way in the write buffer and in transfers ends first, and leaving it. -/

namespace Sys2Proof.Machine

open Sys2Proof

/-! ### SUPPORT. Transfers and commands that end leave memory and the program (R301, R383, R394) -/

/-- Memory, the program and its state. -/
def grounds (s : State) : MemSys × Option Program × PState := (s.mem, s.program, s.pstate)

theorem Rests.grounds {s t : State} (h : Rests s t) : grounds t = Machine.grounds s := by
  simp only [Machine.grounds, h.mem, h.program, h.pstate]

theorem sendBulk_grounds (s : State) (node tid dst : Nat) (data : List Byte) :
    grounds (sendBulk s node tid dst data none) = grounds s := by
  unfold sendBulk
  split
  · rfl
  · refine foldl_same grounds _ (fun _ _ => ?_) _ _
    exact (enqueue_posts ..).rests.grounds

theorem startBulkIn_grounds (s : State) (node src dst len : Nat) (o : Owner) :
    grounds (startBulkIn s node src dst len o) = grounds s := by
  unfold startBulkIn
  dsimp only
  split
  · exact (failBulk_rests (List.mem_append_right _ (List.mem_singleton_self _)) 3).grounds.trans rfl
  · exact (sendFrame_posts ..).rests.grounds.trans rfl

theorem startBulkOut_grounds (s : State) (node src dst : Nat) (data : List Byte) (o : Owner) (rest : Nat) :
    grounds (startBulkOut s node src dst data o rest) = grounds s := by
  unfold startBulkOut
  dsimp only
  split
  · exact (failBulk_rests (List.mem_append_right _ (List.mem_singleton_self _)) 3).grounds.trans rfl
  · exact (sendBulk_grounds ..).trans rfl

theorem relayOn_grounds (s : State) (w : Who) (b : Bulk) : grounds (relayOn s w b) = grounds s := by
  unfold relayOn
  dsimp only
  split
  · exact (startBulkOut_grounds ..).trans rfl
  · split
    · exact startBulkIn_grounds ..
    · rfl

theorem returnCompletion_grounds (s : State) (p : Proxied) (e : Event) : grounds (returnCompletion s p e) = grounds s := by
  unfold returnCompletion
  dsimp only
  split
  · rfl
  · split
    · rfl
    · exact (deliverCompletion_posts ..).rests.grounds.trans rfl

theorem proxyMoved_grounds (s : State) (c : Cmd) : grounds (proxyMoved s c) = grounds s := by
  unfold proxyMoved
  split
  · rfl
  · split
    · exact (forwardFrom_rests ..).grounds
    · exact returnCompletion_grounds ..
    · rfl

theorem finishBulk_grounds (s : State) (b : Bulk) : grounds (finishBulk s b) = grounds s := by
  unfold finishBulk
  dsimp only
  split
  · exact relayOn_grounds ..
  · split
    · exact (startBulkIn_grounds ..).trans rfl
    · split
      · rfl
      · split
        · rfl
        · exact (done_rests ..).grounds.trans rfl
      · split
        · rfl
        · exact (proxyMoved_grounds ..).trans rfl
      · rfl

/-- What is settled leaves the list of what ends with its stripes; memory and the program are otherwise as they were. -/
theorem settleEnds_grounds (s : State) : grounds (settleEnds s) =
    grounds { s with mem := { s.mem with ends := s.mem.ends.filter fun e => !e.stripes.isEmpty } } := by
  unfold settleEnds
  refine foldl_same grounds _ (fun u e => ?_) _ _
  split
  · split
    · exact (complete_rests ..).grounds
    · exact (done_rests ..).grounds
  · split
    · exact finishBulk_grounds ..
    · rfl

/-! ### Entering (R333) -/

theorem foldl_flushEarly_stripes (l : List Stripe) (s : State) : (l.foldl flushEarly s).mem.stripes =
    s.mem.stripes.filter fun x => l.all fun st => x.number != st.number := by
  induction l generalizing s with
  | nil => simp
  | cons st l ih => simp [ih, flushEarly_stripes, List.filter_filter, Bool.and_comm]

/-- Every stripe leaves the write buffer. -/
theorem flushAll_stripes (s : State) : (s.mem.stripes.foldl flushEarly s).mem.stripes = [] := by
  rw [foldl_flushEarly_stripes]
  refine List.filter_eq_nil_iff.2 fun x hx all => ?_
  simpa using List.all_eq_true.1 all x hx

/-- Flushing leaves the temperatures of the devices. -/
theorem Flushes.mr4 {s t : State} (h : Flushes s t) : t.mem.mr4 = s.mem.mr4 := by
  have e := congrArg MemSys.mr4 (Posts.mem h.1); exact e

/-- The module as everything under way has ended: queued writes, what waited for them, fetches and withheld frames. -/
def drained (s : State) : State := dropWithheld (dropFetches (settleEnds (s.mem.stripes.foldl flushEarly s)))

/-- Draining changes no byte of memory and no temperature, and leaves the program. -/
theorem drained_frame (s : State) : (drained s).mem.stripes = [] ∧ (drained s).mem.sram = s.mem.sram ∧
    (drained s).mem.dram = s.mem.dram ∧ (drained s).mem.mr4 = s.mem.mr4 ∧ (drained s).program = s.program ∧
    (drained s).pstate = s.pstate := by
  have flushed : Flushes s (s.mem.stripes.foldl flushEarly s) := Flushes.foldl _ flushEarly_flushes _ _
  have kept : grounds (drained s) = grounds (settleEnds (s.mem.stripes.foldl flushEarly s)) := by
    obtain ⟨_, _, dropped⟩ := dropWithheld_eq (dropFetches (settleEnds (s.mem.stripes.foldl flushEarly s)))
    rw [drained, dropped]
    rfl
  obtain ⟨mem, program, pstate⟩ : _ ∧ _ ∧ _ := by
    simpa only [grounds, Prod.mk.injEq] using kept.trans (settleEnds_grounds _)
  rw [mem, program, pstate]
  exact ⟨flushAll_stripes s, flushed.sram, flushed.dram, flushed.mr4, flushed.1.program, flushed.1.pstate⟩

/-- The memories in self-refresh and retention, and what R333 does not keep gone. -/
def retained (s : State) : State :=
  { s with
    mem := { s.mem with retention := true, benchMr4 := s.mem.mr4, buffers := [] }
    power := { s.power with mode := .bench, computeStopped := true }
    mbox := { s.mbox with module := .bench }
    side := [], gates := [], ingest := {}
    reduce := { s.reduce with tags := [] }
    fabric := { s.fabric with
      arrivals := hostArrivals s
      ports := s.fabric.ports.map fun q => { q with queues := Vector.replicate 6 [] }
      heldCredits := [] } }

theorem benchEnter_runs {s : State} {c : Cmd} (h : Runs s c 0x010A 1 true false [.empty, .loaded, .paused, .halted])
    (enter : arg c 16 1 = 1) (rest : restZero c [(16, 1)] = true) :
    exec (.benchEnter c) s = .next (done (post (retained (drained s)) 0x1108 (packed [(1, 1)])) c 0) := by
  change execBenchEnter c s = _
  unfold execBenchEnter
  rw [if_neg (by simp [enter])]
  refine (command_gated h ?_ _).trans rfl
  simp [enter, rest]

/-! ### Leaving (R334) -/


theorem benchLeave_executes {s : State} {c : Cmd} (h : Executes s c 0x010A) (ring : c.ring = 1) (bench : s.power.mode = .bench)
    (leave : arg c 16 1 = 0) (rest : restZero c [(16, 1)] = true) :
    exec (.benchLeave c [] []) s = .next (done (post { s with
      mem := { s.mem with retention := false }
      power := { s.power with mode := .active, computeStopped := s.power.thermalFault }
      mbox := { s.mbox with module := if s.power.thermalFault then .computeReset else .ready } } 0x1108 (packed [(1, 2)])) c 0) := by
  have none (l : List (Fin 20)) : l.filter ([] : List (Fin 20)).contains = [] := List.filter_eq_nil_iff.2 (by simp)
  change execBenchLeave c [] [] s = _
  unfold execBenchLeave
  rw [if_neg (by simp [leave]), command_executes h]
  dsimp only [List.zipIdx_nil, List.foldl_nil]
  rw [if_neg (by simp [ring]), if_neg (by simp [bench]), if_neg (by simp [rest]), none]
  rfl

/-- Settles O40: what is under way ends without a byte changed, then the memories go to retention; leaving without readings and
without devices to retrain only turns that back. -/
theorem bench : Obligations.Bench := by
  constructor
  · intro s c h enter rest
    obtain ⟨stripes, sram, dram, mr4, program, pstate⟩ := drained_frame s
    refine ⟨_, benchEnter_runs h enter rest, ?_⟩
    simp [retained, stripes, sram, dram, mr4, program, pstate]
  · intro s c h ring bench leave rest
    refine ⟨_, benchLeave_executes h ring bench leave rest, ?_⟩
    simp

end Sys2Proof.Machine
end

section
/-! Power-on: what the steps before the ports train set, unit by unit and field by field. -/

namespace Sys2Proof.Machine

open Sys2Proof

/-! ### Up to the running image (R403, R409, R419 to R421) -/

/-- `u` is a module that was `s` and is in bring-up with an image: the MCP runs, and what flash holds of slots, grade and disabled
tiles, RESET_IN# and the program's state are as they were. -/
structure Starting (s : State) (b : BootIn) (img : Image) (u : State) : Prop where
  mcpUp : u.mbox.mcpUp = true
  module : u.mbox.module = .bringUp
  mode : u.power.mode = .bringUp
  resetInLow : u.power.resetInLow = s.power.resetInLow
  image : u.fw.image = img
  identity : u.fw.identity = b.seedOk
  slots : u.flash.slots = s.flash.slots
  grade : u.flash.grade = s.flash.grade
  disabled : u.flash.disabled = s.flash.disabled
  pstate : u.pstate = s.pstate

section
variable {s u : State} {b : BootIn} {img : Image}

theorem Starting.posts {t : State} (h : Starting s b img u) (k : Posts u t) : Starting s b img t :=
  ⟨k.mcpUp.trans h.mcpUp, k.module.trans h.module, (congrArg Power.mode k.power).trans h.mode,
    (congrArg Power.resetInLow k.power).trans h.resetInLow, (congrArg Firmware.image k.fw).trans h.image,
    (congrArg Firmware.identity k.fw).trans h.identity, (congrArg Flash.slots k.flash).trans h.slots,
    (congrArg Flash.grade k.flash).trans h.grade, (congrArg Flash.disabled k.flash).trans h.disabled, k.pstate.trans h.pstate⟩

theorem Starting.ite {c : Prop} [Decidable c] {t : State} (h : Starting s b img t) (k : Starting s b img u) :
    Starting s b img (if c then t else u) := by
  split
  · exact h
  · exact k

/-- The verified image is the one that runs, with its own settings or the defaults (R421). -/
theorem Starting.bootImage {old : Image} (h : Starting s b old u) (img : Image) (ok : Bool) :
    Starting s b img (bootImage u img ok) := by
  have runs (profiles : Option (Vector Profile 4)) : Starting s b img { u with fw := { u.fw with
      image := img, memProfiles := profiles, aliasKey := u.fw.seed.map fun x => aliasKey x img.digest } } :=
    ⟨h.mcpUp, h.module, h.mode, h.resetInLow, rfl, h.identity, h.slots, h.grade, h.disabled, h.pstate⟩
  unfold Machine.bootImage
  refine Starting.ite ?_ (Starting.ite ?_ (runs none))
  · exact (runs _).posts (post_posts ..)
  · exact (runs _).posts (post_posts ..)

/-- The boot record and its authentication are rewritten at most; slots, grade and disabled tiles are not (R407, R408). -/
theorem writeBoot_eq (u : State) (r : BootRecord) : ∃ boot n mac,
    writeBoot u r = { u with flash := { u.flash with boot := boot, bootWrites := n, bootMac := mac } } := by
  unfold writeBoot
  split
  · exact ⟨u.flash.boot, u.flash.bootWrites, u.flash.bootMac, rfl⟩
  · exact ⟨_, _, _, rfl⟩

theorem bootAuthentic_congr {t : State} (seed : t.fw.seed = s.fw.seed) (flash : t.flash = s.flash) :
    bootAuthentic t = bootAuthentic s := by
  unfold bootAuthentic
  rw [seed, flash]

/-- The module as its identity has been derived (R400). -/
def identified (s : State) (b : BootIn) : State :=
  deriveIdentity { s with power := { s.power with mode := .bringUp, vinMv := b.mv, hardTrip := false } } b

/-- A trial that the power loss cut short falls back (R409, R419). -/
def cutShort (s : State) (b : BootIn) : Bool := b.seedOk && (identified s b).flash.boot.trialSlot.isSome

/-- The MCP starts, such a trial cleared from the boot record. -/
def mcpStarted (s : State) (b : BootIn) : State :=
  let a := if cutShort s b then writeBoot (identified s b) { (identified s b).flash.boot with trialSlot := none } else identified s b
  { a with mbox := { a.mbox with module := .bringUp, mcpUp := true } }

/-- The image runs, and what it reports is posted: a missing identity, and a fallback with its compute reset and profile. -/
def imageRuns (s : State) (b : BootIn) (img : Image) : State :=
  let a := if b.seedOk then mcpStarted s b else post (mcpStarted s b) 0x0F07 (packed [(1, 1)])
  let a := Machine.bootImage a img b.settingsOk
  if cutShort s b then
    post (post (post a 0x1009 (packed [(1, 4)])) 0x0F08 (packed [(1, b.profileSel.toNat), (1, 1)])) 0x0F04
      (packed [(1, 3), (8, leNat (img.digest.take 8))])
  else a

theorem mcpStarted_starting (s : State) (b : BootIn) : Starting s b (mcpStarted s b).fw.image (mcpStarted s b) := by
  obtain ⟨_, _, _, written⟩ := writeBoot_eq (identified s b) { (identified s b).flash.boot with trialSlot := none }
  unfold mcpStarted
  rw [written]
  cases cutShort s b
  · exact ⟨rfl, rfl, rfl, rfl, rfl, rfl, rfl, rfl, rfl, rfl⟩
  · exact ⟨rfl, rfl, rfl, rfl, rfl, rfl, rfl, rfl, rfl, rfl⟩

theorem imageRuns_starting (s : State) (b : BootIn) (img : Image) : Starting s b img (imageRuns s b img) := by
  have started := mcpStarted_starting s b
  have runs := Starting.bootImage (Starting.ite (c := b.seedOk = true) started (started.posts (post_posts _ 0x0F07 (packed [(1, 1)]))))
    img b.settingsOk
  exact Starting.ite (((runs.posts (post_posts ..)).posts (post_posts ..)).posts (post_posts ..)) runs

/-- The power-on steps of a module whose image boots come to the bring-up of its dies. -/
theorem powerOnSteps_boots (boots : Boots s b img) : powerOnSteps s b = bringUp (imageRuns s b img) b := by
  obtain ⟨record, authentic, config, slot, fields, image⟩ := boots
  have authentic : bootAuthentic (identified s b) = true := (bootAuthentic_congr rfl rfl).trans authentic
  have fields : bootFieldsOk (identified s b).flash.boot = true := fields
  have image : bootable (identified s b).flash (identified s b).flash.boot.activeSlot = some img := image
  change (if !b.bootRecordOk || !bootAuthentic (identified s b) || !b.configOk || !bootFieldsOk (identified s b).flash.boot then
      bootStops (identified s b)
    else match (if b.slotOk then bootable (identified s b).flash (identified s b).flash.boot.activeSlot else none) with
      | none => bootStops (identified s b)
      | some i => bringUp (imageRuns s b i) b) = _
  rw [if_neg (by simp [record, authentic, config, fields]), if_pos slot, image]

/-! ### Bring-up of the dies (R426, R428, R442) -/

/-- What stand-ins leave alone. -/
def settled (s : State) : Bool × ModState × Power × Firmware × Flash × MemSys :=
  (s.mbox.mcpUp, s.mbox.module, s.power, s.fw, s.flash, s.mem)

theorem Posts.settled {s t : State} (h : Posts s t) : settled t = Machine.settled s := by
  simp only [Machine.settled, h.mcpUp, h.module, h.power, h.fw, h.flash, h.mem]

theorem leaveNumber_settled (s : State) (u : PhysUnit) (n : Nat) : settled (leaveNumber s u n) = settled s := by
  unfold leaveNumber
  dsimp only
  split
  · rfl
  · rfl

theorem rerun_settled (s : State) (unit : Nat) : settled (rerun s unit) = settled s := by
  unfold rerun rerunThose
  split
  · rfl
  · exact (bump_posts ..).settled.trans rfl

theorem compactOne_settled (s : State) (x : PhysUnit × Nat) : settled (compactOne s x) = settled s := by
  unfold compactOne
  refine (post_posts ..).settled.trans ?_
  split
  · split
    · exact (leaveNumber_settled ..).trans rfl
    · exact leaveNumber_settled ..
  · exact leaveNumber_settled ..

theorem compact_settled (s : State) (kind die : Nat) : settled (compact s kind die) = settled s := by
  unfold compact
  split
  · rfl
  · exact foldl_same Machine.settled _ compactOne_settled _ _

theorem abandon_settled (s : State) (unit : Nat) : settled (abandon s unit) = settled s := by
  unfold abandon
  split
  · rfl
  · rfl

theorem standIn_settled (s : State) (u : PhysUnit) (unit : Nat) : settled (standIn s u unit) = settled s := by
  unfold standIn
  dsimp only
  split
  · exact (rerun_settled ..).trans <| (post_posts ..).settled.trans <| (leaveNumber_settled ..).trans rfl
  · exact (compact_settled ..).trans (abandon_settled ..)

/-- Of flash, the table at power-on depends on the grade and the tiles disabled at manufacture alone (R428). -/
theorem bootUnits_congr {f g : Flash} (grade : g.grade = f.grade) (disabled : g.disabled = f.disabled) (b : BootIn) :
    bootUnits g b = bootUnits f b := by
  simp only [bootUnits, grade, disabled]

/-- READY waits for the ports that train: the first is there in every port mode, and none has run its gate. -/
theorem checkReady_trains {s : State} {us : List UnitEntry} {modes : Nat} (trains : s.fabric.ports = bootPorts us modes) :
    checkReady s = s := by
  have first : (bootPorts us modes)[0] ∈ (bootPorts us modes).toList := by simp
  have waits : (!enabled (bootPorts us modes)[0] || (bootPorts us modes)[0].gated) = false := by
    simp [bootPorts, portShape, enabled, Port.reset]
  refine if_neg fun ready => ?_
  have all := ready.2
  rw [trains, List.all_eq_true] at all
  exact absurd ((all _ first).symm.trans waits) (by decide)

/-- Bring-up zeroes the memory and numbers the units, which stand-ins leave alone but for the failed ones; with the profile of the
contacts in force it leaves the ports in training. -/
theorem bringUp_booted (h : Starting s b img u) :
    Booted s (bringUp u b) b img ∧ (bringUp u b).power.resetInLow = s.power.resetInLow := by
  unfold bringUp
  extract_lets lost gone _ trained pipes _ tested stood _ _ chosen profile _ _ _ training
  have kept : settled stood = settled tested := foldl_same Machine.settled _ (fun v x => by
    split
    · split
      · exact standIn_settled ..
      · rfl
    · rfl) _ _
  have numbered : tested.units = bootUnits u.flash b := by dsimp only [tested, trained]
  have alone : b.failedUnits = [] → stood.units = bootUnits u.flash b ∧ stood.pstate = u.pstate := fun none => by
    have nobody : stood = tested := by
      unfold stood
      rw [none]
      rfl
    rw [nobody]
    exact ⟨numbered, rfl⟩
  have tests : settled tested = (u.mbox.mcpUp, u.mbox.module, u.power, u.fw, u.flash, tested.mem) := rfl
  have zeroed : tested.mem.dram = [] := rfl
  clear_value stood tested
  rw [tests, settled, Prod.mk.injEq, Prod.mk.injEq, Prod.mk.injEq, Prod.mk.injEq, Prod.mk.injEq] at kept
  obtain ⟨mcpUp, module, power, fw, flash, mem⟩ := kept
  have trains : checkReady training = training := checkReady_trains (us := chosen.units) (modes := profile.ports.toNat) rfl
  rw [trains]
  refine ⟨⟨mcpUp.trans h.mcpUp, module.trans h.module, (congrArg Power.mode power).trans h.mode,
    (congrArg Firmware.image fw).trans h.image, (congrArg Firmware.identity fw).trans h.identity, rfl,
    (congrArg Flash.slots flash).trans h.slots, (congrArg MemSys.dram mem).trans zeroed, fun none => ?_⟩,
    (congrArg Power.resetInLow power).trans h.resetInLow⟩
  obtain ⟨units, pstate⟩ := alone none
  exact ⟨units.trans (bootUnits_congr h.grade h.disabled b), pstate.trans h.pstate⟩

/-- A module whose rails were off and whose image boots is brought up to the training of its ports. -/
theorem powerOnSteps_booted (boots : Boots s b img) :
    Booted s (powerOnSteps s b) b img ∧ (powerOnSteps s b).power.resetInLow = s.power.resetInLow := by
  rw [powerOnSteps_boots boots]
  exact bringUp_booted (imageRuns_starting s b img)

end

/-! ### The two ways in (R453, R471, R472) -/

/-- RESET_IN# is high again, and a hard trip's latch is clear. -/
def released (s : State) : State := { s with power := { s.power with resetInLow := false, hardTrip := false } }

/-- PROFILE_SEL as it was sampled when the input came, where that was in Standby (R471). -/
def sampledOnce (s : State) (b : BootIn) : BootIn :=
  { b with profileSel := if s.power.mode = .standby then s.power.profileSel else b.profileSel }

theorem sampledOnce_eq (s : State) (b : BootIn) :
    (if s.power.mode = .standby then { b with profileSel := s.power.profileSel } else b) = sampledOnce s b := by
  unfold sampledOnce
  split
  · rfl
  · rfl

theorem resetInRelease_starts {s : State} {b : BootIn} (held : s.power.resetInLow = true) (off : isPowered s = false)
    (low : 44000 ≤ b.mv) (high : b.mv ≤ 60000) :
    exec (.resetInRelease b) s = .next (powerOnSteps (released s) (sampledOnce s b)) := by
  have off : (!isPowered (released s)) = true := by
    rw [Bool.not_eq_true']
    exact off
  change execResetInRelease b s = _
  unfold execResetInRelease
  rw [if_pos held, sampledOnce_eq]
  exact if_pos ⟨off, low, high⟩

theorem powerOn_starts {s : State} {b : BootIn} (off : s.power.mode = .off) (low : 44000 ≤ b.mv) (high : b.mv ≤ 60000)
    (cool : s.power.hardTrip = false) (free : s.power.resetInLow = false) :
    exec (.powerOn b) s = .next (powerOnSteps s b) := by
  change execPowerOn b s = _
  unfold execPowerOn
  rw [if_pos (by simp [off, low, high, cool]), if_neg (by simp [free])]

theorem Boots.released {s : State} {b : BootIn} {img : Image} (boots : Boots s b img) :
    Boots (released s) (sampledOnce s b) img := by
  obtain ⟨record, authentic, rest⟩ := boots
  exact ⟨record, (bootAuthentic_congr rfl rfl).trans authentic, rest⟩

/-- Settles O12: both ways lead into the power-on steps, whose image boots; a hard trip keeps a module Off. -/
theorem powerOn : Obligations.PowerOn := by
  refine ⟨?_, ?_, ?_⟩
  · intro s b img off low high cool free boots
    exact ⟨_, powerOn_starts off low high cool free, (powerOnSteps_booted boots).1⟩
  · intro s b img held off low high boots
    obtain ⟨booted, free⟩ := powerOnSteps_booted boots.released
    exact ⟨_, resetInRelease_starts held off low high, free, booted⟩
  · intro s b _ tripped
    exact if_neg (by simp [tripped])

end Sys2Proof.Machine
end

section
/-! SUPPORT. The lengths of the tables of READ_TABLE (R386, R436, R450). -/

namespace Sys2Proof.Machine

open Sys2Proof

theorem leBytes_length (n v : Nat) : (leBytes n v).length = n := by
  induction n generalizing v with
  | zero => rfl
  | succ n ih => simp [leBytes, ih]

theorem padTo_length (n : Nat) (b : List Byte) : (padTo n b).length = n := by
  simp only [padTo, List.length_append, List.length_take, List.length_replicate]
  omega

/-- Entries of one length. -/
theorem length_flatMap_of_forall {α : Type} {f : α → List Byte} {n : Nat} (each : ∀ x, (f x).length = n) (l : List α) :
    (l.flatMap f).length = n * l.length := by
  rw [List.length_flatMap, List.map_congr_left fun x _ => each x, List.map_const', List.sum_replicate, smul_eq_mul, Nat.mul_comm]

theorem identityRecord_length (s : State) : (identityRecord s).length = 256 := by
  simp [-List.reduceReplicate, identityRecord, leBytes_length, padTo_length]

theorem countsTable_length (s : State) : (countsTable s).length = 32 + 24 * s.counts.length := by
  have records := length_flatMap_of_forall (n := 24) (f := fun c : CountRec =>
    leBytes 2 c.id ++ leBytes 2 c.instance_ ++ leBytes 4 c.tensor ++ leBytes 8 c.last ++ leBytes 8 c.total)
    (fun c => by simp [leBytes_length]) s.counts
  rw [countsTable, List.length_append, records]
  simp [leBytes_length]

theorem unitTable_length (s : State) : (unitTable s).length = 16 + 16 * s.units.length := by
  have entries := length_flatMap_of_forall (n := 16) (f := unitEntryBytes)
    (fun u => by simp [unitEntryBytes, leBytes_length]) s.units
  rw [unitTable, List.length_append, entries]
  simp [leBytes_length]

theorem fabricRecBytes_length (r : FabricRec) : (fabricRecBytes r).length = 16 := by
  simp [fabricRecBytes, leBytes_length]

theorem portRecBytes_length (r : PortRec) : (portRecBytes r).length = 64 := by
  simp [portRecBytes, leBytes_length]

theorem recordTable_length (s : State) : (tableBytes s 4).length = 784 := by
  have records := length_flatMap_of_forall (n := 64) (fun q : Port => portRecBytes_length q.rcd) s.fabric.ports.toList
  change (fabricRecBytes s.fabric.rcd ++ s.fabric.ports.toList.flatMap fun q => portRecBytes q.rcd).length = 784
  rw [List.length_append, records, fabricRecBytes_length, Vector.length_toList]

/-- One byte for each node id. -/
theorem routeBytes_length : ∀ (n k : Nat) (l : List (Nat × Nat)), (routeBytes n k l).length = n
  | 0, _, _ => rfl
  | n + 1, k, [] => congrArg (· + 1) (routeBytes_length n (k + 1) [])
  | n + 1, k, (a, e) :: l => by
    unfold routeBytes
    split
    · exact congrArg (· + 1) (routeBytes_length n (k + 1) l)
    · exact congrArg (· + 1) (routeBytes_length n (k + 1) ((a, e) :: l))

end Sys2Proof.Machine
end

section
/-! READ_TABLE, DMA and ABORT. -/

namespace Sys2Proof.Machine

open Sys2Proof

/-! ### SUPPORT. What host memory gives and takes (R383, R388) -/

section
variable {s : State} {c : Cmd}

/-- A command whose needs depend on the state is executed where they are met (R384). -/
theorem command_gated_at {op ring : Nat} {compute memory : State → Bool} {states : List PState}
    (h : Runs s c op ring (compute s) (memory s) states) {ok : State → Bool} (fields : ok s = true) (k : State → State → State) :
    command s c op (fun s => gated s c ring (compute s) (memory s) states (ok s) (k s)) = .next (k s s) := by
  rw [command_runs h, fields, gated_runs h]

theorem fromHost_some (direct : c.path ≠ .proxy) (addr n : Nat) (b : List Byte) :
    fromHost s c addr n (some b) = (.bytes (padTo n b), emit s (.hostRead (BitVec.ofNat 64 addr) n)) := if_neg direct

theorem reads_host (direct : c.path ≠ .proxy) (addr n : Nat) (b : List Byte) : Reads s c 0 addr n (some b) (padTo n b)
    (dropArrivals (emit s (.hostRead (BitVec.ofNat 64 addr) n)) (cmdKey c)) :=
  ⟨_, fromHost_some direct addr n b, rfl⟩

/-! ### READ_TABLE (R386) -/

theorem readTable_runs (h : Runs s c 0x0401 3 false false anyState) (table : arg c 16 1 ≤ 5) (toHost : arg c 17 1 = 0)
    (rest : restZero c [(16, 2), (24, 12)] = true) (direct : c.path ≠ .proxy) (kept : Kept s c) :
    exec (.readTable c) s = .next (complete
      (emit s (.hostWrite (BitVec.ofNat 64 (arg c 24 8)) ((tableBytes s (arg c 16 1)).take (arg c 32 4)) true)) c 0 0
      (tableBytes s (arg c 16 1)).length 0) := by
  have memory : (arg c 17 1 == 1) = false := by simp [toHost]
  change execReadTable c s = _
  unfold execReadTable
  rw [memory]
  refine (command_gated h ?_ _).trans ?_
  · simp [table, rest]
  · dsimp only
    rw [toHost, finishData_host direct kept]
    rfl

/-! ### DMA (R387, R388) -/

/-- A line is one piece. -/
theorem dmaPieces_line {off : Nat} (aligned : off % 64 = 0) : dmaPieces off 64 = [(off, 64)] := by
  have within : (off + 64 - 1) / 1024 - off / 1024 + 1 = 1 := by omega
  have lo : max off (1024 * (off / 1024)) = off := by omega
  have hi : min (off + 64) (1024 * (off / 1024 + 1)) = off + 64 := by omega
  unfold dmaPieces
  rw [within]
  simp [rangeFrom, lo, hi]

/-- A command that executes waits for no acknowledgment of its data. -/
theorem awaiting_executes {op : Nat} (h : Executes s c op) : s.mbox.awaiting.find? (·.cmd == c) = none := by
  have idle := h.2.2.2
  simp only [underWay, Bool.or_eq_false_iff, List.any_eq_false] at idle
  exact List.find?_eq_none.2 idle.1.1

/-- The only ending is a command's whose bytes are visible: it completes. -/
theorem settleEnds_command (only : s.mem.ends = [.command c []]) (settled : s.mbox.awaiting.find? (·.cmd == c) = none) :
    settleEnds s = done { s with mem := { s.mem with ends := [] } } c 0 := by
  have go : [Ending.command c []].filter (·.stripes.isEmpty) = [.command c []] := rfl
  have left : [Ending.command c []].filter (fun e => !e.stripes.isEmpty) = [] := rfl
  unfold settleEnds
  dsimp only
  rw [only, go, left, List.foldl_cons, List.foldl_nil]
  dsimp only
  rw [settled]

/-- A command's bytes that nothing holds back are visible at once, and it completes. -/
theorem settleEnds_visible {space off n : Nat} (ends : s.mem.ends = []) (visible : stripesHeld s space off n = [])
    (settled : s.mbox.awaiting.find? (·.cmd == c) = none) :
    settleEnds (endWhenVisible s space off n (.command c)) = done s c 0 := by
  have same : { s.mem with ends := [] } = s.mem := by rw [← ends]
  have only : (endWhenVisible s space off n (.command c)).mem.ends = [.command c []] := by
    simp [endWhenVisible, ends, visible]
  rw [settleEnds_command only settled]
  simp only [endWhenVisible, same]

/-- With no read of a view that waits, a command's read is of the step in force and leaves nothing behind. -/
theorem viewRead_idle (none : s.fabric.waiting = []) : viewRead s c = s := by
  have same : { s.fabric with waiting := [] } = s.fabric := by rw [← none]
  simp only [viewRead, none, List.filter_nil, same]

theorem issueStep_idle (none : s.fabric.waiting = []) : issueStep s c = s.step := by
  simp [issueStep, none]

/-- A line of this module's memory goes to the host, and the DMA is complete. -/
theorem dmaOut_line {op space off : Nat} {b : List Byte} (h : Executes s c op) (aligned : off % 64 = 0)
    (direct : c.path ≠ .proxy) (stripes : s.mem.stripes = []) (ends : s.mem.ends = []) (waiting : s.fabric.waiting = [])
    (got : readLocal s space off 64 = .bytes b) (haddr : Nat) : dmaOut s c haddr space off 64 =
      done (emit (if space = 1 then chargeRead s off 64 else s) (.hostWrite (BitVec.ofNat 64 haddr) b true)) c 0 := by
  have got : readLocalAt s (issueStep s c) space off 64 = .bytes b := (issueStep_idle waiting) ▸ got
  have sound : ([(off, 64)].map fun p => readLocalAt s (issueStep s c) space p.1 p.2) = [.bytes b] := by rw [List.map_singleton, got]
  have ready : ([(off, 64)].find? fun p => readLocalAt s (issueStep s c) space p.1 p.2 == .wait) = none := by simp [got]
  have charge : Costs s (if space = 1 then chargeRead s off 64 else s) := by
    split
    · exact chargeRead_costs ..
    · exact Costs.refl s
  unfold dmaOut
  rw [dmaPieces_line aligned, viewRead_idle waiting, sound, ready]
  refine (if_neg (by simp)).trans ((if_neg direct).trans ?_)
  change settleEnds (endWhenVisible (toHostWhenVisible (if space = 1 then chargeRead s off 64 else s) c space off 64 haddr (b ++ []))
    space off 64 (.command c)) = _
  rw [List.append_nil]
  generalize (if space = 1 then chargeRead s off 64 else s) = u at charge ⊢
  have buffer : u.mem.stripes = [] := by obtain ⟨_, _, rfl⟩ := charge; exact stripes
  have nothing : u.mem.ends = [] := by obtain ⟨_, _, rfl⟩ := charge; exact ends
  have settled : u.mbox.awaiting.find? (·.cmd == c) = none := by obtain ⟨_, _, rfl⟩ := charge; exact awaiting_executes h
  have sent : toHostWhenVisible u c space off 64 haddr b = emit u (.hostWrite (BitVec.ofNat 64 haddr) b true) := by
    unfold toHostWhenVisible
    rw [stripesHeld_empty buffer]
    rfl
  rw [sent]
  exact settleEnds_visible nothing (stripesHeld_empty buffer ..) settled

/-- A line the host gives is all of what the only piece takes. -/
theorem sub_padTo (n : Nat) (b : List Byte) : sub (padTo n b) 0 n = padTo n b :=
  List.take_of_length_le (padTo_length n b).le

/-- A line of host memory goes into this module's memory, and the DMA ends when its bytes are visible. -/
theorem dmaIn_line {space off haddr st : Nat} {t : State} {b : List Byte} (aligned : off % 64 = 0) (direct : c.path ≠ .proxy)
    (sound : storable s space off 64 = true)
    (written : writeLocal (emit s (.hostRead (BitVec.ofNat 64 haddr) 64)) space off (padTo 64 b) = (st, t)) :
    dmaIn s c haddr space off 64 (some b) = settleEnds (endWhenVisible t space off 64 (.command c)) := by
  have all : ([(off, 64)].all fun p => storable s space p.1 p.2) = true := by simp [sound]
  unfold dmaIn
  dsimp only
  rw [dmaPieces_line aligned, all, fromHost_some direct]
  dsimp only [List.foldl_cons, List.foldl_nil, Bool.not_true]
  rw [Nat.sub_self, sub_padTo, written]
  rfl

/-- A write of 0x0 or 0x2 that succeeds has a place there, and touches no other list of what waits. -/
theorem writeLocal_outside {space off : Nat} {t : State} {data : List Byte} (outside : space ≠ 1)
    (written : writeLocal s space off data = (0, t)) : storable s space off data.length = true ∧ t.mem.ends = s.mem.ends ∧
      t.mbox = s.mbox := by
  rcases writeLocal_cases written with ⟨failed, -⟩ | ⟨-, rfl, -, -, place, rfl⟩ | ⟨-, inside, -⟩ | ⟨-, rfl, -, -, place, rfl⟩
  · exact absurd rfl failed
  · exact ⟨place, rfl, rfl⟩
  · exact absurd inside outside
  · exact ⟨place, rfl, rfl⟩

theorem dmaIn_outside {op space off haddr : Nat} {t : State} {b : List Byte} (h : Executes s c op) (aligned : off % 64 = 0)
    (direct : c.path ≠ .proxy) (outside : space ≠ 1) (ends : s.mem.ends = [])
    (written : writeLocal (emit s (.hostRead (BitVec.ofNat 64 haddr) 64)) space off (padTo 64 b) = (0, t)) :
    dmaIn s c haddr space off 64 (some b) = done t c 0 := by
  obtain ⟨place, ends', mbox⟩ := writeLocal_outside outside written
  have place : storable s space off 64 = true := by rw [padTo_length] at place; exact place
  have settled : t.mbox.awaiting.find? (·.cmd == c) = none := by rw [mbox]; exact awaiting_executes h
  rw [dmaIn_line aligned direct place written]
  exact settleEnds_visible (ends'.trans ends) (stripesHeld_outside outside ..) settled

/-! ### A line gathered in an empty write buffer (R323) -/

/-- The buffer holds one stripe. -/
def withStripe (s : State) (st : Stripe) : State := { s with mem := { s.mem with stripes := [st] } }

theorem gatherStripe_first (stripes : s.mem.stripes = []) {t mask : Nat} (partly : mask ≠ 2 ^ 1024 - 1) :
    gatherStripe s t mask = withStripe s { number := t, covered := mask } := by
  have covers : 0 ||| mask = mask := Nat.zero_or mask
  unfold gatherStripe withStripe
  simp [stripes, covers, partly]

/-- A line is less than a stripe. -/
theorem stripeMask_line {off : Nat} (aligned : off % 64 = 0) : stripeMask (off / 1024) off 64 ≠ 2 ^ 1024 - 1 := by
  have lo : max off (1024 * (off / 1024)) = off := by omega
  have hi : min (off + 64) (1024 * (off / 1024 + 1)) = off + 64 := by omega
  have place : 2 ^ (off - 1024 * (off / 1024)) ≤ 2 ^ 960 := Nat.pow_le_pow_right (by decide) (by omega)
  have full : 2 ^ 1024 = 2 ^ 64 * 2 ^ 960 := by rw [← Nat.pow_add]
  have more : 1 < 2 ^ 960 := Nat.one_lt_two_pow (by decide)
  unfold stripeMask maskRange
  rw [lo, hi, if_pos (by omega), Nat.add_sub_cancel_left, full]
  generalize 2 ^ 960 = rows at place more
  have less : (2 ^ 64 - 1) * 2 ^ (off - 1024 * (off / 1024)) ≤ (2 ^ 64 - 1) * rows := Nat.mul_le_mul_left _ place
  omega

theorem gather_line (stripes : s.mem.stripes = []) {off : Nat} (aligned : off % 64 = 0) : gather s off 64 =
    withStripe s { number := off / 1024, covered := stripeMask (off / 1024) off 64 } := by
  have one : (off + 64 - 1) / 1024 - off / 1024 + 1 = 1 := by omega
  have only : rangeFrom (off / 1024) 1 = [off / 1024] := by simp [rangeFrom]
  unfold gather
  rw [if_neg (by decide), one, only]
  exact gatherStripe_first stripes (stripeMask_line aligned)

/-- Bytes of space 0x1 written, before the write buffer gathers them. -/
def dramWritten (s : State) (off : Nat) (data : List Byte) : State :=
  { s with mem := { s.mem with dram := writeBytes s.mem.dram off data } }

/-- A line of host memory stays in the write buffer, so the DMA waits for its stripe (R324). -/
theorem dmaIn_dram {off : Nat} (b : List Byte) (mem : MemOk s) (aligned : off % 64 = 0) (direct : c.path ≠ .proxy)
    (stripes : s.mem.stripes = []) (ends : s.mem.ends = []) (working : s.mem.retention = false)
    (place : dramPopulated s off 64 = true) (haddr : Nat) : ∃ t, dmaIn s c haddr 1 off 64 (some b) = t ∧
      readBytes t.mem.dram off 64 = padTo 64 b ∧ t.mem.ends = [.command c [off / 1024]] ∧
      t.mbox.executing = s.mbox.executing := by
  let u := dramWritten (emit s (.hostRead (BitVec.ofNat 64 haddr) 64)) off (padTo 64 b)
  let st : Stripe := { number := off / 1024, covered := stripeMask (off / 1024) off 64 }
  have gathered : gather u off (padTo 64 b).length = withStripe u st := by
    rw [padTo_length]
    exact gather_line (s := u) stripes aligned
  have written : writeLocal (emit s (.hostRead (BitVec.ofNat 64 haddr) 64)) 1 off (padTo 64 b) = (0, withStripe u st) := by
    rw [← gathered]
    refine (if_neg (by simpa [emit] using working)).trans (if_pos ?_)
    rw [padTo_length]
    exact place
  have waits : stripesHeld (withStripe u st) 1 off 64 = [off / 1024] := 
    stripesHeld_only (s := withStripe u st) (st := st) rfl (by decide) rfl
  have ending : (endWhenVisible (withStripe u st) 1 off 64 (.command c)).mem.ends = [.command c [off / 1024]] := by
    unfold endWhenVisible
    rw [waits]
    exact congrArg (· ++ [Ending.command c [off / 1024]]) ends
  have stays : settleEnds (endWhenVisible (withStripe u st) 1 off 64 (.command c)) =
      endWhenVisible (withStripe u st) 1 off 64 (.command c) := by
    refine settleEnds_waiting fun e he => ?_
    rw [ending] at he
    rw [List.mem_singleton.1 he]
    exact List.cons_ne_nil _ _
  have back : readBytes (writeBytes s.mem.dram off (padTo 64 b)) off (padTo 64 b).length = padTo 64 b :=
    readBytes_writeBytes _ mem.2.1
  rw [padTo_length] at back
  exact ⟨_, (dmaIn_line (space := 1) aligned direct place written).trans stays, back, ending, rfl⟩

/-! ### Where a DMA goes (R387) -/

/-- The fields of a DMA are in range (R384, R387). -/
theorem dmaFields {n haddr gaddr out : Nat} (lines : n % 4 = 0) (least : 4 ≤ n) (most : n ≤ 2 ^ 40) (host : haddr % 4 = 0)
    (place : gaddr % 4 = 0) (dir : out ≤ 1) (rest : restZero c [(16, 25)] = true) :
    (n % 4 == 0 && decide (4 ≤ n) && decide (n ≤ 2 ^ 40) && haddr % 4 == 0 && gaddr % 4 == 0 && decide (out ≤ 1) &&
      restZero c [(16, 25)]) = true := by
  simp only [Bool.and_eq_true, beq_iff_eq, decide_eq_true_eq]
  exact ⟨⟨⟨⟨⟨⟨lines, least⟩, most⟩, host⟩, place⟩, dir⟩, rest⟩

theorem dma_here (h : Runs s c 0x0601 2 (spaceOf (arg c 24 8) != 1) true anyState)
    (rest : restZero c [(16, 25)] = true) (here : isLocal s (nodeOf (arg c 24 8)) = true) (space : spaceOf (arg c 24 8) ≤ 2)
    (dir : arg c 40 1 ≤ 1) (line : arg c 32 8 = 64) (haddr : arg c 16 8 % 4 = 0) (aligned : offsetOf (arg c 24 8) % 64 = 0)
    (gaddr : arg c 24 8 % 4 = 0) (host : HostRead) : exec (.dma c host) s = .next (if arg c 40 1 = 1
      then dmaOut s c (arg c 16 8) (spaceOf (arg c 24 8)) (offsetOf (arg c 24 8)) 64
      else dmaIn s c (arg c 16 8) (spaceOf (arg c 24 8)) (offsetOf (arg c 24 8)) 64 host) := by
  have runs : Runs s c 0x0601 2 (isLocal s (nodeOf (arg c 24 8)) && spaceOf (arg c 24 8) != 1)
      (isLocal s (nodeOf (arg c 24 8))) anyState := by rw [here, Bool.true_and]; exact h
  have fits : offsetOf (arg c 24 8) < 2 ^ 44 := Nat.mod_lt _ (Nat.two_pow_pos 44)
  have fields := dmaFields (c := c) (n := 64) (by decide) (by decide) (by decide) haddr gaddr dir rest
  change execDma c host s = _
  unfold execDma
  rw [line]
  refine (command_gated_at (memory := fun s => isLocal s (nodeOf (arg c 24 8))) runs fields _).trans ?_
  have inside : ¬ (2 < spaceOf (arg c 24 8) ∨ 2 ^ 44 < offsetOf (arg c 24 8) + 64 ∨
      (!isLocal s (nodeOf (arg c 24 8)) && !s.mbox.squad.contains (BitVec.ofNat 16 (nodeOf (arg c 24 8)))) = true) := by
    rw [here]
    simp only [Bool.not_true, Bool.false_and, Bool.false_eq_true, or_false, not_or]
    omega
  exact congrArg _ ((if_neg inside).trans (if_pos here))

end

section
variable {s : State} {c : Cmd}

/-- A DMA of a squad member's memory passes every check (R387). -/
structure OfMember (s : State) (c : Cmd) : Prop where
  gate : Runs s c 0x0601 2 false false anyState
  remote : isLocal s (nodeOf (arg c 24 8)) = false
  member : s.mbox.squad.contains (BitVec.ofNat 16 (nodeOf (arg c 24 8))) = true
  space : spaceOf (arg c 24 8) ≤ 2
  fits : offsetOf (arg c 24 8) + arg c 32 8 ≤ 2 ^ 44
  fields : (arg c 32 8 % 4 == 0 && decide (4 ≤ arg c 32 8) && decide (arg c 32 8 ≤ 2 ^ 40) && arg c 16 8 % 4 == 0 &&
    arg c 24 8 % 4 == 0 && decide (arg c 40 1 ≤ 1) && restZero c [(16, 25)]) = true

theorem OfMember.inside (m : OfMember s c) : ¬ (2 < spaceOf (arg c 24 8) ∨ 2 ^ 44 < offsetOf (arg c 24 8) + arg c 32 8 ∨
    (!isLocal s (nodeOf (arg c 24 8)) && !s.mbox.squad.contains (BitVec.ofNat 16 (nodeOf (arg c 24 8)))) = true) := by
  have space := m.space
  have fits := m.fits
  rw [m.member]
  simp only [Bool.not_true, Bool.and_false, Bool.false_eq_true, or_false, not_or]
  omega

theorem OfMember.runs (m : OfMember s c) : Runs s c 0x0601 2 (isLocal s (nodeOf (arg c 24 8)) && spaceOf (arg c 24 8) != 1)
    (isLocal s (nodeOf (arg c 24 8))) anyState := by
  rw [m.remote, Bool.false_and]
  exact m.gate

theorem OfMember.there (m : OfMember s c) : ¬ isLocal s (nodeOf (arg c 24 8)) = true := by simp [m.remote]

theorem dma_memberOut (m : OfMember s c) (out : arg c 40 1 = 1) (host : HostRead) : exec (.dma c host) s = .next
    (startBulkIn s (nodeOf (arg c 24 8)) (arg c 24 8) (arg c 16 8) (arg c 32 8) (.dma c)) := by
  change execDma c host s = _
  unfold execDma
  refine (command_gated_at (memory := fun s => isLocal s (nodeOf (arg c 24 8))) m.runs m.fields _).trans ?_
  exact congrArg _ ((if_neg m.inside).trans ((if_neg m.there).trans (if_pos out)))

theorem dma_memberIn (m : OfMember s c) (into : arg c 40 1 = 0) (direct : c.path ≠ .proxy) (b : List Byte) :
    exec (.dma c (some b)) s = .next (startBulkOut (emit s (.hostRead (BitVec.ofNat 64 (arg c 16 8)) (arg c 32 8)))
      (nodeOf (arg c 24 8)) (arg c 16 8) (arg c 24 8) (padTo (arg c 32 8) b) (.dma c)) := by
  change execDma c (some b) s = _
  unfold execDma
  refine (command_gated_at (memory := fun s => isLocal s (nodeOf (arg c 24 8))) m.runs m.fields _).trans ?_
  refine congrArg _ ((if_neg m.inside).trans ((if_neg m.there).trans ((if_neg (by simp [into])).trans ?_)))
  rw [fromHost_some direct]

end

/-! ### ABORT (R385) -/

section
variable {s : State} {c d : Cmd}

/-- Where nothing of a command moves or waits, there is nothing to drop. -/
theorem dropTransfers_idle (bulks : s.fabric.bulks = []) (txns : s.fabric.txns = []) (arrivals : s.fabric.arrivals = [])
    (waiting : s.fabric.waiting = []) (ends : s.mem.ends = []) (acks : s.mem.acks = []) (awaiting : s.mbox.awaiting = [])
    (cs : List Cmd) : dropTransfers s cs = s := by
  have fabric : { s.fabric with bulks := [], lateReads := s.fabric.lateReads ++ [], txns := [], arrivals := [], waiting := [] } =
      s.fabric := by rw [List.append_nil, ← bulks, ← txns, ← arrivals, ← waiting]
  have mem : { s.mem with ends := [], acks := [] } = s.mem := by rw [← ends, ← acks]
  have mbox : { s.mbox with awaiting := [] } = s.mbox := by rw [← awaiting]
  unfold dropTransfers
  rw [bulks, txns, arrivals, waiting, ends, acks, awaiting]
  simp only [List.filter_nil, List.map_nil, fabric, mem, mbox]

/-- Parts of a state put back as they are. -/
theorem update_self {f : Fabric} {m : Mbox} {e : MemSys} (hf : f = s.fabric) (hm : m = s.mbox) (he : e = s.mem) :
    { s with fabric := f, mbox := m, mem := e } = s := by rw [hf, hm, he]

theorem fabric_update_self {f : Fabric} {bulks : List Bulk} {late : List (Word16 × Word32)} {txns : List Txn}
    {arrivals : List (Nat × List Host.Cell)} {waiting : List ViewRead} (hb : bulks = f.bulks) (hl : late = f.lateReads)
    (ht : txns = f.txns) (ha : arrivals = f.arrivals) (hw : waiting = f.waiting) :
    { f with bulks := bulks, lateReads := late, txns := txns, arrivals := arrivals, waiting := waiting } = f := by
  rw [hb, hl, ht, ha, hw]

theorem mem_update_self {m : MemSys} {ends : List Ending} {acks : List HeldAck} (he : ends = m.ends) (ha : acks = m.acks) :
    { m with ends := ends, acks := acks } = m := by rw [he, ha]

/-- For no command there is nothing to drop. -/
theorem dropTransfers_none (s : State) : dropTransfers s [] = s := by
  have keeps {α : Type} {p : α → Bool} (each : ∀ x, p x = true) (l : List α) : l.filter p = l :=
    List.filter_eq_self.2 fun x _ => each x
  have drops {α : Type} {p : α → Bool} (each : ∀ x, p x = false) (l : List α) : l.filter p = [] :=
    List.filter_eq_nil_iff.2 fun x _ => by simp [each x]
  unfold dropTransfers
  refine update_self (fabric_update_self (keeps (fun b => ?_) _) ?_ ?_ (keeps (fun _ => rfl) _) (keeps (fun r => ?_) _))
    (congrArg (fun a => { s.mbox with awaiting := a }) (keeps (fun _ => rfl) _))
    (mem_update_self (keeps (fun e => ?_) _) (keeps (fun a => ?_) _))
  · cases b.owner <;> rfl
  · rw [drops fun b => ?_]
    · exact List.append_nil _
    · cases b.owner <;> exact Bool.and_false _
  · refine (List.map_congr_left fun t _ => if_neg ?_).trans (List.map_id _)
    cases t.owner <;> exact Bool.false_ne_true
  · cases r.by_ <;> rfl
  · cases e <;> rfl
  · cases a.what <;> rfl

/-- The commands that an ABORT ends. -/
def aborted (s : State) (c : Cmd) : List Cmd :=
  (s.mbox.executing.filter fun e => e.cmd.ring == 2 && e.cmd.tag == BitVec.ofNat 32 (arg c 16 4)).map (·.cmd)

/-- With no pending bulk command, ABORT ends those with its tag that execute, and completes with their number. -/
theorem abort_executing (h : Runs s c 0x0602 0 false false anyState) (ring : arg c 20 1 = 2)
    (rest : restZero c [(16, 5)] = true) (pending : pendingIdx s 2 = []) (raw : List Byte) : exec (.abort c (some raw)) s =
      .next (complete ((aborted s c).foldl (fun s r => done s r 0x0A) (dropTransfers s (aborted s c))) c 0 0
        (aborted s c).length 0) := by
  have killed : { s with mbox := { s.mbox with killed := s.mbox.killed ++ [] } } = s := by rw [List.append_nil]
  have fields : (arg c 20 1 == 2 && restZero c [(16, 5)]) = true := by simp [ring, rest]
  change execAbort c (some raw) s = _
  unfold execAbort
  refine (command_gated (ok := fun _ => arg c 20 1 == 2 && restZero c [(16, 5)]) h fields _).trans ?_
  dsimp only
  rw [pending]
  dsimp only [List.foldl_nil]
  rw [pending]
  simp only [List.zip_nil_left, List.filter_nil, List.map_nil, List.foldl_nil, List.length_nil, Nat.add_zero, killed]
  rfl

/-- No executing bulk command has the tag. -/
theorem aborted_none (none : ∀ e ∈ s.mbox.executing, e.cmd.ring = 2 → e.cmd.tag ≠ BitVec.ofNat 32 (arg c 16 4)) :
    aborted s c = [] := by
  unfold aborted
  rw [List.filter_eq_nil_iff.2 fun e he => by simpa using none e he, List.map_nil]

/-- One has it, and ABORT itself, which is on another ring, executes beside it. -/
theorem aborted_one (mine : c.ring = 0) (ring : d.ring = 2) (tag : d.tag = BitVec.ofNat 32 (arg c 16 4))
    (two : s.mbox.executing = [{ cmd := d, discard := false }, { cmd := c, discard := false }]) : aborted s c = [d] := by
  unfold aborted
  rw [two]
  simp [mine, ring, tag]

end

/-- Settles O39: a table has the length of its records; a line moved by a DMA is one piece, which goes out at once, is stored at
once in spaces 0x0 and 0x2, and waits for its stripe in space 0x1; ABORT drops and completes what has its tag. -/
theorem tablesAndDma : Obligations.TablesAndDma := by
  refine ⟨?_, ?_, ?_, ?_, ?_, ?_, ?_, ?_, ?_⟩
  · intro s c h table toHost rest direct kept
    exact readTable_runs h table toHost rest direct kept
  · intro s c addr n b direct
    exact reads_host direct addr n b
  · intro s
    exact ⟨identityRecord_length s, countsTable_length s, unitTable_length s, recordTable_length s, routeBytes_length ..⟩
  · intro s c b h rest here space out line haddr aligned gaddr direct stripes ends waiting got
    rw [dma_here h rest here space out.le line haddr aligned gaddr, if_pos out,
      dmaOut_line h.1 aligned direct stripes ends waiting got]
  · intro s t c b h rest here outside into line haddr aligned gaddr direct ends written
    have space : spaceOf (arg c 24 8) ≤ 2 := by omega
    have other : spaceOf (arg c 24 8) ≠ 1 := by omega
    have compute : (spaceOf (arg c 24 8) != 1) = true := by simp [other]
    rw [dma_here (compute ▸ h) rest here space (by omega) line haddr aligned gaddr, if_neg (by omega),
      dmaIn_outside h.1 aligned direct other ends written]
  · intro s c b h mem rest here dram into line haddr aligned gaddr direct stripes ends working place
    have compute : (spaceOf (arg c 24 8) != 1) = false := by simp [dram]
    obtain ⟨t, run, after⟩ := dmaIn_dram b mem aligned direct stripes ends working place (arg c 16 8)
    refine ⟨t, ?_, after⟩
    rw [dma_here (compute ▸ h) rest here (by omega) (by omega) line haddr aligned gaddr, if_neg (by omega), dram, run]
  · intro s c h rest there member space fits lines least most haddr gaddr direct
    have passes (dir : arg c 40 1 ≤ 1) : OfMember s c :=
      ⟨h, there, member, space, fits, dmaFields lines least most haddr gaddr dir rest⟩
    exact ⟨fun out => dma_memberOut (passes out.le) out none, fun b into => dma_memberIn (passes (by omega)) into direct b⟩
  · intro s c raw h ring rest pending none
    rw [abort_executing h ring rest pending, aborted_none none, dropTransfers_none]
    rfl
  · intro s c d raw h ring rest pending bulk tag _ two bulks txns arrivals waiting ends acks awaiting
    rw [abort_executing h ring rest pending, aborted_one h.2.1 bulk tag two,
      dropTransfers_idle bulks txns arrivals waiting ends acks awaiting]
    rfl

end Sys2Proof.Machine
end

section
/-! START and RESUME with a catalogue that does not match (R344). -/

namespace Sys2Proof.Machine

open Sys2Proof

/-! ### SUPPORT. The digests and the refusal (R344) -/

section
variable {s : State}

/-- No catalogue mismatches exactly when every ingest descriptor's digest is that of its catalogue. -/
theorem catalogueMismatch_eq_none_iff {p : Program} (hp : s.program = some p) (remote : List (Nat × List Byte)) :
    catalogueMismatch s remote = none ↔
      ∀ x ∈ ingestDescs p, leNat ((sm3 (catalogueBytes s x.1 x.2 remote)).take 8) = x.2.digest := by
  unfold catalogueMismatch
  rw [hp]
  dsimp only
  rw [List.findSome?_eq_none_iff]
  refine forall₂_congr fun x _ => ?_
  split
  · next same => exact iff_of_true rfl same
  · next differs => exact iff_of_false (fun h => nomatch h) differs

/-- A catalogue of this module that can be read is what its memory holds. -/
theorem catalogueBytes_here {d : IngestDesc} {b : List Byte} (here : isLocal s (nodeOf d.catalogue) = true)
    (read : readLocal s (spaceOf d.catalogue) (offsetOf d.catalogue) (32 * d.entries) = .bytes b) (slot : Nat)
    (remote : List (Nat × List Byte)) : catalogueBytes s slot d remote = b := by
  unfold catalogueBytes
  dsimp only
  rw [if_pos here, read]

/-- Reading the catalogues leaves the program and all it carries. -/
theorem chargeCatalogues_sameProgram (s : State) : SameProgram s (chargeCatalogues s) := by
  obtain ⟨_, _, h⟩ := chargeCatalogues_eq s
  rw [h]
  exact ⟨rfl, rfl, rfl, rfl, rfl, rfl, rfl, rfl, rfl, rfl, rfl, rfl⟩

theorem post_sameProgram (s : State) (code : Nat) (payload : List Byte) : SameProgram s (post s code payload) :=
  (post_posts ..).same.1

/-- A completion too, whatever its status. -/
theorem complete_sameProgram (s : State) (c : Cmd) (status result v1 v2 : Nat) :
    SameProgram s (complete s c status result v1 v2) := (complete_posts ..).same.1

/-- The state after a refusal for a catalogue's digest: the event of R344 is posted and the command completes. -/
def mismatchRefused (s : State) (c : Cmd) (view want got : Nat) : State :=
  complete (post (chargeCatalogues s) 0x0D02 (packed [(1, view), (8, want), (8, got)])) c 0x05 2 0 0

theorem mismatchRefused_sameProgram (s : State) (c : Cmd) (view want got : Nat) :
    SameProgram s (mismatchRefused s c view want got) :=
  (complete_sameProgram ..).after <| (post_sameProgram ..).after <| chargeCatalogues_sameProgram s

/-- Where the other checks pass, START and RESUME are refused for the first digest that differs (R344, R384). -/
theorem startChecked_mismatch {c : Cmd} {remote : List (Nat × List Byte)} {p : Program} {view want got : Nat}
    (hp : s.program = some p) (room : s.step ≠ lastStep) (early : s.timebase + 2000000 ≤ arg c 16 8)
    (late : arg c 16 8 ≤ s.timebase + 60000000000)
    (differs : catalogueMismatch (chargeCatalogues s) remote = some (view, want, got)) :
    startChecked c remote s = mismatchRefused s c view want got := by
  unfold startChecked
  rw [hp]
  dsimp only
  rw [if_neg room, if_neg (by omega), differs]
  rfl

end

/-- Settles O34: START and RESUME share their checks, so one refusal answers both; the digests are compared one by one. (The
model's own function has the plain name.) -/
theorem catalogueMismatch_holds : Obligations.CatalogueMismatch := by
  refine ⟨?_, ?_, ?_, ?_⟩
  · intro s c remote p view want got h rest hp room early late differs
    have run : exec (.start c remote) s = .next (startChecked c remote s) :=
      command_gated h (ok := fun _ => restZero c [(16, 8)]) rest fun _ => startChecked c remote
    rw [startChecked_mismatch hp room early late differs] at run
    exact ⟨_, run, rfl, mismatchRefused_sameProgram ..⟩
  · intro s c remote p view want got h rest hp room early late differs
    have run : exec (.resume c remote) s = .next (startChecked c remote s) :=
      command_gated h (ok := fun _ => restZero c [(16, 8)]) rest fun _ => startChecked c remote
    rw [startChecked_mismatch hp room early late differs] at run
    exact ⟨_, run, rfl, mismatchRefused_sameProgram ..⟩
  · intro s p remote hp
    exact catalogueMismatch_eq_none_iff hp remote
  · intro s slot d remote b here read
    exact catalogueBytes_here here read slot remote

end Sys2Proof.Machine
end

section
/-! The decode engines and their samples (R340, R347 to R351). -/

namespace Sys2Proof.Machine

open Sys2Proof

/-! ### SUPPORT. What the end of a sample changes (R347, R351) -/

/-- An entry of a fixed table after a write. -/
theorem getAt_setAt {α : Type} {n : Nat} (v : Vector α n) (i : Nat) (x d : α) {k : Nat} (low : k < n) :
    getAt (setAt v i x) k d = if k = i then x else getAt v k d := by
  simp [getAt, setAt, low]

/-- With no read of a view waiting there is none to answer. -/
theorem serveWaiting_nil {s : State} (idle : s.fabric.waiting = []) : serveWaiting s = s := by
  unfold serveWaiting
  dsimp only
  rw [idle, List.filter_nil, List.filter_nil, List.foldl_nil, ← idle]

section
variable {s t u : State} {k : Nat} {x : Sample}

/-- `t` is `s` after engine `k`'s sample `x` has ended: the engine is free, the sample complete, spaces 0x0 and 0x1 as they
were. -/
structure Finishes (k : Nat) (x : Sample) (s t : State) : Prop where
  ingest : t.ingest =
    { s.ingest with engines := setAt s.ingest.engines k none, complete := s.ingest.complete ++ [x] }
  sram : t.mem.sram = s.mem.sram
  dram : t.mem.dram = s.mem.dram
  waiting : t.fabric.waiting = s.fabric.waiting

/-- Counts and events come after it. -/
theorem Finishes.posts (h : Finishes k x s t) (p : Posts t u) : Finishes k x s u :=
  ⟨p.ingest.trans h.ingest, (congrArg MemSys.sram p.mem).trans h.sram, (congrArg MemSys.dram p.mem).trans h.dram,
    p.waiting.trans h.waiting⟩

theorem Finishes.serveWaiting (h : Finishes k x s t) (idle : s.fabric.waiting = []) : Finishes k x s (serveWaiting t) := by
  rw [serveWaiting_nil (h.waiting.trans idle)]
  exact h

/-- The state in which a sample has ended: what the buffers then hold is given, and the counts and the event are still to
come. -/
def endSample (s : State) (igd e : Nat) (x : Sample) (stored : Memory) : State :=
  dropArrivals
    { s with
      mem := { s.mem with buffers := stored }
      ingest := { s.ingest with
        engines := setAt s.ingest.engines (16 * igd + e) none
        complete := s.ingest.complete ++ [x] } } (engineKey igd e)

/-- The counts of a sample's end, and the event of a failed one (R348, R355). -/
def reportSample (s : State) (igd : Nat) (d : IngestDesc) (x : Sample) (index cause frames len saturated : Nat) : State :=
  let s := if cause = 0 then bump s 0x0201 noInst noTensor saturated else s
  let s := bump (bump s 0x0D02 igd noTensor frames) 0x0D04 igd noTensor len
  if cause = 0 then bump s 0x0D01 igd noTensor 1
  else post (bump s 0x0D03 (igd + 256 * cause) noTensor 1) 0x0D01
    (packed [(1, d.view), (4, x.step.toNat), (8, x.b), (8, index), (1, cause)])

theorem reportSample_posts (s : State) (igd : Nat) (d : IngestDesc) (x : Sample) (index cause frames len saturated : Nat) :
    Posts s (reportSample s igd d x index cause frames len saturated) := by
  have counted (u : State) : Posts u (bump (bump u 0x0D02 igd noTensor frames) 0x0D04 igd noTensor len) :=
    (bump_posts ..).trans (bump_posts ..)
  unfold reportSample
  exact (Posts.ite (bump_posts ..) (Posts.refl s)).trans <| (counted _).trans <|
    Posts.ite (bump_posts ..) <| (bump_posts ..).trans (post_posts ..)

/-- The end of a sample: its reads are charged, it ends, it is reported, and waiting reads are tried again. -/
theorem finishSample_eq (s : State) (igd e : Nat) (p : Program) (d : IngestDesc) (x : Sample) (entry bits : List Byte) :
    ∃ (stored : Memory) (index cause frames saturated : Nat), finishSample s igd e p d x entry bits =
      serveWaiting (reportSample (endSample
        (chargeContext s [(entryAddr p d x, 32), ((parseCat entry).addr, bits.length)]) igd e x stored)
        igd d x index cause frames bits.length saturated) :=
  ⟨_, _, _, _, _, rfl⟩

/-- A sample that ends frees its engine and is complete, whatever its cause (R347, R348, R351). -/
theorem finishSample_finishes (idle : s.fabric.waiting = []) (igd e : Nat) (p : Program) (d : IngestDesc) (x : Sample)
    (entry bits : List Byte) : Finishes (16 * igd + e) x s (finishSample s igd e p d x entry bits) := by
  obtain ⟨stored, index, cause, frames, saturated, finished⟩ := finishSample_eq s igd e p d x entry bits
  obtain ⟨r, counts, charged⟩ := chargeContext_eq s [(entryAddr p d x, 32), ((parseCat entry).addr, bits.length)]
  rw [finished, charged]
  have ended : Finishes (16 * igd + e) x s
      (endSample { s with mem := { s.mem with reconTimes := r }, counts := counts } igd e x stored) := ⟨rfl, rfl, rfl, rfl⟩
  exact (ended.posts (reportSample_posts ..)).serveWaiting idle

end

/-! ### SUPPORT. What an engine does next (R340, R348, R350) -/

section
variable {s : State} {igd : Fin 2}

/-- While the program runs, the engine that is free takes the head of the queue (R350, R352). -/
theorem sampleDecodeStart_takes {e : Nat} {x : Sample} {rest : List Sample} (running : s.pstate = .running)
    (free : (List.range 16).find? (fun e => engineServes s igd.val e &&
      (getAt s.ingest.engines (16 * igd.val + e) none).isNone) = some e)
    (queued : s.ingest.queues[igd] = x :: rest) :
    exec (.sampleDecodeStart igd) s = .next (continueFetch { s with ingest := { s.ingest with
      queues := s.ingest.queues.set igd rest, engines := setAt s.ingest.engines (16 * igd.val + e) (some x) } } igd.val e) := by
  change execSampleDecodeStart igd s = _
  unfold execSampleDecodeStart
  dsimp only
  rw [free, queued]
  exact if_neg (not_not.2 running)

/-- An engine ends its sample once the entry is here and, unless the entry itself is bad, the bitstream too (R340, R348). -/
theorem sampleComplete_finishes {e : Fin 16} {x : Sample} {p : Program} {d : IngestDesc} {b bits : List Byte}
    (decodes : getAt s.ingest.engines (16 * igd.val + e.val) none = some x) (desc : sampleDesc s x = some (p, d))
    (sound : s.ingest.fetching.contains (16 * igd.val + e.val) = false)
    (entry : fetched s igd.val e.val (entryAddr p d x) 32 = some b)
    (stream : entryBad (parseCat b) = true ∧ bits = [] ∨
      entryBad (parseCat b) = false ∧ fetched s igd.val e.val (parseCat b).addr (parseCat b).len = some bits) (busy : Nat) :
    exec (.sampleComplete igd e busy) s =
      .next (finishSample (bump s 0x0D05 igd.val noTensor busy) igd.val e.val p d x b bits) := by
  change execSampleComplete igd e s busy = _
  unfold execSampleComplete
  dsimp only
  rw [decodes]
  dsimp only
  rw [desc]
  dsimp only
  rw [sound, entry]
  rcases stream with ⟨bad, rfl⟩ | ⟨good, here⟩
  · exact if_pos bad
  · dsimp only
    rw [good, here]
    rfl

/-- The one failed fetch is repeated (R340). -/
theorem bitstreamFetchRetry_repeats {e : Fin 16} (failed : s.ingest.fetching = [16 * igd.val + e.val]) :
    exec (.bitstreamFetchRetry igd e) s = .next (continueFetch
      (bump { s with ingest := { s.ingest with fetching := [] } } 0x0D06 igd.val noTensor 1) igd.val e.val) := by
  change execBitstreamFetchRetry igd e s = _
  unfold execBitstreamFetchRetry
  simp [failed]

end

/-- Settles O60: the queue's head goes to the free engine, an engine ends its sample once the bytes are here, the end of a
sample frees its engine alone, and a failed fetch is repeated. -/
theorem samples : Obligations.Samples := by
  refine ⟨?_, ?_, ?_, ?_⟩
  · intro s igd e x rest running free queued
    exact sampleDecodeStart_takes running free queued
  · intro s igd e x p d b bits busy decodes desc sound entry t
    exact ⟨fun bad => sampleComplete_finishes decodes desc sound entry (.inl ⟨bad, rfl⟩) busy,
      fun good here => sampleComplete_finishes decodes desc sound entry (.inr ⟨good, here⟩) busy⟩
  · intro s igd e p d x entry bits idle
    obtain ⟨ingest, sram, dram, -⟩ := finishSample_finishes idle igd e p d x entry bits
    refine ⟨_, rfl, by rw [ingest], by rw [ingest], fun k low => ?_, sram, dram⟩
    rw [ingest]
    exact getAt_setAt _ _ _ _ low
  · intro s igd e failed
    exact bitstreamFetchRetry_repeats failed

end Sys2Proof.Machine
end

section
/-! The step, the input's supply, rails that go off and the clock loop (R340, R454 to R456, R461, R462). -/

namespace Sys2Proof.Machine
open Sys2Proof

/-- Settles O1, by the equation of step at a queue with a front. -/
theorem stepRunsFront : Obligations.StepRunsFront := by
  intro s c rest front
  unfold step
  rw [front]

/-- Settles O5, by what exec answers for each command. -/
theorem everyCommandAnswersNext : Obligations.EveryCommandAnswersNext := by
  intro c s
  obtain ⟨t, answers, kept⟩ := exec_answers s c
  exact ⟨t, answers, kept.1⟩

/-! ### The 50 V input (R454 to R456) -/

section
variable {s : State} {mv : Nat}

theorem noteExcursion_first (none : s.power.excursion = none) : noteExcursion s mv = bump { s with power := { s.power with
    vinMv := mv, excursion := some { lowMv := mv, warned := false } } } 0x1101 noInst noTensor 1 := by
  unfold noteExcursion
  rw [none]

theorem noteExcursion_goesOn {e : Excursion} (excursion : s.power.excursion = some e) (on : e.ended = false) :
    noteExcursion s mv = { s with power := { s.power with vinMv := mv, excursion := some { e with lowMv := min e.lowMv mv } } } := by
  obtain ⟨low, warned, ended⟩ := e
  cases on
  unfold noteExcursion
  rw [excursion]
  rfl

theorem noteExcursion_again {e : Excursion} (excursion : s.power.excursion = some e) (ended : e.ended = true) :
    noteExcursion s mv = bump { s with power := { s.power with
      vinMv := mv, excursion := some { e with lowMv := min e.lowMv mv, ended := false } } } 0x1101 noInst noTensor 1 := by
  unfold noteExcursion
  rw [excursion]
  exact if_pos ended

theorem supplyExcursion_low (on : isPowered s = true) (low : mv < 44000) :
    exec (.supplyExcursion mv) s = .next (noteExcursion s mv) := by
  change execSupplyExcursion mv s = _
  unfold execSupplyExcursion
  rw [if_neg (by omega), if_pos on]

theorem supplyExcursion_ends {e : Excursion} (high : 44000 ≤ mv) (excursion : s.power.excursion = some e) :
    exec (.supplyExcursion mv) s =
      .next { s with power := { s.power with vinMv := mv, excursion := some { e with ended := true } } } := by
  change execSupplyExcursion mv s = _
  unfold execSupplyExcursion
  rw [if_pos high, excursion]

theorem supplyWarning_warns {e : Excursion} (on : isPowered s = true) (low : mv ≤ 42000) (fresh : s.power.warning = false)
    (excursion : s.power.excursion = some e) (goes : e.ended = false) :
    exec (.supplyWarning mv) s = .next (post (settleClock { s with power := { s.power with
      vinMv := mv, warning := true, supplyMhz := some (max 500 (s.power.tdMhz / 2 / 25 * 25))
      excursion := some { lowMv := min e.lowMv mv, warned := true } } }) 0x1101 (packed [(4, mv), (4, s.step.toNat)])) := by
  obtain ⟨lowest, warned, ended⟩ := e
  cases goes
  change execSupplyWarning mv s = _
  unfold execSupplyWarning
  rw [if_neg (by omega), if_neg (by simp [on]), noteExcursion_goesOn excursion rfl]
  exact if_neg (by simp [fresh])

theorem supplyRecovery_recovers {e : Excursion} (on : isPowered s = true) (high : 44000 ≤ mv) (excursion : s.power.excursion = some e)
    (us : Nat) : exec (.supplyRecovery mv us) s = .next (post (settleClock { s with power := { s.power with
      vinMv := mv, excursion := none, warning := false, supplyMhz := none } }) 0x1102
      (packed [(4, e.lowMv), (4, us), (1, if e.warned then 1 else 0)])) := by
  change execSupplyRecovery mv us s = _
  unfold execSupplyRecovery
  rw [excursion]
  exact if_neg (by simp [on]; omega)

end

/-! ### Rails that go off (R456, R468, R472) -/

/-- The up frame of a supply that fails changes ports, counts and outputs (R456). -/
theorem transmitNow_flash (s : State) (p : Fin 12) (f : Kft) : (transmitNow s p f).flash = s.flash := by
  unfold transmitNow transmit
  split
  · exact (bump_flash ..)
  · rfl

theorem haltingUp_flash (s : State) : (haltingUp s).flash = s.flash := by
  unfold haltingUp
  split
  · rfl
  · split
    · rfl
    · exact transmitNow_flash ..

theorem railsDown_railsOff (s : State) (mode : PowerMode) (cause low : Nat) :
    RailsOff s (railsDown s mode cause low) mode cause low :=
  ⟨rfl, rfl, rfl, rfl, rfl, rfl, rfl, rfl, rfl, List.getLast?_concat⟩

/-- What the module's flash holds is what the rails' going off is judged by. -/
theorem RailsOff.congr {s u t : State} {mode : PowerMode} {cause low : Nat} (off : RailsOff u t mode cause low)
    (flash : u.flash = s.flash) : RailsOff s t mode cause low := by
  unfold RailsOff at *
  rwa [← flash]

theorem supplyDown_railsOff {s : State} (on : isPowered s = true) (cause mv : Nat) :
    RailsOff s (supplyDown s cause mv) .off cause (lowestVoltage s mv) := by
  have powered : isPowered { s with power := { s.power with vinMv := mv } } = true := on
  unfold supplyDown
  dsimp only
  rw [if_pos powered]
  exact (railsDown_railsOff ..).congr (haltingUp_flash _)

/-- Settles O11: each sample of the input does what its level asks. -/
theorem supplyVoltage : Obligations.SupplyVoltage := by
  refine ⟨?_, ?_, ?_, ?_, ?_, ?_, ?_⟩
  · intro s mv on low none
    rw [supplyExcursion_low on low, noteExcursion_first none]
  · intro s mv e on low excursion
    exact ⟨fun goes => by rw [supplyExcursion_low on low, noteExcursion_goesOn excursion goes],
      fun ended => by rw [supplyExcursion_low on low, noteExcursion_again excursion ended]⟩
  · intro s mv e high excursion
    exact supplyExcursion_ends high excursion
  · intro s mv e on low fresh excursion goes
    exact supplyWarning_warns on low fresh excursion goes
  · intro s mv us e on high excursion
    exact supplyRecovery_recovers on high excursion us
  · intro s mv on low
    exact ⟨_, (if_neg (by omega)).trans (if_pos on), supplyDown_railsOff on 1 mv⟩
  · intro s mv on high
    exact ⟨_, if_neg (by omega), supplyDown_railsOff on 2 mv⟩

/-- Settles O13: RESET_IN# and the comparator write the record and switch the rails off. -/
theorem powerLoss : Obligations.PowerLoss := by
  constructor
  · intro s on
    exact ⟨_, if_pos on, railsDown_railsOff .., rfl⟩
  · intro s die celsius on hot
    exact ⟨_, if_pos ⟨on, hot⟩, railsDown_railsOff .., rfl⟩

/-! ### The adaptive voltage and clock loop (R461, R462) -/

section
variable {s : State} {watts : Nat}

/-- A millisecond above the cap takes 25 MHz off the loop clock, here above the floor (R461). -/
theorem avcLoopTick_lowers (on : isPowered s = true) (runs : s.power.computeStopped = false) (above : s.power.capW < watts)
    (floor : 525 < s.power.loopMhz) : exec (.avcLoopTick watts) s = .next (settleClock { s with power := { s.power with
      loopMhz := s.power.loopMhz - 25, msBelow := none, msAtFloor := none } }) := by
  have lower : max 500 (s.power.loopMhz - 25) = s.power.loopMhz - 25 := by omega
  have off : s.power.loopMhz - 25 ≠ 500 := by omega
  change execAvcLoopTick watts s = _
  unfold execAvcLoopTick
  dsimp only
  rw [if_neg (by simp [on, runs]), if_pos above, lower, if_neg off]

/-- The tenth millisecond 50 W below the cap gives 25 MHz back (R461). -/
theorem avcLoopTick_raises {n : Nat} (on : isPowered s = true) (runs : s.power.computeStopped = false)
    (below : watts < s.power.capW - 50) (since : s.power.msBelow = some n) (long : 9 ≤ n)
    (room : s.power.loopMhz + 25 ≤ s.power.ceilMhz) :
    exec (.avcLoopTick watts) s = .next (settleClock { s with power := { s.power with
      capReported := false, loopMhz := s.power.loopMhz + 25, msBelow := some 0, msAtFloor := none } }) := by
  have tenth : 10 ≤ (s.power.msBelow.map (· + 1)).getD 0 := by
    rw [since]
    exact Nat.succ_le_succ long
  change execAvcLoopTick watts s = _
  unfold execAvcLoopTick
  dsimp only
  rw [if_neg (by simp [on, runs]), if_neg (by omega), if_pos below, if_pos ⟨tenth, room⟩]

theorem capUnreachable_reports (on : isPowered s = true) (floor : s.power.loopMhz = 500) (long : 100 ≤ s.power.msAtFloor.getD 0)
    (above : s.power.capW < watts) (fresh : s.power.capReported = false) :
    exec (.capUnreachable watts) s = .next (post { s with power := { s.power with capReported := true } } 0x1107
      (packed [(4, s.power.capW), (4, watts)])) :=
  if_pos ⟨on, floor, long, above, by simp [fresh]⟩

end

/-- Settles O16: the loop's millisecond above the cap, its tenth below it, the report at the floor, and the lowest clock. -/
theorem clockLoop : Obligations.ClockLoop := by
  refine ⟨?_, ?_, ?_, ?_⟩
  · intro s watts on runs above floor
    exact avcLoopTick_lowers on runs above floor
  · intro s watts n on runs below since long room
    exact avcLoopTick_raises on runs below since long room
  · intro s watts on floor long above fresh
    exact capUnreachable_reports on floor long above fresh
  · intro s _ _ thermal supply
    change tdClock s.power = _
    unfold tdClock
    rw [thermal, supply]
    rfl

end Sys2Proof.Machine
end

section
/-! Resets of the mailbox, causes of a compute reset, and the MCP's own restarts (R363 to R366, R433, R447, R448). -/

namespace Sys2Proof.Machine
open Sys2Proof

/-! ### Events due as the first of the re-enabled ring (R381) -/

theorem sendFrame_mbox (s : State) (f : Kft) : (sendFrame s f).mbox = s.mbox := by
  unfold sendFrame
  split
  · rfl
  · split
    · rfl
    · rfl

/-- A squad member's event goes to its captain: of its own mailbox it takes the next sequence number (R395). -/
theorem post_member {s : State} (member : isMember s = true) (code : Nat) (payload : List Byte) :
    ∃ seq, (post s code payload).mbox = { s.mbox with evtSeq := seq } := by
  have member (seq : Word16) : isMember { s with mbox := { s.mbox with evtSeq := seq } } = true := member
  unfold post
  split
  · exact ⟨_, rfl⟩
  · dsimp only
    rw [if_pos (member _)]
    split
    · exact ⟨_, rfl⟩
    · exact ⟨_, sendFrame_mbox ..⟩

theorem dueFirst_mbox (s : State) (code : Nat) (payload : List Byte) : ∃ due kept seq,
    (dueFirst s code payload).mbox = { s.mbox with firstDue := due, kept := kept, evtSeq := seq } := by
  unfold dueFirst
  split
  next member =>
    obtain ⟨seq, h⟩ := post_member member code payload
    exact ⟨_, _, seq, h⟩
  · exact ⟨_, _, _, rfl⟩

theorem dueFirst_same (s : State) (code : Nat) (payload : List Byte) : SameUnder s (dueFirst s code payload) := by
  unfold dueFirst
  split
  · exact (post_posts ..).same
  · exact ⟨⟨rfl, rfl, rfl, rfl, rfl, rfl, rfl, rfl, rfl, rfl, rfl, rfl⟩, rfl, rfl, rfl, rfl, rfl, rfl, rfl, rfl⟩

/-- A module that is no squad member keeps the event for the first entry. -/
theorem dueFirst_firstDue {s : State} (alone : isMember s = false) (code : Nat) (payload : List Byte) :
    (dueFirst s code payload).mbox.firstDue =
      some { code := code, ring := 0xFF, source := 0xFFFF#16, seq := s.mbox.evtSeq, lost := false, payload := payload } := by
  unfold dueFirst
  rw [alone]
  rfl

/-! ### Mailbox reset (R363, R366) -/

theorem mailboxReset_mbox (s : State) (cause : Nat) : ∃ due kept seq,
    (mailboxReset s cause).mbox = { resetRings s.mbox with firstDue := due, kept := kept, evtSeq := seq } := by
  unfold mailboxReset
  dsimp only
  split
  · exact dueFirst_mbox (ringsReset s) ..
  · exact ⟨_, _, _, rfl⟩

/-- Beneath the mailbox, a reset of it ends waits for visibility and nothing else. -/
theorem mailboxReset_same (s : State) (cause : Nat) : SameUnder (ringsReset s) (mailboxReset s cause) := by
  unfold mailboxReset
  dsimp only
  split
  · exact dueFirst_same ..
  · exact (Posts.refl _).same

/-- Between RESET_CTRL and the MSI-X table, the registers read what the reset of the rings gives them (R361). -/
theorem regValue_resetRings {t : State} {m : Mbox} {due : Option Event} {kept : List Event} {seq : Word16}
    (mbox : t.mbox = { resetRings m with firstDue := due, kept := kept, evtSeq := seq }) {off : Nat} (low : 0x10 ≤ off)
    (high : off < 0x10000) : regValue t off = regValue State.reset off := by
  have h0 : ¬ off = 0 := by omega
  have h4 : ¬ off = 4 := by omega
  have h8 : ¬ off = 8 := by omega
  have hC : ¬ off = 0xC := by omega
  have table : ¬ (0x10000 ≤ off ∧ off < 0x10400) := by omega
  have pba : ¬ off = 0x11000 := by omega
  unfold regValue
  simp only [h0, h4, h8, hC, table, pba, if_false]
  rw [mbox]
  rfl

/-- An access at or above RESET_CTRL covers a register there. -/
theorem regAccess_above {off width o : Nat} {h : Half} (low : 0x10 ≤ off) (acc : regAccess off width = some (o, h)) :
    0x10 ≤ o ∧ o ≤ off := by
  unfold regAccess at acc
  split at acc
  · cases acc
  · split at acc
    · cases acc
      exact ⟨low, Nat.le_refl _⟩
    · split at acc
      · cases acc
        exact ⟨low, Nat.le_refl _⟩
      · split at acc
        next half =>
          cases acc
          refine ⟨?_, Nat.sub_le ..⟩
          have wide := half.2.2
          by_contra below
          have : off - 4 = 0xC := by omega
          rw [this] at wide
          exact nomatch wide
        · cases acc

/-- A read of BAR0 is a read of the register it covers. -/
theorem regRead_congr {s t : State} {off width : Nat} (same : ∀ o h, regAccess off width = some (o, h) → regValue s o = regValue t o) :
    regRead s off width = regRead t off width := by
  unfold regRead
  split
  · rfl
  next whole => exact same _ _ whole
  next low => exact congrArg (· % 2 ^ 32) (same _ _ low)
  next high => exact congrArg (· / 2 ^ 32) (same _ _ high)

/-- Settles O4: of the mailbox a reset leaves the reset values of the rings beside the events it keeps, and each register from
0x10 on reads those values alone. -/
theorem mailboxResetRegisters : Obligations.MailboxResetRegisters := by
  intro s cause
  obtain ⟨due, kept, seq, mbox⟩ := mailboxReset_mbox s cause
  obtain ⟨program, mem, -, -, flash, fw, -⟩ := mailboxReset_same s cause
  refine ⟨fun off width low high => regRead_congr fun o h acc => ?_, ?_, ?_, ?_, program, ?_⟩
  · obtain ⟨above, below⟩ := regAccess_above low acc
    exact regValue_resetRings mbox above (by omega)
  · change devIdReg _ = devIdReg s
    unfold devIdReg
    rw [flash]
    rfl
  · change fwVerReg _ = fwVerReg s
    unfold fwVerReg
    rw [fw]
    rfl
  · change (mailboxReset s cause).mbox.heartbeat.toNat = s.mbox.heartbeat.toNat
    rw [mbox]
    rfl
  · rw [mem]
    rfl

/-! ### Writes at a BAR (R356, R358) -/

theorem atBar_open {s : State} (opened : barsOpen s = true) (k : State → State) : atBar s k = .next (k s) :=
  congrArg _ (if_pos opened)

theorem atBar_closed {s : State} (closed : barsOpen s = false) (k : State → State) : atBar s k = .next s :=
  congrArg _ (if_neg (by simp [closed]))

/-- A write that takes no effect takes none whether the function answers or not. -/
theorem atBar_same {s : State} {k : State → State} (same : k s = s) : atBar s k = .next s := by
  unfold atBar
  rw [same, ite_self]

/-! ### What resets the mailbox (R361, R365, R472) -/

theorem keyField (key : Word16) {low : Nat} (small : low < 65536) : bitsOf (key.toNat * 65536 + low) 16 16 = key.toNat := by
  have bound := key.isLt
  simp only [bitsOf, Nat.shiftRight_eq_div_pow]
  omega

theorem resetCtrlMboxReset_writes (key : Word16) (s : State) :
    exec (.resetCtrlMboxReset key) s = atBar s fun s => writeResetCtrl s (key.toNat * 65536 + 1) [] := rfl

theorem resetCtrlComputeReset_writes (key : Word16) (failed : List TileId) (s : State) :
    exec (.resetCtrlComputeReset key failed) s = atBar s fun s => writeResetCtrl s (key.toNat * 65536 + 2) failed := rfl

/-- RESET_CTRL without its key does nothing (R361). -/
theorem writeResetCtrl_noKey (s : State) {key : Word16} (wrong : key ≠ 0xA5C3#16) {low : Nat} (small : low < 65536)
    (failed : List TileId) : writeResetCtrl s (key.toNat * 65536 + low) failed = s := by
  refine if_pos ?_
  rw [keyField key small]
  exact fun same => wrong (BitVec.eq_of_toNat_eq same)

/-- With its key, RESET_CTRL resets what its low bits name. -/
theorem writeResetCtrl_key (s : State) {low : Nat} (small : low < 65536) (failed : List TileId) :
    writeResetCtrl s ((0xA5C3#16).toNat * 65536 + low) failed =
      let t := if bitAt ((0xA5C3#16).toNat * 65536 + low) 0 then mailboxReset s 1 else s
      if bitAt ((0xA5C3#16).toNat * 65536 + low) 1 ∧ canReset t then computeReset t 1 failed else t :=
  if_neg (not_not.2 (keyField _ small))

theorem writeResetCtrl_mbox (s : State) (failed : List TileId) :
    writeResetCtrl s ((0xA5C3#16).toNat * 65536 + 1) failed = mailboxReset s 1 := by
  have mbox : bitAt ((0xA5C3#16).toNat * 65536 + 1) 0 = true := by decide
  have compute : bitAt ((0xA5C3#16).toNat * 65536 + 1) 1 = false := by decide
  rw [writeResetCtrl_key s (by decide), mbox, compute]
  exact if_neg fun both => Bool.noConfusion both.1

theorem writeResetCtrl_compute {s : State} (can : canReset s = true) (failed : List TileId) :
    writeResetCtrl s ((0xA5C3#16).toNat * 65536 + 2) failed = computeReset s 1 failed := by
  have mbox : bitAt ((0xA5C3#16).toNat * 65536 + 2) 0 = false := by decide
  have compute : bitAt ((0xA5C3#16).toNat * 65536 + 2) 1 = true := by decide
  rw [writeResetCtrl_key s (by decide), mbox, compute]
  exact if_pos ⟨rfl, can⟩

/-- The event of a mailbox reset names its cause (R366, R399). -/
theorem mailboxReset_firstDue {s : State} (up : s.mbox.mcpUp = true) (alone : isMember s = false) (cause : Nat) :
    ((mailboxReset s cause).mbox.firstDue.map fun e => (e.code, e.payload)) = some (0x0E07, packed [(1, cause)]) := by
  have alone : isMember (ringsReset s) = false := alone
  have reset : mailboxReset s cause = dueFirst (ringsReset s) 0x0E07 (packed [(1, cause)]) := if_pos up
  rw [reset, dueFirst_firstDue alone]
  rfl

/-- Settles O18: the key's write, the three resets of the link, the write without the key, and the event due first. -/
theorem mailboxResetCauses : Obligations.MailboxResetCauses := by
  intro s
  refine ⟨fun opened => ?_, ⟨rfl, rfl, rfl, rfl⟩, fun key wrong => ?_, fun up alone cause => mailboxReset_firstDue up alone cause⟩
  · rw [resetCtrlMboxReset_writes, atBar_open opened, writeResetCtrl_mbox]
  · rw [resetCtrlMboxReset_writes, atBar_same (writeResetCtrl_noKey s wrong (low := 1) (by decide) [])]

theorem computeResetCommand_runs {s : State} {c : Cmd} (runs : Runs s c 0x0109 0 false false anyState)
    (rest : restZero c [] = true) (failed : List TileId) : exec (.computeResetCommand c failed) s =
      .next (if canReset s then done (computeReset s 2 failed) c 0 else done s c 0x0B) :=
  command_gated runs (ok := fun _ => restZero c []) rest fun _ s =>
    if canReset s then done (computeReset s 2 failed) c 0 else done s c 0x0B

/-- Settles O19: the register's key where a reset can run, and the command in both cases. -/
theorem computeResetCauses : Obligations.ComputeResetCauses := by
  refine ⟨?_, ?_, ?_⟩
  · intro s failed opened can
    rw [resetCtrlComputeReset_writes, atBar_open opened, writeResetCtrl_compute can]
  · intro s c failed runs rest can
    rw [computeResetCommand_runs runs rest, if_pos can]
  · intro s c failed runs rest cannot
    rw [computeResetCommand_runs runs rest, if_neg (by simp [cannot])]

/-! ### The MCP (R361, R447, R448) -/

/-- The module as a restart of the MCP leaves it, its event not yet due: the rings reset, and the restart counted with its time
(R447). -/
def restarted (s : State) : State :=
  let t := ringsReset (bump s 0x1007 noInst noTensor 1)
  { t with mbox := { t.mbox with restarts := s.timebase :: recentRestarts s } }

theorem restarted_isMember (s : State) : isMember (restarted s) = isMember s := by
  change isMember (bump s 0x1007 noInst noTensor 1) = isMember s
  unfold isMember
  rw [bump_fabric]

/-- Of memory, only waits for visibility end with the rings. -/
theorem restarted_mem (s : State) : { (restarted s).mem with acks := s.mem.acks, ends := s.mem.ends } = s.mem := by
  have counted : (bump s 0x1007 noInst noTensor 1).mem = s.mem := bump_mem ..
  unfold restarted ringsReset dropTransfers
  simp only [counted]

theorem managementRestart_restarts {s : State} (on : isPowered s = true) (up : s.mbox.mcpUp = true)
    (few : (recentRestarts s).length < 3) : exec (.managementRestart []) s =
      .next (dueFirst (restarted s) 0x1008 (packed [(4, (s.timebase :: recentRestarts s).length), (1, 1)])) :=
  if_pos ⟨on, up, few⟩

/-- Settles O17: the count that wraps, the restart, and the fault that stands. -/
theorem management : Obligations.Management := by
  refine ⟨?_, ?_, ?_⟩
  · intro s up
    exact if_pos up
  · intro s on up few alone
    have alone : isMember (restarted s) = false := (restarted_isMember s).trans alone
    generalize hb : packed [(4, (s.timebase :: recentRestarts s).length), (1, 1)] = payload
    obtain ⟨due, kept, seq, mbox⟩ := dueFirst_mbox (restarted s) 0x1008 payload
    obtain ⟨program, mem, units, -⟩ := dueFirst_same (restarted s) 0x1008 payload
    obtain ⟨counted, -⟩ := (bump_posts s 0x1007 noInst noTensor 1).same
    refine ⟨_, managementRestart_restarts on up few, ?_⟩
    rw [hb]
    refine ⟨by rw [mbox]; rfl, by rw [mbox]; rfl, by rw [dueFirst_firstDue alone]; rfl, ?_, ?_, ?_⟩
    · exact program.after counted
    · rw [mem]
      exact restarted_mem s
    · rw [units]; exact bump_units ..
  · intro s on up many
    exact if_pos ⟨on, up, many⟩

end Sys2Proof.Machine
end

section
/-! The registers of a reset state, and ports at bring-up (R361, R430 to R432). -/

namespace Sys2Proof.Machine
open Sys2Proof

/-- Settles O3: each register by its offset. -/
theorem resetRegisterValues : Obligations.ResetRegisterValues := by
  refine ⟨⟨rfl, rfl, rfl⟩, ?_, ?_, ?_, ⟨rfl, rfl, rfl⟩, ?_, rfl⟩
  · decide
  · decide
  · decide
  · decide

/-! ### Ports at bring-up (R430 to R432) -/

section
variable {s : State} {p : Fin 12}

theorem portLinkUp_gates (on : isPowered s = true) (up : s.mbox.mcpUp = true) (enabled_ : enabled s.fabric.ports[p] = true)
    (training : s.fabric.ports[p].link = .training) (lanes : s.fabric.ports[p].lanes ≠ 0)
    (gated : s.fabric.ports[p].noGate = false) (fkm : Bool) :
    exec (.portLinkUp p fkm) s = .next (setPort s p { s.fabric.ports[p] with link := .gating, fkm := fkm }) := by
  change execPortLinkUp p fkm s = _
  unfold execPortLinkUp
  dsimp only
  rw [if_pos ⟨on, up, enabled_, training, lanes⟩, if_neg (Bool.eq_false_iff.1 gated)]
  rfl

theorem bitAt_eq_testBit (w i : Nat) : bitAt w i = w.testBit i := by
  rw [Nat.testBit_eq_decide_div_mod_eq, bitAt, bitsOf, Nat.shiftRight_eq_div_pow, pow_one]

/-- The lanes already named, and those that a measurement finds bad (R430). -/
theorem bitAt_foldl_lanes (bad : LaneTest → Prop) [DecidablePred bad] (k : Fin 8) : ∀ (ms : List LaneTest) (m : Nat),
    bitAt (ms.foldl (fun m x => if bad x then m ||| 2 ^ x.lane.val else m) m) k.val =
      (bitAt m k.val || ms.any fun x => x.lane == k && decide (bad x))
  | [], m => (Bool.or_false _).symm
  | x :: ms, m => by
    have named : bitAt (if bad x then m ||| 2 ^ x.lane.val else m) k.val = (bitAt m k.val || (x.lane == k && decide (bad x))) := by
      by_cases found : bad x
      · have lane : decide (x.lane.val = k.val) = (x.lane == k) := by simp [Fin.ext_iff, BEq.beq]
        rw [if_pos found, bitAt_eq_testBit, bitAt_eq_testBit, Nat.testBit_or, Nat.testBit_two_pow, lane, decide_eq_true found,
          Bool.and_true]
      · rw [if_neg found, decide_eq_false found, Bool.and_false, Bool.or_false]
    rw [List.foldl_cons, bitAt_foldl_lanes bad k ms, List.any_cons, named, Bool.or_assoc]

theorem linkGateWindowEnd_judges (gating : s.fabric.ports[p].link = .gating) (ratio codewords : Byte) (ms : List LaneTest) :
    exec (.linkGateWindowEnd p ratio codewords ms) s = .next (checkReady (gateVerdict s p s.fabric.ports[p].lanes.toNat
      (ratioLanes ratio.toNat ms) (codewordLanes codewords.toNat ms))) := if_pos gating

theorem gateVerdict_passes {lanes ratio codewords : Nat} (good : (ratio ||| codewords) &&& lanes = 0) :
    gateVerdict s p lanes ratio codewords = portUp s p lanes := if_pos good

theorem gateVerdict_fails {lanes ratio codewords : Nat} (bad : (ratio ||| codewords) &&& lanes ≠ 0) :
    gateVerdict s p lanes ratio codewords = portDrops (post
      (updPort s p fun q => { q with lost := q.lost ||| BitVec.ofNat 8 ((ratio ||| codewords) &&& lanes) }) 0x1007
      (packed [(1, p.val), (1, (ratio ||| codewords) &&& lanes), (1, if ratio &&& lanes = 0 then 2 else 1)])) p := if_neg bad

theorem portLinkTimeout_times (bringUp : s.mbox.module = .bringUp) (on : enabled s.fabric.ports[p] = true)
    (training : s.fabric.ports[p].link = .training) (waits : s.fabric.ports[p].gated = false) :
    exec (.portLinkTimeout p) s = .next (checkReady (post
      (setPort { s with freeIdx := s.freeIdx + 1 } p { s.fabric.ports[p] with gated := true }) 0x1007
        (packed [(1, p.val), (1, Config.freeNat s.freeIdx), (1, 3)]))) :=
  if_pos ⟨bringUp, on, training, by rw [waits]; rfl⟩

end

/-- Settles O14: the link that comes up, the gate's verdict on its lanes, and the timeout. -/
theorem portBringUp : Obligations.PortBringUp := by
  refine ⟨?_, ?_, ?_, ?_⟩
  · intro s p fkm on up en training lanes gated
    exact portLinkUp_gates on up en training lanes gated fkm
  · intro m ms k
    exact ⟨bitAt_foldl_lanes (fun x => x.bits < x.errors * 1000000) k ms m,
      bitAt_foldl_lanes (fun x => 0 < x.codewords) k ms m⟩
  · intro s p ratio codewords ms gating bad
    refine ⟨fun passes => ?_, fun fails => ?_⟩
    · rw [linkGateWindowEnd_judges gating, gateVerdict_passes passes]
    · rw [linkGateWindowEnd_judges gating, gateVerdict_fails fails]
      rfl
  · intro s p bringUp on training waits
    exact ⟨_, portLinkTimeout_times bringUp on training waits⟩

end Sys2Proof.Machine
end

section
/-! BAR0: which accesses are a register's, and what a write of one does (R359 to R361). -/

namespace Sys2Proof.Machine
open Sys2Proof

/-! ### The register map (R359 to R361) -/

section
variable {off : Nat}

/-- The 64-bit registers: RING_BASE, the windows, WIN_ERR_ADDR and EVT_MASK, the MSI-X table and its pending bits. -/
theorem wide_cases (wide : regWidth off = 8) :
    (∃ i : Fin 5, off = 0x2000 + 0x20 * i.val) ∨ (∃ i : Fin 4, off = 0x3000 + 8 * i.val) ∨
    off = 0x3028 ∨ off = 0x4000 ∨ (∃ i : Fin 128, off = 0x10000 + 8 * i.val) ∨ off = 0x11000 := by
  unfold regWidth at wide
  split at wide
  · cases wide
  · split at wide
    · cases wide
    · split at wide
      next ring =>
        split at wide
        next base => exact .inl ⟨⟨(off - 0x2000) / 0x20, by omega⟩, by dsimp only; omega⟩
        all_goals cases wide
      · split at wide
        next win => exact .inr <| .inl ⟨⟨(off - 0x3000) / 8, by omega⟩, by dsimp only; omega⟩
        · split at wide
          · cases wide
          · split at wide
            next here => exact .inr <| .inr <| here.imp id .inl
            · split at wide
              · cases wide
              · split at wide
                · cases wide
                · split at wide
                  next table => exact .inr <| .inr <| .inr <| .inr <| .inl ⟨⟨(off - 0x10000) / 8, by omega⟩, by dsimp only; omega⟩
                  · split at wide
                    next pba => exact .inr <| .inr <| .inr <| .inr <| .inr pba
                    · cases wide

/-- Nothing begins at the upper half of a 64-bit register. -/
theorem regWidth_upperHalf (wide : regWidth off = 8) : regWidth (off + 4) = 0 := by
  obtain ⟨i, rfl⟩ | ⟨i, rfl⟩ | rfl | rfl | ⟨i, rfl⟩ | rfl := wide_cases wide
  · exact (by decide : ∀ i : Fin 5, regWidth (0x2000 + 0x20 * i.val + 4) = 0) i
  · exact (by decide : ∀ i : Fin 4, regWidth (0x3000 + 8 * i.val + 4) = 0) i
  · rfl
  · rfl
  · exact (by decide : ∀ i : Fin 128, regWidth (0x10000 + 8 * i.val + 4) = 0) i
  · rfl

/-- Every register lies at a multiple of its width. -/
theorem aligned_of_width (register : regWidth off ≠ 0) : off % regWidth off = 0 := by
  revert register
  unfold regWidth
  split
  next fixed => exact fun _ => by rcases fixed with rfl | rfl | rfl | rfl | rfl <;> rfl
  · split
    next bell => exact fun _ => bell.2.2
    · split
      next ring =>
        split
        all_goals intro register
        all_goals omega
      · split
        next win => exact fun _ => win.2.2
        · split
          next err => exact fun _ => err ▸ rfl
          · split
            next wide => exact fun _ => by rcases wide with rfl | rfl <;> rfl
            · split
              · exact fun _ => Nat.mod_one _
              · split
                next coal => exact fun _ => coal ▸ rfl
                · split
                  next table => exact fun _ => table.2.2
                  · split
                    next pba => exact fun _ => pba ▸ rfl
                    · exact fun register => absurd rfl register

/-- A 64-bit register lies at a multiple of its width. -/
theorem aligned_of_wide (wide : regWidth off = 8) : off % 8 = 0 := by
  obtain ⟨i, rfl⟩ | ⟨i, rfl⟩ | rfl | rfl | ⟨i, rfl⟩ | rfl := wide_cases wide <;> omega

theorem regAccess_whole {width : Nat} (some_ : width ≠ 0) (own : regWidth off = width) :
    regAccess off width = some (off, .whole) := by
  unfold regAccess
  rw [if_neg some_, if_pos own]

theorem regAccess_lower (wide : regWidth off = 8) : regAccess off 4 = some (off, .low) := by
  unfold regAccess
  rw [if_neg (by decide), if_neg (by omega), if_pos ⟨rfl, wide⟩]

theorem regAccess_upper (wide : regWidth off = 8) : regAccess (off + 4) 4 = some (off, .high) := by
  have none := regWidth_upperHalf wide
  have aligned := aligned_of_wide wide
  unfold regAccess
  rw [if_neg (by decide), if_neg (by omega), if_neg (by omega), if_pos ⟨rfl, by omega, wide⟩]
  rfl

theorem regAccess_none {width : Nat} (other : ¬(width ≠ 0 ∧ regWidth off = width)) (lower : ¬(width = 4 ∧ regWidth off = 8))
    (upper : ¬(width = 4 ∧ off % 8 = 4 ∧ regWidth (off - 4) = 8)) : regAccess off width = none := by
  unfold regAccess
  by_cases none : width = 0
  · exact if_pos none
  · rw [if_neg none, if_neg fun own => other ⟨none, own⟩, if_neg lower, if_neg upper]

/-! ### Writes of a half (R360) -/

/-- Bits 0 to 31 and bits 32 to 63. -/
theorem maskBits : ∀ i < 64, (0xFFFF_FFFF#64).getLsbD i = decide (i < 32) ∧
    (0xFFFF_FFFF_0000_0000#64).getLsbD i = !decide (i < 32) := by decide

theorem mergeHalf_low (x : Nat) (v : Word64) :
    mergeHalf (BitVec.ofNat 64 x) .low v = BitVec.ofNat 64 (2 ^ 32 * (x / 2 ^ 32) + v.toNat % 2 ^ 32) := by
  refine BitVec.eq_of_getLsbD_eq fun i hi => ?_
  obtain ⟨lower, upper⟩ := maskBits i hi
  have small : v.toNat % 2 ^ 32 < 2 ^ 32 := Nat.mod_lt _ (by decide)
  simp only [mergeHalf, BitVec.getLsbD_or, BitVec.getLsbD_and, BitVec.getLsbD_ofNat, lower, upper, hi,
    Nat.testBit_two_pow_mul_add _ small, Nat.testBit_div_two_pow, Nat.testBit_mod_two_pow]
  by_cases h : i < 32
  · simp [h, BitVec.getLsbD]
  · simp [h, show i - 32 + 32 = i by omega]

theorem mergeHalf_high (x : Nat) (v : Word64) :
    mergeHalf (BitVec.ofNat 64 x) .high v = BitVec.ofNat 64 (x % 2 ^ 32 + 2 ^ 32 * (v.toNat % 2 ^ 32)) := by
  refine BitVec.eq_of_getLsbD_eq fun i hi => ?_
  obtain ⟨lower, -⟩ := maskBits i hi
  have small : x % 2 ^ 32 < 2 ^ 32 := Nat.mod_lt _ (by decide)
  rw [Nat.add_comm]
  simp only [mergeHalf, BitVec.getLsbD_or, BitVec.getLsbD_and, BitVec.getLsbD_ofNat, BitVec.getLsbD_shiftLeft, lower, hi,
    Nat.testBit_two_pow_mul_add _ small, Nat.testBit_mod_two_pow]
  by_cases h : i < 32
  · simp [h, BitVec.getLsbD]
  · simp [h, BitVec.getLsbD, show i - 32 < 32 by omega]

/-! ### What a write of a register does (R361) -/

variable {s : State} {width : Nat} {h : Half} {v : Word64}

theorem regWrite_ringBase {i : Fin 5} (acc : regAccess off width = some (0x2000 + 0x20 * i.val, h)) :
    regWrite s off width v = writeRingBase s i h v := by
  have hi := i.isLt
  have ring : (0x2000 + 0x20 * i.val - 0x2000) / 0x20 = i.val := by omega
  have base : (0x2000 + 0x20 * i.val) % 0x20 = 0 := by omega
  unfold regWrite
  rw [acc]
  dsimp only
  rw [if_neg (by omega), dif_neg (by omega), if_neg (by omega), dif_pos ⟨by omega, by omega⟩, base]
  simp only [ring, Fin.eta]

theorem regWrite_winBase {i : Fin 4} (acc : regAccess off width = some (0x3000 + 8 * i.val, h)) :
    regWrite s off width v = { s with mbox := { s.mbox with
      winBase := s.mbox.winBase.set i (mergeHalf s.mbox.winBase[i] h v &&& 0xFFFF_FFFF_F000_0000#64) } } := by
  have hi := i.isLt
  have win : (0x3000 + 8 * i.val - 0x3000) / 8 = i.val := by omega
  unfold regWrite
  rw [acc]
  dsimp only
  rw [if_neg (by omega), dif_neg (by omega), if_neg (by omega), dif_neg (by omega), dif_pos ⟨by omega, by omega⟩]
  simp only [win, Fin.eta]

theorem regWrite_evtMask (acc : regAccess off width = some (0x4000, h)) : regWrite s off width v =
    { s with mbox := { s.mbox with evtMask := mergeHalf s.mbox.evtMask h v &&& 0xFFFF_FFFF_FFFF_FFFE#64 } } := by
  unfold regWrite
  rw [acc]
  rfl

theorem regWrite_evtVec {c : Nat} (class_ : c < 64) (acc : regAccess off width = some (0x4040 + c, h)) :
    regWrite s off width v = { s with mbox := { s.mbox with evtVec := setAt s.mbox.evtVec c (v.setWidth 6) } } := by
  unfold regWrite
  rw [acc]
  dsimp only
  rw [if_neg (by omega), dif_neg (by omega), if_neg (by omega), dif_neg (by omega), dif_neg (by omega), if_neg (by omega),
    if_neg (by omega), if_pos ⟨by omega, by omega⟩, Nat.add_sub_cancel_left]

theorem regWrite_msix {i : Fin 128} (acc : regAccess off width = some (0x10000 + 8 * i.val, h)) :
    regWrite s off width v = msixWrite s (0x10000 + 8 * i.val) h v := by
  have hi := i.isLt
  unfold regWrite
  rw [acc]
  dsimp only
  rw [if_neg (by omega), dif_neg (by omega), if_neg (by omega), dif_neg (by omega), dif_neg (by omega), if_neg (by omega),
    if_neg (by omega), if_neg (by omega), if_neg (by omega), if_pos ⟨by omega, by omega⟩]

/-- DEV_ID, FW_VER, STATE, HEARTBEAT, WIN_ERR_ADDR and the pending bits are read-only. -/
theorem regWrite_readOnly {o : Nat} (fixed : o < 0x10 ∨ o = 0x3028 ∨ o = 0x11000) (acc : regAccess off width = some (o, h)) :
    regWrite s off width v = s := by
  unfold regWrite
  rw [acc]
  dsimp only
  rw [if_neg (by omega), dif_neg (by omega), if_neg (by omega), dif_neg (by omega), dif_neg (by omega), if_neg (by omega),
    if_neg (by omega), if_neg (by omega), if_neg (by omega), if_neg (by omega)]

theorem regWrite_none (acc : regAccess off width = none) : regWrite s off width v = s := by
  unfold regWrite
  rw [acc]

/-! ### What a 64-bit register reads (R361) -/

theorem getAt_fin {α : Type} {n : Nat} (x : Vector α n) (i : Fin n) (d : α) : getAt x i.val d = x[i] := dif_pos i.isLt

theorem regValue_ringBase (i : Fin 5) : regValue s (0x2000 + 0x20 * i.val) = s.mbox.ringBase[i].toNat := by
  have hi := i.isLt
  have ring : (0x2000 + 0x20 * i.val - 0x2000) / 0x20 = i.val := by omega
  have base : (0x2000 + 0x20 * i.val) % 0x20 = 0 := by omega
  unfold regValue
  dsimp only
  rw [if_neg (by omega), if_neg (by omega), if_neg (by omega), if_neg (by omega), if_neg (by omega), if_neg (by omega),
    if_pos ⟨by omega, by omega⟩, base, ring]
  exact congrArg BitVec.toNat (getAt_fin s.mbox.ringBase i 0)

theorem regValue_winBase (i : Fin 4) : regValue s (0x3000 + 8 * i.val) = s.mbox.winBase[i].toNat := by
  have hi := i.isLt
  have win : (0x3000 + 8 * i.val - 0x3000) / 8 = i.val := by omega
  unfold regValue
  dsimp only
  rw [if_neg (by omega), if_neg (by omega), if_neg (by omega), if_neg (by omega), if_neg (by omega), if_neg (by omega),
    if_neg (by omega), if_pos ⟨by omega, by omega⟩, win]
  exact congrArg BitVec.toNat (getAt_fin s.mbox.winBase i _)

theorem regValue_msix (i : Fin 128) : regValue s (0x10000 + 8 * i.val) =
    bitsOf (getAt s.mbox.msix ((0x10000 + 8 * i.val - 0x10000) / 16) 0).toNat ((0x10000 + 8 * i.val) % 16 * 8) 64 := by
  have hi := i.isLt
  unfold regValue
  dsimp only
  rw [if_neg (by omega), if_neg (by omega), if_neg (by omega), if_neg (by omega), if_neg (by omega), if_neg (by omega),
    if_neg (by omega), if_neg (by omega), if_neg (by omega), if_neg (by omega), if_neg (by omega), if_neg (by omega),
    if_neg (by omega), if_pos ⟨by omega, by omega⟩]

/-! ### Halves (R360) -/

/-- The half of an entry of the MSI-X table that a register of it is. -/
theorem msixWrite_half (s : State) (i : Fin 128) (h : Half) (v : Word64) : msixWrite s (0x10000 + 8 * i.val) h v =
    msixWrite s (0x10000 + 8 * i.val) .whole (mergeHalf (BitVec.ofNat 64 (regValue s (0x10000 + 8 * i.val))) h v) := by
  have part : BitVec.ofNat 64 (regValue s (0x10000 + 8 * i.val)) = if (0x10000 + 8 * i.val) % 16 = 8
      then (getAt s.mbox.msix ((0x10000 + 8 * i.val - 0x10000) / 16) 0 >>> 64).setWidth 64
      else (getAt s.mbox.msix ((0x10000 + 8 * i.val - 0x10000) / 16) 0).setWidth 64 := by
    rw [regValue_msix]
    have byte : (0x10000 + 8 * i.val) % 16 = 8 ∨ (0x10000 + 8 * i.val) % 16 = 0 := by omega
    refine BitVec.eq_of_toNat_eq ?_
    rcases byte with upper | lower
    · simp [upper, bitsOf]
    · simp [lower, bitsOf]
  unfold msixWrite
  rw [part]
  rfl

/-- A write of half of a 64-bit register writes the register with its other half as it reads. -/
theorem regWrite_half (wide : regWidth off = 8) {off' : Nat} (acc : regAccess off' 4 = some (off, h)) :
    regWrite s off' 4 v = regWrite s off 8 (mergeHalf (BitVec.ofNat 64 (regValue s off)) h v) := by
  have all : regAccess off 8 = some (off, .whole) := regAccess_whole (by decide) wide
  obtain ⟨i, rfl⟩ | ⟨i, rfl⟩ | rfl | rfl | ⟨i, rfl⟩ | rfl := wide_cases wide
  · rw [regWrite_ringBase acc, regWrite_ringBase all, regValue_ringBase, BitVec.ofNat_toNat, BitVec.setWidth_eq]
    rfl
  · rw [regWrite_winBase acc, regWrite_winBase all, regValue_winBase, BitVec.ofNat_toNat, BitVec.setWidth_eq]
    rfl
  · rw [regWrite_readOnly (by decide) acc, regWrite_readOnly (by decide) all]
  · rw [regWrite_evtMask acc, regWrite_evtMask all, show regValue s 0x4000 = s.mbox.evtMask.toNat from rfl, BitVec.ofNat_toNat,
      BitVec.setWidth_eq]
    rfl
  · rw [regWrite_msix acc, regWrite_msix all, msixWrite_half]
  · rw [regWrite_readOnly (by decide) acc, regWrite_readOnly (by decide) all]

theorem regRead_lower (wide : regWidth off = 8) : regRead s off 4 = regValue s off % 2 ^ 32 := by
  unfold regRead
  rw [regAccess_lower wide]

theorem regRead_upper (wide : regWidth off = 8) : regRead s (off + 4) 4 = regValue s off / 2 ^ 32 := by
  unfold regRead
  rw [regAccess_upper wide]

theorem regRead_own {width : Nat} (some_ : width ≠ 0) (own : regWidth off = width) : regRead s off width = regValue s off := by
  unfold regRead
  rw [regAccess_whole some_ own]

theorem regRead_none {width : Nat} (none : regAccess off width = none) : regRead s off width = 0 := by
  unfold regRead
  rw [none]

end

theorem registerWrite_writes (off width : Nat) (v : Word64) (s : State) :
    exec (.registerWrite off width v) s = atBar s fun s => regWrite s off width v := rfl

theorem registerWrite_congr {s : State} {off off' width width' : Nat} {v v' : Word64}
    (same : regWrite s off width v = regWrite s off' width' v') :
    exec (.registerWrite off width v) s = exec (.registerWrite off' width' v') s := by
  change Host.Outcome.next (if barsOpen s then regWrite s off width v else s) =
    .next (if barsOpen s then regWrite s off' width' v' else s)
  rw [same]

/-- Settles O22: the accesses of the map are a register's own, its halves, and nothing else. -/
theorem registerAccess : Obligations.RegisterAccess := by
  refine ⟨?_, ?_, ?_, ?_, ?_⟩
  · intro s off width v other lower upper
    have none := regAccess_none other lower upper
    refine ⟨regRead_none none, ?_⟩
    rw [registerWrite_writes, atBar_same (regWrite_none none)]
  · intro s off wide _
    rw [regRead_own (by decide) wide, regRead_lower wide, regRead_upper wide, Nat.add_comm, Nat.div_add_mod]
  · intro s off v wide _
    constructor
    · rw [regRead_upper wide, ← mergeHalf_low]
      exact registerWrite_congr (regWrite_half wide (regAccess_lower wide))
    · rw [regRead_lower wide, ← mergeHalf_high]
      exact registerWrite_congr (regWrite_half wide (regAccess_upper wide))
  · intro s off width some_ own
    exact regRead_own some_ own
  · exact fun off => aligned_of_width

end Sys2Proof.Machine
end

section
/-! Interrupts, the control registers of BAR0 and Memory Space Enable (R356, R358, R361, R370, R382). -/

namespace Sys2Proof.Machine
open Sys2Proof

/-! ### Interrupts left pending (R356) -/

/-- What was left pending goes out: nothing else changes. -/
theorem sendPending_update (s : State) : ∃ out pba,
    sendPending s = { s with out := out, mbox := { s.mbox with msixPba := pba } } := by
  have sent (vs : List Nat) : ∀ s : State, ∃ out pba, vs.foldl (fun s v => emit { s with mbox := { s.mbox with
      msixPba := s.mbox.msixPba &&& ~~~(1#64 <<< v) } } (.interrupt v)) s =
      { s with out := out, mbox := { s.mbox with msixPba := pba } } := by
    induction vs with
    | nil => exact fun s => ⟨_, _, rfl⟩
    | cons v vs ih => exact fun s => ih _
  unfold sendPending
  split
  · exact ⟨_, _, rfl⟩
  · exact sent _ s

theorem sendPending_none {s : State} (none : s.mbox.msixPba = 0) : sendPending s = s := by
  unfold sendPending
  simp [none]

/-- The one vector left pending sends its interrupt once nothing masks it. -/
theorem sendPending_one {s : State} {i : Fin 64} (one : s.mbox.msixPba = 1#64 <<< i.val) (on : s.mbox.pcie.msixEnable = true)
    (unmasked : s.mbox.pcie.msixMask = false) (entry : (s.mbox.msix[i]).getLsbD 96 = false) :
    sendPending s = emit { s with mbox := { s.mbox with msixPba := 0 } } (.interrupt i.val) := by
  have only : ∀ i : Fin 64, (List.range 64).filter (fun v => (1#64 <<< i.val).getLsbD v) = [i.val] := by decide
  have cleared : ∀ i : Fin 64, 1#64 <<< i.val &&& ~~~(1#64 <<< i.val) = 0#64 := by decide
  have vectors : (List.range 64).filter (fun v => s.mbox.msixPba.getLsbD v && !(getAt s.mbox.msix v 0).getLsbD 96) = [i.val] := by
    have swap : (fun v => s.mbox.msixPba.getLsbD v && !(getAt s.mbox.msix v 0).getLsbD 96) =
        fun v => (fun v => !(getAt s.mbox.msix v 0).getLsbD 96) v && (fun v => (1#64 <<< i.val).getLsbD v) v :=
      funext fun v => by rw [one, Bool.and_comm]
    rw [swap, ← List.filter_filter, only i, List.filter_cons_of_pos (by rw [getAt_fin, entry]; rfl), List.filter_nil]
  unfold sendPending
  rw [on, unmasked, vectors]
  simp [one, cleared]

/-! ### When a vector sends its interrupt (R382) -/

section
variable {s : State} {vec : Fin 64}

/-- The count of a vector that awaits `left` further events. -/
theorem sinceIrq_left (counts : Vector Nat 64) (left : Nat) :
    (Vector.ofFn fun i : Fin 64 => if i.val = vec.val then left else counts[i])[vec] = left :=
  (Vector.getElem_ofFn vec.isLt).trans (if_pos rfl)

/-- The vector's events are counted from `left`. -/
theorem interrupt_sends (on : s.mbox.pcie.msixEnable = true) (unmasked : s.mbox.pcie.msixMask = false)
    (entry : (s.mbox.msix[vec]).getLsbD 96 = false) (left : Nat) : interrupt s vec.val left =
      emit { s with mbox := { s.mbox with sinceIrq := Vector.ofFn fun i => if i.val = vec.val then left else s.mbox.sinceIrq[i] } }
        (.interrupt vec.val) := by
  have entry : (s.mbox.msix.toList.getD vec.val 0).getLsbD 96 = false := by simpa using entry
  unfold interrupt
  simp only [on, unmasked, entry]
  rfl

theorem interrupt_pends (on : s.mbox.pcie.msixEnable = true)
    (masked : s.mbox.pcie.msixMask = true ∨ (s.mbox.msix[vec]).getLsbD 96 = true) (left : Nat) : interrupt s vec.val left =
      { s with mbox := { s.mbox with
          sinceIrq := Vector.ofFn fun i => if i.val = vec.val then left else s.mbox.sinceIrq[i]
          msixPba := s.mbox.msixPba ||| (1#64 <<< vec.val) } } := by
  have masked : (s.mbox.pcie.msixMask || (s.mbox.msix.toList.getD vec.val 0).getLsbD 96) = true := by simpa using masked
  unfold interrupt
  simp only [on, masked]
  rfl

theorem eventCoalesceDelay_counts (one : 1 ≤ s.mbox.sinceIrq[vec]) :
    exec (.eventCoalesceDelay vec) s = .next (interrupt s vec.val 0) := by
  change execEventCoalesceDelay vec s = _
  unfold execEventCoalesceDelay
  rw [if_pos one]

theorem eventCountInterrupt_counts (enough : max 1 s.mbox.coalCount.toNat ≤ s.mbox.sinceIrq[vec]) :
    exec (.eventCountInterrupt vec) s =
      .next (interrupt s vec.val (s.mbox.sinceIrq[vec] - max 1 s.mbox.coalCount.toNat)) := by
  change execEventCountInterrupt vec s = _
  unfold execEventCountInterrupt
  exact if_pos enough

end

/-- Settles O28: what the vector's interrupt does, where nothing masks it and where something does. -/
theorem interrupts : Obligations.Interrupts := by
  refine ⟨?_, ?_, ?_⟩
  · intro s vec on unmasked one entry
    refine ⟨_, eventCoalesceDelay_counts one, ?_⟩
    rw [interrupt_sends on unmasked entry]
    exact ⟨rfl, sinceIrq_left .., by simp only [emit_mbox]⟩
  · intro s vec on unmasked enough entry
    refine ⟨_, eventCountInterrupt_counts enough, ?_⟩
    rw [interrupt_sends on unmasked entry]
    exact ⟨rfl, sinceIrq_left .., by simp only [emit_mbox]⟩
  · intro s vec on enough masked
    refine ⟨_, eventCountInterrupt_counts enough, ?_⟩
    rw [interrupt_pends on masked]
    exact ⟨rfl, sinceIrq_left .., rfl⟩

/-! ### Memory Space Enable (R358) -/

/-- Settles O24: the size that the write brings into force, and what a function does that does not answer at its BARs. -/
theorem memorySpaceEnable : Obligations.MemorySpaceEnable := by
  refine ⟨?_, ?_, ?_, ?_⟩
  · intro s k cfg enable off low high
    change execMemorySpaceEnable (some k) s cfg = _
    unfold execMemorySpaceEnable
    simp [enable, off, low, high]
  · intro s size cfg enable kept
    change execMemorySpaceEnable size s cfg = _
    unfold execMemorySpaceEnable
    obtain rfl | on := kept
    · simp [enable]
    · cases size <;> simp [enable, on]
  · intro s size cfg disable
    change ∃ t, execMemorySpaceEnable size s cfg = _ ∧ _
    unfold execMemorySpaceEnable
    simp only [disable, Bool.false_eq_true, if_false]
    refine ⟨_, rfl, ?_⟩
    obtain ⟨out, pba, sent⟩ := sendPending_update { s with
      mbox := { s.mbox with memEnable := false, barPending := _, pcie := configured s.mbox.pcie s.mbox.barLog2 cfg }
      power := { s.power with perstLow := false } }
    rw [sent]
    exact ⟨rfl, rfl, rfl⟩
  · intro s off width n v data closed
    refine ⟨by rw [registerWrite_writes, atBar_closed closed], ?_, ?_⟩
    · change execBar2Write off data s = _
      unfold execBar2Write
      simp [closed]
    · change execBar2Read off n s = _
      unfold execBar2Read
      simp [closed]

/-! ### Control registers (R361) -/

section
variable {s : State} {width : Nat} {h : Half} {v : Word64}

/-- A 1 written to a bit of RING_ERR clears it. -/
theorem regWrite_ringErr {off : Nat} {r : Fin 5} (acc : regAccess off width = some (0x2010 + 0x20 * r.val, h)) :
    regWrite s off width v =
      { s with mbox := { s.mbox with ringErr := s.mbox.ringErr.set r (s.mbox.ringErr[r] &&& ~~~(v.setWidth 3)) } } := by
  have hr := r.isLt
  have ring : (0x2010 + 0x20 * r.val - 0x2000) / 0x20 = r.val := by omega
  have err : (0x2010 + 0x20 * r.val) % 0x20 = 0x10 := by omega
  unfold regWrite
  rw [acc]
  dsimp only
  rw [if_neg (by omega), dif_neg (by omega), if_neg (by omega), dif_pos ⟨by omega, by omega⟩, err]
  simp only [ring, Fin.eta]

/-- An access below RESET_CTRL is to a register below it. -/
theorem regAccess_below {off o : Nat} (low : off < 0x10) (acc : regAccess off width = some (o, h)) : o < 0x10 := by
  unfold regAccess at acc
  split at acc
  · cases acc
  · split at acc
    · cases acc; exact low
    · split at acc
      · cases acc; exact low
      · split at acc
        · cases acc; omega
        · cases acc

theorem regWrite_below {off : Nat} (low : off < 0x10) : regWrite s off width v = s := by
  cases acc : regAccess off width with
  | none => exact regWrite_none acc
  | some r => exact regWrite_readOnly (.inl (regAccess_below low acc)) acc

theorem registerWrite_open (opened : barsOpen s = true) (off : Nat) :
    exec (.registerWrite off width v) s = .next (regWrite s off width v) := by
  rw [registerWrite_writes, atBar_open opened]

/-! ### The MSI-X table (R361; log 6) -/

/-- The entry with its lower half written. -/
def lowerWritten (entry : BitVec 128) (v : Word64) : BitVec 128 := (entry >>> 64 <<< 64) ||| v.setWidth 128

/-- The entry with its upper half, which holds the mask bit, written. -/
def upperWritten (entry : BitVec 128) (v : Word64) : BitVec 128 :=
  (entry &&& BitVec.ofNat 128 (2 ^ 64 - 1)) ||| (v.setWidth 128 <<< 64)

/-- The vector's mask bit is bit 32 of the upper half. -/
theorem upperWritten_mask (entry : BitVec 128) (v : Word64) : (upperWritten entry v).getLsbD 96 = v.getLsbD 32 := by
  unfold upperWritten
  rw [BitVec.getLsbD_or, BitVec.getLsbD_and, BitVec.getLsbD_shiftLeft, BitVec.getLsbD_setWidth]
  simp

/-- The table takes an entry, and what was left pending goes out. -/
def entryTaken (s : State) (i : Fin 64) (entry : BitVec 128) : State :=
  sendPending { s with mbox := { s.mbox with msix := s.mbox.msix.set i entry } }

theorem setAt_fin {α : Type} {n : Nat} (x : Vector α n) (i : Fin n) (a : α) : setAt x i.val a = x.set i a := by
  refine Vector.ext fun j hj => ?_
  unfold setAt
  rw [Vector.getElem_ofFn, Vector.getElem_set]
  simp [eq_comm]

theorem entryTaken_msix (i : Fin 64) (entry : BitVec 128) : (entryTaken s i entry).mbox.msix = s.mbox.msix.set i entry := by
  unfold entryTaken
  obtain ⟨out, pba, sent⟩ := sendPending_update { s with mbox := { s.mbox with msix := s.mbox.msix.set i entry } }
  rw [sent]

theorem entryTaken_quiet (none : s.mbox.msixPba = 0) (i : Fin 64) (entry : BitVec 128) :
    entryTaken s i entry = { s with mbox := { s.mbox with msix := s.mbox.msix.set i entry } } := sendPending_none none

theorem msixWrite_lower (i : Fin 64) : msixWrite s (0x10000 + 16 * i.val) .whole v =
    entryTaken s i (lowerWritten s.mbox.msix[i] v) := by
  have entry : (0x10000 + 16 * i.val - 0x10000) / 16 = i.val := by omega
  have half : ¬(0x10000 + 16 * i.val) % 16 = 8 := by omega
  unfold msixWrite
  dsimp only
  simp only [entry, half, if_false, getAt_fin, setAt_fin]
  rfl

theorem msixWrite_upper (i : Fin 64) : msixWrite s (0x10008 + 16 * i.val) .whole v =
    entryTaken s i (upperWritten s.mbox.msix[i] v) := by
  have entry : (0x10008 + 16 * i.val - 0x10000) / 16 = i.val := by omega
  have half : (0x10008 + 16 * i.val) % 16 = 8 := by omega
  unfold msixWrite
  dsimp only
  simp only [entry, half, if_true, getAt_fin, setAt_fin]
  rfl

/-- The table's halves are registers of their own. -/
theorem regWidth_msix (i : Fin 128) : regWidth (0x10000 + 8 * i.val) = 8 :=
  (by decide : ∀ i : Fin 128, regWidth (0x10000 + 8 * i.val) = 8) i

theorem regWrite_msixLower (i : Fin 64) : regWrite s (0x10000 + 16 * i.val) 8 v =
    entryTaken s i (lowerWritten s.mbox.msix[i] v) := by
  have half : 0x10000 + 16 * i.val = 0x10000 + 8 * (⟨2 * i.val, by omega⟩ : Fin 128).val := by dsimp only; omega
  rw [← msixWrite_lower, half, regWrite_msix (regAccess_whole (by decide) (regWidth_msix _))]

theorem regWrite_msixUpper (i : Fin 64) : regWrite s (0x10008 + 16 * i.val) 8 v =
    entryTaken s i (upperWritten s.mbox.msix[i] v) := by
  have half : 0x10008 + 16 * i.val = 0x10000 + 8 * (⟨2 * i.val + 1, by omega⟩ : Fin 128).val := by dsimp only; omega
  rw [← msixWrite_upper, half, regWrite_msix (regAccess_whole (by decide) (regWidth_msix _))]

end

/-- Settles O23: each register by its offset, and the table's two halves with the interrupts they let out. -/
theorem controlRegisters : Obligations.ControlRegisters := by
  refine ⟨?_, ?_, ?_, ?_, ?_, ?_, ?_, ?_⟩
  · intro s v opened
    rw [registerWrite_open opened, regWrite_evtMask (h := .whole) rfl]
    rfl
  · intro s c v opened class_
    have own : regWidth (0x4040 + c) = 1 :=
      (by decide : ∀ c : Fin 64, regWidth (0x4040 + c.val) = 1) ⟨c, class_⟩
    rw [registerWrite_open opened, regWrite_evtVec class_ (regAccess_whole (by decide) own)]
  · intro s v opened
    rw [registerWrite_open opened]
    rfl
  · intro s i v opened
    have own : regWidth (0x3000 + 8 * i.val) = 8 := (by decide : ∀ i : Fin 4, regWidth (0x3000 + 8 * i.val) = 8) i
    rw [registerWrite_open opened, regWrite_winBase (regAccess_whole (by decide) own)]
    rfl
  · intro s off width v low
    rw [registerWrite_writes, atBar_same (regWrite_below low)]
  · intro s r v opened
    have own : regWidth (0x2010 + 0x20 * r.val) = 4 := (by decide : ∀ r : Fin 5, regWidth (0x2010 + 0x20 * r.val) = 4) r
    rw [registerWrite_open opened, regWrite_ringErr (regAccess_whole (by decide) own)]
  · intro s v opened
    rw [registerWrite_open opened]
    rfl
  · intro s i v opened
    refine ⟨entryTaken s i (lowerWritten s.mbox.msix[i] v), entryTaken s i (upperWritten s.mbox.msix[i] v), ?_,
      entryTaken_msix .., ?_, entryTaken_msix .., fun none => ?_, fun one on unmasked clear => ?_⟩
    · rw [registerWrite_open opened, regWrite_msixLower]
    · rw [registerWrite_open opened, regWrite_msixUpper]
    · rw [entryTaken_quiet none, entryTaken_quiet none]
      exact ⟨rfl, rfl⟩
    · have sent : entryTaken s i (upperWritten s.mbox.msix[i] v) = _ := sendPending_one one on unmasked (by
        change (s.mbox.msix.set i (upperWritten s.mbox.msix[i] v))[i.val].getLsbD 96 = false
        rw [Vector.getElem_set_self, upperWritten_mask, clear])
      rw [sent]
      exact ⟨rfl, rfl⟩

end Sys2Proof.Machine
end

section
/-! The addresses that the windows of BAR2 reach (R367). -/

namespace Sys2Proof.Machine
open Sys2Proof

theorem bitsOf_eq (w lo n : Nat) : bitsOf w lo n = w / 2 ^ lo % 2 ^ n := by
  unfold bitsOf
  rw [Nat.shiftRight_eq_div_pow]

/-- An offset within a segment, added to the segment's start, stays within what whole segments fill. -/
theorem segment_within {seg place all : Nat} (whole : seg ∣ all) (low : place < all) (o : Nat) (some_ : 0 < seg) :
    place / seg * seg + o % seg < all := by
  obtain ⟨n, rfl⟩ := whole
  have start : place / seg < n := (Nat.div_lt_iff_lt_mul some_).2 (by rwa [Nat.mul_comm])
  have rest := Nat.mod_lt o some_
  calc place / seg * seg + o % seg < place / seg * seg + seg := by omega
    _ = (place / seg + 1) * seg := by rw [Nat.add_mul, Nat.one_mul]
    _ ≤ n * seg := Nat.mul_le_mul_right seg start
    _ = seg * n := Nat.mul_comm ..

section
variable {w low : Nat} (within : low < 2 ^ 44)
include within

theorem nodeOf_place : nodeOf (bitsOf w 44 20 * 2 ^ 44 + low) = bitsOf w 48 16 := by
  unfold nodeOf
  simp only [bitsOf_eq]
  omega

theorem spaceOf_place : spaceOf (bitsOf w 44 20 * 2 ^ 44 + low) = bitsOf w 44 4 := by
  unfold spaceOf
  simp only [bitsOf_eq]
  omega

theorem offsetOf_place : offsetOf (bitsOf w 44 20 * 2 ^ 44 + low) = low := by
  unfold offsetOf
  simp only [bitsOf_eq]
  omega

end

/-- Settles O25: a window of four is named, and the segment's start and the offset within it together stay below node and space. -/
theorem windowAddress : Obligations.WindowAddress := by
  intro s o n least most within seg w
  have some_ : 0 < seg := Nat.two_pow_pos _
  have four : 2 ^ s.mbox.barLog2 = 4 * seg := by
    rw [show 4 * seg = 2 ^ 2 * 2 ^ (s.mbox.barLog2 - 2) from rfl, ← Nat.pow_add]
    congr 1
    omega
  have window : o / seg < 4 := (Nat.div_lt_iff_lt_mul some_).2 (four ▸ within)
  have named : o / seg % 4 = o / seg := Nat.mod_eq_of_lt window
  have place : bitsOf w 28 16 * 2 ^ 28 < 2 ^ 44 := by
    rw [bitsOf_eq]
    omega
  have whole : seg ∣ 2 ^ 44 := Nat.pow_dvd_pow 2 (by omega)
  have low := segment_within whole place o some_
  have address : bar2Place s o n = (o / seg, decide (o / seg = (o + max n 1 - 1) / seg),
      bitsOf w 44 20 * 2 ^ 44 + (bitsOf w 28 16 * 2 ^ 28 / seg * seg + o % seg)) := by
    unfold bar2Place
    simp only [← Nat.add_assoc]
    change (o / seg % 4, _, bitsOf (getAt s.mbox.winBase (o / seg % 4) 0).toNat 44 20 * 2 ^ 44 + _ + _) = _
    rw [named]
  rw [address]
  dsimp only
  refine ⟨rfl, window, nodeOf_place low, spaceOf_place low, offsetOf_place low, ?_⟩
  rw [offsetOf_place low, Nat.mul_add_mod', Nat.mod_mod]

end Sys2Proof.Machine
end

section
/-! The registers of the rings, and the kept events that the event ring takes when it is enabled (R361, R362, R372, R376, R381). -/

namespace Sys2Proof.Machine
open Sys2Proof

/-! ### An error of a ring (R362) -/

section
variable (s : State) (i : Fin 5) (bit : Nat)

/-- The error's bit becomes set and the ring's ENABLE is cleared; of the mailbox only the event ring changes beside them. -/
theorem ringError_posts : Posts { s with mbox := { s.mbox with
    ringErr := s.mbox.ringErr.set i (s.mbox.ringErr[i] ||| BitVec.ofNat 3 bit), ringOn := s.mbox.ringOn.set i false } }
    (ringError s i bit) := by
  unfold ringError
  dsimp only
  split
  · exact post_posts ..
  · exact Posts.refl _

theorem ringError_ringErr : (ringError s i bit).mbox.ringErr[i] = s.mbox.ringErr[i] ||| BitVec.ofNat 3 bit := by
  simp only [(ringError_posts s i bit).ringErr, Fin.getElem_fin, Vector.getElem_set_self]

theorem ringError_ringOn : (ringError s i bit).mbox.ringOn[i] = false := by
  simp only [(ringError_posts s i bit).ringOn, Fin.getElem_fin, Vector.getElem_set_self]

theorem ringError_ringSize : (ringError s i bit).mbox.ringSize = s.mbox.ringSize := (ringError_posts s i bit).ringSize

theorem ringError_ringBase : (ringError s i bit).mbox.ringBase = s.mbox.ringBase := (ringError_posts s i bit).ringBase

end

/-! ### Held entries written (R380, R381) -/

theorem flushHeld_none {s : State} (due : s.mbox.firstDue = none) (held : s.mbox.heldCompletions = []) (lost : s.mbox.lostCount = 0)
    (kept : s.mbox.kept = []) (n : Nat) : flushHeld n s = s := by
  cases n with
  | zero => rfl
  | succ n =>
    unfold flushHeld
    simp [due, held, lost, kept]

/-- An event ring, enabled and with room for all of `es`, that holds nothing but the kept events `es`. -/
structure Draining (s : State) (es : List Event) : Prop where
  on : s.mbox.ringOn[4] = true
  due : s.mbox.firstDue = none
  lost : s.mbox.lostCount = 0
  sources : s.mbox.lostSources = []
  held : s.mbox.heldCompletions = []
  kept : s.mbox.kept = es
  unmasked : ∀ e ∈ es, masked s e.code = false
  returned : s.mbox.eqHead = 0
  room : s.mbox.ringHead[4].toNat + es.length < s.mbox.ringSize[4].toNat
  size : s.mbox.ringSize[4].toNat ≤ 4096

section
variable {s : State} {e : Event} {es : List Event}

/-- The state that the flush reaches by writing the first of the kept events. -/
def firstWritten (s : State) (e : Event) (es : List Event) : State := writeEntry { s with mbox := { s.mbox with kept := es } } e

theorem firstWritten_out (sources : s.mbox.lostSources = []) : (firstWritten s e es).out = s.out ++ [.hostWrite
    (s.mbox.ringBase[4] + BitVec.ofNat 64 (32 * s.mbox.ringHead[4].toNat)) (entryBytes e s.mbox.phase)] := by
  unfold firstWritten writeEntry
  simp [sources]

/-- An entry that is not the ring's last moves RING_HEAD by one and leaves the phase. -/
theorem firstWritten_head (room : s.mbox.ringHead[4].toNat + 1 < s.mbox.ringSize[4].toNat) :
    (firstWritten s e es).mbox.ringHead[4] = BitVec.ofNat 12 (s.mbox.ringHead[4].toNat + 1) ∧
      (firstWritten s e es).mbox.phase = s.mbox.phase := by
  have more : ¬s.mbox.ringSize[4].toNat ≤ s.mbox.ringHead[4].toNat + 1 := by omega
  unfold firstWritten writeEntry
  simp [more]

theorem firstWritten_mbox : (firstWritten s e es).mbox.lostCount = s.mbox.lostCount ∧ (firstWritten s e es).mbox.kept = es ∧
    (firstWritten s e es).mbox.heldCompletions = s.mbox.heldCompletions ∧
    (firstWritten s e es).mbox.evtMask = s.mbox.evtMask ∧
    (firstWritten s e es).mbox.lostSources = s.mbox.lostSources.filter (· != e.source) := ⟨rfl, rfl, rfl, rfl, rfl⟩

theorem Draining.headNext (d : Draining s (e :: es)) :
    (firstWritten s e es).mbox.ringHead[4].toNat = s.mbox.ringHead[4].toNat + 1 := by
  have room := d.room
  have size := d.size
  rw [List.length_cons] at room
  rw [(firstWritten_head (by omega)).1, BitVec.toNat_ofNat]
  omega

theorem Draining.next (d : Draining s (e :: es)) : Draining (firstWritten s e es) es := by
  have posts := writeEntry_posts { s with mbox := { s.mbox with kept := es } } e
  obtain ⟨lost, kept, held, mask, sources⟩ := firstWritten_mbox (s := s) (e := e) (es := es)
  have room := d.room
  rw [List.length_cons] at room
  constructor
  case on => exact (congrArg (·[4]) posts.ringOn).trans d.on
  case due => exact posts.firstDue.trans d.due
  case lost => exact lost.trans d.lost
  case sources => rw [sources, d.sources]; rfl
  case held => exact held.trans d.held
  case kept => exact kept
  case unmasked => exact fun e' here => d.unmasked e' (List.mem_cons_of_mem _ here)
  case returned => exact posts.eqHead.trans d.returned
  case room =>
    rw [d.headNext, show (firstWritten s e es).mbox.ringSize = s.mbox.ringSize from posts.ringSize]
    omega
  case size => exact (congrArg (fun x => (x[4] : BitVec 13).toNat) posts.ringSize).trans_le d.size

theorem Draining.notFull (d : Draining s (e :: es)) : ringFull s = false := by
  have room := d.room
  rw [List.length_cons] at room
  unfold ringFull
  rw [d.returned]
  dsimp only
  rw [Nat.mod_eq_of_lt (by omega)]
  simp
  omega

theorem flushHeld_next (d : Draining s (e :: es)) (n : Nat) : flushHeld (n + 1) s = flushHeld n (firstWritten s e es) := by
  have unmasked : masked { s with mbox := { s.mbox with kept := es } } e.code = false := d.unmasked e (List.mem_cons_self ..)
  have taken : flushHeld (n + 1) s = flushHeld n (if masked { s with mbox := { s.mbox with kept := es } } e.code
      then { s with mbox := { s.mbox with kept := es } } else firstWritten s e es) := by
    rw [flushHeld]
    simp [d.on, d.notFull, d.due, d.lost, d.held, d.kept, firstWritten]
  rw [taken, if_neg (by rw [unmasked]; decide)]

/-- The kept events enter the ring one after another, in their order. -/
theorem flushHeld_drains : ∀ (es : List Event) (s : State) (n : Nat), Draining s es → es.length < n →
    (flushHeld n s).mbox.ringOn[4] = true ∧ (flushHeld n s).mbox.kept = [] ∧
      (flushHeld n s).out = s.out ++ (es.zipIdx s.mbox.ringHead[4].toNat).map fun x =>
        .hostWrite (s.mbox.ringBase[4] + BitVec.ofNat 64 (32 * x.2)) (entryBytes x.1 s.mbox.phase)
  | [], s, n, d, _ => by
    rw [flushHeld_none d.due d.held d.lost d.kept]
    exact ⟨d.on, d.kept, (List.append_nil _).symm⟩
  | e :: es, s, n + 1, d, fuel => by
    have room := d.room
    rw [List.length_cons] at room fuel
    obtain ⟨on, kept, out⟩ := flushHeld_drains es (firstWritten s e es) n d.next (by omega)
    have base : (firstWritten s e es).mbox.ringBase = s.mbox.ringBase := (writeEntry_posts ..).ringBase
    rw [flushHeld_next d]
    refine ⟨on, kept, ?_⟩
    rw [out, firstWritten_out d.sources, d.headNext, (firstWritten_head (by omega)).2, base, List.append_assoc]
    rfl

end

/-! ### Writes of the rings' registers (R361, R362, R376) -/

section
variable {s : State}

theorem sqTailDoorbell_open (opened : barsOpen s = true) (r : Fin 4) (v : Word32) :
    exec (.sqTailDoorbell r v) s = .next (writeTail s r v.toNat) :=
  atBar_open opened fun s => writeTail s r v.toNat

theorem eqHeadWrite_open (opened : barsOpen s = true) (v : Word32) : exec (.eqHeadWrite v) s = .next (writeEqHead s v.toNat) :=
  atBar_open opened fun s => writeEqHead s v.toNat

theorem ringCtrlWrite_open (opened : barsOpen s = true) (r : Fin 5) (v : Word32) :
    exec (.ringCtrlWrite r v) s = .next (writeRingCtrl s r v.toNat) :=
  atBar_open opened fun s => writeRingCtrl s r v.toNat

theorem ringBaseWrite_open (opened : barsOpen s = true) (r : Fin 5) (h : Half) (v : Word64) :
    exec (.ringBaseWrite r h v) s = .next (writeRingBase s r h v) :=
  atBar_open opened fun s => writeRingBase s r h v

/-- A ring that is enabled keeps its SIZE: another one is an error. -/
theorem writeRingCtrl_resize {r : Fin 5} {v : Nat} (on : s.mbox.ringOn[r] = true) (other : bitsOf v 0 13 ≠ s.mbox.ringSize[r].toNat) :
    writeRingCtrl s r v = ringError s r 4 := by
  unfold writeRingCtrl
  rw [if_pos on]
  exact if_pos other

theorem writeRingCtrl_keep {r : Fin 5} {v : Nat} (on : s.mbox.ringOn[r] = true) (same : bitsOf v 0 13 = s.mbox.ringSize[r].toNat) :
    writeRingCtrl s r v = { s with mbox := { s.mbox with ringOn := s.mbox.ringOn.set r (bitAt v 16) } } := by
  unfold writeRingCtrl
  rw [if_pos on]
  exact if_neg (not_not.2 same)

/-- A ring that is disabled takes its SIZE, and one that R361 does not allow is an error when it is written. -/
theorem writeRingCtrl_bad {r : Fin 5} {v : Nat} (off : s.mbox.ringOn[r] = false) (bad : sizeOk (bitsOf v 0 13) = false)
    (written : bitAt v 16 = true ∨ bitsOf v 0 13 ≠ s.mbox.ringSize[r].toNat) : writeRingCtrl s r v =
      ringError { s with mbox := { s.mbox with ringSize := s.mbox.ringSize.set r (BitVec.ofNat 13 (bitsOf v 0 13)) } } r 4 := by
  unfold writeRingCtrl
  rw [if_neg (by simp [off])]
  exact if_pos (by simpa [bad] using written)

/-- The ring with its SIZE taken and ENABLE set. -/
def ringEnabled (s : State) (r : Fin 5) (size : Nat) : State := { s with mbox := { s.mbox with
  ringSize := s.mbox.ringSize.set r (BitVec.ofNat 13 size), ringOn := s.mbox.ringOn.set r true } }

theorem writeRingCtrl_enable {r : Fin 5} {v : Nat} (off : s.mbox.ringOn[r] = false) (en : bitAt v 16 = true)
    (good : sizeOk (bitsOf v 0 13) = true) : writeRingCtrl s r v =
      if r.val = 4 then drainEvents (ringEnabled s r (bitsOf v 0 13)) else ringEnabled s r (bitsOf v 0 13) := by
  unfold writeRingCtrl
  simp only [off, en, good]
  rfl

theorem writeRingBase_on {r : Fin 5} (on : s.mbox.ringOn[r] = true) (h : Half) (v : Word64) :
    writeRingBase s r h v = ringError s r 4 := if_pos on

theorem writeRingBase_off {r : Fin 5} (off : s.mbox.ringOn[r] = false) (v : Word64) : writeRingBase s r .whole v =
    { s with mbox := { s.mbox with ringBase := s.mbox.ringBase.set r (v &&& 0xFFFF_FFFF_FFFF_F000#64) } } :=
  if_neg (by simp [off])

theorem getAt_ring {α : Type} (x : Vector α 5) (r : Fin 4) (d : α) : getAt x r.val d = x[(⟨r.val, by omega⟩ : Fin 5)] :=
  getAt_fin x ⟨r.val, by omega⟩ d

theorem sizeOk_most {n : Nat} (good : sizeOk n = true) : n ≤ 4096 := by
  unfold sizeOk at good
  simp only [Bool.and_eq_true, decide_eq_true_eq] at good
  exact good.1.2

/-- Enabled, the event ring drains what is kept where it has room for all of it. -/
theorem ringEnabled_draining {n : Nat} (head : s.mbox.ringHead[4] = 0) (eqHead : s.mbox.eqHead = 0)
    (due : s.mbox.firstDue = none) (held : s.mbox.heldCompletions = []) (lost : s.mbox.lostCount = 0)
    (sources : s.mbox.lostSources = []) (unmasked : ∀ e ∈ s.mbox.kept, masked s e.code = false)
    (room : s.mbox.kept.length < n) (size : n ≤ 4096) : Draining (ringEnabled s 4 n) s.mbox.kept := by
  have taken : (ringEnabled s 4 n).mbox.ringSize[4].toNat = n := by
    unfold ringEnabled
    simp
    omega
  constructor
  case on => exact Vector.getElem_set_self _
  case due => exact due
  case lost => exact lost
  case sources => exact sources
  case held => exact held
  case kept => rfl
  case unmasked => exact unmasked
  case returned => exact eqHead
  case room =>
    rw [taken, show (ringEnabled s 4 n).mbox.ringHead[4] = 0 from head]
    simpa using room
  case size => exact taken.trans_le size

end

/-- Settles O21: the registers' writes by what each register refuses, and the kept events one after another. -/
theorem ringRegisters : Obligations.RingRegisters := by
  refine ⟨?_, ?_, ?_, ?_, ?_, ?_, ?_, ?_, ?_, ?_, ?_⟩
  · intro s r v opened low
    rw [getAt_ring] at low
    rw [sqTailDoorbell_open opened]
    exact congrArg _ (if_neg (Nat.not_le.2 low))
  · intro s r v opened high
    rw [getAt_ring] at high
    have bad : writeTail s r v.toNat = ringError _ ⟨r.val, by omega⟩ 1 := if_pos high
    refine ⟨_, sqTailDoorbell_open opened r v, ?_⟩
    rw [bad, getAt_ring, getAt_ring, getAt_ring]
    exact ⟨ringError_ringErr .., ringError_ringOn ..⟩
  · intro s v opened low due held lost kept
    rw [eqHeadWrite_open opened]
    refine congrArg _ ((if_neg (Nat.not_le.2 low)).trans ?_)
    exact flushHeld_none (by exact due) (by exact held) (by exact lost) (by exact kept) _
  · intro s v opened high
    have bad : writeEqHead s v.toNat = ringError _ 4 1 := if_pos high
    refine ⟨_, eqHeadWrite_open opened v, ?_⟩
    rw [bad]
    exact ⟨ringError_ringErr _ 4 1, ringError_ringOn _ 4 1⟩
  · intro s r v opened off en good submission
    rw [ringCtrlWrite_open opened, writeRingCtrl_enable off en good, if_neg (show ¬r.val = 4 from fun event => submission (Fin.ext event))]
    rfl
  · intro s v opened off en good head eqHead due held lost sources unmasked room
    refine ⟨_, ringCtrlWrite_open opened 4 v, ?_⟩
    rw [writeRingCtrl_enable (r := 4) off en good, if_pos (show (4 : Fin 5).val = 4 from rfl)]
    have draining := ringEnabled_draining head eqHead due held lost sources unmasked room (sizeOk_most good)
    obtain ⟨on, kept, out⟩ := flushHeld_drains _ _ (s.mbox.kept.length + s.mbox.heldCompletions.length + 3) draining (by omega)
    refine ⟨on, kept, out.trans ?_⟩
    rw [show (ringEnabled s 4 (bitsOf v.toNat 0 13)).mbox.ringHead[4] = 0 from head]
    rfl
  · intro s r v opened on en same
    rw [ringCtrlWrite_open opened, writeRingCtrl_keep on same, en]
  · intro s r v opened off bad written
    refine ⟨_, ringCtrlWrite_open opened r v, ?_⟩
    rw [writeRingCtrl_bad off bad written]
    exact ⟨ringError_ringErr .., ringError_ringOn ..⟩
  · intro s r v opened on other
    refine ⟨_, ringCtrlWrite_open opened r v, ?_⟩
    rw [writeRingCtrl_resize on other]
    exact ⟨ringError_ringErr .., ringError_ringOn .., ringError_ringSize ..⟩
  · intro s r v opened off
    rw [ringBaseWrite_open opened, writeRingBase_off off]
  · intro s r h v opened on
    refine ⟨_, ringBaseWrite_open opened r h v, ?_⟩
    rw [writeRingBase_on on]
    exact ⟨ringError_ringBase .., ringError_ringErr ..⟩

end Sys2Proof.Machine
end

section
/-! Little-endian fields, the entries of the event ring and completions (R9, R366, R374, R376 to R379). -/

namespace Sys2Proof.Machine
open Sys2Proof

/-! ### Fields of byte strings (R9) -/

theorem leNat_leBytes (n v : Nat) : leNat (leBytes n v) = v % 256 ^ n := by
  induction n generalizing v with
  | zero => exact (Nat.mod_one v).symm
  | succ n ih =>
    rw [leBytes, leNat, ih, Nat.pow_succ']
    exact (Nat.mod_mul (x := v) (a := 256) (b := 256 ^ n)).symm

/-- The field that a byte string begins with. -/
theorem field_leBytes (n v : Nat) (b : List Byte) : field (leBytes n v ++ b) 0 n = v % 256 ^ n := by
  unfold field sub
  rw [List.drop_zero, List.take_append_of_le_length (leBytes_length n v).ge,
    List.take_of_length_le (leBytes_length n v).le, leNat_leBytes]

/-- The last field of a byte string. -/
theorem field_leBytes_last (n v : Nat) : field (leBytes n v) 0 n = v % 256 ^ n := by
  have h := field_leBytes n v []
  rwa [List.append_nil] at h

/-- A field that lies beyond the first one. -/
theorem field_beyond {a : List Byte} {lo : Nat} (beyond : a.length ≤ lo) (b : List Byte) (n : Nat) :
    field (a ++ b) lo n = field b (lo - a.length) n := by
  unfold field sub
  rw [List.drop_append, List.drop_eq_nil_of_le beyond, List.nil_append]

theorem padTo_exact {n : Nat} {b : List Byte} (exact_ : b.length = n) : padTo n b = b := by
  unfold padTo
  rw [exact_, Nat.sub_self, List.replicate_zero, List.append_nil, List.take_of_length_le exact_.le]

/-! ### Event entries (R377, R379) -/

/-- The flags of an entry: its phase and whether events before it were lost. -/
def entryFlags (e : Event) (phase : Bool) : Nat := (if phase then 1 else 0) + if e.lost then 2 else 0

theorem entryBytes_fields (e : Event) (phase : Bool) : entryBytes e phase = leBytes 2 e.code ++ (leBytes 1 (entryFlags e phase) ++
    (leBytes 1 e.ring ++ (leBytes 2 e.source.toNat ++ (leBytes 2 e.seq.toNat ++ padTo 24 e.payload)))) := by
  unfold entryBytes
  simp only [List.append_assoc]
  rfl

theorem entryBytes_length (e : Event) (phase : Bool) : (entryBytes e phase).length = 32 := by
  simp only [entryBytes_fields, List.length_append, leBytes_length, padTo_length]

/-- The payload follows the eight bytes of the header. -/
theorem field_entryPayload (e : Event) (phase : Bool) {lo : Nat} (beyond : 8 ≤ lo) (n : Nat) :
    field (entryBytes e phase) lo n = field (padTo 24 e.payload) (lo - 8) n := by
  have header : entryBytes e phase = (leBytes 2 e.code ++ leBytes 1 (entryFlags e phase) ++ leBytes 1 e.ring ++
      leBytes 2 e.source.toNat ++ leBytes 2 e.seq.toNat) ++ padTo 24 e.payload := by
    rw [entryBytes_fields]
    simp only [List.append_assoc]
  have eight : (leBytes 2 e.code ++ leBytes 1 (entryFlags e phase) ++ leBytes 1 e.ring ++
      leBytes 2 e.source.toNat ++ leBytes 2 e.seq.toNat).length = 8 := by
    simp only [List.length_append, leBytes_length]
  rw [header, field_beyond (by omega), eight]

theorem entryFlags_bits (e : Event) (phase : Bool) : bitAt (entryFlags e phase % 256) 0 = phase ∧
    bitAt (entryFlags e phase % 256) 1 = e.lost := by
  unfold entryFlags
  cases phase <;> cases e.lost <;> decide

theorem entryBytes_header (e : Event) (phase : Bool) : field (entryBytes e phase) 0 2 = e.code % 2 ^ 16 ∧
    bitAt (field (entryBytes e phase) 2 1) 0 = phase ∧ bitAt (field (entryBytes e phase) 2 1) 1 = e.lost ∧
    field (entryBytes e phase) 3 1 = e.ring % 256 ∧ field (entryBytes e phase) 4 2 = e.source.toNat ∧
    field (entryBytes e phase) 6 2 = e.seq.toNat := by
  rw [entryBytes_fields]
  simp only [field_leBytes, field_beyond, leBytes_length, Nat.reduceLeDiff, Nat.reduceSub]
  obtain ⟨first, lost⟩ := entryFlags_bits e phase
  exact ⟨rfl, first, lost, rfl, Nat.mod_eq_of_lt e.source.isLt, Nat.mod_eq_of_lt e.seq.isLt⟩

/-- A completion's fields fill the 24 bytes. -/
theorem completionPayload_fields (c : Cmd) (status result v1 v2 : Nat) : padTo 24 (completionPayload c status result v1 v2) =
    leBytes 4 c.tag.toNat ++ (leBytes 1 status ++ (leBytes 1 result ++ (leBytes 2 c.opcode ++ (leBytes 8 v1 ++ leBytes 8 v2)))) := by
  have fields : completionPayload c status result v1 v2 = padTo 24 (leBytes 4 c.tag.toNat ++ (leBytes 1 status ++
      (leBytes 1 result ++ (leBytes 2 c.opcode ++ (leBytes 8 v1 ++ leBytes 8 v2))))) := by
    unfold completionPayload packed
    simp only [List.flatMap_cons, List.flatMap_nil, List.append_nil]
  rw [fields, padTo_exact (padTo_length ..), padTo_exact]
  simp only [List.length_append, leBytes_length]

/-! ### Completions (R366, R374) -/

/-- The state that a command's completion leaves from: the command no longer executes, and the event has its number. -/
def completing (s : State) (c : Cmd) : State :=
  { leave s c with mbox := { (leave s c).mbox with evtSeq := s.mbox.evtSeq + 1 } }

theorem Kept.not_discarded {s : State} {c : Cmd} (kept : Kept s c) :
    (((s.mbox.executing.find? fun e => e.cmd == c).map (·.discard)).getD false) = false := by
  cases found : s.mbox.executing.find? fun e => e.cmd == c with
  | none => rfl
  | some e => exact kept e (List.mem_of_find?_eq_some found) (eq_of_beq (List.find?_some found :))

/-- A completion that is kept goes back by the command's path. -/
theorem complete_pcie {s : State} {c : Cmd} (kept : Kept s c) (path : c.path = .pcie) (status result v1 v2 : Nat) :
    complete s c status result v1 v2 =
      deliverCompletion (completing s c) (completionEvent c s.mbox.evtSeq status result v1 v2) := by
  unfold complete
  simp only [kept.not_discarded, path]
  rfl

theorem complete_smbus {s : State} {c : Cmd} (kept : Kept s c) (path : c.path = .smbus) (status result v1 v2 : Nat) :
    complete s c status result v1 v2 =
      emit (completing s c) (.smbus (entryBytes (completionEvent c s.mbox.evtSeq status result v1 v2) false)) := by
  unfold complete
  simp only [kept.not_discarded, path]
  rfl

/-- The entry is written while there is room, and no completion is held. -/
theorem deliverCompletion_writes {s : State} (on : s.mbox.ringOn[4] = true) (held : s.mbox.heldCompletions = [])
    (full : ringFull s = false) (e : Event) : deliverCompletion s e = writeEntry s e := by
  unfold deliverCompletion
  rw [if_pos (by simp [on, held, full])]

/-- Settles O29: the fields of an entry and of a completion one after another, and the entry written at RING_HEAD. -/
theorem completionWritten : Obligations.CompletionWritten := by
  refine ⟨?_, ?_, ?_⟩
  · exact fun e phase => ⟨entryBytes_length e phase, entryBytes_header e phase⟩
  · intro c seq phase status result v1 v2 b
    have tag := c.tag.isLt
    have payload : padTo 24 (completionEvent c seq status result v1 v2).payload = _ := completionPayload_fields c status result v1 v2
    simp only [b, field_entryPayload, payload, field_leBytes, field_leBytes_last, field_beyond, leBytes_length,
      Nat.reduceLeDiff, Nat.reduceSub]
    exact ⟨Nat.mod_eq_of_lt tag, rfl, rfl, rfl, rfl, rfl⟩
  · intro s c status result v1 v2 path on held full kept
    have same := (complete_posts s c status result v1 v2).same
    have written : complete s c status result v1 v2 = writeEntry (completing s c) (completionEvent c s.mbox.evtSeq status result v1 v2) :=
      (complete_pcie kept path ..).trans (deliverCompletion_writes (s := completing s c) on held full _)
    refine ⟨_, s.mbox.lostSources.contains 0xFFFF#16, rfl, ?_, ?_, ?_, same⟩
    · rw [written]; rfl
    · rw [written]; rfl
    · rw [written]; rfl

end Sys2Proof.Machine
end

section
/-! The checks of commands, and the fetching of one (R372 to R375, R384). -/

namespace Sys2Proof.Machine
open Sys2Proof

/-! ### Checks (R384; log 27) -/

section
variable {s : State} {c : Cmd} {ring : Nat} {compute memory : Bool} {states : List PState} {ok : Bool}

theorem gated_ring (other : c.ring ≠ ring) (k : State → State) :
    gated s c ring compute memory states ok k = done s c 0x03 := if_pos other

theorem gated_module (own : c.ring = ring) (bad : moduleOk s compute memory = false) (k : State → State) :
    gated s c ring compute memory states ok k = done s c 0x0B := by
  unfold gated
  rw [if_neg (not_not.2 own), if_pos (by rw [bad]; rfl)]

theorem gated_state (own : c.ring = ring) (fits : moduleOk s compute memory = true)
    (other : states.contains s.pstate = false) (k : State → State) :
    gated s c ring compute memory states true k = done s c 0x04 := by
  unfold gated
  rw [if_neg (not_not.2 own), if_neg (by rw [fits]; decide), if_neg (by decide), if_pos (by rw [other]; rfl)]

theorem startCmd_unknown (unknown : knownOpcode c.opcode = false) (fits : Bool) : startCmd s c fits = done s c 0x01 :=
  if_pos (by rw [unknown]; rfl)

theorem startCmd_executes (known : knownOpcode c.opcode = true) : startCmd s c true =
    { s with mbox := { s.mbox with executing := s.mbox.executing ++ [{ cmd := c, discard := false }] } } := by
  unfold startCmd
  rw [if_neg (by rw [known]; decide)]
  rfl

end

/-- Settles O30: each command at the check that refuses it. -/
theorem commandRefusals : Obligations.CommandRefusals := by
  refine ⟨?_, ?_, ?_, ?_, ?_⟩
  · intro s c executes other
    change execPowerCap c s = _
    rw [execPowerCap, command_executes executes, gated_ring other]
  · intro s c executes own bad
    change execSave c s = _
    rw [execSave, command_executes executes]
    exact congrArg _ (gated_module own bad _)
  · intro s c runs outside
    have unfit : (decide (600 ≤ arg c 16 2) && decide (arg c 16 2 ≤ 2400) && restZero c [(16, 2)]) = false := by
      rcases outside with low | high
      · simp [Nat.not_le.2 low]
      · simp [Nat.not_le.2 high]
    change execPowerCap c s = _
    rw [execPowerCap, command_runs runs]
    dsimp only
    rw [unfit, gated_field runs]
  · intro s c executes own fits rest notRunning notPaused
    change execHalt c s = _
    rw [execHalt, command_executes executes, rest, gated_state own fits (by
      cases state : s.pstate
      case running => exact absurd state notRunning
      case paused => exact absurd state notPaused
      all_goals rfl)]
  · intro s c unknown
    exact startCmd_unknown unknown true

/-! ### What a post leaves of the submission rings (R376) -/

/-- The event ring may take an entry and the outputs grow: the submission rings' heads and the count of fetched commands stay. -/
structure Entered (s t : State) : Prop where
  heads : ∀ i < 4, getAt t.mbox.ringHead i 0 = getAt s.mbox.ringHead i 0
  fetched : t.mbox.fetched = s.mbox.fetched
  out : ∃ o, t.out = s.out ++ o

theorem Entered.refl (s : State) : Entered s s := ⟨fun _ _ => rfl, rfl, [], (List.append_nil _).symm⟩

/-- Nothing of it is a matter of the event's number. -/
theorem Entered.numbered {s t : State} {seq : Word16} (h : Entered { s with mbox := { s.mbox with evtSeq := seq } } t) :
    Entered s t := ⟨h.heads, h.fetched, h.out⟩

theorem writeEntry_entered (s : State) (e : Event) : Entered s (writeEntry s e) := by
  refine ⟨fun i low => ?_, rfl, _, rfl⟩
  have other : 4 ≠ i := by omega
  unfold writeEntry getAt
  simp [other]

theorem keepEvent_entered (s : State) (e : Event) : Entered s (keepEvent s e) := by
  unfold keepEvent
  split
  · exact ⟨fun _ _ => rfl, rfl, [], (List.append_nil _).symm⟩
  · split
    · exact Entered.refl s
    · exact ⟨fun _ _ => by rw [bump_mbox], by rw [bump_mbox], [], by rw [bump_out, List.append_nil]⟩

theorem deliverEvent_entered (s : State) (e : Event) : Entered s (deliverEvent s e) := by
  unfold deliverEvent
  split
  · exact Entered.refl s
  · split
    · exact writeEntry_entered ..
    · exact keepEvent_entered ..

theorem proxyEvents_entered (s : State) (es : List Event) : Entered s (proxyEvents s es) := by
  unfold proxyEvents
  exact ⟨fun _ _ => by rw [sendFrame_mbox], by rw [sendFrame_mbox], [], by rw [sendFrame_out, List.append_nil]⟩

theorem post_entered (s : State) (code : Nat) (payload : List Byte) : Entered s (post s code payload) := by
  unfold post
  split
  · exact Entered.refl s
  · dsimp only
    split
    · split
      · exact (Entered.refl _).numbered
      · exact (proxyEvents_entered ..).numbered
    · exact (deliverEvent_entered ..).numbered

/-- A command's path is noted, and a host that uses more than one gets an event. -/
theorem notePath_posts (s : State) (p : Path) :
    Posts { s with mbox := { s.mbox with lastPath := setAt s.mbox.lastPath (pathBit p) (some s.timebase) } } (notePath s p) := by
  unfold notePath
  dsimp only
  split
  · exact post_posts ..
  · exact Posts.refl _

theorem notePath_entered (s : State) (p : Path) : Entered s (notePath s p) := by
  unfold notePath
  dsimp only
  split
  · obtain ⟨heads, fetched, out⟩ := post_entered { s with mbox := { s.mbox with
      lastPath := setAt s.mbox.lastPath (pathBit p) (some s.timebase) } } 0x0E06 _
    exact ⟨heads, fetched, out⟩
  · exact ⟨fun _ _ => rfl, rfl, [], (List.append_nil _).symm⟩

/-! ### Fetching (R372 to R375) -/

section
variable {s : State} {i : Nat}

theorem nextRing_submission (next : nextRing s = some i) : i < 4 := by
  unfold nextRing at next
  split at next
  · cases next; decide
  · obtain ⟨k, -, rfl⟩ := List.mem_map.1 (List.mem_of_find?_eq_some next)
    omega

/-- The read of a ring's next entry. -/
def entryRead (s : State) (i : Nat) : State :=
  emit s (.hostRead (getAt s.mbox.ringBase i 0 + BitVec.ofNat 64 (64 * (getAt s.mbox.ringHead i 0).toNat)) 64)

/-- The entry is taken from the ring, and the ring fetched from first next time follows it. -/
def headMoved (s : State) (i : Nat) : State := { entryRead s i with mbox := { s.mbox with
  ringHead := setAt s.mbox.ringHead i (BitVec.ofNat 12 (((getAt s.mbox.ringHead i 0).toNat + 1) %
    max (getAt s.mbox.ringSize i 0).toNat 1))
  rrNext := if i = 0 then s.mbox.rrNext else ⟨i % 3, Nat.mod_lt _ (by decide)⟩ } }

/-- The command of an entry, with its number. -/
def fetchedCmd (s : State) (i : Nat) (raw : List Byte) : Cmd := { parseCmd .pcie i raw with nth := s.mbox.fetched }

/-- The state in which a command fetched from ring `i` starts. -/
def startingFrom (s : State) (i : Nat) (raw : List Byte) : State :=
  (numbered (notePath (headMoved s i) .pcie) (parseCmd .pcie i raw)).2

theorem SameUnder.after {s t u : State} (k : SameUnder t u) (h : SameUnder s t) : SameUnder s u := by
  obtain ⟨h0, h1, h2, h3, h4, h5, h6, h7, h8⟩ := h
  obtain ⟨k0, k1, k2, k3, k4, k5, k6, k7, k8⟩ := k
  exact ⟨k0.after h0, k1.trans h1, k2.trans h2, k3.trans h3, k4.trans h4, k5.trans h5, k6.trans h6, k7.trans h7, k8.trans h8⟩

/-- What changes of the mailbox and the outputs alone lies under neither. -/
theorem sameUnder_mbox (s : State) (mbox : Mbox) (out : List Output) : SameUnder s { s with mbox := mbox, out := out } :=
  ⟨⟨rfl, rfl, rfl, rfl, rfl, rfl, rfl, rfl, rfl, rfl, rfl, rfl⟩, rfl, rfl, rfl, rfl, rfl, rfl, rfl, rfl⟩

theorem numbered_same (s : State) (c : Cmd) : SameUnder s (numbered s c).2 := sameUnder_mbox s _ s.out

/-- Beneath the mailbox nothing changes. -/
theorem startingFrom_same (s : State) (i : Nat) (raw : List Byte) : SameUnder s (startingFrom s i raw) := by
  have moved (mbox : Mbox) : SameUnder s { headMoved s i with mbox := mbox } := sameUnder_mbox s mbox (entryRead s i).out
  exact (numbered_same ..).after <| (notePath_posts (headMoved s i) .pcie).same.after (moved _)

theorem startingFrom_executing (s : State) (i : Nat) (raw : List Byte) :
    (startingFrom s i raw).mbox.executing = s.mbox.executing := (notePath_posts (headMoved s i) .pcie).executing

theorem startingFrom_head (s : State) {i : Nat} (low : i < 4) (raw : List Byte) :
    getAt (startingFrom s i raw).mbox.ringHead i 0 =
      BitVec.ofNat 12 (((getAt s.mbox.ringHead i 0).toNat + 1) % max (getAt s.mbox.ringSize i 0).toNat 1) := by
  refine ((notePath_entered (headMoved s i) .pcie).heads i low).trans ?_
  exact (getAt_setAt _ _ _ _ (by omega)).trans (if_pos rfl)

theorem startingFrom_out (s : State) (i : Nat) (raw : List Byte) :
    ∃ o, (startingFrom s i raw).out = (entryRead s i).out ++ o := (notePath_entered (headMoved s i) .pcie).out

variable (up : s.mbox.mcpUp = true) (held : s.mbox.heldCompletions = []) (runs : s.mbox.module ≠ .activation)
  (next : nextRing s = some i)
include up held runs next

theorem commandFetch_fails (data : HostRead) : exec (.commandFetch none data) s =
    .next (ringError (hostFailed (entryRead s i)) ⟨i, by have := nextRing_submission next; omega⟩ 2) := by
  have low := nextRing_submission next
  change execCommandFetch none s data = _
  unfold execCommandFetch
  rw [if_neg (by simp [up, held, runs]), next]
  exact congrArg _ (dif_pos _)

theorem commandFetch_starts {raw : List Byte} (alive : s.mbox.killed = []) (own : field raw 8 2 = 0xFFFF) (data : HostRead) :
    exec (.commandFetch (some raw) data) s = .next (startCmd (startingFrom s i raw) (fetchedCmd s i raw) (headerOk raw)) := by
  have number : (notePath (headMoved s i) .pcie).mbox.fetched = s.mbox.fetched := (notePath_entered ..).fetched
  have command_ : fetchedCmd s i raw = (numbered (notePath (headMoved s i) .pcie) (parseCmd .pcie i raw)).1 := by
    unfold fetchedCmd numbered
    rw [number]
  change execCommandFetch (some raw) s data = _
  unfold execCommandFetch
  rw [if_neg (by simp [up, held, runs]), next]
  dsimp only
  rw [if_neg (by simp [alive]), command_]
  exact if_pos own

end

/-- Settles O27: the ring that is next gives its entry, which starts; a failed read is the ring's error. -/
theorem commandFetch : Obligations.CommandFetch := by
  refine ⟨?_, ?_⟩
  · intro s i raw up held runs next alive own known header data
    have low := nextRing_submission next
    refine ⟨_, commandFetch_starts up held runs next alive own data, ?_⟩
    have opcode : knownOpcode (fetchedCmd s i raw).opcode = true := known
    obtain ⟨program, mem, -⟩ := startingFrom_same s i raw
    rw [header, startCmd_executes opcode]
    exact ⟨congrArg (· ++ [_]) (startingFrom_executing s i raw), startingFrom_head s low raw, startingFrom_out s i raw, program, mem⟩
  · intro s i up held runs next data
    refine ⟨_, commandFetch_fails up held runs next data, ?_⟩
    rw [getAt_ring, getAt_ring, getAt_ring]
    exact ⟨ringError_ringErr .., ringError_ringOn ..⟩

end Sys2Proof.Machine
end

section
/-! SUPPORT. What the steps of a compute reset leave of firmware, power and the fabric record (R416, R419, R434). -/

namespace Sys2Proof.Machine
open Sys2Proof

/-! ### Firmware, power and the fabric record as they were -/

structure Governed (s t : State) : Prop where
  fw : t.fw = s.fw
  power : t.power = s.power
  rcd : t.fabric.rcd = s.fabric.rcd

section
variable {s t u : State}

theorem Governed.refl (s : State) : Governed s s := ⟨rfl, rfl, rfl⟩

theorem Governed.after (k : Governed t u) (h : Governed s t) : Governed s u :=
  ⟨k.fw.trans h.fw, k.power.trans h.power, k.rcd.trans h.rcd⟩

theorem Governed.ite {c : Prop} [Decidable c] (h : Governed s t) (k : Governed s u) : Governed s (if c then t else u) := by
  split
  · exact h
  · exact k

theorem Governed.when {c : Prop} [Decidable c] (h : Governed s t) : Governed s (if c then t else s) := h.ite (Governed.refl s)

theorem Governed.unless {c : Prop} [Decidable c] (h : Governed s t) : Governed s (if c then s else t) :=
  (Governed.refl s).ite h

theorem Governed.foldl {α : Type} {f : State → α → State} (h : ∀ s a, Governed s (f s a)) (l : List α) (s : State) :
    Governed s (l.foldl f s) :=
  List.foldlRecOn l f (motive := Governed s) (Governed.refl s) fun _ sofar a _ => (h _ a).after sofar

/-- An update of what the relation does not look at. -/
theorem Governed.updated {pending freeIdx timebase flash mbox units mem pstate program step seqs gates beat scales versions reduce side
    ports routes nextTid txns bulks arrivals bulkIn lateReads waiting heldCredits ptp ingest journal spdm counts out} :
    Governed s ⟨pending, freeIdx, timebase, s.power, flash, s.fw, mbox, units, mem, pstate, program, step, seqs, gates, beat,
      scales, versions, reduce, side, ⟨s.fabric.rcd, ports, routes, nextTid, txns, bulks, arrivals, bulkIn, lateReads,
        waiting, heldCredits, ptp⟩, ingest, journal, spdm, counts, out⟩ := ⟨rfl, rfl, rfl⟩

end

theorem Posts.governed {s t : State} (h : Posts s t) : Governed s t := ⟨h.fw, h.power, h.rcd⟩

theorem post_governed (s : State) (code : Nat) (b : List Byte) : Governed s (post s code b) := (post_posts s code b).governed

theorem emit_governed (s : State) (o : Output) : Governed s (emit s o) := (emit_posts s o).governed

theorem bump_governed (s : State) (id inst tensor n : Nat) : Governed s (bump s id inst tensor n) :=
  (bump_posts s id inst tensor n).governed

theorem complete_governed (s : State) (c : Cmd) (st r a b : Nat) : Governed s (complete s c st r a b) :=
  (complete_posts s c st r a b).governed.after Governed.updated

theorem done_governed (s : State) (c : Cmd) (st : Nat) : Governed s (done s c st) := complete_governed ..

/-! ### Accesses that end (R298, R300, R370, R396) -/

theorem memberUnreachable_governed (s : State) (node : Word16) : Governed s (memberUnreachable s node) :=
  Governed.when ((post_governed ..).after <| (Governed.foldl (fun _ _ => Governed.unless (done_governed ..)) _ _).after
    Governed.updated)

theorem accessFailed_governed (s : State) (w : Who) (status addr : Nat) : Governed s (accessFailed s w status addr) :=
  Governed.after (Governed.unless Governed.updated) <| post_governed ..

theorem windowError_governed (s : State) (win cause addr : Nat) : Governed s (windowError s win cause addr) :=
  Governed.unless ((post_governed ..).after Governed.updated)

theorem addArrival_governed (s : State) (key addr : Nat) (data : List Byte) : Governed s (addArrival s key addr data) :=
  Governed.updated

theorem dropArrivals_governed (s : State) (key : Nat) : Governed s (dropArrivals s key) := Governed.updated

theorem dataWritten_governed (s : State) (c : Cmd) : Governed s (dataWritten s c) := by
  unfold dataWritten
  split
  · exact Governed.unless ((complete_governed ..).after Governed.updated)
  · exact Governed.refl _

theorem dataFailed_governed (s : State) (c : Cmd) : Governed s (dataFailed s c) :=
  Governed.after (Governed.when (done_governed ..)) <| (dropArrivals_governed ..).after Governed.updated

theorem hostPartDone_governed (s : State) (o : Owner) (addr n id : Nat) : Governed s (hostPartDone s o addr n id) :=
  Governed.unless ((emit_governed ..).after <| dropArrivals_governed ..)

theorem fetchFailed_governed (s : State) (igd engine status addr : Nat) : Governed s (fetchFailed s igd engine status addr) :=
  Governed.after Governed.updated <| post_governed ..

theorem finishTxn_governed (s : State) (t : Txn) (status : Nat) (data : List Byte) : Governed s (finishTxn s t status data) := by
  have struck : Governed s { s with fabric := { s.fabric with txns := s.fabric.txns.filter (·.tid != t.tid) } } := Governed.updated
  unfold finishTxn
  refine Governed.after (Governed.when (memberUnreachable_governed ..)) (Governed.after ?_ struck)
  generalize { s with fabric := { s.fabric with txns := s.fabric.txns.filter (·.tid != t.tid) } } = u
  split
  case h_1 => exact Governed.ite (emit_governed ..) ((emit_governed ..).after (windowError_governed ..))
  case h_2 => exact Governed.unless (windowError_governed ..)
  case h_3 => exact Governed.ite (accessFailed_governed ..) (Governed.ite (addArrival_governed ..) Governed.updated)
  case h_4 =>
    exact Governed.ite ((hostPartDone_governed ..).after (addArrival_governed ..))
      ((emit_governed ..).after <| (windowError_governed ..).after <| (dropArrivals_governed ..).after Governed.updated)
  case h_5 => exact Governed.ite (dataFailed_governed ..) (Governed.ite (addArrival_governed ..) (dataWritten_governed ..))
  case h_6 => exact Governed.unless (done_governed ..)
  case h_10 => exact Governed.ite (addArrival_governed ..) (fetchFailed_governed ..)
  all_goals exact Governed.refl u

theorem forwardFrom_governed (node : Word16) (ring : Nat) : ∀ (ps : List Proxied) (s : State), Governed s (forwardFrom node ring ps s)
  | [], s => Governed.refl s
  | p :: ps, s => by
    unfold forwardFrom
    split
    · exact forwardFrom_governed node ring ps s
    · split
      · split
        · exact Governed.refl s
        · exact (forwardFrom_governed node ring ps _).after <| (sendFrame_posts ..).governed.after Governed.updated
      · exact forwardFrom_governed node ring ps s

theorem proxyFailed_governed (s : State) (c : Cmd) : Governed s (proxyFailed s c) := by
  unfold proxyFailed
  split
  · exact Governed.refl s
  · exact (forwardFrom_governed ..).after <| Governed.after (Governed.unless (done_governed ..)) Governed.updated

theorem failBulk_governed (s : State) (b : Bulk) (status : Nat) : Governed s (failBulk s b status) := by
  unfold failBulk
  refine Governed.after (Governed.when (memberUnreachable_governed ..)) ?_
  dsimp only
  have late : Governed s (if b.inward && !b.served && status != 3 then { dropBulk s b with fabric := { (dropBulk s b).fabric with
      lateReads := (dropBulk s b).fabric.lateReads ++ [(b.node, b.tid)] } } else dropBulk s b) :=
    Governed.ite Governed.updated Governed.updated
  refine Governed.after ?_ late
  generalize (if b.inward && !b.served && status != 3 then { dropBulk s b with fabric := { (dropBulk s b).fabric with
      lateReads := (dropBulk s b).fabric.lateReads ++ [(b.node, b.tid)] } } else dropBulk s b) = u
  cases b.owner with
  | unit w => exact accessFailed_governed ..
  | relay w => exact accessFailed_governed ..
  | dma c => exact (done_governed ..).after Governed.updated
  | proxy c => exact Governed.unless (proxyFailed_governed ..)
  | igd i e => exact fetchFailed_governed ..
  | _ => exact Governed.refl u

/-! ### Ports (R278, R423) -/

theorem refuseRequest_governed (s : State) (f : Kft) (status : Nat) : Governed s (refuseRequest s f status) := by
  unfold refuseRequest
  dsimp only
  split
  · split
    · split
      · exact failBulk_governed ..
      · exact Governed.refl s
    · split
      · exact finishTxn_governed ..
      · exact Governed.refl s
  · exact Governed.ite (sendFrame_posts ..).governed (Governed.when (sendFrame_posts ..).governed)

theorem portDrops_governed (s : State) (p : Fin 12) : Governed s (portDrops s p) :=
  (Governed.foldl (fun _ _ => Governed.when (memberUnreachable_governed ..)) _ _).after <| (discard_posts ..).governed.after <|
    Governed.after (Governed.foldl (fun _ _ => refuseRequest_governed ..) _ _) Governed.updated

/-! ### Units (R434, R439, R441) -/

theorem leaveNumber_governed (s : State) (u : PhysUnit) (n : Nat) : Governed s (leaveNumber s u n) :=
  Governed.after (Governed.when Governed.updated) Governed.updated

theorem rerun_governed (s : State) (unit : Nat) : Governed s (rerun s unit) := by
  unfold rerun rerunThose
  split
  · exact Governed.refl s
  · exact (bump_governed ..).after Governed.updated

theorem substitute_governed (s : State) (u : PhysUnit) (unit cause : Nat) (sub : PhysUnit) :
    Governed s (substitute s u unit cause sub) :=
  (rerun_governed ..).after <| (post_governed ..).after <| (bump_governed ..).after <|
    Governed.after Governed.updated <| leaveNumber_governed ..

theorem compactOne_governed (s : State) (x : PhysUnit × Nat) : Governed s (compactOne s x) := by
  unfold compactOne
  refine (post_governed ..).after ?_
  split
  · split
    · exact Governed.after Governed.updated <| leaveNumber_governed ..
    · exact leaveNumber_governed ..
  · exact leaveNumber_governed ..

theorem compact_governed (s : State) (kind die : Nat) : Governed s (compact s kind die) :=
  Governed.unless (Governed.foldl (fun _ _ => compactOne_governed ..) _ _)

theorem failTile_governed (s : State) (u : PhysUnit) : Governed s (failTile s u) := by
  have failed : Governed s (unitEvent (setCond s u .failed 1) 0x1005 u (some 1)) :=
    (post_governed ..).after Governed.updated
  unfold failTile
  split
  · exact Governed.refl s
  · refine Governed.unless ?_
    dsimp only
    split
    · exact failed
    · split
      · exact (substitute_governed ..).after failed
      · exact (compact_governed ..).after failed

theorem selfTest_governed (s : State) (failed : List TileId) : Governed s (selfTest s failed) :=
  Governed.foldl (fun _ _ => failTile_governed ..) _ _

/-! ### What a reset carries over -/

/-- The running image and its trial, the activation, the seed, whether a thermal fault stands, and the fabric record: a reset
changes none of them, though it brings a profile into force and moves the power mode. -/
structure Carries (s t : State) : Prop where
  image : t.fw.image = s.fw.image
  trial : t.fw.trial = s.fw.trial
  trialReady : t.fw.trialReady = s.fw.trialReady
  activation : t.fw.activation = s.fw.activation
  activating : t.fw.activating = s.fw.activating
  seed : t.fw.seed = s.fw.seed
  thermalFault : t.power.thermalFault = s.power.thermalFault
  rcd : t.fabric.rcd = s.fabric.rcd

theorem Carries.refl (s : State) : Carries s s := ⟨rfl, rfl, rfl, rfl, rfl, rfl, rfl, rfl⟩

theorem Carries.after {s t u : State} (k : Carries t u) (h : Carries s t) : Carries s u :=
  ⟨k.image.trans h.image, k.trial.trans h.trial, k.trialReady.trans h.trialReady, k.activation.trans h.activation,
    k.activating.trans h.activating, k.seed.trans h.seed, k.thermalFault.trans h.thermalFault, k.rcd.trans h.rcd⟩

theorem Governed.carries {s t : State} (h : Governed s t) : Carries s t := by
  obtain ⟨fw, power, rcd⟩ := h
  constructor
  case thermalFault => rw [power]
  case rcd => exact rcd
  all_goals rw [fw]

/-- The profile of the new image is in force, with its cap, its ceiling and its ports. -/
theorem applyProfile_carries (s : State) : Carries s (applyProfile s) := by
  unfold applyProfile
  extract_lets p old changed dropped cables ports
  have down : Governed s dropped := Governed.foldl (fun _ _ => Governed.when (portDrops_governed ..)) _ _
  have low : Governed dropped cables := Governed.foldl (fun _ _ => emit_governed ..) _ _
  obtain ⟨image, trial, trialReady, activation, activating, seed, thermalFault, rcd⟩ := (low.after down).carries
  exact ⟨image, trial, trialReady, activation, activating, seed, thermalFault, rcd⟩

theorem computeServe_carries (s : State) (failed : List TileId) : Carries s (computeServe s failed) :=
  (selfTest_governed ..).carries.after <| (post_governed ..).carries.after <| applyProfile_carries s

/-! ### The stop (R434 steps 1 to 3) -/

theorem dropWithheld_governed (s : State) : Governed s (dropWithheld s) :=
  (Governed.foldl (fun _ _ => Governed.updated) _ _).after Governed.updated

theorem haltProgram_governed (s : State) (cause : Nat) : Governed s (haltProgram s cause) :=
  Governed.when <| Governed.after Governed.updated <| Governed.after ((post_governed ..).after Governed.updated) <|
    (post_governed ..).after <| dropWithheld_governed s

theorem computeStop_carries (s : State) (cause : Nat) : Carries s (computeStop s cause) := by
  have ended (cs : List Cmd) (u : State) :
      Governed u (dropWithheld (cs.foldl (fun v c => done v c 0x0A) (dropTransfers u cs))) :=
    (dropWithheld_governed _).after <| (Governed.foldl (fun _ _ => done_governed ..) _ _).after Governed.updated
  have halted := ((haltProgram_governed (post s 0x1009 (packed [(1, cause)])) 0x1009).after (post_governed ..)).carries
  unfold computeStop
  extract_lets begun stopped power mbox off beat cleared kept asked commands completed dropped
  have gone : Governed cleared dropped := ended commands cleared
  obtain ⟨image, trial, trialReady, activation, activating, seed, thermalFault, rcd⟩ := gone.carries.after (s := s)
    ⟨halted.image, halted.trial, halted.trialReady, halted.activation, halted.activating, halted.seed, halted.thermalFault, halted.rcd⟩
  exact ⟨image, trial, trialReady, activation, activating, seed, thermalFault, rcd⟩

end Sys2Proof.Machine
end

section
/-! Bundles that are staged, and LOAD while one is about to run (R412, R413, R415). -/

namespace Sys2Proof.Machine
open Sys2Proof

/-! ### Staging (R412, R413, R415) -/

/-- What FW_STAGE does with a piece whose bytes have been read. -/
def pieceRead (s : State) (c : Cmd) (data : List Byte) : State :=
  if arg c 32 8 = 0 then
    if headerCheck (discardStaging s).flash (data.take 512) ≠ 0
      then complete (discardStaging s) c 0x05 (headerCheck (discardStaging s).flash (data.take 512)) 0 0
      else appendPiece (discardStaging s) c data (bitAt (arg c 25 1) 0)
  else if arg c 32 8 ≠ s.flash.staging.length ∨ s.flash.staging = [] then complete s c 0x05 0x08 0 0
  else appendPiece s c data (bitAt (arg c 25 1) 0)

section
variable {s v : State} {c : Cmd} {host : HostRead} {data : List Byte} {memory : Bool}

/-- The oldest FW_STAGE takes its piece once it has been read. -/
theorem fwStage_runs (space : (arg c 24 1 == 1) = memory) (runs : Runs s c 0x0504 2 false memory anyState)
    (first : (s.mbox.executing.find? fun e => e.cmd.opcode == 0x0504).map (·.cmd) = some c) (mode : arg c 25 1 ≤ 1)
    (whole : arg c 28 4 % 512 = 0) (some_ : 0 < arg c 28 4) (most : arg c 28 4 ≤ 0x400_0000)
    (rest : restZero c [(16, 10), (28, 12)] = true) (reads : Reads s c (arg c 24 1) (arg c 16 8) (arg c 28 4) host data v) :
    exec (.fwStage c host) s = .next (pieceRead v c data) := by
  subst space
  change execFwStage c host s = _
  unfold execFwStage
  rw [if_neg (not_not.2 first)]
  refine (command_gated runs (ok := fun _ => _) ?_ _).trans (congrArg _ (withData_reads reads _))
  simp [mode, whole, some_, most, rest]

theorem pieceRead_next (offset : arg c 32 8 = v.flash.staging.length) (begun : v.flash.staging ≠ []) :
    pieceRead v c data = appendPiece v c data (bitAt (arg c 25 1) 0) := by
  have later : arg c 32 8 ≠ 0 := by simpa [offset] using begun
  unfold pieceRead
  rw [if_neg later, if_neg (by simp [offset, begun])]

/-- A piece that is not the last joins the staging. -/
theorem appendPiece_joins (within : v.flash.staging.length + data.length ≤ 512 + bodyLength (v.flash.staging ++ data))
    (room : v.flash.staging.length + data.length ≤ stagingSize) : appendPiece v c data false =
      done { v with flash := { v.flash with staging := v.flash.staging ++ data } } c 0 := by
  unfold appendPiece
  dsimp only
  rw [if_neg (by simp only [List.length_append, Bool.false_eq_true, false_and, or_false]; omega)]
  rfl

/-- The last piece completes a staging whose body fits its digest, and discards another (R412). -/
theorem appendPiece_last (whole : (v.flash.staging ++ data).length = 512 + bodyLength (v.flash.staging ++ data))
    (room : (v.flash.staging ++ data).length ≤ stagingSize) : appendPiece v c data true =
      if sm3 ((v.flash.staging ++ data).drop 512) = sub (v.flash.staging ++ data) 32 32 then
        done (post { v with flash := { v.flash with staging := v.flash.staging ++ data, stagingComplete := true } } 0x0F01
          (packed [(8, (v.flash.staging ++ data).length), (8, digest8 (sub (v.flash.staging ++ data) 32 32))])) c 0
      else complete { v with flash := { v.flash with staging := [], stagingComplete := false } } c 0x05 0x07 0 0 := by
  unfold appendPiece
  dsimp only
  rw [if_neg (by omega)]
  rfl

/-- A first piece discards the staging, and cancels the activation scheduled for it. -/
theorem discardStaging_cancels {e : Nat} (scheduled : v.fw.activation = some e) : discardStaging v =
    post { v with flash := { v.flash with staging := [], stagingComplete := false }
                  fw := { v.fw with activation := none } } 0x0F05 (packed [(1, 1)]) := by
  unfold discardStaging
  exact if_pos (by rw [scheduled]; rfl)

/-- The checks of the header do not look at the staging. -/
theorem headerCheck_congr {f g : Flash} (boot : g.boot = f.boot) (h : List Byte) : headerCheck g h = headerCheck f h := by
  unfold headerCheck
  rw [boot]

end

/-- Settles O31: LOAD is refused before its object is read, and the first piece of a new bundle cancels with cause 1. -/
theorem loadRefusedInTrial : Obligations.LoadRefusedInTrial := by
  refine ⟨?_, ?_⟩
  · intro s c host h runs kind rest busy
    change execLoad c host h s = _
    unfold execLoad
    refine (command_gated runs (ok := fun _ => _) ?_ _).trans (congrArg _ (if_pos ?_))
    · simp [kind, rest]
    · simpa using busy
  · intro s v c host data e runs first space mode whole some_ most rest reads offset scheduled u
    have reads : Reads s c (arg c 24 1) (arg c 16 8) (arg c 28 4) host data v := space ▸ reads
    have cancelled : discardStaging v = u := discardStaging_cancels ((congrArg Firmware.activation reads.readOnly.fw).trans scheduled)
    have check : headerCheck u.flash (data.take 512) = headerCheck s.flash (data.take 512) :=
      headerCheck_congr (by rw [post_flash, reads.readOnly.flash]) _
    rw [fwStage_runs (by rw [space]; rfl) runs first mode whole some_ most rest reads]
    unfold pieceRead
    rw [if_pos offset, cancelled, check]

end Sys2Proof.Machine
end

section
/-! SUPPORT. Resets that boot an image, up to the READY of the module under it (R416, R419, R420, R434). -/

namespace Sys2Proof.Machine
open Sys2Proof

/-! ### READY and its reports (R330, R434, R456) -/

/-- What the reports of a first READY do not touch: firmware, the fabric record and the staging partition. -/
def unreported (s : State) : Firmware × FabricRec × List Byte × Bool :=
  (s.fw, s.fabric.rcd, s.flash.staging, s.flash.stagingComplete)

theorem Posts.unreported {s t : State} (h : Posts s t) : unreported t = Machine.unreported s := by
  simp only [Machine.unreported, h.fw, h.rcd, h.flash]

theorem bootReports_unreported (s : State) : unreported (bootReports s) = unreported s := by
  have post_ (u : State) (code : Nat) (b : List Byte) : unreported (post u code b) = unreported u := (post_posts ..).unreported
  have logRead (u : State) : unreported { u with flash := { u.flash with powerLogNew := false } } = unreported u := rfl
  have cutRead (u : State) : unreported { u with flash := { u.flash with activationCut := false } } = unreported u := rfl
  unfold bootReports
  extract_lets power a b c log d
  have devices : unreported b = unreported a := foldl_same unreported _ (fun u _ => by
    split
    · exact post_ ..
    · rfl) _ _
  have groups : unreported c = unreported b := foldl_same unreported _ (fun u _ => by
    split
    · exact post_ ..
    · rfl) _ _
  have powerDown : unreported d = unreported c := by
    unfold d
    split
    · split
      · exact (post_ ..).trans (logRead c)
      · rfl
    · rfl
  refine Eq.trans ?_ (powerDown.trans <| groups.trans devices)
  split
  · exact (post_ ..).trans (cutRead d)
  · rfl

theorem resetReady_unreported (s : State) (cause : Nat) : unreported (resetReady s cause) = unreported s := by
  have event : unreported (readyEvent (madeReady s) cause) = unreported s := (post_posts ..).unreported
  unfold resetReady
  dsimp only
  split
  · exact event
  · exact (bootReports_unreported _).trans event

/-! ### An image that boots and serves (R409, R419, R421) -/

/-- The image runs: beside it, only its settings and its key are the firmware's that change. -/
theorem bootImage_carries (s : State) (i : Image) (ok : Bool) :
    Carries { s with fw := { s.fw with image := i } } (bootImage s i ok) := by
  unfold bootImage
  dsimp only
  split
  · exact (post_governed ..).carries.after ⟨rfl, rfl, rfl, rfl, rfl, rfl, rfl, rfl⟩
  · split
    · exact (post_governed ..).carries.after ⟨rfl, rfl, rfl, rfl, rfl, rfl, rfl, rfl⟩
    · exact ⟨rfl, rfl, rfl, rfl, rfl, rfl, rfl, rfl⟩

theorem bootImage_rests (s : State) (i : Image) (ok : Bool) : Rests s (bootImage s i ok) :=
  Rests.after (Rests.ite ((post_rests ..).after Rests.updated) (Rests.when ((post_rests ..).after Rests.updated))) Rests.updated

/-- The module serves under an image that it has booted: the trial, the activation and flash are what they were when it booted,
and so are space 0x1, the program and the fabric record. -/
structure Served (s : State) (img : Image) (t : State) : Prop where
  image : t.fw.image = img
  trial : t.fw.trial = s.fw.trial
  activation : t.fw.activation = s.fw.activation
  activating : t.fw.activating = s.fw.activating
  module : t.mbox.module = .ready
  staging : t.flash.staging = s.flash.staging
  complete : t.flash.stagingComplete = s.flash.stagingComplete
  boot : t.flash.boot = s.flash.boot
  slots : t.flash.slots = s.flash.slots
  dram : t.mem.dram = s.mem.dram

theorem Served.posts {s t u : State} {img : Image} (k : Posts t u) (h : Served s img t) : Served s img u :=
  ⟨(congrArg Firmware.image k.fw).trans h.image, (congrArg Firmware.trial k.fw).trans h.trial,
    (congrArg Firmware.activation k.fw).trans h.activation, (congrArg Firmware.activating k.fw).trans h.activating,
    k.module.trans h.module,
    (congrArg Flash.staging k.flash).trans h.staging, (congrArg Flash.stagingComplete k.flash).trans h.complete,
    (congrArg Flash.boot k.flash).trans h.boot, (congrArg Flash.slots k.flash).trans h.slots,
    (congrArg MemSys.dram k.mem).trans h.dram⟩

theorem serveReady_serves {s : State} (cool : s.power.thermalFault = false) (img : Image) (ok : Bool) (cause : Nat)
    (failed : List TileId) : Served s img (serveReady (bootImage s img ok) cause failed) := by
  have booted := bootImage_carries s img ok
  have carries := (computeServe_carries (bootImage s img ok) failed).after booted
  have rests := (computeServe_rests (bootImage s img ok) failed).after (bootImage_rests s img ok)
  have reports := resetReady_reports (computeServe (bootImage s img ok) failed) cause
  obtain ⟨fw, -, staging, complete⟩ : _ ∧ _ ∧ _ ∧ _ := by
    simpa only [unreported, Prod.mk.injEq] using resetReady_unreported (computeServe (bootImage s img ok) failed) cause
  unfold serveReady
  rw [if_neg (by rw [booted.thermalFault]; simp [cool])]
  constructor
  case image => exact (congrArg Firmware.image fw).trans carries.image
  case trial => exact (congrArg Firmware.trial fw).trans carries.trial
  case activation => exact (congrArg Firmware.activation fw).trans carries.activation
  case activating => exact (congrArg Firmware.activating fw).trans carries.activating
  case module => exact reports.module
  case staging => exact staging.trans (congrArg Flash.staging rests.flash)
  case complete => exact complete.trans (congrArg Flash.stagingComplete rests.flash)
  case boot => exact reports.boot.trans (congrArg Flash.boot rests.flash)
  case slots => exact reports.slots.trans (congrArg Flash.slots rests.flash)
  case dram => exact congrArg MemSys.dram (reports.mem.trans rests.mem)

/-- Whether a slot boots rests on the slots and on what the boot record holds against rollback (R420). -/
theorem bootable_congr {f g : Flash} (slots : g.slots = f.slots) (version : g.boot.secVersion = f.boot.secVersion)
    (floor : g.boot.keyFloor = f.boot.keyFloor) (slot : Nat) : bootable g slot = bootable f slot := by
  unfold bootable
  rw [slots, version, floor]

theorem bootActive_boots {s : State} {img : Image} (boots : bootable s.flash s.flash.boot.activeSlot = some img) (ok : Bool)
    (k : State → State) : bootActive s ok k = k (bootImage s img ok) := by
  unfold bootActive
  rw [boots]

/-! ### The stop keeps flash and space 0x1 (R434) -/

/-- Flash, space 0x1 and the program. -/
def stored (s : State) : Flash × Memory × Option Program := (s.flash, s.mem.dram, s.program)

theorem computeStop_stored (s : State) (cause : Nat) : stored (computeStop s cause) = stored s :=
  congrArg (fun x : Memory × Flash × Option Program × Bool × PState => (x.2.1, x.1, x.2.2.1)) (computeStop_standing s cause)

theorem stored_flash {s t : State} (h : stored t = stored s) : t.flash = s.flash := congrArg Prod.fst h

theorem stored_dram {s t : State} (h : stored t = stored s) : t.mem.dram = s.mem.dram := congrArg (fun x => x.2.1) h

theorem stored_program {s t : State} (h : stored t = stored s) : t.program = s.program := congrArg (fun x => x.2.2) h

theorem writeBoot_writes {s : State} (seed : s.fw.seed.isSome = true) (b : BootRecord) : ∃ n mac,
    writeBoot s b = { s with flash := { s.flash with boot := b, bootWrites := n, bootMac := mac } } := by
  obtain ⟨seed, held⟩ := Option.isSome_iff_exists.1 seed
  unfold writeBoot
  rw [held]
  exact ⟨_, _, rfl⟩

/-! ### Fallback (R419) -/

/-- The module as the fallback finds it, its MCP running again. -/
def revived (s : State) : State := { s with mbox := { s.mbox with mcpUp := true, module := .computeReset } }

/-- The module from which the fallback boots: stopped, and the trial cleared from the boot record. -/
def fallenBack (s : State) : State :=
  let t := writeBoot (computeStop (revived s) 4) { s.flash.boot with trialSlot := none }
  { t with fw := { t.fw with trial := false, trialReady := false, activating := none } }

theorem fallenBack_stopped {s : State} (seed : s.fw.seed.isSome = true) (cool : s.power.thermalFault = false) :
    (fallenBack s).power.thermalFault = false ∧ (fallenBack s).flash.boot = { s.flash.boot with trialSlot := none } ∧
      (fallenBack s).flash.slots = s.flash.slots ∧ (fallenBack s).mem.dram = s.mem.dram := by
  have carries := computeStop_carries (revived s) 4
  have kept := computeStop_stored (revived s) 4
  unfold fallenBack
  generalize computeStop (revived s) 4 = u at carries kept ⊢
  have seed : u.fw.seed.isSome = true := (congrArg Option.isSome carries.seed).trans seed
  obtain ⟨n, mac, written⟩ := writeBoot_writes seed { s.flash.boot with trialSlot := none }
  have slots : u.flash.slots = s.flash.slots := congrArg Flash.slots (stored_flash kept)
  have dram : u.mem.dram = s.mem.dram := stored_dram kept
  rw [written]
  exact ⟨carries.thermalFault.trans cool, rfl, slots, dram⟩

/-- The module serves after the fallback, which its event reports. -/
def fallbackServes (cause : Nat) (failed : List TileId) (s : State) : State :=
  let t := serveReady s 2 failed
  post t 0x0F04 (packed ([(1, cause)] ++ [(8, leNat (t.fw.image.digest.take 8))]))

theorem fallback_boots (s : State) (cause : Nat) (failed : List TileId) (ok : Bool) :
    fallback s cause failed ok = bootActive (fallenBack s) ok (fallbackServes cause failed) := rfl

/-- The fallback ends the trial and serves under the image of the active slot. -/
theorem fallback_falls {s : State} {img : Image} (seed : s.fw.seed.isSome = true) (cool : s.power.thermalFault = false)
    (boots : bootable s.flash s.flash.boot.activeSlot = some img) (cause : Nat) (failed : List TileId) (ok : Bool) :
    (fallback s cause failed ok).fw.trial = false ∧
      (fallback s cause failed ok).flash.boot = { s.flash.boot with trialSlot := none } ∧
      (fallback s cause failed ok).fw.image = img ∧ (fallback s cause failed ok).mbox.module = .ready ∧
      (fallback s cause failed ok).mem.dram = s.mem.dram := by
  obtain ⟨still, boot, slots, dram⟩ := fallenBack_stopped seed cool
  have boots : bootable (fallenBack s).flash (fallenBack s).flash.boot.activeSlot = some img := by
    rw [bootable_congr slots (by rw [boot]) (by rw [boot]), boot]
    exact boots
  have served : Served (fallenBack s) img (fallback s cause failed ok) := by
    rw [fallback_boots, bootActive_boots boots]
    exact (serveReady_serves still img ok 2 failed).posts (post_posts ..)
  exact ⟨served.trial, served.boot.trans boot, served.image, served.module, served.dram.trans dram⟩

/-! ### Steps of an activation (R416) -/

theorem rangeFrom_succ (lo n : Nat) : rangeFrom lo (n + 1) = lo :: rangeFrom (lo + 1) n := by
  unfold rangeFrom
  rw [List.range_succ_eq_map, List.map_cons, List.map_map, Nat.zero_add]
  exact congrArg _ (List.map_congr_left fun k _ => by simp only [Function.comp, Nat.succ_eq_add_one]; omega)

/-- The module when its epoch has come. -/
def epochCome (s : State) (e : Nat) : State :=
  { advanceTo s e with fw := { s.fw with activation := none, activating := some 0 } }

theorem activationEpoch_steps {s : State} {e : Nat} (scheduled : s.fw.activation = some e) (a : ActIn) :
    exec (.activationEpoch a) s = .next ((rangeFrom 1 (min 6 a.upTo)).foldl (activationStep a) (epochCome s e)) := by
  change execActivationEpoch a s = _
  unfold execActivationEpoch
  rw [scheduled]
  rfl

/-- An activation that has failed, or is over, takes no further step. -/
theorem activationStep_over {s : State} (over_ : s.fw.activating = none) (a : ActIn) (k : Nat) : activationStep a s k = s := by
  unfold activationStep
  exact if_pos (.inl (by simp [over_]))

theorem foldl_activationStep_over {s : State} (over_ : s.fw.activating = none) (a : ActIn) :
    ∀ ks : List Nat, ks.foldl (activationStep a) s = s
  | [] => rfl
  | k :: ks => by rw [List.foldl_cons, activationStep_over over_, foldl_activationStep_over over_ a ks]

/-- Step `k` is done. -/
def stepDone (s : State) (k : Nat) : State :=
  { s with fw := { s.fw with activating := some k }, mbox := { s.mbox with module := .activation } }

/-- The module stopped for an activation, its rings reset (R416 step 1). -/
def stoppedFor (s : State) : State :=
  ringsReset (computeStop { s with mbox := { s.mbox with mcpUp := true, module := .activation } } 3)

/-- Steps of the activation that `s` has scheduled are done up to `k`, and flash is `fl`. -/
structure Underway (s : State) (fl : Flash) (k : Nat) (t : State) : Prop where
  activating : t.fw.activating = some k
  activation : t.fw.activation = none
  seed : t.fw.seed = s.fw.seed
  cool : t.power.thermalFault = false
  rcd : t.fabric.rcd = s.fabric.rcd
  flash : t.flash = fl
  dram : t.mem.dram = s.mem.dram
  program : t.program = s.program

section
variable {s t u : State} {fl : Flash} {a : ActIn}

theorem epochCome_underway (cool : s.power.thermalFault = false) (e : Nat) : Underway s s.flash 0 (epochCome s e) :=
  ⟨rfl, rfl, rfl, cool, rfl, rfl, rfl, rfl⟩

theorem Underway.stepped {k : Nat} (h : Underway s fl k t) (carries : Carries t u) (kept : stored u = stored t) (j : Nat) :
    Underway s fl j (stepDone u j) := by
  exact ⟨rfl, carries.activation.trans h.activation, carries.seed.trans h.seed, carries.thermalFault.trans h.cool,
    carries.rcd.trans h.rcd, (stored_flash kept).trans h.flash, (stored_dram kept).trans h.dram, (stored_program kept).trans h.program⟩

/-- A step is taken once the one before it is done. -/
theorem Underway.takes {k : Nat} (h : Underway s fl k t) : ¬(t.fw.activating ≠ some (k + 1 - 1) ∨ t.power.thermalFault = true) := by
  rintro (other | hot)
  · exact other h.activating
  · rw [h.cool] at hot
    cases hot

theorem activationStep_one (h : Underway s fl 0 t) : activationStep a t 1 = stepDone (stoppedFor t) 1 := if_neg h.takes

theorem ringsReset_governed (s : State) : Governed s (ringsReset s) := Governed.updated

theorem stoppedFor_carries (s : State) : Carries s (stoppedFor s) :=
  (ringsReset_governed _).carries.after <| (computeStop_carries _ 3).after Governed.updated.carries

theorem stoppedFor_stored (s : State) : stored (stoppedFor s) = stored s := by
  have rings (u : State) : stored (ringsReset u) = stored u := rfl
  exact (rings _).trans (computeStop_stored ..)

theorem Underway.one (h : Underway s fl 0 t) : Underway s fl 1 (activationStep a t 1) := by
  rw [activationStep_one h]
  exact h.stepped (stoppedFor_carries t) (stoppedFor_stored t) 1

/-! ### The staged bundle that does not pass (R416 step 2) -/

/-- The staging is emptied and the activation over. -/
def unstaged (s : State) : State :=
  { s with flash := { s.flash with staging := [], stagingComplete := false }, fw := { s.fw with activating := none } }

/-- The module serves again under the image that it had, which the event reports. -/
def activationServes (a : ActIn) (s : State) : State := post (serveReady s 3 a.failed) 0x0F05 (packed [(1, 2)])

theorem activationFails_boots (s : State) (a : ActIn) :
    activationFails s a = bootActive (unstaged s) a.settingsOk (activationServes a) := rfl

theorem activationFails_serves {img : Image} (cool : t.power.thermalFault = false)
    (boots : bootable t.flash t.flash.boot.activeSlot = some img) (a : ActIn) :
    Served (unstaged t) img (activationFails t a) := by
  have boots : bootable (unstaged t).flash (unstaged t).flash.boot.activeSlot = some img := boots
  rw [activationFails_boots, bootActive_boots boots]
  exact (serveReady_serves (s := unstaged t) cool img a.settingsOk 3 a.failed).posts (post_posts ..)

theorem activationStep_two_fails (h : Underway s fl 1 t) (bad : a.headerOk = false) :
    activationStep a t 2 = activationFails t a :=
  (if_neg h.takes).trans (if_pos (by simp [bad]))

/-! ### The staged bundle that passes (R416 steps 2 to 6) -/

theorem activationStep_two (h : Underway s fl 1 t) (readable : a.headerOk = true)
    (header : headerCheck fl (fl.staging.take 512) = 0) (body : sm3 (fl.staging.drop 512) = sub fl.staging 32 32) :
    activationStep a t 2 = stepDone t 2 := by
  rw [← h.flash] at header body
  exact (if_neg h.takes).trans (if_neg (by simp [readable, header, body]))

/-- The bundle's image lies in the slot that is not active. -/
def slotWritten (fl : Flash) : Flash := { fl with slots := setAt fl.slots (otherSlot fl) (some (imageOf fl.staging)) }

theorem activationStep_three (h : Underway s fl 2 t) (copied : a.copyOk = true) :
    activationStep a t 3 = stepDone { t with flash := slotWritten t.flash } 3 :=
  (if_neg h.takes).trans (if_pos copied)

theorem Underway.three (h : Underway s fl 2 t) (copied : a.copyOk = true) :
    Underway s (slotWritten fl) 3 (activationStep a t 3) := by
  rw [activationStep_three h copied]
  exact ⟨rfl, h.activation, h.seed, h.cool, h.rcd, congrArg slotWritten h.flash, h.dram, h.program⟩

/-- The boot record puts the other slot on trial. -/
def onTrialRecord (fl : Flash) : BootRecord := { fl.boot with trialSlot := some (otherSlot fl) }

theorem activationStep_four (h : Underway s fl 3 t) :
    activationStep a t 4 = stepDone (writeBoot t (onTrialRecord t.flash)) 4 := if_neg h.takes

theorem Underway.four (h : Underway s fl 3 t) (seed : s.fw.seed.isSome = true) : ∃ n mac,
    Underway s { fl with boot := onTrialRecord fl, bootWrites := n, bootMac := mac } 4 (activationStep a t 4) := by
  have seed : t.fw.seed.isSome = true := (congrArg Option.isSome h.seed).trans seed
  obtain ⟨n, mac, written⟩ := writeBoot_writes seed (onTrialRecord t.flash)
  refine ⟨n, mac, ?_⟩
  rw [activationStep_four h, written]
  exact ⟨rfl, h.activation, h.seed, h.cool, h.rcd,
    congrArg (fun fl : Flash => { fl with boot := onTrialRecord fl, bootWrites := n, bootMac := mac }) h.flash, h.dram, h.program⟩

/-- The trial begins. -/
def trialBegun (s : State) : State :=
  { s with fw := { s.fw with trial := true, trialReady := false, trialStart := s.timebase } }

/-- The staged image boots, and its profile and the self-test bring the units back. -/
def trialBooted (s : State) (a : ActIn) : State :=
  computeServe (bootImage (trialBegun s) (imageOf s.flash.staging) a.settingsOk) a.failed

theorem activationStep_five (h : Underway s fl 4 t) : activationStep a t 5 = stepDone (trialBooted t a) 5 := if_neg h.takes

theorem trialBooted_carries (s : State) (a : ActIn) : Carries { trialBegun s with fw := { (trialBegun s).fw with
    image := imageOf s.flash.staging } } (trialBooted s a) :=
  (computeServe_carries ..).after (bootImage_carries ..)

theorem trialBooted_rests (s : State) (a : ActIn) : Rests s (trialBooted s a) :=
  (computeServe_rests ..).after <| (bootImage_rests ..).after Rests.updated

theorem Underway.five (h : Underway s fl 4 t) : Underway s fl 5 (activationStep a t 5) ∧
    (activationStep a t 5).fw.image = imageOf fl.staging ∧ (activationStep a t 5).fw.trial = true := by
  have carries := trialBooted_carries t a
  have rests := trialBooted_rests t a
  rw [activationStep_five h]
  generalize trialBooted t a = u at carries rests ⊢
  have under : Underway s fl 5 (stepDone u 5) :=
    ⟨rfl, carries.activation.trans h.activation, carries.seed.trans h.seed, carries.thermalFault.trans h.cool,
      carries.rcd.trans h.rcd, rests.flash.trans h.flash, (congrArg MemSys.dram rests.mem).trans h.dram,
      rests.program.trans h.program⟩
  exact ⟨under, carries.image.trans (congrArg (fun fl => imageOf fl.staging) h.flash), carries.trial⟩

/-- The trial image has declared READY. -/
def trialServes (s : State) : State := resetReady { s with fw := { s.fw with trialReady := true, activating := none } } 3

theorem activationStep_six (h : Underway s fl 5 t) : activationStep a t 6 = dueFirst (trialServes t) 0x0F02
    (packed [(4, (trialServes t).fw.image.secVersion), (8, digest8 (trialServes t).fw.image.digest)]) := if_neg h.takes

theorem isMember_congr (rcd : t.fabric.rcd = s.fabric.rcd) : isMember t = isMember s := by
  unfold isMember
  rw [rcd]

/-- The module serves under the staged image, on trial. -/
theorem Underway.six (h : Underway s fl 5 t) (image : t.fw.image = imageOf fl.staging) (trial : t.fw.trial = true) :
    let u := activationStep a t 6
    u.fw.activation = none ∧ u.fw.trial = true ∧ u.fw.trialReady = true ∧ u.fw.image = imageOf fl.staging ∧
      u.flash.slots = fl.slots ∧ u.flash.boot = fl.boot ∧ u.mbox.module = .ready ∧ u.mem.dram = s.mem.dram ∧
      u.program = s.program ∧ (isMember s = false → (u.mbox.firstDue.map (·.code)) = some 0x0F02) := by
  have reports := resetReady_reports { t with fw := { t.fw with trialReady := true, activating := none } } 3
  have kept := resetReady_unreported { t with fw := { t.fw with trialReady := true, activating := none } } 3
  intro u
  unfold u
  rw [activationStep_six h]
  change Reports _ (trialServes t) at reports
  change unreported (trialServes t) = _ at kept
  generalize trialServes t = r at reports kept ⊢
  have fw : r.fw = { t.fw with trialReady := true, activating := none } := congrArg Prod.fst kept
  have rcd : r.fabric.rcd = t.fabric.rcd := congrArg (fun x => x.2.1) kept
  generalize packed [(4, r.fw.image.secVersion), (8, digest8 r.fw.image.digest)] = payload
  obtain ⟨due, events, seq, mbox⟩ := dueFirst_mbox r 0x0F02 payload
  obtain ⟨⟨-, program, -⟩, mem, -, -, flash, firmware, -⟩ := dueFirst_same r 0x0F02 payload
  refine ⟨?_, ?_, ?_, ?_, ?_, ?_, ?_, ?_, ?_, fun alone => ?_⟩
  · rw [firmware, fw]; exact h.activation
  · rw [firmware, fw]; exact trial
  · rw [firmware, fw]
  · rw [firmware, fw]; exact image
  · rw [flash, reports.slots]; exact congrArg Flash.slots h.flash
  · rw [flash, reports.boot]; exact congrArg Flash.boot h.flash
  · rw [mbox]; exact reports.module
  · rw [mem, reports.mem]; exact h.dram
  · rw [program, reports.program]; exact h.program
  · rw [dueFirst_firstDue ((isMember_congr (rcd.trans h.rcd)).trans alone)]
    rfl

end

end Sys2Proof.Machine
end

section
/-! Activation, trial, confirmation and fallback (R412 to R420). -/

namespace Sys2Proof.Machine
open Sys2Proof

section
variable {s : State}

/-- An activation whose bundle does not pass leaves the module serving under the active image. -/
theorem activation_fails {e : Nat} {a : ActIn} {img : Image} (scheduled : s.fw.activation = some e)
    (cool : s.power.thermalFault = false) (reached : 2 ≤ a.upTo) (bad : a.headerOk = false)
    (boots : bootable s.flash s.flash.boot.activeSlot = some img) : ∃ t, exec (.activationEpoch a) s = .next t ∧
      t.fw.activation = none ∧ t.flash.staging = [] ∧ t.flash.stagingComplete = false ∧ t.flash.boot = s.flash.boot ∧
      t.flash.slots = s.flash.slots ∧ t.fw.image = img ∧ t.mbox.module = .ready ∧ t.mem.dram = s.mem.dram := by
  have one := (epochCome_underway cool e).one (a := a)
  obtain ⟨n, two⟩ : ∃ n, min 6 a.upTo = n + 1 + 1 := ⟨min 6 a.upTo - 2, by omega⟩
  refine ⟨_, activationEpoch_steps scheduled a, ?_⟩
  rw [two, rangeFrom_succ, rangeFrom_succ, List.foldl_cons, List.foldl_cons, activationStep_two_fails one bad]
  generalize activationStep a (epochCome s e) 1 = u at one ⊢
  have served := activationFails_serves one.cool (a := a) (img := img) (by rw [one.flash]; exact boots)
  have boot : u.flash.boot = s.flash.boot := congrArg Flash.boot one.flash
  have slots : u.flash.slots = s.flash.slots := congrArg Flash.slots one.flash
  rw [foldl_activationStep_over served.activating]
  exact ⟨served.activation.trans one.activation, served.staging, served.complete, served.boot.trans boot,
    served.slots.trans slots, served.image, served.module, served.dram.trans one.dram⟩

/-- An activation whose bundle passes leaves the module serving under the staged image, on trial. -/
theorem activation_passes {e : Nat} {a : ActIn} (scheduled : s.fw.activation = some e) (cool : s.power.thermalFault = false)
    (reached : 6 ≤ a.upTo) (seed : s.fw.seed.isSome = true) (readable : a.headerOk = true) (copied : a.copyOk = true)
    (header : headerCheck s.flash (s.flash.staging.take 512) = 0)
    (body : sm3 (s.flash.staging.drop 512) = sub s.flash.staging 32 32) : ∃ t, exec (.activationEpoch a) s = .next t ∧
      t.fw.activation = none ∧ t.fw.trial = true ∧ t.fw.trialReady = true ∧ t.fw.image = imageOf s.flash.staging ∧
      getAt t.flash.slots (otherSlot s.flash) none = some (imageOf s.flash.staging) ∧
      t.flash.boot = { s.flash.boot with trialSlot := some (otherSlot s.flash) } ∧ t.mbox.module = .ready ∧
      t.mem.dram = s.mem.dram ∧ t.program = s.program ∧
      (isMember s = false → (t.mbox.firstDue.map (·.code)) = some 0x0F02) := by
  have one := (epochCome_underway cool e).one (a := a)
  have steps : rangeFrom 1 (min 6 a.upTo) = [1, 2, 3, 4, 5, 6] := by rw [Nat.min_eq_left reached]; rfl
  refine ⟨_, activationEpoch_steps scheduled a, ?_⟩
  rw [steps]
  simp only [List.foldl_cons, List.foldl_nil]
  rw [activationStep_two one readable header body]
  have two := one.stepped (Carries.refl _) rfl 2
  generalize stepDone (activationStep a (epochCome s e) 1) 2 = t2 at two ⊢
  have three := two.three copied
  generalize activationStep a t2 3 = t3 at three ⊢
  obtain ⟨n, mac, four⟩ := three.four seed (a := a)
  generalize activationStep a t3 4 = t4 at four ⊢
  obtain ⟨five, image, trial⟩ := four.five (a := a)
  generalize activationStep a t4 5 = t5 at five image trial ⊢
  obtain ⟨activation, trial, ready, image, slots, boot, module, dram, program, due⟩ := five.six (a := a) image trial
  refine ⟨activation, trial, ready, image, ?_, boot, module, dram, program, due⟩
  rw [slots]
  exact (getAt_setAt _ _ _ _ (by unfold otherSlot; omega)).trans (if_pos rfl)

theorem fwActivate_schedules {c : Cmd} (runs : Runs s c 0x0505 1 false false anyState) (rest : restZero c [(16, 8)] = true)
    (complete_ : s.flash.stagingComplete = true) (empty : s.pstate = .empty) (soon : s.timebase + 10 ^ 9 ≤ arg c 16 8)
    (late : arg c 16 8 ≤ s.timebase + 3600 * 10 ^ 9) (untried : s.fw.trial = false) (identity : s.fw.identity = true) :
    exec (.fwActivate c) s = .next (done { s with fw := { s.fw with activation := some (arg c 16 8) } } c 0) := by
  change execFwActivate c s = _
  unfold execFwActivate
  refine (command_gated runs (ok := fun _ => _) rest _).trans (congrArg _ ?_)
  rw [if_neg (by simp [identity]), if_neg (by simp [complete_]), if_neg (not_not.2 empty), if_neg (by omega),
    if_neg (by simp [untried])]

theorem fwConfirm_untried {c : Cmd} (runs : Runs s c 0x0506 1 false false anyState) (rest : restZero c [] = true)
    (untried : s.fw.trial = false) : exec (.fwConfirm c) s = .next (complete s c 0x05 0x0C 0 0) := by
  change execFwConfirm c s = _
  unfold execFwConfirm
  exact (command_gated runs (ok := fun _ => _) rest _).trans (congrArg _ (if_pos (.inl (by simp [untried]))))

/-- The boot record that a commit writes (R418). -/
def confirmedRecord (s : State) : BootRecord :=
  { s.flash.boot with
    activeSlot := s.flash.boot.trialSlot.getD s.flash.boot.activeSlot, trialSlot := none
    secVersion := max s.flash.boot.secVersion s.fw.image.secVersion
    keyFloor := max s.flash.boot.keyFloor s.fw.image.keyFloor
    settingsFormat := s.fw.image.settingsFormat }

/-- The trial image is committed: the settings go with it, and the staging is emptied (R418, R421; log 72). -/
def confirmed (s : State) : State :=
  let t := writeBoot s (confirmedRecord s)
  { t with
    flash := { t.flash with profiles := profiles t, profilesFormat := s.fw.image.settingsFormat, staging := [], stagingComplete := false }
    fw := { t.fw with trial := false, trialReady := false, memProfiles := none } }

theorem fwConfirm_commits {c : Cmd} (runs : Runs s c 0x0506 1 false false anyState) (rest : restZero c [] = true)
    (trial : s.fw.trial = true) (ready : s.fw.trialReady = true) (inTime : s.timebase ≤ s.fw.trialStart + 600 * 10 ^ 9) :
    exec (.fwConfirm c) s = .next (done (post (confirmed s) 0x0F03
      (packed [(4, s.fw.image.secVersion), (8, digest8 s.fw.image.digest)])) c 0) := by
  change execFwConfirm c s = _
  unfold execFwConfirm
  refine (command_gated runs (ok := fun _ => _) rest _).trans (congrArg _ ?_)
  rw [if_neg (by simp [trial]; omega), if_neg (by simp [ready])]
  rfl

theorem trialConfirmTimeout_falls (trial : s.fw.trial = true) (failed : List TileId) (ok : Bool) :
    exec (.trialConfirmTimeout failed ok) s =
      .next (fallback (advanceTo s (s.fw.trialStart + 600 * 10 ^ 9)) 1 failed ok) := if_pos trial

theorem trialWatchdog_falls (trial : s.fw.trial = true) (failed : List TileId) (ok : Bool) :
    exec (.trialWatchdog failed ok) s = .next (fallback s 2 failed ok) := if_pos trial

end

/-- Settles O41: a piece joins the staging or completes it; an activation's steps one after another, each from what the one
before it left; the commit in one write of the boot record; and the fallback by its stop, its boot record and its boot. -/
theorem firmware : Obligations.Firmware := by
  refine ⟨?_, ?_, ?_, ?_, ?_, ?_, ?_, ?_, ?_, ?_⟩
  · intro s v c host data runs first middle whole some_ most rest reads begun offset _ within room
    have flash := reads.readOnly.flash
    rw [fwStage_runs rfl runs first (by omega) whole some_ most rest reads,
      pieceRead_next (by rw [flash, offset]) (by rw [flash]; exact begun), middle, ← flash]
    exact congrArg _ (appendPiece_joins (by rw [flash]; exact within) (by rw [flash]; exact room))
  · intro s v c host data runs first last whole some_ most rest reads begun offset _ all complete_ room
    have flash := reads.readOnly.flash
    have staged : v.flash.staging ++ data = all := by rw [flash]
    have taken : exec (.fwStage c host) s = .next (appendPiece v c data true) := by
      rw [fwStage_runs rfl runs first (by omega) whole some_ most rest reads,
        pieceRead_next (by rw [flash, offset]) (by rw [flash]; exact begun), last]
      rfl
    rw [taken, appendPiece_last (by rw [staged]; exact complete_) (by rw [staged]; exact room), staged]
    exact ⟨fun fits => by rw [if_pos fits], fun differs => by rw [if_neg differs]⟩
  · intro s c runs rest complete_ empty soon late untried identity
    exact fwActivate_schedules runs rest complete_ empty soon late untried identity
  · intro s a e scheduled cool reached
    have begun := epochCome_underway cool e
    have one := begun.one (a := a)
    refine ⟨_, activationEpoch_steps scheduled a, ?_⟩
    rw [reached, show rangeFrom 1 (min 6 1) = [1] from rfl, List.foldl_cons, List.foldl_nil]
    refine ⟨?_, one.activating, one.flash, one.dram⟩
    rw [activationStep_one begun]
    rfl
  · intro s a e img scheduled cool reached bad boots
    exact activation_fails scheduled cool reached bad boots
  · intro s a e scheduled cool reached seed readable copied header body
    exact activation_passes scheduled cool reached seed readable copied header body
  · intro s c runs rest trial ready inTime seed
    obtain ⟨n, mac, written⟩ := writeBoot_writes seed (confirmedRecord s)
    have firmware_ : (confirmed s).fw.trial = false := rfl
    have flash : (confirmed s).flash.boot = confirmedRecord s ∧ (confirmed s).flash.staging = [] ∧
        (confirmed s).flash.slots = s.flash.slots := by
      unfold confirmed
      rw [written]
      exact ⟨rfl, rfl, rfl⟩
    obtain ⟨boot, staging, slots⟩ := flash
    refine ⟨_, fwConfirm_commits runs rest trial ready inTime, ?_⟩
    unfold done
    simp only [complete_fw, complete_flash, post_fw, post_flash, firmware_, boot, staging, slots]
    exact ⟨trivial, rfl, rfl, rfl, rfl, trivial, trivial⟩
  · intro s c runs rest untried
    exact fwConfirm_untried runs rest untried
  · intro s failed ok img trial seed cool boots
    exact ⟨_, trialConfirmTimeout_falls trial failed ok, fallback_falls (s := advanceTo s _) seed cool boots 1 failed ok⟩
  · intro s failed ok img trial seed cool boots
    exact ⟨_, trialWatchdog_falls trial failed ok, fallback_falls seed cool boots 2 failed ok⟩

end Sys2Proof.Machine
end

section
/-! Squad members' commands and completions, and commands over SMBus (R392 to R398). -/

namespace Sys2Proof.Machine
open Sys2Proof

/-! ### A member and its captain (R392, R394) -/

section
variable {s : State} {x : Rx}

theorem proxyCommandReceive_arrives (arrives : Arrives s x 0x10) (direction : proxyDirection x.f = 0) :
    exec (.proxyCommandReceive x) s = .next (
      if !isMember (received s x) || x.f.src != (received s x).fabric.rcd.captain then discard (received s x) x.port.val 8 1
      else if !(received s x).mbox.mcpUp then received s x
      else
        let c := numbered (notePath (received s x) .proxy) (parseCmd .proxy (ringOf (field x.f.payload 0 2)) x.f.payload)
        startCmd c.2 c.1 (headerOk x.f.payload)) := by
  change execProxyCommandReceive x s = _
  unfold execProxyCommandReceive
  rw [if_neg (not_not.2 direction), arrive_delivers arrives]

theorem proxyCompletionReceive_arrives (arrives : Arrives s x 0x10) (direction : proxyDirection x.f = 1)
    (squad : (received s x).mbox.squad.contains x.f.src = true) (up : (received s x).mbox.mcpUp = true) :
    exec (.proxyCompletionReceive x) s = .next ((chunks 32 (x.f.payload.length / 32) x.f.payload).foldl
      (fun s b => memberEntry s x.f.src b) { received s x with mbox := { (received s x).mbox with
        unreachable := (received s x).mbox.unreachable.filter (· != x.f.src) } }) := by
  change execProxyCompletionReceive x s = _
  unfold execProxyCompletionReceive
  rw [if_neg (not_not.2 direction), arrive_delivers arrives, if_neg (by rw [squad]; decide), if_neg (by rw [up]; decide)]

theorem reachable_same {t : State} (none : t.mbox.unreachable = []) (node : Word16) :
    { t with mbox := { t.mbox with unreachable := t.mbox.unreachable.filter (· != node) } } = t := by
  rw [none, List.filter_nil, ← none]

end

/-! ### A member's entries (R377, R394, R395) -/

section
variable {s : State} {node : Word16} {e : Event} {c : Cmd}

/-- The payload of an entry. -/
theorem sub_entryPayload (e : Event) (phase : Bool) (length : e.payload.length = 24) : sub (entryBytes e phase) 8 24 = e.payload := by
  have header : (leBytes 2 e.code ++ leBytes 1 (entryFlags e phase) ++ leBytes 1 e.ring ++
      leBytes 2 e.source.toNat ++ leBytes 2 e.seq.toNat).length = 8 := by
    simp only [List.length_append, leBytes_length]
  have split : entryBytes e phase = (leBytes 2 e.code ++ leBytes 1 (entryFlags e phase) ++ leBytes 1 e.ring ++
      leBytes 2 e.source.toNat ++ leBytes 2 e.seq.toNat) ++ e.payload := by
    rw [entryBytes_fields, padTo_exact length]
    simp only [List.append_assoc]
  unfold sub
  rw [split, ← header, List.drop_left, List.take_of_length_le length.le]

/-- A field of the payload. -/
theorem field_entryOf (phase : Bool) (length : e.payload.length = 24) {lo : Nat} (beyond : 8 ≤ lo) (n : Nat) :
    field (entryBytes e phase) lo n = field e.payload (lo - 8) n := by
  rw [field_entryPayload e phase beyond, padTo_exact length]

/-- A completion's entry ends the one command that it is of, on that command's ring and under the member's node id. -/
theorem memberEntry_completes (one : s.mbox.proxied = [{ node := node, cmd := c, stage := .forwarded }])
    (orphans : s.mbox.orphans = []) (code : e.code = 0x0001) (tag : field e.payload 0 4 = c.tag.toNat)
    (opcode : field e.payload 6 2 = c.opcode) (length : e.payload.length = 24) :
    memberEntry s node (entryBytes e false) =
      memberCompletes s { node := node, cmd := c, stage := .forwarded } { e with source := node, ring := c.ring } := by
  obtain ⟨code', -, lost, -, -, seq⟩ := entryBytes_header e false
  have code' : field (entryBytes e false) 0 2 = e.code := by
    rw [code', code]
    rfl
  have tag' : field (entryBytes e false) 8 4 = c.tag.toNat := (field_entryOf false length (by decide) 4).trans tag
  have opcode' : field (entryBytes e false) 14 2 = c.opcode := (field_entryOf false length (by decide) 2).trans opcode
  unfold memberEntry
  simp only [code', seq, lost, sub_entryPayload e false length, tag', opcode', orphans, one, code, List.find?_nil, BitVec.ofNat_toNat,
    BitVec.setWidth_eq, if_true]
  simp

/-- Where the command left nothing for the host, its completion goes back at once. -/
theorem memberCompletes_returns {p : Proxied} (nothing : (hostData p.cmd).map (·.1) ≠ some true) : memberCompletes s p e =
    returnCompletion s p e := by
  unfold memberCompletes
  dsimp only
  refine if_pos (.inl ?_)
  split
  next found => exact absurd (by rw [found]; rfl) nothing
  · rfl

/-- Where it left data, they go to host memory first. -/
theorem memberCompletes_moves {p : Proxied} {addr k : Nat} (data : hostData p.cmd = some (true, addr, some k))
    (good : field e.payload 4 1 = 0) (sized : p.cmd.opcode ≠ 0x0601) (some_ : 0 < min k (field e.payload 8 8))
    (wanted : p.discard = false) : memberCompletes s p e =
      startBulkIn { s with mbox := { s.mbox with
          proxied := s.mbox.proxied.map fun x => if x == p then { x with stage := .returning e } else x } }
        p.node.toNat (proxyAddr p.node p.cmd) addr (min k (field e.payload 8 8)) (.proxy p.cmd) := by
  unfold memberCompletes
  simp only [data, good, sized, ne_eq, not_true_eq_false, if_false]
  exact if_neg (by simp [wanted]; omega)

/-- The completion goes back by PCI Express. -/
theorem returnCompletion_pcie {p : Proxied} (wanted : p.discard = false) (path : p.cmd.path = .pcie) : returnCompletion s p e =
    deliverCompletion { s with mbox := { s.mbox with proxied := s.mbox.proxied.filter (·.cmd != p.cmd) } } e := by
  unfold returnCompletion
  simp [wanted, path]

end

/-! ### Commands over SMBus (R397, R398) -/

section
variable {s : State} {raw inl : List Byte}

/-- The MCTP message type and the vendor id (log 48). -/
def smbusHead : List Byte := 0x7E#8 :: beBytes 2 Config.vendorId.toNat

/-- A command's message: its head, the command, and its inline data. -/
def smbusMessage (raw inl : List Byte) : List Byte := smbusHead ++ raw ++ inl

theorem smbusHead_length : smbusHead.length = 3 := by decide

theorem smbusMessage_eq : smbusMessage raw inl = smbusHead ++ (raw ++ inl) := List.append_assoc ..

theorem smbusMessage_head : (smbusMessage raw inl).take 3 = smbusHead := by
  rw [smbusMessage_eq, ← smbusHead_length, List.take_left]

theorem smbusMessage_length (length : raw.length = 64) : ¬(smbusMessage raw inl).length < 67 := by
  rw [smbusMessage_eq, List.length_append, List.length_append, smbusHead_length]
  omega

theorem smbusMessage_command (length : raw.length = 64) : sub (smbusMessage raw inl) 3 64 = raw := by
  unfold sub
  rw [smbusMessage_eq, ← smbusHead_length, List.drop_left, ← length, List.take_left]

/-- The command of a message, and the state in which it is numbered. -/
def smbusNumbered (s : State) (raw : List Byte) : Cmd × State :=
  numbered (notePath s .smbus) (parseCmd .smbus (ringOf (field raw 0 2)) raw)

theorem smbusMctpCommand_takes (length : raw.length = 64) (up : s.mbox.mcpUp = true) (runs : s.mbox.module ≠ .activation)
    (host : HostRead) : exec (.smbusMctpCommand (smbusMessage raw inl) host) s =
      if !smbusAllows (smbusNumbered s raw).2 (smbusNumbered s raw).1 then
        .next (done (smbusNumbered s raw).2 (smbusNumbered s raw).1 0x05)
      else if field raw 8 2 ≠ 0xFFFF then
        .next (proxyCmd (smbusNumbered s raw).2 (smbusNumbered s raw).1 (field raw 8 2) raw host)
      else smbusRun (smbusNumbered s raw).1 (if smbusKind (smbusNumbered s raw).1 = 2
        then some ((smbusMessage raw inl).drop 67) else host)
        (startCmd (smbusNumbered s raw).2 (smbusNumbered s raw).1 (headerOk raw)) := by
  change execSmbusMctpCommand (smbusMessage raw inl) s host = _
  unfold execSmbusMctpCommand
  rw [if_neg, smbusMessage_command length]
  · rfl
  · rintro (head | short | down | busy)
    · exact head smbusMessage_head
    · exact smbusMessage_length length short
    · rw [up] at down
      cases down
    · exact runs busy.1

/-- The paths of which a command came within the last second. -/
def recentPaths (last : Vector (Option Nat) 3) (now : Nat) : List Bool := (List.range 3).map fun i =>
  match getAt last i none with
  | some t => decide (now ≤ t + 10 ^ 9)
  | none => false

/-- On the first path that a host uses, one path is recent. -/
theorem recentPaths_first (p : Path) (now : Nat) :
    ((recentPaths (setAt (Vector.replicate 3 none) (pathBit p) (some now)) now).filter id).length = 1 := by
  have alone : ∀ i < 3, getAt (setAt (Vector.replicate 3 none) (pathBit p) (some now)) i none =
      if i = pathBit p then some now else none := by
    intro i low
    rw [getAt_setAt _ _ _ _ low]
    simp [getAt]
  unfold recentPaths
  rw [show List.range 3 = [0, 1, 2] from rfl]
  simp only [List.map_cons, List.map_nil, alone 0 (by decide), alone 1 (by decide), alone 2 (by decide)]
  cases p <;> simp [pathBit]

/-- The first path that a host uses posts no event (R398). -/
theorem notePath_first (unused : s.mbox.lastPath = Vector.replicate 3 none) (p : Path) : notePath s p =
    { s with mbox := { s.mbox with lastPath := setAt s.mbox.lastPath (pathBit p) (some s.timebase) } } := by
  have one := recentPaths_first p s.timebase
  rw [← unused] at one
  exact if_neg (by
    change ¬1 < ((recentPaths (setAt s.mbox.lastPath (pathBit p) (some s.timebase)) s.timebase).filter id).length
    rw [one]
    decide)

/-- PROFILE_SELECT chooses the profile. -/
theorem profileSelect_chooses {c : Cmd} (runs : Runs s c 0x0502 1 false false anyState)
    (rest : restZero c [(16, 1)] = true) (index : arg c 16 1 ≤ 3) : exec (.profileSelect c) s =
      .next (done { s with fw := { s.fw with chosenProfile := ⟨arg c 16 1, by omega⟩, profileSource := 2 } } c 0) := by
  change execProfileSelect c s = _
  unfold execProfileSelect
  refine (command_gated runs (ok := fun _ => _) ?_ _).trans (congrArg _ (dif_pos _))
  simp [index, rest]

/-- The command that a message over SMBus carries, as it starts in a module that has nothing else to do. -/
def smbusStarted (s : State) (raw : List Byte) : Cmd := { parseCmd .smbus 1 raw with nth := s.mbox.fetched }

/-- SMBus takes PROFILE_SELECT while no program is loaded. -/
theorem smbusAllows_profile {c : Cmd} (empty : s.pstate = .empty) (opcode : c.opcode = 0x0502) : smbusAllows s c = true := by
  unfold smbusAllows
  rw [empty, opcode]
  rfl

theorem smbusRun_profile {c : Cmd} (opcode : c.opcode = 0x0502) (inl : HostRead) (s : State) :
    smbusRun c inl s = exec (.profileSelect c) s := by
  unfold smbusRun
  rw [opcode]
  rfl

theorem smbusNumbered_first (unused : s.mbox.lastPath = Vector.replicate 3 none) (opcode : field raw 0 2 = 0x0502) :
    smbusNumbered s raw = (smbusStarted s raw, { s with mbox := { s.mbox with
      lastPath := setAt s.mbox.lastPath 2 (some s.timebase), fetched := s.mbox.fetched + 1 } }) := by
  unfold smbusNumbered
  rw [notePath_first unused, opcode]
  rfl

end

/-- The one command that executes, whose data are not awaited, runs on the control ring. -/
theorem runs_alone {s : State} {c : Cmd} {op : Nat} (opcode : c.opcode = op) (ring : c.ring = 1) (up : s.mbox.mcpUp = true)
    (ready : s.mbox.module = .ready) (empty : s.pstate = .empty) (one : s.mbox.executing = [{ cmd := c, discard := false }])
    (awaiting_ : s.mbox.awaiting = []) (txns : s.fabric.txns = []) (bulks : s.fabric.bulks = []) (ends : s.mem.ends = []) :
    Runs s c op 1 false false anyState := by
  refine ⟨⟨opcode, up, ?_, ?_⟩, ring, ?_, ?_⟩
  · unfold mayStart Mbox.started
    simp [ring, one]
  · unfold underWay outstanding
    simp [awaiting_, txns, bulks, ends]
  · unfold moduleOk
    simp [ready]
  · rw [empty]
    rfl

/-- Settles O42: frames by their direction and their source, a member's completion by what its command left for the host, and
a message over SMBus refused or run. -/
theorem squadAndSmbus : Obligations.SquadAndSmbus := by
  refine ⟨?_, ?_, ?_, ?_, ?_, ?_⟩
  · intro s x arrives direction member captain up c
    rw [proxyCommandReceive_arrives arrives direction, if_neg (by rw [member, captain]; simp), if_neg (by rw [up]; decide)]
  · intro s x arrives direction other
    rw [proxyCommandReceive_arrives arrives direction, if_pos (by simpa using other)]
  · intro s x arrives direction squad up reachable length
    have one : chunks 32 (x.f.payload.length / 32) x.f.payload = [x.f.payload] := by
      rw [length]
      change [padTo 32 (x.f.payload.take 32)] = _
      rw [List.take_of_length_le length.le, padTo_exact length]
    rw [proxyCompletionReceive_arrives arrives direction squad up, reachable_same reachable, one]
    rfl
  · intro s e c node one orphans path code tag opcode length
    have completes := memberEntry_completes one orphans code tag opcode length
    refine ⟨fun nothing => ?_, fun addr k data good sized some_ => ?_⟩
    · rw [completes, memberCompletes_returns nothing, returnCompletion_pcie rfl path, one]
      simp
    · have moves := memberCompletes_moves (s := s) (e := { e with source := node, ring := c.ring })
        (p := { node := node, cmd := c, stage := .forwarded }) data good sized some_ rfl
      rw [completes, moves, one]
      simp
  · intro s raw inl host length up runs c refused
    refine (smbusMctpCommand_takes length up runs host).trans (if_pos ?_)
    change (!smbusAllows c.2 c.1) = true
    rw [refused]
    rfl
  · intro s raw length up ready empty unused none_ awaiting_ txns bulks ends own opcode header rest index
    have message : (0x7E#8 :: beBytes 2 Config.vendorId.toNat ++ raw) = smbusMessage raw [] := (List.append_nil _).symm
    have allowed : smbusAllows (smbusNumbered s raw).2 (smbusNumbered s raw).1 = true := by
      rw [smbusNumbered_first unused opcode]
      exact smbusAllows_profile empty opcode
    have known : knownOpcode (smbusStarted s raw).opcode = true := by
      rw [show (smbusStarted s raw).opcode = 0x0502 from opcode]
      decide
    rw [message, smbusMctpCommand_takes length up (by rw [ready]; decide), if_neg (by rw [allowed]; decide),
      if_neg (not_not.2 own), smbusNumbered_first unused opcode, header, startCmd_executes known, smbusRun_profile opcode]
    dsimp only
    rw [none_, List.nil_append]
    have runs := runs_alone (s := { s with mbox := { s.mbox with
        lastPath := setAt s.mbox.lastPath 2 (some s.timebase), fetched := s.mbox.fetched + 1
        executing := [{ cmd := smbusStarted s raw, discard := false }] } }) (c := smbusStarted s raw) opcode rfl up ready empty rfl
      awaiting_ txns bulks ends
    refine ⟨_, profileSelect_chooses runs rest index, ?_⟩
    unfold done
    rw [complete_smbus (fun e here _ => by rw [List.mem_singleton.1 here]) rfl]
    refine ⟨rfl, rfl, ?_, ?_⟩
    · simp [completing, leave]
    · simp [completing, leave]

end Sys2Proof.Machine
end

section
/-! SPDM on either transport, and DOE Discovery (R356, R402 to R406). -/

namespace Sys2Proof.Machine
open Sys2Proof

/-! ### An exchange (R404) -/

section
variable (s : State) (t : Transport) (x : Spdm) (req resp : List Byte)

theorem exchange_out : (exchange s t x req resp).out = s.out ++ [.spdm t resp] := rfl

theorem spdmOf_exchange : spdmOf (exchange s t x req resp) t = { x with transcript := x.transcript ++ req ++ resp } :=
  Vector.getElem_set_self (transportIdx t).isLt

theorem exchange_sameProgram : SameProgram s (exchange s t x req resp) :=
  ⟨rfl, rfl, rfl, rfl, rfl, rfl, rfl, rfl, rfl, rfl, rfl, rfl⟩

end

/-! ### What every request meets (R401, R403, R405) -/

section
variable {s : State} {t : Transport} {req : List Byte} {code : Nat} (on : isPowered s = true) (mine : field req 1 1 = code)
include on mine

/-- In an activation and in a compute reset the answer is Busy. -/
theorem spdmRequest_busy (busy : s.mbox.module = .activation ∨ s.mbox.module = .computeReset) (always : Bool)
    (needs : Spdm → Bool) (k : State → Spdm → State) : spdmRequest s t req code always needs k = spdmError s t 3 := by
  unfold spdmRequest
  rw [if_neg (by simpa [mine, isPowered] using on), if_pos busy]

variable (active : s.mbox.module ≠ .activation) (whole : s.mbox.module ≠ .computeReset)
include active whole

theorem spdmRequest_anonymous (unknown : s.fw.identity = false) (needs : Spdm → Bool) (k : State → Spdm → State) :
    spdmRequest s t req code false needs k = spdmError s t 5 := by
  unfold spdmRequest
  rw [if_neg (by simpa [mine, isPowered] using on), if_neg (by simp [active, whole]), if_pos (by simp [unknown])]

/-- What is left of a request where the module can answer it. -/
theorem spdmRequest_heard {always : Bool} (known : always = true ∨ s.fw.identity = true ∧ s.fw.aliasKey.isSome = true)
    (needs : Spdm → Bool) (k : State → Spdm → State) : spdmRequest s t req code always needs k =
      if !needs (spdmOf s t) then spdmError s t 4
      else if code ≠ 0x84 ∧ (spdmOf s t).version.any (fun v => v != BitVec.ofNat 8 (field req 0 1)) then spdmError s t 0x41
      else k s (spdmOf s t) := by
  have answers : (!always && (!s.fw.identity || s.fw.aliasKey.isNone)) = false := by
    rcases known with rfl | ⟨identity, key⟩
    · rfl
    · cases held : s.fw.aliasKey
      · rw [held] at key; cases key
      · rw [identity]; simp
  unfold spdmRequest
  rw [if_neg (by simpa [mine, isPowered] using on), if_neg (by simp [active, whole]), if_neg (by rw [answers]; decide)]

/-- A request that the connection's state allows, of the connection's version, is answered. -/
theorem spdmRequest_allowed {always : Bool} (known : always = true ∨ s.fw.identity = true ∧ s.fw.aliasKey.isSome = true)
    {needs : Spdm → Bool} (order : needs (spdmOf s t) = true)
    (version : code = 0x84 ∨ (spdmOf s t).version = none ∨ (spdmOf s t).version = some (BitVec.ofNat 8 (field req 0 1)))
    (k : State → Spdm → State) : spdmRequest s t req code always needs k = k s (spdmOf s t) := by
  rw [spdmRequest_heard on mine active whole known, if_neg (by rw [order]; decide), if_neg]
  rintro ⟨other, differs⟩
  rcases version with rfl | none | same
  · exact other rfl
  · rw [none] at differs
    cases differs
  · rw [same] at differs
    simp at differs

end

/-! ### Requests (R402 to R406) -/

/-- An error goes out, and the connection stays as it is. -/
theorem spdmError_out (s : State) (t : Transport) (code : Nat) : spdmError s t code =
    emit s (.spdm t [(spdmOf s t).version.getD 0x12, 0x7F, BitVec.ofNat 8 code, 0]) := rfl

/-- The response to GET_CAPABILITIES, with its open values (log 3). -/
def capabilities (version ct sz : Nat) : List Byte :=
  [BitVec.ofNat 8 version, 0x61, 0, 0, 0, BitVec.ofNat 8 ct, 0, 0] ++ leBytes 4 spdmFlags ++ leBytes 4 sz ++ leBytes 4 sz

theorem capabilities_fields {version : Nat} (byte : version < 256) (ct sz : Nat) : (capabilities version ct sz).length = 20 ∧
    field (capabilities version ct sz) 0 1 = version ∧ field (capabilities version ct sz) 8 4 = 0x36 := by
  unfold capabilities
  simp only [List.append_assoc]
  refine ⟨?_, ?_, ?_⟩
  · simp only [List.length_append, leBytes_length, List.length_cons, List.length_nil]
  · exact (field_leBytes 1 version _).trans (Nat.mod_eq_of_lt byte)
  · rw [field_beyond (by simp only [List.length_cons, List.length_nil]; decide)]
    exact field_leBytes 4 spdmFlags _

/-- The response to NEGOTIATE_ALGORITHMS. -/
def algorithms (version : Byte) (asym hash : Nat) : List Byte :=
  [version, 0x63, 0, 0] ++ leBytes 2 36 ++ [0x01, 0] ++ leBytes 4 0x80 ++ leBytes 4 asym ++ leBytes 4 hash ++ List.replicate 16 0

theorem algorithms_fields (version : Byte) {asym hash : Nat} (asym_ : asym < 256 ^ 4) (hash_ : hash < 256 ^ 4) :
    (algorithms version asym hash).length = 36 ∧ field (algorithms version asym hash) 8 4 = 0x80 ∧
      field (algorithms version asym hash) 12 4 = asym ∧ field (algorithms version asym hash) 16 4 = hash := by
  unfold algorithms
  simp only [List.append_assoc]
  refine ⟨?_, ?_, ?_, ?_⟩
  · simp only [List.length_append, leBytes_length, List.length_cons, List.length_nil, List.length_replicate]
  all_goals simp only [field_beyond, field_leBytes, leBytes_length, List.length_cons, List.length_nil, Nat.reduceLeDiff, Nat.reduceSub,
    Nat.reduceAdd]
  · rfl
  · exact Nat.mod_eq_of_lt asym_
  · exact Nat.mod_eq_of_lt hash_

section
variable {s : State} {t : Transport} {req : List Byte} (on : isPowered s = true) (active : s.mbox.module ≠ .activation)
  (whole : s.mbox.module ≠ .computeReset)
include on active whole

theorem spdmGetVersion_answers (code : field req 1 1 = 0x84) : exec (.spdmGetVersion t req) s =
    .next (exchange s t { draws := (spdmOf s t).draws } req ([0x10, 0x04, 0, 0, 0, 2] ++ leBytes 2 0x1200 ++ leBytes 2 0x1300)) :=
  congrArg Host.Outcome.next (spdmRequest_allowed on code active whole (.inl rfl) rfl (.inl rfl) _)

theorem spdmGetCapabilities_answers (code : field req 1 1 = 0xE1) (begun : (spdmOf s t).transcript ≠ [])
    (fresh : (spdmOf s t).version = none) (version : field req 0 1 = 0x12 ∨ field req 0 1 = 0x13) : ∃ ct sz,
    exec (.spdmGetCapabilities t req) s = .next (exchange { s with freeIdx := s.freeIdx + 1 + 1 } t { spdmOf s t with
      version := some (BitVec.ofNat 8 (field req 0 1)), caps := true } req (capabilities (field req 0 1) ct sz)) := by
  refine ⟨Config.freeNat s.freeIdx, Config.freeNat (s.freeIdx + 1), ?_⟩
  refine congrArg Host.Outcome.next ((spdmRequest_allowed on code active whole (.inl rfl) (by simpa using begun)
    (.inr (.inl fresh)) _).trans (if_neg ?_))
  rintro ⟨other, neither⟩
  exact version.elim other neither

theorem spdmNegotiateAlgorithms_answers (code : field req 1 1 = 0xE3) (caps : (spdmOf s t).caps = true)
    (version : (spdmOf s t).version = some (BitVec.ofNat 8 (field req 0 1))) : exec (.spdmNegotiateAlgorithms t req) s =
      .next (exchange s t { spdmOf s t with algs := true } req (algorithms (BitVec.ofNat 8 (field req 0 1))
        (if bitAt (field req 8 4) 9 then 0x200 else 0) (if bitAt (field req 12 4) 6 then 0x40 else 0))) := by
  refine congrArg Host.Outcome.next ((spdmRequest_allowed on code active whole (.inl rfl) caps (.inr (.inr version)) _).trans ?_)
  have named : (spdmOf s t).version.getD 0x12 = BitVec.ofNat 8 (field req 0 1) := by rw [version, Option.getD_some]
  rw [← named]
  rfl

variable (identity : s.fw.identity = true) (key : s.fw.aliasKey.isSome = true)
include identity key

/-- With no response deferred, RESPOND_IF_READY is unexpected. -/
theorem spdmRespondIfReady_errs (code : field req 1 1 = 0xFF) :
    (∃ err, exec (.spdmRespondIfReady t req) s = .next (spdmError s t err)) ∧
    ((spdmOf s t).algs = true → (spdmOf s t).version = some (BitVec.ofNat 8 (field req 0 1)) →
      exec (.spdmRespondIfReady t req) s = .next (spdmError s t 4)) := by
  have heard : exec (.spdmRespondIfReady t req) s = .next _ :=
    congrArg Host.Outcome.next (spdmRequest_heard on code active whole (.inr ⟨identity, key⟩)
      (fun x => x.algs) fun s _ => spdmError s t 4)
  refine ⟨?_, fun algs version => ?_⟩
  · rw [heard]
    split
    · exact ⟨_, rfl⟩
    · split
      · exact ⟨_, rfl⟩
      · exact ⟨_, rfl⟩
  · exact congrArg Host.Outcome.next
      (spdmRequest_allowed on code active whole (.inr ⟨identity, key⟩) algs (.inr (.inr version)) _)

variable (algs : (spdmOf s t).algs = true) (version : (spdmOf s t).version = some (BitVec.ofNat 8 (field req 0 1)))
include algs version

theorem spdmGetDigests_answers (code : field req 1 1 = 0x81) : exec (.spdmGetDigests t req) s =
    .next (exchange s t (spdmOf s t) req ([BitVec.ofNat 8 (field req 0 1), 0x01, 0, 1] ++ sm3 (certChain s))) := by
  refine congrArg Host.Outcome.next ((spdmRequest_allowed on code active whole (.inr ⟨identity, key⟩) algs
    (.inr (.inr version)) _).trans ?_)
  rw [version]
  rfl

theorem spdmGetCertificate_answers (code : field req 1 1 = 0x82) (slot : field req 2 1 = 0)
    (inside : field req 4 2 < (certChain s).length) : ∃ head, head.length = 8 ∧ exec (.spdmGetCertificate t req) s =
      .next (exchange s t (spdmOf s t) req (head ++ sub (certChain s) (field req 4 2) (field req 6 2))) := by
  refine ⟨[(spdmOf s t).version.getD 0x12, 0x02, 0, 0] ++ leBytes 2 (sub (certChain s) (field req 4 2) (field req 6 2)).length ++
    leBytes 2 ((certChain s).length - field req 4 2 - (sub (certChain s) (field req 4 2) (field req 6 2)).length), ?_, ?_⟩
  · simp only [List.length_append, leBytes_length, List.length_cons, List.length_nil]
  · refine congrArg Host.Outcome.next ((spdmRequest_allowed on code active whole (.inr ⟨identity, key⟩) algs
      (.inr (.inr version)) _).trans (if_neg ?_))
    rintro (other | beyond)
    · exact other slot
    · omega

theorem spdmChallenge_answers (code : field req 1 1 = 0x83) (slot : field req 2 1 = 0) : ∃ body, exec (.spdmChallenge t req) s =
    .next (exchange s t { spdmOf s t with draws := (spdmOf s t).draws + 1 } req
      (body ++ aliasSign s ((spdmOf s t).transcript ++ req ++ body))) :=
  ⟨_, congrArg Host.Outcome.next ((spdmRequest_allowed on code active whole (.inr ⟨identity, key⟩) algs
    (.inr (.inr version)) _).trans (if_neg (not_not.2 slot)))⟩

theorem spdmGetMeasurements_answers (code : field req 1 1 = 0xE0) (all : field req 3 1 = 0xFF)
    (unsigned : bitAt (field req 2 1) 0 = false) : ∃ head tail, head.length = 8 ∧ exec (.spdmGetMeasurements t req) s =
      .next (exchange s t { spdmOf s t with draws := (spdmOf s t).draws + 1 } req (head ++ allMeasurements s ++ tail)) := by
  refine ⟨[(spdmOf s t).version.getD 0x12, 0x60, 0, 0, 6] ++ leBytes 3 (allMeasurements s).length,
    padTo 32 (Config.nonce (spdmOf s t).draws) ++ ([0, 0] ++ context13 (spdmOf s t) req 4), ?_, ?_⟩
  · simp only [List.length_append, leBytes_length, List.length_cons, List.length_nil]
  · refine congrArg Host.Outcome.next ((spdmRequest_allowed on code active whole (.inr ⟨identity, key⟩) algs
      (.inr (.inr version)) _).trans ?_)
    simp [all, unsigned]

end

/-- Settles O43: what every request meets, then each request by its answer. -/
theorem spdm : Obligations.Spdm := by
  refine ⟨?_, ?_, ?_, ?_, ?_, ?_, ?_, ?_, ?_, ?_, ?_⟩
  · intro s t req on code active whole
    refine ⟨_, spdmGetVersion_answers on active whole code, rfl, rfl, ?_, ?_, ?_, exchange_sameProgram .., rfl⟩
    all_goals rw [spdmOf_exchange]
  · intro s t req on code active whole begun fresh version
    obtain ⟨ct, sz, answers⟩ := spdmGetCapabilities_answers on active whole code begun fresh version
    obtain ⟨length, first, flags⟩ := capabilities_fields (version := field req 0 1) (by omega) ct sz
    refine ⟨_, _, answers, rfl, rfl, length, first, flags, ?_, ?_⟩
    all_goals rw [spdmOf_exchange]
  · intro s t req on code active whole caps version
    have asym : (if bitAt (field req 8 4) 9 then 0x200 else 0) < 256 ^ 4 := by split <;> decide
    have hash : (if bitAt (field req 12 4) 6 then 0x40 else 0) < 256 ^ 4 := by split <;> decide
    obtain ⟨length, format, asym, hash⟩ := algorithms_fields (BitVec.ofNat 8 (field req 0 1)) asym hash
    refine ⟨_, _, spdmNegotiateAlgorithms_answers on active whole code caps version, rfl, rfl, length, format, asym, hash, ?_⟩
    rw [spdmOf_exchange]
  · intro s t req on code active whole identity key algs version
    exact ⟨_, spdmGetDigests_answers on active whole identity key algs version code, rfl, rfl⟩
  · intro s t req on code active whole identity key algs version slot inside
    obtain ⟨head, length, answers⟩ := spdmGetCertificate_answers on active whole identity key algs version code slot inside
    exact ⟨_, head, answers, rfl, rfl, length⟩
  · intro s t req on code active whole identity key algs version slot
    obtain ⟨body, answers⟩ := spdmChallenge_answers on active whole identity key algs version code slot
    refine ⟨_, body, answers, rfl, ?_⟩
    rw [spdmOf_exchange]
  · intro s t req on code active whole identity key algs version all unsigned
    obtain ⟨head, tail, length, answers⟩ := spdmGetMeasurements_answers on active whole identity key algs version code all unsigned
    exact ⟨_, head, tail, answers, rfl, length⟩
  · intro s t req on code active whole identity key
    obtain ⟨⟨err, errs⟩, unexpected⟩ := spdmRespondIfReady_errs on active whole identity key code
    refine ⟨_, (spdmOf s t).version.getD 0x12, BitVec.ofNat 8 err, errs, rfl, rfl, fun algs version => ?_⟩
    exact Host.Outcome.next.inj (errs.symm.trans (unexpected algs version))
  · intro s t req on code busy
    exact ⟨_, congrArg Host.Outcome.next (spdmRequest_busy on code busy ..)⟩
  · intro s t req on code ready unknown
    exact ⟨_, congrArg Host.Outcome.next
      (spdmRequest_anonymous on code (by rw [ready]; decide) (by rw [ready]; decide) unknown ..)⟩
  · intro s req on id version index
    change execDoeDiscovery req s = _
    unfold execDoeDiscovery
    obtain ⟨powered, awake⟩ : s.power.mode ≠ .off ∧ s.power.mode ≠ .standby := by simpa [isPowered] using on
    rw [if_neg (by simp [powered, awake, id, version]), index]
    rfl

end Sys2Proof.Machine
end
